-- ==== Sys2Proof/Word.lean ====
section
/-! DEFINITION. Word types of the Kilmar G9 (00_scope R5, R7). -/
namespace Sys2Proof

/-- One byte. -/
abbrev Byte := BitVec 8
/-- A 32-bit word: a scalar register, a lane register, an instruction word. -/
abbrev Word := BitVec 32
/-- A 64-bit word: a stamp, a device register. -/
abbrev DWord := BitVec 64
/-- A 56-bit virtual address (R55). -/
abbrev VAddr := BitVec 56
/-- A 96-bit lane instruction (R179). -/
abbrev LaneBits := BitVec 96

end Sys2Proof
end

