-- ==== Sys2Proof/Machine/Bits.lean ====
section
/-! DEFINITION. Bit fields, sign extension and byte order (R5, R7): the small helpers every other file uses. -/
namespace Sys2Proof.Machine

/-- Bits [lo + n - 1 : lo] of `w` (R7's bit slice). -/
def bits {w : Nat} (x : BitVec w) (lo n : Nat) : BitVec n := x.extractLsb' lo n

/-- The same bits as a number. -/
def fieldNat {w : Nat} (x : BitVec w) (lo n : Nat) : Nat := x.toNat / 2 ^ lo % 2 ^ n

/-- Bit `i` of `x`. -/
def bit {w : Nat} (x : BitVec w) (i : Nat) : Bool := x.getLsbD i

/-- A two's complement reading of the low `n` bits of a number. -/
def signedOf (n : Nat) (v : Nat) : Int :=
  if v % 2 ^ n < 2 ^ (n - 1) then (v % 2 ^ n : Nat) else (v % 2 ^ n : Nat) - (2 ^ n : Nat)

/-- The low `w` bits of an integer (R115's wrap). -/
def wrapInt (w : Nat) (i : Int) : BitVec w := BitVec.ofInt w i

/-- Little-endian bytes of a number, `n` of them (R7). -/
def leBytes : (n : Nat) → Nat → List Byte
  | 0, _ => []
  | n + 1, v => BitVec.ofNat 8 v :: leBytes n (v / 256)

/-- The number whose little-endian bytes are given. -/
def ofLeBytes : List Byte → Nat
  | [] => 0
  | b :: bs => b.toNat + 256 * ofLeBytes bs

/-- Big-endian reading, for the fields that are so stored (R381). -/
def ofBeBytes (bs : List Byte) : Nat := ofLeBytes bs.reverse

/-- 32-bit words of a byte list, in order. -/
def wordsOfBytes (n : Nat) (bs : List Byte) : List Word :=
  (List.range n).map fun i => BitVec.ofNat 32 (ofLeBytes ((bs.drop (4 * i)).take 4))

def bytesOfWords (ws : List Word) : List Byte := ws.flatMap fun w => leBytes 4 w.toNat

/-- Number of 1 bits of the low `n` bits. -/
def popcount (n : Nat) (v : Nat) : Nat := (List.range n).foldl (fun c i => c + v / 2 ^ i % 2) 0

/-- Ascending positions of the 1 bits below `n`. -/
def setBits (n : Nat) (v : Nat) : List Nat := (List.range n).filter fun i => v.testBit i

/-- A mask from a list of positions. -/
def maskOf (w : Nat) (l : List Nat) : BitVec w := l.foldl (fun m i => m ||| BitVec.ofNat w (2 ^ i)) 0

/-- Ceiling division. -/
def ceilDiv (a b : Nat) : Nat := (a + b - 1) / b

end Sys2Proof.Machine
end

