-- ==== Sys2Proof/Syntax.lean ====
section
/-! DEFINITION. The abstract syntax: operand forms, and one constructor of `Instr` for each row of the opcode table.
Scalar and epilogue words carry typed operands; lane words carry the fields of R179 by name; the rows that are no
instruction words (steps of engines, links, distributors, the boot unit and the outside) carry what they act on. -/
namespace Sys2Proof

/-! ## Scalar operands (R171, R172) -/

/-- The guard of a scalar word: q0 to q6, or 7 for true, and the negate bit (R172). -/
structure Guard where
  q : BitVec 3
  neg : Bool
  deriving DecidableEq, Repr

/-- A source field: s0 to s30, or 31 with the literal word that follows (R171). -/
inductive Src where
  | reg (n : Fin 31)
  | lit (w : Word)
  deriving DecidableEq, Repr

/-- A destination field: s0 to s30, or 31, which discards (R171). -/
inductive Dst where
  | reg (n : Fin 31)
  | discard
  deriving DecidableEq, Repr

/-- An even register at most 28, naming a pair: pair `p` is s(2p) (low) and s(2p+1). -/
abbrev Pair := Fin 15
/-- A multiple of 4 at most 24, naming a group of four registers (R299). -/
abbrev Group := Fin 7

/-- Compare conditions (R177). -/
inductive Cond where
  | eq | ne | lt | le | ltn | len
  deriving DecidableEq, Repr

/-- Scopes (R187); code 111 is not an instruction. -/
inductive Scope where
  | gang | block | cohort | die | pkg | span | sys
  deriving DecidableEq, Repr

/-- Orders (R187). -/
inductive Order where
  | rlx | acq | rel | ar
  deriving DecidableEq, Repr

/-- Orders of a fence: not .RLX (R284). -/
inductive FenceOrder where
  | acq | rel | ar
  deriving DecidableEq, Repr

/-- Spaces of a lane access (R4). -/
inductive Space where
  | gen | loc | pol | wgt | con | acc
  deriving DecidableEq, Repr

/-- The base of a scalar memory access: a pair for GEN and POL, a source for LOC and CON (R177, R204). -/
inductive MemBase where
  | gen (p : Pair)
  | loc (a : Src)
  | pol (p : Pair)
  | con (a : Src)
  deriving DecidableEq, Repr

/-- The address of a sync word or stamp: GEN, LOC or POL (R284). -/
inductive SyncAddr where
  | gen (p : Pair)
  | loc (a : Src)
  | pol (p : Pair)
  deriving DecidableEq, Repr

/-- The value operand of MWAIT: an even pair, or the literal (R284). -/
inductive PairOrLit where
  | pair (p : Pair)
  | lit (w : Word)
  deriving DecidableEq, Repr

/-- Branch modes of BRQ (R210). -/
inductive BrqMode where
  | any | all | none
  deriving DecidableEq, Repr

/-- Barrier phases (R284). -/
inductive Phase where
  | near | far | both
  deriving DecidableEq, Repr

/-- Scopes of DRAIN (R284, R294). -/
inductive DrainScope where
  | cohort | pkg | span
  deriving DecidableEq, Repr

/-- Scopes and sections of INVI (R219, R222). -/
inductive InviScope where
  | slice | core | die | pkg
  deriving DecidableEq, Repr
inductive InviSection where
  | scal | lane | both
  deriving DecidableEq, Repr

/-- What PREEMPT, RESUME and KILL act on, with the block-index operand where the kind has one (R223). -/
inductive Target where
  | grid
  | block (b : Src)
  | cohort (b : Src)
  | span
  deriving DecidableEq, Repr

structure AluReg where
  g : Guard
  d : Dst
  a : Src
  b : Src
  deriving DecidableEq, Repr
structure AluUn where
  g : Guard
  d : Dst
  a : Src
  deriving DecidableEq, Repr
structure AluImm where
  g : Guard
  d : Dst
  a : Src
  i : BitVec 7
  deriving DecidableEq, Repr
structure QBin where
  g : Guard
  q : BitVec 3
  x : BitVec 3
  y : BitVec 3
  deriving DecidableEq, Repr
/-- COPY and COPYR: destination, source, control group (R299). -/
structure CopyForm where
  g : Guard
  d : Fin 31
  a : Fin 31
  b : Group
  deriving DecidableEq, Repr
/-- GATH and SCAD (R299). -/
structure GathForm where
  g : Guard
  d : Pair
  a : Pair
  b : Group
  deriving DecidableEq, Repr
/-- MXA and MXA.SOLO (R299). -/
structure MxaForm where
  g : Guard
  d : Pair
  a : Fin 31
  b : Fin 31
  deriving DecidableEq, Repr
/-- CTXSV and CTXLD (R223). -/
structure CtxForm where
  g : Guard
  i : Fin 31
  a : Pair
  b : Src
  deriving DecidableEq, Repr

/-! ## The lane word (R179) -/

/-- The fields of a 96-bit lane word below its opcode, by name. -/
structure LaneWord where
  variant : BitVec 4
  format : BitVec 4
  d : BitVec 10
  a : BitVec 10
  b : BitVec 10
  c : BitVec 10
  am : BitVec 6
  bm : BitVec 6
  cm : BitVec 6
  ws : BitVec 2
  guard : BitVec 4
  imm : BitVec 16
  deriving DecidableEq, Repr

/-! ## Names of the machine's parts that the other rows act on -/

/-- A block of a grid: grid handle, linear block index, and whether it is the shadow copy (R224, R368). -/
structure BlockId where
  handle : Word
  index : Nat
  shadow : Bool
  deriving DecidableEq, Repr

/-- A gang: of a block, or the one supervisor gang of a control core (R2, R399). -/
inductive GangId where
  | compute (b : BlockId) (gang : Nat)
  | control (die : Nat) (idx : Nat)
  deriving DecidableEq, Repr

/-- The key of a span's reservations: (coordinating PKGID, SPANID), compared in that order (R45). -/
structure SpanKey where
  coord : Nat
  spanId : Nat
  deriving DecidableEq, Repr

/-- Who sent a request: package, die, agent (R98, R447). -/
structure Requester where
  pkg : Nat
  die : Nat
  agent : Nat
  deriving DecidableEq, Repr

/-- Where a request is performed at its target: an offset of the exported aperture (R101), a byte of a polder export
(R64), or a physical address for a request from another die of the package. -/
inductive ReqAddr where
  | aperture (off : Nat)
  | polder (key : SpanKey) (member : Nat) (die : Nat) (slot : Nat) (off : Nat)
  | pa (a : Nat)
  deriving DecidableEq, Repr

/-- What a request asks for. Data bytes are little-endian. -/
inductive ReqOp where
  | load (n : Nat)
  | store (bytes : List Byte)
  /-- VATM: operation code, format, signed, data, expected value of .CAS (R275, R276). -/
  | atomic (op : BitVec 3) (fmt : BitVec 4) (signed : Bool) (data : List Byte) (expected : List Byte)
  /-- VRDM, an entry of an atomic buffer, a unit of COPYR: the same with no result (R275, R278). -/
  | reduce (op : BitVec 3) (fmt : BitVec 4) (signed : Bool) (data : List Byte)
  /-- A VATL or COPYR line: format, the 32 words of the line and which of them take part (R102, R277, R306). -/
  | line (fmt : BitVec 4) (words : List (Option Word))
  /-- Gauge operations on a gauge-class page: 0 GINC, 1 GMRG, 2 GCLR, 3 GRD, 4 the source of a GMRG, with the base exponent, the amount or
  source level and the draws of the issuing gang (R282, R455). -/
  | gauge (kind : Nat) (s : Nat) (n : Nat) (draws : List Nat)
  | arrival (n : Nat)
  deriving DecidableEq, Repr

/-- A request under the Kilmar link header (R98). -/
structure Request where
  src : Requester
  tsn : BitVec 16
  acktsn : BitVec 16
  inc : BitVec 16
  addr : ReqAddr
  op : ReqOp
  deriving DecidableEq, Repr

/-- What a target answers. -/
inductive ReplyBody where
  | data (bytes : List Byte)
  | done
  | notSupported
  | error (cause : BitVec 8) (info : BitVec 16)
  deriving DecidableEq, Repr

/-- A reply, with the requester it answers and the incarnation it carries (R98, R451). -/
structure Reply where
  dst : Requester
  tsn : BitVec 16
  inc : BitVec 16
  body : ReplyBody
  deriving DecidableEq, Repr

/-- One distinct index of a gather or scatter-add request, with its ascending positions (R108), and for a
scatter-add the source row of each position (R313). -/
structure IndexItem where
  index : Nat
  positions : List Nat
  rows : List (List Byte)
  deriving DecidableEq, Repr

/-- A gather or scatter-add sub-request to one home package (R108). -/
structure SubReq where
  src : Requester
  tsn : BitVec 16
  acktsn : BitVec 16
  inc : BitVec 16
  op : Nat
  scad : Bool
  mode : BitVec 2
  glog : Nat
  desc : List Byte
  tableId : Nat
  items : List IndexItem
  deriving DecidableEq, Repr

/-- A row engine's or receiving fabric die's answer: one row for a list of positions, one pooled partial, or failed
positions (R108, R109, R456). -/
inductive SubBody where
  | row (positions : List Nat) (bytes : List Byte)
  | partialSum (positions : List Nat) (vals : List Word)
  | added (positions : List Nat)
  | failed (positions : List Nat)
  deriving DecidableEq, Repr

/-- The answer under its header, which carries the incarnation of its requester (R98, R451). -/
structure SubReply where
  inc : BitVec 16
  body : SubBody
  deriving DecidableEq, Repr

/-- What a structural test step or pass found; it is an input, because hardware fixes the expected value (R470). -/
inductive StepResult where
  | pass | mismatch
  deriving DecidableEq, Repr

/-- What a scrubber's read finds (R475). -/
inductive ScrubResult where
  | clean | corrected | uncorrectable
  deriving DecidableEq, Repr

/-- The arrays that hold error-correcting codes (R440, R475). -/
inductive EccArray where
  | regFile | localStore | accStore | l2 | wgtStore | hbm | buffer
  deriving DecidableEq, Repr

/-- What a span barrier message carries (R286): arrivals of other members that complete the phase, or its completion. -/
inductive SpanBarrierMsg where
  | othersArrived
  | flush
  | flushed
  | complete
  deriving DecidableEq, Repr

/-- What a span's member and its coordinator acknowledge: a commit, a release (R112), that the member's blocks are loaded, or that every
member is ready (R45, R227; log 33). -/
inductive SpanAck where
  | commit
  | release
  | loaded
  | ready
  deriving DecidableEq, Repr
/-- An acknowledgement, with the member that makes it. -/
structure MemberAck where
  member : Nat
  what : SpanAck
  deriving DecidableEq, Repr

/-- How an inbound RMA write comes: the key that it names (R89) and its context, where that is an ordered one (R90). -/
structure RmaFrom where
  key : DWord
  rod : Option Nat
  deriving DecidableEq, Repr

/-! ## Instructions -/

/-- One constructor per row of the opcode table. -/
inductive Instr where
  -- scalar arithmetic, register forms (R200)
  | add (x : AluReg) | sub (x : AluReg) | mul (x : AluReg) | mulh (x : AluReg) | mulhn (x : AluReg)
  | and (x : AluReg) | or (x : AluReg) | xor (x : AluReg) | andn (x : AluReg)
  | shl (x : AluReg) | shr (x : AluReg) | sra (x : AluReg)
  | min (x : AluReg) | max (x : AluReg) | minn (x : AluReg) | maxn (x : AluReg)
  | clz (x : AluUn) | popc (x : AluUn) | mov (x : AluUn)
  -- immediate forms
  | addImm (x : AluImm) | subImm (x : AluImm) | mulImm (x : AluImm)
  | andImm (x : AluImm) | orImm (x : AluImm) | xorImm (x : AluImm)
  | shlImm (x : AluImm) | shrImm (x : AluImm) | sraImm (x : AluImm)
  | minImm (x : AluImm) | maxImm (x : AluImm) | minnImm (x : AluImm) | maxnImm (x : AluImm)
  -- predicates and moves (R201 to R203)
  | cmpReg (g : Guard) (q : BitVec 3) (a b : Src) (c : Cond)
  | cmpImm (g : Guard) (q : BitVec 3) (a : Src) (c : Cond) (i : BitVec 7)
  | qand (x : QBin) | qor (x : QBin) | qxor (x : QBin)
  | qnot (g : Guard) (q x : BitVec 3)
  | sel (g : Guard) (d : Dst) (a b : Src) (q : BitVec 3)
  | liImm (g : Guard) (d : Dst) (i : BitVec 7)
  | liLiteral (g : Guard) (d : Dst) (w : Word)
  -- scalar memory (R204)
  | lds (g : Guard) (d : Dst) (base : MemBase) (off : BitVec 7)
  | sts (g : Guard) (d : Fin 31) (base : MemBase) (off : BitVec 7)
  | ldp (g : Guard) (d : Pair) (base : MemBase) (off : BitVec 7)
  -- special registers (R206)
  | srd (g : Guard) (d : Dst) (r : Fin 27)
  | swr (g : Guard) (a : Src) (r : Fin 27)
  -- control flow (R209 to R215)
  | br (g : Guard) (off : BitVec 22)
  | call (g : Guard) (off : BitVec 22)
  | brq (g : Guard) (m : BrqMode) (q : BitVec 3) (off : BitVec 17)
  | ret (g : Guard) (a : Src)
  | loop (g : Guard) (a : Src) (n : BitVec 12)
  | exit (g : Guard)
  | nop (g : Guard)
  | regang (g : Guard) (m : BitVec 8)
  -- lane stream control (R216, R217); LMASK's register form has a mask field that nothing reads (R174; log 12)
  | lrun (g : Guard) (a : Src) (cm1 : BitVec 12)
  | lmaskReg (g : Guard) (a : Src)
  | lmaskImm (g : Guard) (m : BitVec 4)
  -- synchronisation (R284)
  | bar (g : Guard) (p : Phase) (count : Option Src) (b : BitVec 4)
  | barc (g : Guard) (p : Phase) (b : BitVec 4)
  | bars (g : Guard) (p : Phase) (b : BitVec 4)
  | arrive (g : Guard) (s : Scope) (rel : Bool) (a : SyncAddr) (n : Src)
  | wait (g : Guard) (s : Scope) (a : SyncAddr) (gen : Src)
  | mwait (g : Guard) (s : Scope) (a : SyncAddr) (v : PairOrLit)
  | waitc (g : Guard) (l s c t : BitVec 4)
  | seal (g : Guard)
  | fence (g : Guard) (s : Scope) (o : FenceOrder)
  | fencem (g : Guard) (o : FenceOrder) (a : Src)
  | drain (g : Guard) (s : DrainScope)
  | give (g : Guard) (d : Fin 31) (a b : Src)
  | take (g : Guard) (a : Src)
  | detach (g : Guard) (a : Src)
  | qend (g : Guard)
  | yield (g : Guard)
  -- engine group (R299)
  | copy (x : CopyForm)
  | copyr (x : CopyForm)
  | gath (x : GathForm)
  | scad (x : GathForm)
  | pftL2 (g : Guard) (a : Pair) (b : Fin 31)
  | pftPromote (g : Guard) (a : Pair)
  | pftDemote (g : Guard) (a : Pair)
  | mxa (x : MxaForm)
  | mxaSolo (x : MxaForm)
  | mxz (g : Guard) (d : Fin 31)
  | mxld (g : Guard) (d a : Fin 31)
  | mxst (g : Guard) (d a : Pair) (b : Group)
  | epld (g : Guard) (a : Pair)
  -- system group (R219)
  | trap (g : Guard) (code : BitVec 10)
  | bkpt (g : Guard)
  | invi (g : Guard) (s : InviScope) (sec : InviSection)
  -- supervisor group (R223)
  | launch (g : Guard) (d : Dst) (a : Pair)
  | preempt (g : Guard) (k : Target) (a : Src)
  | resume (g : Guard) (k : Target) (a : Src)
  | kill (g : Guard) (k : Target) (a : Src)
  | ctxsv (x : CtxForm)
  | ctxld (x : CtxForm)
  | quota (g : Guard) (a b : Src)
  -- lane integer (R243 to R251)
  | vadd (w : LaneWord) | vsub (w : LaneWord) | vmul (w : LaneWord) | vmulh (w : LaneWord) | vmad (w : LaneWord)
  | vabs (w : LaneWord) | vneg (w : LaneWord) | vmin (w : LaneWord) | vmax (w : LaneWord)
  | vand (w : LaneWord) | vor (w : LaneWord) | vxor (w : LaneWord) | vnot (w : LaneWord)
  | vshl (w : LaneWord) | vshr (w : LaneWord) | vsra (w : LaneWord) | vrot (w : LaneWord)
  | vclz (w : LaneWord) | vpopc (w : LaneWord) | vbfx (w : LaneWord) | vbfi (w : LaneWord) | vprm (w : LaneWord)
  | vdot4 (w : LaneWord) | vcmp (w : LaneWord) | vsel (w : LaneWord) | vmov (w : LaneWord) | vli (w : LaneWord)
  -- lane floating point (R252 to R261)
  | fadd (w : LaneWord) | fsub (w : LaneWord) | fmul (w : LaneWord) | ffma (w : LaneWord)
  | fmin (w : LaneWord) | fmax (w : LaneWord) | frcp (w : LaneWord) | frsq (w : LaneWord) | fsqrt (w : LaneWord)
  | fex2 (w : LaneWord) | flg2 (w : LaneWord) | fsin (w : LaneWord) | fcos (w : LaneWord)
  | fcmp (w : LaneWord) | fcls (w : LaneWord) | fcvt (w : LaneWord) | frnd (w : LaneWord)
  | f2i (w : LaneWord) | i2f (w : LaneWord)
  -- cross-lane (R262 to R266)
  | vshf (w : LaneWord) | vbal (w : LaneWord) | vred (w : LaneWord) | vscn (w : LaneWord) | vbcs (w : LaneWord)
  -- lane memory and gauge (R268 to R282)
  | vld (w : LaneWord) | vst (w : LaneWord) | vatm (w : LaneWord) | vrdm (w : LaneWord) | vatl (w : LaneWord)
  | ginc (w : LaneWord) | grd (w : LaneWord) | gmrg (w : LaneWord) | gclr (w : LaneWord)
  -- lane predicates (R267)
  | kand (w : LaneWord) | kor (w : LaneWord) | kxor (w : LaneWord) | knot (w : LaneWord)
  -- epilogue (R329)
  | eldv (d : BitVec 3) (n : BitVec 2) (kind : BitVec 2) (off : BitVec 16)
  | escl (d a : BitVec 3)
  | ebia (d a : BitVec 3) (n : BitVec 2) (bf16 : Bool) (off : BitVec 16)
  | eact (d a : BitVec 3) (f : BitVec 4)
  | emul (d a b : BitVec 3)
  | eadd (d a b : BitVec 3)
  | emax (d a b : BitVec 3)
  | ecvt (d a : BitVec 3) (m : BitVec 2) (s : Bool) (f : BitVec 4)
  | est (a : BitVec 3) (n : BitVec 2) (stride : Bool) (f : BitVec 4)
  | etrn (a : BitVec 3) (n : BitVec 2) (f : BitVec 4)
  | enop
  | eend
  -- bring-up, registers, power (R378 to R388)
  | powerOn
  | bootcmdWrite (v : DWord)
  | sbverifyWrite (v : DWord)
  | sbverifyDone
  | attreqWrite (v : DWord)
  | attestationReportDone
  | ccstartWrite (v : DWord)
  | tlbinvWrite (die : Nat) (v : DWord)
  | tlbInvalidationComplete (die : Nat)
  | testreqWrite (die : Nat) (v : DWord)
  | unitfenceFence (die : Nat) (u : Nat)
  | unitfenceLift (die : Nat) (u : Nat)
  | registerWrite (die : Nat) (off : Nat) (v : DWord)
  | diePowerLoss (die : Nat)
  | dieWake (die : Nat)
  | dieReset (die : Nat)
  -- host (R88 to R92)
  | inboundRmaWrite (w : RmaFrom) (off : Nat) (data : List Byte)
  | inboundRmaRead (key : DWord) (off : Nat) (len : Nat)
  | ueUnsupportedRequest
  | ueContextAbandoned (port : Nat) (window : Nat) (code : Nat)
  -- requests and links (R98, R442 to R463)
  | requestAtTarget (r : Request)
  | replyAtRequester (r : Reply)
  | requestTimeout (q : Requester) (tsn : BitVec 16)
  | flitCrcFail (die : Nat) (m : Nat)
  | retryRequest (die : Nat) (m : Nat)
  | flitAck (die : Nat) (m : Nat) (n : Nat)
  | replayTimerExpiry (die : Nat) (m : Nat)
  | retrainComplete (die : Nat) (m : Nat) (badLanes : BitVec 64)
  | grenderFlitFail (port : Nat)
  | switchPortFailed (plane : Nat) (pkg : Nat)
  -- span coordination (R45, R112, R431, R458)
  | spanReserveRequest (k : SpanKey)
  | spanReserveAnswer (k : SpanKey) (member : Nat) (yes : Bool)
  | spanCommit (k : SpanKey)
  | spanRelease (k : SpanKey)
  | spanRetryTimer (k : SpanKey)
  | spanMessageTimeout (k : SpanKey) (member : Nat)
  | spanStopIssue (k : SpanKey)
  | stopIssueAck (k : SpanKey) (member : Nat)
  -- distributors and scheduling (R39 to R48)
  | blockDispatch (handle : Word)
  | dependencyReread (handle : Word)
  | runStart (g : GangId) (m : BitVec 8)
  | partWake (g : GangId) (m : BitVec 8)
  | watchRetest (g : GangId) (m : BitVec 8)
  | stampReread (g : GangId) (m : BitVec 8)
  | yieldTimeout (g : GangId) (m : BitVec 8)
  | syncWordArrival (n : Nat)
  -- engines (R81, R105 to R113, R305 to R335)
  | batchComplete (g : GangId)
  | copyPieceLanded (op : Nat)
  | copyComplete (op : Nat)
  | sluiceFold (op : Nat)
  | subRequestPartition (r : SubReq)
  | rowFetch (n : Nat)
  | scadRowAdd (n : Nat)
  | gatherReplyMerge (op : Nat) (r : SubReply)
  | gatherComplete (op : Nat)
  | tileOperationComplete (op : Nat)
  | drainComplete (op : Nat)
  | epldCheckComplete (op : Nat)
  -- translation and migration (R73 to R87)
  | migrationComplete (n : Nat)
  -- life of gangs, blocks and grids (R35, R49, R50)
  | gangExit (g : GangId)
  | blockResourcesFree (b : BlockId)
  | haltComplete (b : BlockId)
  -- deterministic operation (R353 to R371)
  | roundStart (handle : Word)
  | quantumCountExpiry (g : GangId)
  | commitPhaseStart (handle : Word)
  | commitSlot (g : GangId)
  | drainSweepComplete (g : GangId) (otherSent otherDone : Nat)
  -- a P4 request that is granted next (R21)
  | p4StarvationGrant (die : Nat)
  -- messages from outside, forced passes
  | forcedPassStep (die : Nat) (u : Nat) (r : StepResult)
  | hostWindowRmaResponse (tag : Nat) (body : ReplyBody)
  | spanKillMessage (k : SpanKey)
  | spanBarrierCombine (k : SpanKey) (b : BitVec 4) (m : SpanBarrierMsg)
  | commitAcknowledged (k : SpanKey) (a : MemberAck)
  -- refresh, tests, scrubbing, monitors (R68, R467 to R476)
  | wgtRefreshWindowStart (die : Nat) (bank : Nat)
  | wgtRefreshWindowEnd (die : Nat) (bank : Nat)
  | idleTestStep (die : Nat) (u : Nat) (r : StepResult)
  | scrubRead (arr : EccArray) (die : Nat) (granule : Nat) (r : ScrubResult)
  | monitorInterval (die : Nat) (n : Nat)
  | retconsWrite (die : Nat) (v : DWord)
  -- timers, temperatures and other steps
  | monctlClear (die : Nat) (n : Nat)
  | junctionOver100c (die : Nat)
  | junctionBelow95c (die : Nat)
  | junctionOver115c
  | keyRotation (port : Nat)
  | walkComplete (die : Nat) (ctxDie ctxCore : Nat) (va : VAddr)
  | migrationAbandon (n : Nat) (cause : BitVec 8)
  | sliceTimerExpiry (handle : Word)
  | mgmtRefresh
  | grenderAuthFail (port : Nat)
  | cxlPortFail (die : Nat) (port : Nat)
  deriving DecidableEq, Repr

end Sys2Proof
end

