-- ==== Sys2Proof/Machine/Legal.lean ====
section
/-! DEFINITION. Which encodings are instructions (R180 to R189, R237 to R281), with the INFO of R402 for those that are not:
1 a value not assigned, 2 a non-zero field that must be zero, 3 a value marked not an instruction, 4 an operand pattern not listed.
Each check is a list of (INFO, violated) pairs; the INFO reported is the lowest one violated. -/
namespace Sys2Proof.Machine

/-- Element width of a format code (R184). -/
def fmtWidth (f : Nat) : Nat :=
  match f with
  | 0 => 32 | 1 => 16 | 2 => 8 | 3 => 4 | 4 => 32 | 5 => 16 | 6 => 16 | 7 => 8 | 8 => 8 | 9 => 4 | _ => 32

end Sys2Proof.Machine

namespace Sys2Proof

/-! ## Fields of a lane word by their meaning (R179, R187, R238) -/
def LaneWord.u (w : LaneWord) : Bool := Machine.bit w.variant 3
def LaneWord.v86 (w : LaneWord) : Bool := Machine.bit w.variant 2
def LaneWord.sat (w : LaneWord) : Bool := Machine.bit w.variant 1
def LaneWord.sg (w : LaneWord) : Bool := Machine.bit w.variant 0
def LaneWord.low3 (w : LaneWord) : Nat := Machine.fieldNat w.variant 0 3
def LaneWord.fmt (w : LaneWord) : Nat := w.format.toNat
def LaneWord.ew (w : LaneWord) : Nat := Machine.fmtWidth w.format.toNat
def LaneWord.ctl (w : LaneWord) : Nat := Machine.fieldNat w.c 0 3
def LaneWord.space (w : LaneWord) : Nat := Machine.fieldNat w.imm 13 3
def LaneWord.scope (w : LaneWord) : Nat := Machine.fieldNat w.imm 10 3
def LaneWord.order (w : LaneWord) : Nat := Machine.fieldNat w.imm 8 2
def LaneWord.cflag (w : LaneWord) : Bool := Machine.bit w.imm 7
def LaneWord.inv (w : LaneWord) : Bool := Machine.bit w.imm 6
def LaneWord.wcode (w : LaneWord) : Nat := Machine.fieldNat w.imm 3 3
def LaneWord.sub (w : LaneWord) : Nat := Machine.fieldNat w.imm 0 3
/-- Access width in bytes (R187). -/
def LaneWord.bytes (w : LaneWord) : Nat := 2 ^ w.wcode
/-- Registers an access of this width takes (R269). -/
def LaneWord.regs (w : LaneWord) : Nat := if w.wcode ≤ 2 then 1 else 2 ^ (w.wcode - 2)

end Sys2Proof

namespace Sys2Proof.Machine

/-- The lowest INFO among the violated checks (R402). -/
def firstBad (l : List (Nat × Bool)) : Option Nat :=
  l.foldl (fun acc p => if p.2 then some (match acc with | none => p.1 | some m => Nat.min m p.1) else acc) none

/-- R182: a modifier, checked at element width `w`. DEDUCED (log 12): half-select's bits [3:1] are fields that must be zero. -/
def modReasons (m : BitVec 6) (w : Nat) : List (Nat × Bool) :=
  let low := fieldNat m 0 4
  match fieldNat m 4 2 with
  | 0 => [(3, low != 0)]
  | 1 => [(2, low > 1)]
  | 2 => [(3, low ≥ 32 / w)]
  | _ => []

/-- Register numbers a source field may name (R181). -/
def srcReasons (f : BitVec 10) : List (Nat × Bool) :=
  let n := f.toNat
  [(3, (795 ≤ n && n ≤ 799) || (810 ≤ n && n ≤ 1019))]

/-- A used source operand. -/
def usedReasons (f : BitVec 10) (m : BitVec 6) (w : Nat) : List (Nat × Bool) := srcReasons f ++ modReasons m w

/-- An unused field must hold 1023, and its modifier must be zero (R180, R402). -/
def unusedReasons (f : BitVec 10) (m : BitVec 6) : List (Nat × Bool) := [(4, f != 1023), (2, m != 0)]

/-- imm16 of the integer, cross-lane and predicate groups (R181, R187, R238). -/
def immIntReasons (w : LaneWord) (srcs : List (BitVec 10)) : List (Nat × Bool) :=
  let sc := srcs.contains 1020
  let im := srcs.contains 1022
  [(4, sc && im), (2, sc && !im && fieldNat w.imm 5 11 != 0), (3, sc && !im && fieldNat w.imm 0 5 == 31),
   (2, !sc && !im && w.imm != 0)]

/-- Rounding and saturate fields of the floating group: `modes` says which rounding codes the entry takes, `sat` whether
bit [12] may be 1 (R125, R187). -/
def immFloatReasons (w : LaneWord) (maxMode : Nat) (sat : Bool) (srcs : List (BitVec 10)) : List (Nat × Bool) :=
  [(2, fieldNat w.imm 0 12 != 0), (3, fieldNat w.imm 13 3 > maxMode), (3, !sat && bit w.imm 12),
   (4, srcs.contains 1020 || srcs.contains 1022)]

/-- A v destination (R180). -/
def dstReasons (w : LaneWord) : List (Nat × Bool) := [(4, w.d.toNat > 767), (3, w.ws == 3)]
/-- A lane predicate destination k0 to k6, with write-select 00 (R239). -/
def kdstReasons (w : LaneWord) : List (Nat × Bool) :=
  [(2, fieldNat w.d 3 7 != 0), (4, fieldNat w.d 0 3 == 7), (3, w.ws == 3), (4, w.ws != 0 && w.ws != 3)]
/-- A predicate index in a source field (R239). DESIGN CHOICE (log 67): its modifier must be zero. -/
def ksrcReasons (f : BitVec 10) (m : BitVec 6) : List (Nat × Bool) := [(2, fieldNat f 3 7 != 0 || m != 0)]
/-- A control field in c: value below `top`, the other bits zero, modifier plain (R239). -/
def ctlReasons (w : LaneWord) (nbits top : Nat) : List (Nat × Bool) :=
  [(2, fieldNat w.c nbits (10 - nbits) != 0 || w.cm != 0), (3, fieldNat w.c 0 nbits ≥ top)]
/-- Formats an entry accepts (R184). -/
def fmtReasons (w : LaneWord) (fs : List Nat) : List (Nat × Bool) :=
  [(3, w.format.toNat > 9), (1, w.format.toNat ≤ 9 && !fs.contains w.format.toNat)]
/-- A rule on variant [86:84]. -/
def varReasons (ok : Bool) : List (Nat × Bool) := [(3, !ok)]


def intFmts : List Nat := [0, 1, 2, 3]
def floatFmts : List Nat := [4, 5, 6, 7, 8]

/-- Sources of the integer shapes: `n` of a, b, c used, the rest unused. -/
def operandReasons (w : LaneWord) (n : Nat) : List (Nat × Bool) :=
  (if n ≥ 1 then usedReasons w.a w.am w.ew else unusedReasons w.a w.am) ++
  (if n ≥ 2 then usedReasons w.b w.bm w.ew else unusedReasons w.b w.bm) ++
  (if n ≥ 3 then usedReasons w.c w.cm w.ew else unusedReasons w.c w.cm)
/-- The same for a and b where c is a control field. -/
def operandReasons2 (w : LaneWord) (n : Nat) : List (Nat × Bool) :=
  (if n ≥ 1 then usedReasons w.a w.am w.ew else unusedReasons w.a w.am) ++
  (if n ≥ 2 then usedReasons w.b w.bm w.ew else unusedReasons w.b w.bm)
def srcsOf (w : LaneWord) (n : Nat) : List (BitVec 10) := [w.a, w.b, w.c].take n

/-- An element-wise integer instruction with `n` sources (R243 to R247). -/
def intReasons (w : LaneWord) (n : Nat) (fs : List Nat) (varOk : Bool) : List (Nat × Bool) :=
  fmtReasons w fs ++ varReasons varOk ++ dstReasons w ++ operandReasons w n ++ immIntReasons w (srcsOf w n)
/-- A floating instruction with `n` sources and a v destination (R252 to R254). -/
def floatReasons (w : LaneWord) (n : Nat) (fs : List Nat) (maxMode : Nat) (sat : Bool) : List (Nat × Bool) :=
  fmtReasons w fs ++ varReasons (w.low3 == 0) ++ dstReasons w ++ operandReasons w n ++
    immFloatReasons w maxMode sat (srcsOf w n)

/-- Source formats of FCVT (R259) and integer formats of F2I and I2F (R260): variant codes to widths. -/
def cvtFmt (v : Nat) : Nat := match v with | 0 => 4 | 1 => 5 | 2 => 6 | 3 => 7 | 4 => 8 | _ => 9
def cvtIntWidth (v : Nat) : Nat := match v with | 0 => 32 | 1 => 32 | 2 => 16 | 3 => 16 | _ => 8
/-- R258: the group index must pair the wider register with the narrower one. -/
def groupReasons (w : LaneWord) (ws wd : Nat) : List (Nat × Bool) :=
  let ns := 32 / ws
  let nd := 32 / wd
  ctlReasons w 3 8 ++ [(3, decide (w.ctl ≥ (if nd ≥ ns then nd / ns else ns / nd)))]
/-- A conversion from width `ws` to width `wd` (R258): the a modifier uses the source width (R238). -/
def convReasons (w : LaneWord) (fs : List Nat) (ws wd : Nat) (varOk : Bool) : List (Nat × Bool) :=
  fmtReasons w fs ++ varReasons varOk ++ dstReasons w ++ usedReasons w.a w.am ws ++ unusedReasons w.b w.bm ++
    groupReasons w ws wd ++ immFloatReasons w 4 true [w.a]

/-! ## Memory and gauge class fields (R187, R268 to R270, R281) -/

/-- An address or data source of a memory instruction: a v register, 1021 or 1023 (R268). -/
def memSrcReasons (f : BitVec 10) (m : BitVec 6) : List (Nat × Bool) :=
  srcReasons f ++ [(4, m != 0), (4, f.toNat > 767 && f != 1021 && f != 1023)]
def memReasons (w : LaneWord) (spaces orders : List Nat) (varOk : Bool) : List (Nat × Bool) :=
  [(3, w.u), (3, w.ws == 3), (4, w.ws != 0 && w.ws != 3), (3, w.space > 5), (3, w.scope == 7), (3, w.wcode > 4),
   (2, w.order == 0 && w.scope != 0), (4, !spaces.contains w.space), (4, !orders.contains w.order)] ++
  varReasons varOk ++ memSrcReasons w.a w.am ++ unusedReasons w.c w.cm
def noDst (w : LaneWord) : List (Nat × Bool) := [(4, w.d != 1023)]
def memDst (w : LaneWord) : List (Nat × Bool) := [(4, w.d.toNat > 767)]
def atomicReasons (w : LaneWord) : List (Nat × Bool) :=
  [(4, w.inv), (4, !(w.wcode == 2 || w.wcode == 3)), (3, w.format.toNat > 9), (1, w.format.toNat ≤ 9 && !([0, 4, 5].contains w.fmt)),
   (4, w.fmt != 0 && (w.sub > 2 || w.wcode != 2))] ++ memSrcReasons w.b w.bm
def gaugeReasons (w : LaneWord) (orders : List Nat) : List (Nat × Bool) :=
  fmtReasons w [0] ++ memReasons w [0, 1] orders (w.low3 == 0) ++ [(4, w.cflag), (4, w.inv), (4, w.wcode != 0), (4, w.sub != 0)]

/-- Why a lane word with this opcode is not an instruction (R188, R189): all the checks of its entry. DESIGN CHOICE (log 67): the literal source
of VLI takes no modifier (INFO 4). -/
def laneReasons (op : Nat) (w : LaneWord) : List (Nat × Bool) :=
  let noU : List (Nat × Bool) := [(3, w.u)]
  match op with
  | 0x01 | 0x02 | 0x03 => intReasons w 2 intFmts (!w.v86)
  | 0x04 | 0x08 | 0x09 => intReasons w 2 intFmts (!w.v86 && !w.sat)
  | 0x05 => intReasons w 3 intFmts (!w.v86)
  | 0x06 => intReasons w 1 intFmts (!w.v86 && w.sg)
  | 0x07 => intReasons w 1 intFmts (!w.v86)
  | 0x0A | 0x0B | 0x0C => intReasons w 2 [0] (w.low3 == 0)
  | 0x0D => intReasons w 1 [0] (w.low3 == 0)
  | 0x0E => intReasons w 2 intFmts (!w.v86)
  | 0x0F | 0x11 => intReasons w 2 intFmts (w.low3 == 0)
  | 0x10 => intReasons w 2 intFmts (w.low3 == 1)
  | 0x12 | 0x13 => intReasons w 1 intFmts (w.low3 == 0)
  | 0x14 => intReasons w 3 [0] (!w.v86 && !w.sat)
  | 0x15 => intReasons w 3 [0] (w.low3 == 0)
  | 0x16 => intReasons w 3 [0] (w.low3 == 0)
  | 0x17 => intReasons w 3 [2] (!w.v86)
  | 0x18 => fmtReasons w intFmts ++ varReasons (!w.sat) ++ noU ++ kdstReasons w ++ operandReasons2 w 2 ++ ctlReasons w 3 6 ++
      immIntReasons w [w.a, w.b]
  | 0x19 => fmtReasons w [0] ++ varReasons (w.low3 == 0) ++ dstReasons w ++ operandReasons2 w 2 ++ ctlReasons w 3 8 ++
      immIntReasons w [w.a, w.b]
  | 0x1A => intReasons w 1 [0, 1, 2, 3, 4, 5, 6, 7, 8, 9] (w.low3 == 0)
  | 0x1B => fmtReasons w [0] ++ varReasons (w.low3 == 0) ++ dstReasons w ++ [(4, w.a != 1022 || w.am != 0)] ++
      unusedReasons w.b w.bm ++ unusedReasons w.c w.cm
  | 0x20 | 0x21 | 0x22 => floatReasons w 2 floatFmts 4 true
  | 0x23 => floatReasons w 3 floatFmts 4 true
  | 0x24 | 0x25 => floatReasons w 2 floatFmts 0 false
  | 0x28 => floatReasons w 1 [4] 3 false
  | 0x26 | 0x27 | 0x29 | 0x2A | 0x2B | 0x2C => floatReasons w 1 [4] 0 false
  | 0x2D => fmtReasons w floatFmts ++ varReasons (!w.sat && !w.sg) ++ noU ++ kdstReasons w ++ operandReasons2 w 2 ++
      ctlReasons w 3 8 ++ [(2, w.imm != 0), (4, w.a == 1020 || w.a == 1022 || w.b == 1020 || w.b == 1022)]
  | 0x2E => fmtReasons w floatFmts ++ varReasons (!w.sat && !w.sg) ++ noU ++ kdstReasons w ++ operandReasons2 w 1 ++
      ctlReasons w 9 512 ++ [(2, w.imm != 0), (4, w.a == 1020 || w.a == 1022)]
  | 0x2F => convReasons w [4, 5, 6, 7, 8, 9] (fmtWidth (cvtFmt w.low3)) w.ew (w.low3 ≤ 5 && cvtFmt w.low3 != w.fmt)
  | 0x30 => floatReasons w 1 [4, 5, 6] 4 false
  | 0x31 => convReasons w floatFmts w.ew (cvtIntWidth w.low3) (w.low3 ≤ 5)
  | 0x32 => convReasons w [4, 5, 6, 7, 8, 9] (cvtIntWidth w.low3) w.ew (w.low3 ≤ 5)
  | 0x40 => fmtReasons w [0] ++ varReasons (w.low3 == 0) ++ noU ++ dstReasons w ++ operandReasons2 w 2 ++ ctlReasons w 2 4 ++
      immIntReasons w [w.a, w.b]
  | 0x41 => fmtReasons w [0] ++ varReasons (w.low3 == 0) ++ noU ++ dstReasons w ++ unusedReasons w.a w.am ++
      unusedReasons w.b w.bm ++ ctlReasons w 3 8 ++ [(2, w.imm != 0)]
  | 0x42 | 0x43 => fmtReasons w [0, 1, 2, 3, 4, 5, 6] ++ noU ++ dstReasons w ++ operandReasons2 w 1 ++ ctlReasons w 3 6 ++
      immIntReasons w [w.a] ++
      [(3, w.fmt ≥ 4 && (w.sat || w.sg || w.ctl > 2)), (3, w.sat && w.ctl != 0), (3, op == 0x42 && w.v86)]
  | 0x44 => fmtReasons w [0] ++ varReasons (w.low3 == 0) ++ noU ++ dstReasons w ++ ctlReasons w 1 2 ++
      usedReasons w.a w.am w.ew ++
      (if bit w.c 0 then unusedReasons w.b w.bm ++ immIntReasons w [w.a]
       else usedReasons w.b w.bm w.ew ++ immIntReasons w [w.a, w.b])
  | 0x50 => fmtReasons w [0] ++ memReasons w [0, 1, 2, 3, 4, 5] [0, 1] (w.low3 == 0) ++ memDst w ++ unusedReasons w.b w.bm ++
      [(4, w.cflag), (4, w.inv && (w.order != 0 || w.space != 0)), (2, w.sub > 1), (4, bit w.imm 0 && w.wcode > 1),
       (4, w.space == 5 && w.wcode < 2)]
  | 0x51 => fmtReasons w [0] ++ memReasons w [0, 1, 2, 3] [0, 2] (w.low3 == 0) ++ noDst w ++ memSrcReasons w.b w.bm ++
      [(4, w.cflag), (4, w.inv), (2, w.sub != 0)]
  | 0x52 => memReasons w [0, 1, 2] [0, 1, 2, 3] (!w.v86 && !w.sat) ++ atomicReasons w ++
      [(4, w.d.toNat > 767 && w.d != 1023), (4, w.cflag && (w.order != 0 || w.d != 1023 || w.sub == 7))]
  | 0x53 => memReasons w [0, 1, 2] [0, 2] (!w.v86 && !w.sat) ++ atomicReasons w ++ noDst w ++ [(4, w.cflag), (4, w.sub > 5)]
  | 0x54 => fmtReasons w [4, 5] ++ memReasons w [0, 2] [0, 2] (w.low3 == 0) ++ noDst w ++ memSrcReasons w.b w.bm ++
      [(4, w.cflag), (4, w.inv), (2, w.sub != 0), (4, w.wcode != 2)]
  | 0x58 => gaugeReasons w [0, 2] ++ noDst w ++ memSrcReasons w.b w.bm
  | 0x59 => gaugeReasons w [0, 1] ++ memDst w ++ unusedReasons w.b w.bm
  | 0x5A => gaugeReasons w [0, 2] ++ noDst w ++ memSrcReasons w.b w.bm
  | 0x5B => gaugeReasons w [0, 2] ++ noDst w ++ unusedReasons w.b w.bm
  | 0x60 | 0x61 | 0x62 => fmtReasons w [0] ++ varReasons (w.low3 == 0) ++ noU ++ kdstReasons w ++ ksrcReasons w.a w.am ++
      ksrcReasons w.b w.bm ++ unusedReasons w.c w.cm ++ [(2, w.imm != 0)]
  | 0x63 => fmtReasons w [0] ++ varReasons (w.low3 == 0) ++ noU ++ kdstReasons w ++ ksrcReasons w.a w.am ++
      unusedReasons w.b w.bm ++ unusedReasons w.c w.cm ++ [(2, w.imm != 0)]
  | _ => [(1, true)]

/-- INFO of R402 for a lane word that is not an instruction; none where it is one. -/
def laneInfo (op : Nat) (w : LaneWord) : Option Nat := firstBad (laneReasons op w)

/-! ## Scalar operands -/

/-- Two literal sources in one word (R171). -/
def twoLits : Src → Src → Bool
  | .lit _, .lit _ => true
  | _, _ => false

/-- SRD of the even number of a 64-bit register writes a pair (R194): the destination must be even and at most 28. -/
def srdPairOk (d : Dst) (r : Nat) : Bool :=
  if r == 0x10 || r == 0x12 || r == 0x14 then
    match d with
    | .reg n => n.val % 2 == 0 && n.val ≤ 28
    | .discard => false
  else true

/-- SWR of GSEED's even number reads s(a) and s(a + 1), of any parity (R194). DEDUCED (log 53): s30 and a literal have no second word,
so the entry does not list them. -/
def swrPairOk (a : Src) (r : Nat) : Bool :=
  if r == 0x14 then
    match a with
    | .reg n => n.val < 30
    | .lit _ => false
  else true

end Sys2Proof.Machine
end

