-- ==== Sys2Proof/WellFormed.lean ====
section
/-! DEFINITION. Well-formed instructions: those that some encoding of the manual stands for (R170 to R192), and for the
steps that are no instruction words, those whose unit numbers exist (R8 to R14, R92, R442, R452, R460). -/
namespace Sys2Proof

/-- The lane opcode and fields of a lane instruction (R188). -/
def Instr.lane? : Instr → Option (Nat × LaneWord)
  | .vadd w => some (0x01, w) | .vsub w => some (0x02, w) | .vmul w => some (0x03, w) | .vmulh w => some (0x04, w)
  | .vmad w => some (0x05, w) | .vabs w => some (0x06, w) | .vneg w => some (0x07, w) | .vmin w => some (0x08, w)
  | .vmax w => some (0x09, w) | .vand w => some (0x0A, w) | .vor w => some (0x0B, w) | .vxor w => some (0x0C, w)
  | .vnot w => some (0x0D, w) | .vshl w => some (0x0E, w) | .vshr w => some (0x0F, w) | .vsra w => some (0x10, w)
  | .vrot w => some (0x11, w) | .vclz w => some (0x12, w) | .vpopc w => some (0x13, w) | .vbfx w => some (0x14, w)
  | .vbfi w => some (0x15, w) | .vprm w => some (0x16, w) | .vdot4 w => some (0x17, w) | .vcmp w => some (0x18, w)
  | .vsel w => some (0x19, w) | .vmov w => some (0x1A, w) | .vli w => some (0x1B, w)
  | .fadd w => some (0x20, w) | .fsub w => some (0x21, w) | .fmul w => some (0x22, w) | .ffma w => some (0x23, w)
  | .fmin w => some (0x24, w) | .fmax w => some (0x25, w) | .frcp w => some (0x26, w) | .frsq w => some (0x27, w)
  | .fsqrt w => some (0x28, w) | .fex2 w => some (0x29, w) | .flg2 w => some (0x2A, w) | .fsin w => some (0x2B, w)
  | .fcos w => some (0x2C, w) | .fcmp w => some (0x2D, w) | .fcls w => some (0x2E, w) | .fcvt w => some (0x2F, w)
  | .frnd w => some (0x30, w) | .f2i w => some (0x31, w) | .i2f w => some (0x32, w)
  | .vshf w => some (0x40, w) | .vbal w => some (0x41, w) | .vred w => some (0x42, w) | .vscn w => some (0x43, w)
  | .vbcs w => some (0x44, w)
  | .vld w => some (0x50, w) | .vst w => some (0x51, w) | .vatm w => some (0x52, w) | .vrdm w => some (0x53, w)
  | .vatl w => some (0x54, w)
  | .ginc w => some (0x58, w) | .grd w => some (0x59, w) | .gmrg w => some (0x5A, w) | .gclr w => some (0x5B, w)
  | .kand w => some (0x60, w) | .kor w => some (0x61, w) | .kxor w => some (0x62, w) | .knot w => some (0x63, w)
  | _ => none

/-- No two literal sources (R171). -/
def AluReg.wf (x : AluReg) : Bool := !Machine.twoLits x.a x.b

/-- The die indices of the package (R8). -/
def dieOk (d : Nat) : Bool := d < 13
/-- A gang's name is a compute gang or one of the control cores (R10). -/
def GangId.wf : GangId → Bool
  | .compute _ g => g < 32
  | .control d i => (d < 8 || d == 12) && i < 2

/-- Well-formed instructions. -/
def Instr.wf : Instr → Bool
  | .add x | .sub x | .mul x | .mulh x | .mulhn x | .and x | .or x | .xor x | .andn x | .shl x | .shr x | .sra x
  | .min x | .max x | .minn x | .maxn x => x.wf
  | .shlImm x | .shrImm x | .sraImm x => x.i.toNat < 32
  | .cmpReg _ _ a b _ | .sel _ _ a b _ | .give _ _ a b | .quota _ a b => !Machine.twoLits a b
  | .srd _ d r => Machine.srdPairOk d r.val
  | .swr _ a r => Machine.swrPairOk a r.val
  | .sts _ _ (.con _) _ => false
  | .loop _ _ n => n != 0
  | .arrive _ _ _ (.loc a) n => !Machine.twoLits a n
  | .wait _ _ (.loc a) n => !Machine.twoLits a n
  | .mwait _ _ (.loc (.lit _)) (.lit _) => false
  | .preempt _ (.block b) a | .preempt _ (.cohort b) a | .resume _ (.block b) a | .resume _ (.cohort b) a
  | .kill _ (.block b) a | .kill _ (.cohort b) a => !Machine.twoLits a b
  | .eact _ _ f => f.toNat ≤ 5
  | .ecvt _ _ _ _ f => 5 ≤ f.toNat && f.toNat ≤ 8
  | .est _ n st f => 4 ≤ f.toNat && f.toNat ≤ 8 && !(st && n == 3)
  | .etrn _ _ f => 4 ≤ f.toNat && f.toNat ≤ 8
  | .tlbinvWrite die _ | .tlbInvalidationComplete die | .testreqWrite die _ | .unitfenceFence die _
  | .unitfenceLift die _ | .registerWrite die _ _ | .diePowerLoss die | .dieWake die | .dieReset die
  | .junctionOver100c die | .junctionBelow95c die | .p4StarvationGrant die | .walkComplete die _ _ _
  | .wgtRefreshWindowStart die _ | .wgtRefreshWindowEnd die _ | .idleTestStep die _ _ | .forcedPassStep die _ _
  | .scrubRead _ die _ _ | .retconsWrite die _ => dieOk die
  | .monctlClear die n | .monitorInterval die n => dieOk die && n < 16
  | .flitCrcFail die _ | .retryRequest die _ | .flitAck die _ _ | .replayTimerExpiry die _ | .retrainComplete die _ _ =>
      dieOk die
  | .runStart g _ | .partWake g _ | .watchRetest g _ | .stampReread g _ | .yieldTimeout g _ | .batchComplete g
  | .gangExit g | .quantumCountExpiry g | .commitSlot g | .drainSweepComplete g _ _ => g.wf
  | i => match i.lane? with
    | some (op, w) => (Machine.laneInfo op w).isNone
    | none => true

end Sys2Proof
end

