-- ==== Sys2Proof/Decode.lean ====
section
/-! DEFINITION. Decoding (R170 to R192, R219, R223, R284, R299, R329): total, and a word that is no instruction is rejected
with the INFO of R402. The encoder follows, from the same tables. -/
namespace Sys2Proof
open Machine (bits fieldNat bit firstBad leBytes ofLeBytes)

/-! ## Scalar words -/

/-- The fields of the scalar word (R170). -/
structure ScalarFields where
  op : BitVec 6
  d : BitVec 5
  a : BitVec 5
  b : BitVec 5
  g : Guard
  fn : BitVec 7
  deriving DecidableEq, Repr

/-- Fields of a word (R170). -/
def scalarFields (w : Word) : ScalarFields :=
  ⟨bits w 26 6, bits w 21 5, bits w 16 5, bits w 11 5, ⟨bits w 8 3, bit w 7⟩, bits w 0 7⟩

/-- The word of a list of fields (R170). -/
def mkScalar (f : ScalarFields) : Word :=
  (f.op ++ f.d ++ f.a ++ f.b ++ f.g.q ++ BitVec.ofBool f.g.neg ++ f.fn : BitVec (6 + 5 + 5 + 5 + 3 + 1 + 7))

/-- A source field: 31 takes the literal (R171). -/
def srcOf (x : BitVec 5) (lit : Word) : Src := if h : x.toNat < 31 then .reg ⟨x.toNat, h⟩ else .lit lit
/-- A destination field: 31 discards (R171). -/
def dstOf (x : BitVec 5) : Dst := if h : x.toNat < 31 then .reg ⟨x.toNat, h⟩ else .discard
/-- A field that must name s0 to s30. -/
def regOf (x : BitVec 5) : Fin 31 := ⟨x.toNat % 31, by omega⟩
def regBad (x : BitVec 5) : Nat × Bool := (4, x == 31)
/-- An even register at most 28 (R177). -/
def pairOf (x : BitVec 5) : Pair := ⟨x.toNat / 2 % 15, by omega⟩
def pairBad (x : BitVec 5) : Nat × Bool := (4, x.toNat % 2 == 1 || x.toNat > 28)
/-- A multiple of 4 at most 24 (R299). -/
def groupOf (x : BitVec 5) : Group := ⟨x.toNat / 4 % 7, by omega⟩
def groupBad (x : BitVec 5) : Nat × Bool := (4, x.toNat % 4 != 0 || x.toNat > 24)

/-- The condition codes (R177); 110 and 111 are not instructions. -/
def condOf (c : BitVec 3) : Cond :=
  match c.toNat with
  | 0 => .eq | 1 => .ne | 2 => .lt | 3 => .le | 4 => .ltn | _ => .len
def condBad (c : BitVec 3) : Nat × Bool := (3, c.toNat > 5)
/-- Scope codes (R187). -/
def scopeOf (c : BitVec 3) : Scope :=
  match c.toNat with
  | 0 => .gang | 1 => .block | 2 => .cohort | 3 => .die | 4 => .pkg | 5 => .span | _ => .sys
def scopeBad (c : BitVec 3) : Nat × Bool := (3, c == 7)
/-- Fence orders: 01, 10, 11 (R284). -/
def fenceOrderOf (o : BitVec 2) : FenceOrder :=
  match o.toNat with
  | 1 => .acq | 2 => .rel | _ => .ar
def fenceOrderBad (o : BitVec 2) : Nat × Bool := (3, o == 0)
/-- Phase codes (R284). -/
def phaseOf (p : BitVec 2) : Phase :=
  match p.toNat with
  | 1 => .near | 2 => .far | _ => .both
def phaseBad (p : BitVec 2) : Nat × Bool := (3, p == 0)
/-- Sync-word address by space code (R284). -/
def syncAddrOf (sp : BitVec 3) (a : BitVec 5) (lit : Word) : SyncAddr :=
  match sp.toNat with
  | 0 => .gen (pairOf a) | 1 => .loc (srcOf a lit) | _ => .pol (pairOf a)
def syncAddrBad (sp : BitVec 3) (a : BitVec 5) : List (Nat × Bool) :=
  [(3, sp.toNat > 5), (4, sp.toNat > 2), (4, (sp == 0 || sp == 2) && (pairBad a).2)]
/-- Base of LDS, STS, LDP by space code (R177, R204). -/
def memBaseOf (sp : BitVec 3) (a : BitVec 5) (lit : Word) : MemBase :=
  match sp.toNat with
  | 0 => .gen (pairOf a) | 1 => .loc (srcOf a lit) | 2 => .pol (pairOf a) | _ => .con (srcOf a lit)
def memBaseBad (sp : BitVec 3) (a : BitVec 5) (con : Bool) : List (Nat × Bool) :=
  [(3, sp.toNat > 5), (4, sp.toNat == 3 || sp.toNat == 5 || (!con && sp.toNat == 4)),
   (4, (sp == 0 || sp == 2) && (pairBad a).2)]

/-- Fields that must be zero (R173). -/
def zero (l : List Nat) : List (Nat × Bool) := [(2, l.any (· != 0))]
/-- An instruction, unless a check refuses it. -/
def chk (l : List (Nat × Bool)) (i : Instr) : Except Nat Instr :=
  match firstBad l with
  | some n => .error n
  | none => .ok i

namespace ScalarFields
def aluReg (f : ScalarFields) (lit : Word) : AluReg := ⟨f.g, dstOf f.d, srcOf f.a lit, srcOf f.b lit⟩
def aluUn (f : ScalarFields) (lit : Word) : AluUn := ⟨f.g, dstOf f.d, srcOf f.a lit⟩
def aluImm (f : ScalarFields) (lit : Word) : AluImm := ⟨f.g, dstOf f.d, srcOf f.a lit, f.fn⟩
def qbin (f : ScalarFields) : QBin := ⟨f.g, bits f.d 0 3, bits f.a 0 3, bits f.b 0 3⟩
end ScalarFields

/-- Two literals (R171). -/
def lit2 (f : ScalarFields) : List (Nat × Bool) := [(4, f.a == 31 && f.b == 31)]

/-- Opcode 0x01 (R175). -/
def decodeAlu (f : ScalarFields) (lit : Word) : Except Nat Instr :=
  match f.fn.toNat with
  | 0 => chk (lit2 f) (.add (f.aluReg lit))
  | 1 => chk (lit2 f) (.sub (f.aluReg lit))
  | 2 => chk (lit2 f) (.mul (f.aluReg lit))
  | 3 => chk (lit2 f) (.mulh (f.aluReg lit))
  | 4 => chk (lit2 f) (.mulhn (f.aluReg lit))
  | 8 => chk (lit2 f) (.and (f.aluReg lit))
  | 9 => chk (lit2 f) (.or (f.aluReg lit))
  | 10 => chk (lit2 f) (.xor (f.aluReg lit))
  | 11 => chk (lit2 f) (.andn (f.aluReg lit))
  | 16 => chk (lit2 f) (.shl (f.aluReg lit))
  | 17 => chk (lit2 f) (.shr (f.aluReg lit))
  | 18 => chk (lit2 f) (.sra (f.aluReg lit))
  | 24 => chk (lit2 f) (.min (f.aluReg lit))
  | 25 => chk (lit2 f) (.max (f.aluReg lit))
  | 26 => chk (lit2 f) (.minn (f.aluReg lit))
  | 27 => chk (lit2 f) (.maxn (f.aluReg lit))
  | 0x20 => chk (zero [f.b.toNat]) (.clz (f.aluUn lit))
  | 0x21 => chk (zero [f.b.toNat]) (.popc (f.aluUn lit))
  | 0x28 => chk (zero [f.b.toNat]) (.mov (f.aluUn lit))
  | _ => .error 1

/-- Opcode 0x12 (R174, R202). -/
def decodeQ (f : ScalarFields) : Except Nat Instr :=
  let z := zero [fieldNat f.d 3 2, fieldNat f.a 3 2, fieldNat f.b 3 2, fieldNat f.fn 2 5]
  match fieldNat f.fn 0 2 with
  | 0 => chk z (.qand f.qbin)
  | 1 => chk z (.qor f.qbin)
  | 2 => chk z (.qxor f.qbin)
  | _ => chk (z ++ zero [f.b.toNat]) (.qnot f.g (bits f.d 0 3) (bits f.a 0 3))

/-- Opcode 0x14 (R174, R203): a = 0 takes imm7, a = 31 the literal. -/
def decodeLi (f : ScalarFields) (lit : Word) : Except Nat Instr :=
  match f.a.toNat with
  | 0 => chk (zero [f.b.toNat]) (.liImm f.g (dstOf f.d) f.fn)
  | 31 => chk (zero [f.b.toNat, f.fn.toNat]) (.liLiteral f.g (dstOf f.d) lit)
  | _ => .error (if f.b == 0 then 3 else 2)

/-- Opcode 0x3C (R178, R299). -/
def decodeEngine (f : ScalarFields) : Except Nat Instr :=
  let copyForm : CopyForm := ⟨f.g, regOf f.d, regOf f.a, groupOf f.b⟩
  let copyBad := [regBad f.d, regBad f.a, groupBad f.b]
  let gathForm : GathForm := ⟨f.g, pairOf f.d, pairOf f.a, groupOf f.b⟩
  let gathBad := [pairBad f.d, pairBad f.a, groupBad f.b]
  let mxaForm : MxaForm := ⟨f.g, pairOf f.d, regOf f.a, regOf f.b⟩
  let mxaBad := [pairBad f.d, regBad f.a, regBad f.b]
  match f.fn.toNat with
  | 0x00 => chk copyBad (.copy copyForm)
  | 0x01 => chk copyBad (.copyr copyForm)
  | 0x02 => chk gathBad (.gath gathForm)
  | 0x03 => chk gathBad (.scad gathForm)
  | 0x04 =>
    match f.d.toNat with
    | 0 => chk [pairBad f.a, regBad f.b] (.pftL2 f.g (pairOf f.a) (regOf f.b))
    | 1 => chk (pairBad f.a :: zero [f.b.toNat]) (.pftPromote f.g (pairOf f.a))
    | 2 => chk (pairBad f.a :: zero [f.b.toNat]) (.pftDemote f.g (pairOf f.a))
    | _ => .error (if f.b == 0 then 3 else 2)
  | 0x08 => chk mxaBad (.mxa mxaForm)
  | 0x09 => chk mxaBad (.mxaSolo mxaForm)
  | 0x0A => chk (regBad f.d :: zero [f.a.toNat, f.b.toNat]) (.mxz f.g (regOf f.d))
  | 0x0B => chk (regBad f.d :: regBad f.a :: zero [f.b.toNat]) (.mxld f.g (regOf f.d) (regOf f.a))
  | 0x0C => chk gathBad (.mxst f.g (pairOf f.d) (pairOf f.a) (groupOf f.b))
  | 0x0D => chk (pairBad f.a :: zero [f.d.toNat, f.b.toNat]) (.epld f.g (pairOf f.a))
  | _ => .error 1

/-- Opcode 0x3D (R219). -/
def decodeSystem (f : ScalarFields) : Except Nat Instr :=
  match f.fn.toNat with
  | 0 => chk (zero [f.d.toNat]) (.trap f.g (f.a ++ f.b))
  | 1 => chk (zero [f.d.toNat, f.a.toNat, f.b.toNat]) (.bkpt f.g)
  | 2 =>
    let s : InviScope := match fieldNat f.d 3 2 with | 0 => .slice | 1 => .core | 2 => .die | _ => .pkg
    let t : InviSection := match fieldNat f.d 1 2 with | 1 => .scal | 2 => .lane | _ => .both
    chk ((3, fieldNat f.d 1 2 == 0) :: zero [fieldNat f.d 0 1, f.a.toNat, f.b.toNat]) (.invi f.g s t)
  | _ => .error 1

/-- The kinds of PREEMPT, RESUME and KILL (R223). -/
def targetOf (f : ScalarFields) (lit : Word) : Target :=
  match fieldNat f.d 3 2 with
  | 0 => .grid | 1 => .block (srcOf f.b lit) | 2 => .cohort (srcOf f.b lit) | _ => .span
def targetBad (f : ScalarFields) : List (Nat × Bool) :=
  let k := fieldNat f.d 3 2
  (4, (k == 1 || k == 2) && f.a == 31 && f.b == 31) :: zero [fieldNat f.d 0 3, if k == 0 || k == 3 then f.b.toNat else 0]

/-- Opcode 0x3E (R223). -/
def decodeSupervisor (f : ScalarFields) (lit : Word) : Except Nat Instr :=
  match f.fn.toNat with
  | 0 => chk (pairBad f.a :: zero [f.b.toNat]) (.launch f.g (dstOf f.d) (pairOf f.a))
  | 1 => chk (targetBad f) (.preempt f.g (targetOf f lit) (srcOf f.a lit))
  | 2 => chk (targetBad f) (.resume f.g (targetOf f lit) (srcOf f.a lit))
  | 3 => chk (targetBad f) (.kill f.g (targetOf f lit) (srcOf f.a lit))
  | 4 => chk [regBad f.d, pairBad f.a] (.ctxsv ⟨f.g, regOf f.d, pairOf f.a, srcOf f.b lit⟩)
  | 5 => chk [regBad f.d, pairBad f.a] (.ctxld ⟨f.g, regOf f.d, pairOf f.a, srcOf f.b lit⟩)
  | 6 => chk (lit2 f ++ zero [f.d.toNat]) (.quota f.g (srcOf f.a lit) (srcOf f.b lit))
  | _ => .error 1

/-- A special register number (R193). -/
def specialOf (n : BitVec 7) : Fin 27 := ⟨n.toNat % 27, by omega⟩

/-- The scalar decoder on fields (R173 to R178). -/
def decodeFields (f : ScalarFields) (lit : Word) : Except Nat Instr :=
  let none3 := zero [f.d.toNat, f.a.toNat, f.b.toNat, f.fn.toNat]
  match f.op.toNat with
  | 0x01 => decodeAlu f lit
  | 2 => chk (zero [f.b.toNat]) (.addImm (f.aluImm lit))
  | 3 => chk (zero [f.b.toNat]) (.subImm (f.aluImm lit))
  | 4 => chk (zero [f.b.toNat]) (.mulImm (f.aluImm lit))
  | 5 => chk (zero [f.b.toNat]) (.andImm (f.aluImm lit))
  | 6 => chk (zero [f.b.toNat]) (.orImm (f.aluImm lit))
  | 7 => chk (zero [f.b.toNat]) (.xorImm (f.aluImm lit))
  | 8 => chk (zero [f.b.toNat] ++ [(3, decide (f.fn.toNat ≥ 32))]) (.shlImm (f.aluImm lit))
  | 9 => chk (zero [f.b.toNat] ++ [(3, decide (f.fn.toNat ≥ 32))]) (.shrImm (f.aluImm lit))
  | 10 => chk (zero [f.b.toNat] ++ [(3, decide (f.fn.toNat ≥ 32))]) (.sraImm (f.aluImm lit))
  | 11 => chk (zero [f.b.toNat]) (.minImm (f.aluImm lit))
  | 12 => chk (zero [f.b.toNat]) (.maxImm (f.aluImm lit))
  | 13 => chk (zero [f.b.toNat]) (.minnImm (f.aluImm lit))
  | 14 => chk (zero [f.b.toNat]) (.maxnImm (f.aluImm lit))
  | 0x10 => chk (condBad (bits f.fn 0 3) :: lit2 f ++ zero [fieldNat f.d 3 2, fieldNat f.fn 3 4])
      (.cmpReg f.g (bits f.d 0 3) (srcOf f.a lit) (srcOf f.b lit) (condOf (bits f.fn 0 3)))
  | 0x11 => chk (condBad (bits f.b 0 3) :: zero [fieldNat f.d 3 2, fieldNat f.b 3 2])
      (.cmpImm f.g (bits f.d 0 3) (srcOf f.a lit) (condOf (bits f.b 0 3)) f.fn)
  | 0x12 => decodeQ f
  | 0x13 => chk (lit2 f ++ zero [fieldNat f.fn 3 4]) (.sel f.g (dstOf f.d) (srcOf f.a lit) (srcOf f.b lit) (bits f.fn 0 3))
  | 0x14 => decodeLi f lit
  | 0x18 => chk (memBaseBad (bits f.b 2 3) f.a true ++ zero [fieldNat f.b 0 2])
      (.lds f.g (dstOf f.d) (memBaseOf (bits f.b 2 3) f.a lit) f.fn)
  | 0x19 => chk (regBad f.d :: memBaseBad (bits f.b 2 3) f.a false ++ zero [fieldNat f.b 0 2])
      (.sts f.g (regOf f.d) (memBaseOf (bits f.b 2 3) f.a lit) f.fn)
  | 0x1A => chk (pairBad f.d :: memBaseBad (bits f.b 2 3) f.a true ++ zero [fieldNat f.b 0 2])
      (.ldp f.g (pairOf f.d) (memBaseOf (bits f.b 2 3) f.a lit) f.fn)
  | 0x1C => chk ([(3, decide (f.fn.toNat > 26)), (4, !Machine.srdPairOk (dstOf f.d) f.fn.toNat)] ++ zero [f.a.toNat, f.b.toNat])
      (.srd f.g (dstOf f.d) (specialOf f.fn))
  | 0x1D => chk ([(3, decide (f.fn.toNat > 26)), (4, !Machine.swrPairOk (srcOf f.a lit) f.fn.toNat)] ++ zero [f.d.toNat, f.b.toNat])
      (.swr f.g (srcOf f.a lit) (specialOf f.fn))
  | 0x20 => .ok (.br f.g (f.d ++ f.a ++ f.b ++ f.fn))
  | 0x21 => .ok (.call f.g (f.d ++ f.a ++ f.b ++ f.fn))
  | 0x22 =>
    let m : BrqMode := match fieldNat f.d 3 2 with | 0 => .any | 1 => .all | _ => .none
    chk [(1, fieldNat f.d 3 2 == 3)] (.brq f.g m (bits f.d 0 3) (f.a ++ f.b ++ f.fn))
  | 0x23 => chk (zero [f.d.toNat, f.b.toNat, f.fn.toNat]) (.ret f.g (srcOf f.a lit))
  | 0x24 => chk ((3, f.b == 0 && f.fn == 0) :: zero [f.d.toNat]) (.loop f.g (srcOf f.a lit) (f.b ++ f.fn))
  | 0x25 => chk none3 (.exit f.g)
  | 0x26 => chk none3 (.nop f.g)
  | 0x27 => chk (zero [f.d.toNat, fieldNat f.b 0 2, f.fn.toNat]) (.regang f.g (f.a ++ bits f.b 2 3))
  | 0x28 => chk (zero [f.b.toNat]) (.lrun f.g (srcOf f.a lit) (f.d ++ f.fn))
  | 0x29 =>
    if bit f.fn 6 then chk (zero [f.d.toNat, f.a.toNat, f.b.toNat, fieldNat f.fn 4 2]) (.lmaskImm f.g (bits f.fn 0 4))
    else chk (zero [f.d.toNat, f.b.toNat, fieldNat f.fn 4 2]) (.lmaskReg f.g (srcOf f.a lit))
  | 0x2C =>
    let counted := bit f.d 2
    chk (phaseBad (bits f.d 3 2) :: zero [fieldNat f.d 0 2, if counted then 0 else f.a.toNat, f.b.toNat, fieldNat f.fn 4 3])
      (.bar f.g (phaseOf (bits f.d 3 2)) (if counted then some (srcOf f.a lit) else none) (bits f.fn 0 4))
  | 0x2D => chk (phaseBad (bits f.d 3 2) :: zero [fieldNat f.d 0 3, f.a.toNat, f.b.toNat, fieldNat f.fn 4 3])
      (.barc f.g (phaseOf (bits f.d 3 2)) (bits f.fn 0 4))
  | 0x2E => chk (phaseBad (bits f.d 3 2) :: zero [fieldNat f.d 0 3, f.a.toNat, f.b.toNat, fieldNat f.fn 4 3])
      (.bars f.g (phaseOf (bits f.d 3 2)) (bits f.fn 0 4))
  | 0x2F => chk (scopeBad (bits f.d 2 3) :: (3, bit f.d 0) :: lit2 f ++ syncAddrBad (bits f.fn 4 3) f.a ++ zero [fieldNat f.fn 0 4])
      (.arrive f.g (scopeOf (bits f.d 2 3)) (bit f.d 1) (syncAddrOf (bits f.fn 4 3) f.a lit) (srcOf f.b lit))
  | 0x30 => chk (scopeBad (bits f.d 2 3) :: lit2 f ++ syncAddrBad (bits f.fn 4 3) f.a ++ zero [fieldNat f.d 0 2, fieldNat f.fn 0 4])
      (.wait f.g (scopeOf (bits f.d 2 3)) (syncAddrOf (bits f.fn 4 3) f.a lit) (srcOf f.b lit))
  | 0x31 => chk (scopeBad (bits f.d 2 3) :: (4, f.b != 31 && (pairBad f.b).2) :: lit2 f ++ syncAddrBad (bits f.fn 4 3) f.a ++
        zero [fieldNat f.d 0 2, fieldNat f.fn 0 4])
      (.mwait f.g (scopeOf (bits f.d 2 3)) (syncAddrOf (bits f.fn 4 3) f.a lit) (if f.b == 31 then .lit lit else .pair (pairOf f.b)))
  | 0x32 =>
    let x : BitVec (5 + 5 + 5) := f.d ++ f.a ++ f.b
    chk (zero [fieldNat x 0 3, fieldNat f.fn 4 3]) (.waitc f.g (bits x 11 4) (bits x 7 4) (bits x 3 4) (bits f.fn 0 4))
  | 0x33 => chk none3 (.seal f.g)
  | 0x34 => chk (scopeBad (bits f.d 2 3) :: fenceOrderBad (bits f.d 0 2) :: zero [f.a.toNat, f.b.toNat, f.fn.toNat])
      (.fence f.g (scopeOf (bits f.d 2 3)) (fenceOrderOf (bits f.d 0 2)))
  | 0x35 => chk (fenceOrderBad (bits f.d 0 2) :: zero [fieldNat f.d 2 3, f.b.toNat, f.fn.toNat])
      (.fencem f.g (fenceOrderOf (bits f.d 0 2)) (srcOf f.a lit))
  | 0x36 =>
    let s : DrainScope := match fieldNat f.d 2 3 with | 2 => .cohort | 4 => .pkg | _ => .span
    chk ((3, !([2, 4, 5].contains (fieldNat f.d 2 3))) :: zero [fieldNat f.d 0 2, f.a.toNat, f.b.toNat, f.fn.toNat]) (.drain f.g s)
  | 0x37 => chk (regBad f.d :: lit2 f ++ zero [f.fn.toNat]) (.give f.g (regOf f.d) (srcOf f.a lit) (srcOf f.b lit))
  | 0x38 => chk (zero [f.d.toNat, f.b.toNat, f.fn.toNat]) (.take f.g (srcOf f.a lit))
  | 0x39 => chk (zero [f.d.toNat, f.b.toNat, f.fn.toNat]) (.detach f.g (srcOf f.a lit))
  | 0x3A => chk none3 (.qend f.g)
  | 0x3B => chk none3 (.yield f.g)
  | 0x3C => decodeEngine f
  | 0x3D => decodeSystem f
  | 0x3E => decodeSupervisor f lit
  | _ => .error 1

/-- Whether the fields in a and b are sources that may hold 31 (R171, R299: engine fields never take a literal). -/
def sourceFields (f : ScalarFields) : Bool × Bool :=
  let op := f.op.toNat
  if op == 0x01 then (true, !([0x20, 0x21, 0x28].contains f.fn.toNat))
  else if [0x10, 0x13, 0x2F, 0x30, 0x31, 0x37].contains op then (true, true)
  else if (2 ≤ op && op ≤ 0x0E) || [0x11, 0x14, 0x18, 0x19, 0x1A, 0x1D, 0x23, 0x24, 0x28, 0x35, 0x38, 0x39].contains op then (true, false)
  else if op == 0x29 then (!bit f.fn 6, false)
  else if op == 0x2C then (bit f.d 2, false)
  else if op == 0x3E then
    match f.fn.toNat with
    | 1 | 2 | 3 | 6 => (true, true)
    | 4 | 5 => (false, true)
    | _ => (false, false)
  else (false, false)

/-- Whether a literal word follows (R171). -/
def hasLiteral (w : Word) : Bool :=
  let f := scalarFields w
  let s := sourceFields f
  (s.1 && f.a == 31) || (s.2 && f.b == 31)

/-- The scalar decoder: a word and the word after it. -/
def decodeScalar (w lit : Word) : Except Nat Instr := decodeFields (scalarFields w) lit

/-! ## Lane words (R179, R188) -/

/-- The lane instruction of an opcode. -/
def laneInstr (op : Nat) (w : LaneWord) : Option Instr :=
  match op with
  | 0x01 => some (.vadd w)
  | 0x02 => some (.vsub w)
  | 0x03 => some (.vmul w)
  | 0x04 => some (.vmulh w)
  | 0x05 => some (.vmad w)
  | 0x06 => some (.vabs w)
  | 0x07 => some (.vneg w)
  | 0x08 => some (.vmin w)
  | 0x09 => some (.vmax w)
  | 0x0A => some (.vand w)
  | 0x0B => some (.vor w)
  | 0x0C => some (.vxor w)
  | 0x0D => some (.vnot w)
  | 0x0E => some (.vshl w)
  | 0x0F => some (.vshr w)
  | 0x10 => some (.vsra w)
  | 0x11 => some (.vrot w)
  | 0x12 => some (.vclz w)
  | 0x13 => some (.vpopc w)
  | 0x14 => some (.vbfx w)
  | 0x15 => some (.vbfi w)
  | 0x16 => some (.vprm w)
  | 0x17 => some (.vdot4 w)
  | 0x18 => some (.vcmp w)
  | 0x19 => some (.vsel w)
  | 0x1A => some (.vmov w)
  | 0x1B => some (.vli w)
  | 0x20 => some (.fadd w)
  | 0x21 => some (.fsub w)
  | 0x22 => some (.fmul w)
  | 0x23 => some (.ffma w)
  | 0x24 => some (.fmin w)
  | 0x25 => some (.fmax w)
  | 0x26 => some (.frcp w)
  | 0x27 => some (.frsq w)
  | 0x28 => some (.fsqrt w)
  | 0x29 => some (.fex2 w)
  | 0x2A => some (.flg2 w)
  | 0x2B => some (.fsin w)
  | 0x2C => some (.fcos w)
  | 0x2D => some (.fcmp w)
  | 0x2E => some (.fcls w)
  | 0x2F => some (.fcvt w)
  | 0x30 => some (.frnd w)
  | 0x31 => some (.f2i w)
  | 0x32 => some (.i2f w)
  | 0x40 => some (.vshf w)
  | 0x41 => some (.vbal w)
  | 0x42 => some (.vred w)
  | 0x43 => some (.vscn w)
  | 0x44 => some (.vbcs w)
  | 0x50 => some (.vld w)
  | 0x51 => some (.vst w)
  | 0x52 => some (.vatm w)
  | 0x53 => some (.vrdm w)
  | 0x54 => some (.vatl w)
  | 0x58 => some (.ginc w)
  | 0x59 => some (.grd w)
  | 0x5A => some (.gmrg w)
  | 0x5B => some (.gclr w)
  | 0x60 => some (.kand w)
  | 0x61 => some (.kor w)
  | 0x62 => some (.kxor w)
  | 0x63 => some (.knot w)
  | _ => none

/-- The fields of a 96-bit lane word (R179). -/
def laneFields (x : LaneBits) : LaneWord :=
  ⟨bits x 84 4, bits x 80 4, bits x 70 10, bits x 60 10, bits x 50 10, bits x 40 10, bits x 34 6, bits x 28 6, bits x 22 6,
   bits x 20 2, bits x 16 4, bits x 0 16⟩

/-- The 96 bits of an opcode and its fields (R179). -/
def mkLane (op : BitVec 8) (w : LaneWord) : LaneBits :=
  (op ++ w.variant ++ w.format ++ w.d ++ w.a ++ w.b ++ w.c ++ w.am ++ w.bm ++ w.cm ++ w.ws ++ w.guard ++ w.imm :
    BitVec (8 + 4 + 4 + 10 + 10 + 10 + 10 + 6 + 6 + 6 + 2 + 4 + 16))

/-- The lane decoder. -/
def decodeLane (x : LaneBits) : Except Nat Instr :=
  let op := fieldNat x 88 8
  let w := laneFields x
  match Machine.laneInfo op w, laneInstr op w with
  | none, some i => .ok i
  | some n, _ => .error n
  | none, none => .error 1

/-- The 96 bits of three little-endian words, w0 first (R179). -/
def laneBits (w0 w1 w2 : Word) : LaneBits := (w2 ++ w1 ++ w0 : BitVec (32 + 32 + 32))

/-! ## Epilogue words (R191, R192, R329) -/

/-- The epilogue decoder; none for a word that is not an epilogue instruction. -/
def decodeEpi (w : Word) : Option Instr :=
  let d := bits w 24 3
  let a := bits w 21 3
  let b := bits w 18 3
  let m := bits w 16 2
  let imm := bits w 0 16
  let ok (zs : List Nat) (i : Instr) : Option Instr := if zs.all (· == 0) && i.wf then some i else none
  match fieldNat w 27 5 with
  | 1 => ok [fieldNat a 2 1, b.toNat] (.eldv d (bits a 0 2) m imm)
  | 2 => ok [b.toNat, m.toNat, imm.toNat] (.escl d a)
  | 3 => ok [fieldNat b 2 1, fieldNat m 1 1] (.ebia d a (bits b 0 2) (bit m 0) imm)
  | 4 => ok [b.toNat, m.toNat, fieldNat imm 4 12] (.eact d a (bits imm 0 4))
  | 5 => ok [m.toNat, imm.toNat] (.emul d a b)
  | 6 => ok [m.toNat, imm.toNat] (.eadd d a b)
  | 7 => ok [m.toNat, imm.toNat] (.emax d a b)
  | 8 => ok [b.toNat, fieldNat imm 5 11] (.ecvt d a m (bit imm 4) (bits imm 0 4))
  | 9 => ok [d.toNat, fieldNat b 2 1, fieldNat m 1 1, fieldNat imm 4 12] (.est a (bits b 0 2) (bit m 0) (bits imm 0 4))
  | 10 => ok [d.toNat, fieldNat b 2 1, m.toNat, fieldNat imm 4 12] (.etrn a (bits b 0 2) (bits imm 0 4))
  | 11 => ok [d.toNat, a.toNat, b.toNat, m.toNat, imm.toNat] .enop
  | 31 => ok [d.toNat, a.toNat, b.toNat, m.toNat, imm.toNat] .eend
  | _ => none

/-! ## Encoding -/

def srcBits : Src → BitVec 5
  | .reg n => BitVec.ofNat 5 n.val
  | .lit _ => 31
def srcLit : Src → List Word
  | .reg _ => []
  | .lit w => [w]
def dstBits : Dst → BitVec 5
  | .reg n => BitVec.ofNat 5 n.val
  | .discard => 31
def regBits (n : Fin 31) : BitVec 5 := BitVec.ofNat 5 n.val
def pairBits (p : Pair) : BitVec 5 := BitVec.ofNat 5 (2 * p.val)
def groupBits (p : Group) : BitVec 5 := BitVec.ofNat 5 (4 * p.val)
def condBits : Cond → BitVec 3
  | .eq => 0 | .ne => 1 | .lt => 2 | .le => 3 | .ltn => 4 | .len => 5
def scopeBits : Scope → BitVec 3
  | .gang => 0 | .block => 1 | .cohort => 2 | .die => 3 | .pkg => 4 | .span => 5 | .sys => 6
def fenceOrderBits : FenceOrder → BitVec 2
  | .acq => 1 | .rel => 2 | .ar => 3
def phaseBits : Phase → BitVec 2
  | .near => 1 | .far => 2 | .both => 3
def brqBits : BrqMode → BitVec 2
  | .any => 0 | .all => 1 | .none => 2
def drainBits : DrainScope → BitVec 3
  | .cohort => 2 | .pkg => 4 | .span => 5
def inviScopeBits : InviScope → BitVec 2
  | .slice => 0 | .core => 1 | .die => 2 | .pkg => 3
def inviSectionBits : InviSection → BitVec 2
  | .scal => 1 | .lane => 2 | .both => 3
/-- Space code, a field and the literal of a sync-word address. -/
def syncAddrBits : SyncAddr → BitVec 3 × BitVec 5 × List Word
  | .gen p => (0, pairBits p, []) | .loc a => (1, srcBits a, srcLit a) | .pol p => (2, pairBits p, [])
def memBaseBits : MemBase → BitVec 3 × BitVec 5 × List Word
  | .gen p => (0, pairBits p, []) | .loc a => (1, srcBits a, srcLit a) | .pol p => (2, pairBits p, [])
  | .con a => (4, srcBits a, srcLit a)
def pairOrLitBits : PairOrLit → BitVec 5 × List Word
  | .pair p => (pairBits p, []) | .lit w => (31, [w])
def targetBits : Target → BitVec 2 × BitVec 5 × List Word
  | .grid => (0, 0, []) | .block b => (1, srcBits b, srcLit b) | .cohort b => (2, srcBits b, srcLit b) | .span => (3, 0, [])

/-- Words of a scalar instruction: fields, then the literal. -/
def encS (op : BitVec 6) (d a b : BitVec 5) (g : Guard) (fn : BitVec 7) (lit : List Word) : List Word :=
  mkScalar ⟨op, d, a, b, g, fn⟩ :: lit
def encReg (x : AluReg) (fn : BitVec 7) : List Word :=
  encS 1 (dstBits x.d) (srcBits x.a) (srcBits x.b) x.g fn (srcLit x.a ++ srcLit x.b)
def encUn (x : AluUn) (fn : BitVec 7) : List Word := encS 1 (dstBits x.d) (srcBits x.a) 0 x.g fn (srcLit x.a)
def encImm (x : AluImm) (op : BitVec 6) : List Word := encS op (dstBits x.d) (srcBits x.a) 0 x.g x.i (srcLit x.a)
def encQ (x : QBin) (fn : BitVec 7) : List Word :=
  encS 0x12 (x.q.zeroExtend 5) (x.x.zeroExtend 5) (x.y.zeroExtend 5) x.g fn []
/-- A 22-bit jump offset over d, a, b and the function field (R173). -/
def encJump (op : BitVec 6) (g : Guard) (off : BitVec 22) : List Word :=
  encS op (bits off 17 5) (bits off 12 5) (bits off 7 5) g (bits off 0 7) []
def encCopy (x : CopyForm) (fn : BitVec 7) : List Word := encS 0x3C (regBits x.d) (regBits x.a) (groupBits x.b) x.g fn []
def encGath (x : GathForm) (fn : BitVec 7) : List Word := encS 0x3C (pairBits x.d) (pairBits x.a) (groupBits x.b) x.g fn []
def encMxa (x : MxaForm) (fn : BitVec 7) : List Word := encS 0x3C (pairBits x.d) (regBits x.a) (regBits x.b) x.g fn []
def encTarget (g : Guard) (k : Target) (a : Src) (fn : BitVec 7) : List Word :=
  let t := targetBits k
  encS 0x3E (t.1 ++ (0 : BitVec 3)) (srcBits a) t.2.1 g fn (srcLit a ++ t.2.2)
def encCtx (x : CtxForm) (fn : BitVec 7) : List Word := encS 0x3E (regBits x.i) (pairBits x.a) (srcBits x.b) x.g fn (srcLit x.b)

/-- The words of a scalar instruction; none for a row that is not one. -/
def encodeScalar : Instr → Option (List Word)
  | .add x => some (encReg x 0)
  | .sub x => some (encReg x 1)
  | .mul x => some (encReg x 2)
  | .mulh x => some (encReg x 3)
  | .mulhn x => some (encReg x 4)
  | .and x => some (encReg x 8)
  | .or x => some (encReg x 9)
  | .xor x => some (encReg x 10)
  | .andn x => some (encReg x 11)
  | .shl x => some (encReg x 16)
  | .shr x => some (encReg x 17)
  | .sra x => some (encReg x 18)
  | .min x => some (encReg x 24)
  | .max x => some (encReg x 25)
  | .minn x => some (encReg x 26)
  | .maxn x => some (encReg x 27)
  | .clz x => some (encUn x 0x20)
  | .popc x => some (encUn x 0x21)
  | .mov x => some (encUn x 0x28)
  | .addImm x => some (encImm x 2)
  | .subImm x => some (encImm x 3)
  | .mulImm x => some (encImm x 4)
  | .andImm x => some (encImm x 5)
  | .orImm x => some (encImm x 6)
  | .xorImm x => some (encImm x 7)
  | .shlImm x => some (encImm x 8)
  | .shrImm x => some (encImm x 9)
  | .sraImm x => some (encImm x 10)
  | .minImm x => some (encImm x 11)
  | .maxImm x => some (encImm x 12)
  | .minnImm x => some (encImm x 13)
  | .maxnImm x => some (encImm x 14)
  | .cmpReg g q a b c => some (encS 0x10 (q.zeroExtend 5) (srcBits a) (srcBits b) g ((condBits c).zeroExtend 7) (srcLit a ++ srcLit b))
  | .cmpImm g q a c i => some (encS 0x11 (q.zeroExtend 5) (srcBits a) ((condBits c).zeroExtend 5) g i (srcLit a))
  | .qand x => some (encQ x 0)
  | .qor x => some (encQ x 1)
  | .qxor x => some (encQ x 2)
  | .qnot g q x => some (encS 0x12 (q.zeroExtend 5) (x.zeroExtend 5) 0 g 3 [])
  | .sel g d a b q => some (encS 0x13 (dstBits d) (srcBits a) (srcBits b) g (q.zeroExtend 7) (srcLit a ++ srcLit b))
  | .liImm g d i => some (encS 0x14 (dstBits d) 0 0 g i [])
  | .liLiteral g d w => some (encS 0x14 (dstBits d) 31 0 g 0 [w])
  | .lds g d m off => some (encS 0x18 (dstBits d) (memBaseBits m).2.1 ((memBaseBits m).1 ++ (0 : BitVec 2)) g off (memBaseBits m).2.2)
  | .sts g d m off => some (encS 0x19 (regBits d) (memBaseBits m).2.1 ((memBaseBits m).1 ++ (0 : BitVec 2)) g off (memBaseBits m).2.2)
  | .ldp g d m off => some (encS 0x1A (pairBits d) (memBaseBits m).2.1 ((memBaseBits m).1 ++ (0 : BitVec 2)) g off (memBaseBits m).2.2)
  | .srd g d r => some (encS 0x1C (dstBits d) 0 0 g (BitVec.ofNat 7 r.val) [])
  | .swr g a r => some (encS 0x1D 0 (srcBits a) 0 g (BitVec.ofNat 7 r.val) (srcLit a))
  | .br g off => some (encJump 0x20 g off)
  | .call g off => some (encJump 0x21 g off)
  | .brq g m q off => some (encS 0x22 (brqBits m ++ q) (bits off 12 5) (bits off 7 5) g (bits off 0 7) [])
  | .ret g a => some (encS 0x23 0 (srcBits a) 0 g 0 (srcLit a))
  | .loop g a n => some (encS 0x24 0 (srcBits a) (bits n 7 5) g (bits n 0 7) (srcLit a))
  | .exit g => some (encS 0x25 0 0 0 g 0 [])
  | .nop g => some (encS 0x26 0 0 0 g 0 [])
  | .regang g m => some (encS 0x27 0 (bits m 3 5) (bits m 0 3 ++ (0 : BitVec 2)) g 0 [])
  | .lrun g a c => some (encS 0x28 (bits c 7 5) (srcBits a) 0 g (bits c 0 7) (srcLit a))
  | .lmaskReg g a => some (encS 0x29 0 (srcBits a) 0 g 0 (srcLit a))
  | .lmaskImm g m => some (encS 0x29 0 0 0 g ((4 : BitVec 3) ++ m) [])
  | .bar g p c b =>
    match c with
    | some a => some (encS 0x2C (phaseBits p ++ (4 : BitVec 3)) (srcBits a) 0 g (b.zeroExtend 7) (srcLit a))
    | none => some (encS 0x2C (phaseBits p ++ (0 : BitVec 3)) 0 0 g (b.zeroExtend 7) [])
  | .barc g p b => some (encS 0x2D (phaseBits p ++ (0 : BitVec 3)) 0 0 g (b.zeroExtend 7) [])
  | .bars g p b => some (encS 0x2E (phaseBits p ++ (0 : BitVec 3)) 0 0 g (b.zeroExtend 7) [])
  | .arrive g s rel a n =>
    some (encS 0x2F (scopeBits s ++ BitVec.ofBool rel ++ (0 : BitVec 1)) (syncAddrBits a).2.1 (srcBits n) g
      ((syncAddrBits a).1 ++ (0 : BitVec 4)) ((syncAddrBits a).2.2 ++ srcLit n))
  | .wait g s a n =>
    some (encS 0x30 (scopeBits s ++ (0 : BitVec 2)) (syncAddrBits a).2.1 (srcBits n) g
      ((syncAddrBits a).1 ++ (0 : BitVec 4)) ((syncAddrBits a).2.2 ++ srcLit n))
  | .mwait g s a v =>
    some (encS 0x31 (scopeBits s ++ (0 : BitVec 2)) (syncAddrBits a).2.1 (pairOrLitBits v).1 g
      ((syncAddrBits a).1 ++ (0 : BitVec 4)) ((syncAddrBits a).2.2 ++ (pairOrLitBits v).2))
  | .waitc g l s c t =>
    let x : BitVec (4 + 4 + 4 + 3) := l ++ s ++ c ++ (0 : BitVec 3)
    some (encS 0x32 (bits x 10 5) (bits x 5 5) (bits x 0 5) g (t.zeroExtend 7) [])
  | .seal g => some (encS 0x33 0 0 0 g 0 [])
  | .fence g s o => some (encS 0x34 (scopeBits s ++ fenceOrderBits o) 0 0 g 0 [])
  | .fencem g o a => some (encS 0x35 ((0 : BitVec 3) ++ fenceOrderBits o) (srcBits a) 0 g 0 (srcLit a))
  | .drain g s => some (encS 0x36 (drainBits s ++ (0 : BitVec 2)) 0 0 g 0 [])
  | .give g d a b => some (encS 0x37 (regBits d) (srcBits a) (srcBits b) g 0 (srcLit a ++ srcLit b))
  | .take g a => some (encS 0x38 0 (srcBits a) 0 g 0 (srcLit a))
  | .detach g a => some (encS 0x39 0 (srcBits a) 0 g 0 (srcLit a))
  | .qend g => some (encS 0x3A 0 0 0 g 0 [])
  | .yield g => some (encS 0x3B 0 0 0 g 0 [])
  | .copy x => some (encCopy x 0)
  | .copyr x => some (encCopy x 1)
  | .gath x => some (encGath x 2)
  | .scad x => some (encGath x 3)
  | .pftL2 g a b => some (encS 0x3C 0 (pairBits a) (regBits b) g 4 [])
  | .pftPromote g a => some (encS 0x3C 1 (pairBits a) 0 g 4 [])
  | .pftDemote g a => some (encS 0x3C 2 (pairBits a) 0 g 4 [])
  | .mxa x => some (encMxa x 8)
  | .mxaSolo x => some (encMxa x 9)
  | .mxz g d => some (encS 0x3C (regBits d) 0 0 g 0x0A [])
  | .mxld g d a => some (encS 0x3C (regBits d) (regBits a) 0 g 0x0B [])
  | .mxst g d a b => some (encS 0x3C (pairBits d) (pairBits a) (groupBits b) g 0x0C [])
  | .epld g a => some (encS 0x3C 0 (pairBits a) 0 g 0x0D [])
  | .trap g c => some (encS 0x3D 0 (bits c 5 5) (bits c 0 5) g 0 [])
  | .bkpt g => some (encS 0x3D 0 0 0 g 1 [])
  | .invi g s t => some (encS 0x3D (inviScopeBits s ++ inviSectionBits t ++ (0 : BitVec 1)) 0 0 g 2 [])
  | .launch g d a => some (encS 0x3E (dstBits d) (pairBits a) 0 g 0 [])
  | .preempt g k a => some (encTarget g k a 1)
  | .resume g k a => some (encTarget g k a 2)
  | .kill g k a => some (encTarget g k a 3)
  | .ctxsv x => some (encCtx x 4)
  | .ctxld x => some (encCtx x 5)
  | .quota g a b => some (encS 0x3E 0 (srcBits a) (srcBits b) g 6 (srcLit a ++ srcLit b))
  | _ => none

/-- The 96 bits of a lane instruction. -/
def encodeLane (i : Instr) : Option LaneBits := i.lane?.map fun p => mkLane (BitVec.ofNat 8 p.1) p.2

/-- An epilogue word from its fields (R191). -/
def mkEpi (op : BitVec 5) (d a b : BitVec 3) (m : BitVec 2) (imm : BitVec 16) : Word :=
  (op ++ d ++ a ++ b ++ m ++ imm : BitVec (5 + 3 + 3 + 3 + 2 + 16))

/-- The word of an epilogue instruction; none for a row that is not one. -/
def encodeEpi : Instr → Option Word
  | .eldv d n k off => some (mkEpi 1 d (n.zeroExtend 3) 0 k off)
  | .escl d a => some (mkEpi 2 d a 0 0 0)
  | .ebia d a n bf off => some (mkEpi 3 d a (n.zeroExtend 3) ((BitVec.ofBool bf).zeroExtend 2) off)
  | .eact d a f => some (mkEpi 4 d a 0 0 (f.zeroExtend 16))
  | .emul d a b => some (mkEpi 5 d a b 0 0)
  | .eadd d a b => some (mkEpi 6 d a b 0 0)
  | .emax d a b => some (mkEpi 7 d a b 0 0)
  | .ecvt d a m s f => some (mkEpi 8 d a 0 m ((BitVec.ofBool s ++ f).zeroExtend 16))
  | .est a n st f => some (mkEpi 9 0 a (n.zeroExtend 3) ((BitVec.ofBool st).zeroExtend 2) (f.zeroExtend 16))
  | .etrn a n f => some (mkEpi 10 0 a (n.zeroExtend 3) 0 (f.zeroExtend 16))
  | .enop => some (mkEpi 11 0 0 0 0 0)
  | .eend => some (mkEpi 31 0 0 0 0 0)
  | _ => none

/-- Every word of an instruction, in memory order; empty for a row that is not an instruction word. -/
def encode (i : Instr) : List Word :=
  match encodeScalar i, encodeLane i, encodeEpi i with
  | some ws, _, _ => ws
  | none, some x, _ => [bits x 0 32, bits x 32 32, bits x 64 32]
  | none, none, some w => [w]
  | none, none, none => []

/-- What an instruction whose first `nbits` bits are `w`, zero above them, decodes to. A 32-bit word is read as a scalar
word first and as an epilogue word where it is no scalar instruction: the two kinds share the number space (log 17). -/
def decodeTableWord (nbits w : Nat) : Option Instr :=
  if nbits ≤ 32 then
    match decodeScalar (BitVec.ofNat 32 w) 0 with
    | .ok i => some i
    | .error _ => decodeEpi (BitVec.ofNat 32 w)
  else
    match decodeLane (BitVec.ofNat 96 w) with
    | .ok i => some i
    | .error _ => none

end Sys2Proof
end

