-- ==== Sys2Proof/Machine/Number.lean ====
section
/-! DEFINITION. Number formats and the order of arithmetic (R114 to R144): exact values, one rounding, draws, scales, tile sums
and gauge levels. -/
namespace Sys2Proof.Machine

/-! ## Packed elements (R114) -/

/-- Element `e` of width `w` of a register. -/
def elem (w : Nat) (x : Word) (e : Nat) : Nat := fieldNat x (w * e) w
/-- The elements of a register, lowest first. -/
def elems (w : Nat) (x : Word) : List Nat := (List.range (32 / w)).map (elem w x)
/-- A register from its elements, lowest first. -/
def packElems (w : Nat) (l : List Nat) : Word :=
  BitVec.ofNat 32 (l.foldr (fun v acc => v % 2 ^ w + 2 ^ w * acc) 0)
/-- A register with one element replaced. -/
def setElem (w : Nat) (x : Word) (e v : Nat) : Word := packElems w ((elems w x).set e v)
/-- The value of a w-bit integer element by its signedness. -/
def intOf (w : Nat) (sg : Bool) (v : Nat) : Int := if sg then signedOf w v else ((v % 2 ^ w : Nat) : Int)
/-- R115: the low w bits of an exact result, or the clamped value where it saturates. -/
def narrow (w : Nat) (sg sat : Bool) (i : Int) : Nat :=
  let lo : Int := if sg then -(2 ^ (w - 1) : Nat) else 0
  let hi : Int := if sg then (2 ^ (w - 1) : Nat) - 1 else (2 ^ w : Nat) - 1
  (wrapInt w (if sat then max lo (min hi i) else i)).toNat

/-! ## Floating values (R116 to R118) -/

/-- A floating format: exponent and mantissa widths, bias, largest finite code, the canonical NaN code where it has one, and
whether it has infinities. -/
structure FloatFmt where
  ew : Nat
  mw : Nat
  bias : Nat
  top : Nat
  nan : Option Nat
  hasInf : Bool
  deriving DecidableEq, Repr

/-- The formats of codes 4 to 9 (R116, R184). -/
def floatFmt (code : Nat) : FloatFmt :=
  match code with
  | 5 => ⟨8, 7, 127, 0x7F7F, some 0x7FC0, true⟩
  | 6 => ⟨5, 10, 15, 0x7BFF, some 0x7E00, true⟩
  | 7 => ⟨4, 3, 7, 0x7E, some 0x7F, false⟩
  | 8 => ⟨5, 2, 15, 0x7B, some 0x7E, true⟩
  | 9 => ⟨2, 1, 1, 7, none, false⟩
  | _ => ⟨8, 23, 127, 0x7F7FFFFF, some 0x7FC00000, true⟩

/-- Bits of a format. -/
def FloatFmt.width (f : FloatFmt) : Nat := 1 + f.ew + f.mw
/-- The sign bit as a number. -/
def FloatFmt.signBit (f : FloatFmt) : Nat := 2 ^ (f.ew + f.mw)
/-- What a NaN result is written as: the canonical NaN, or 0 in a format without one (R117, R128). -/
def FloatFmt.nanCode (f : FloatFmt) : Nat := f.nan.getD 0

/-- An exact floating value: `fin neg m e` is ±m × 2^e. -/
inductive FVal where
  | nan
  | inf (neg : Bool)
  | fin (neg : Bool) (m : Nat) (e : Int)
  deriving DecidableEq, Repr

/-- R116: the value of a code. -/
def decodeF (f : FloatFmt) (v : Nat) : FVal :=
  let neg := v.testBit (f.ew + f.mw)
  let mag := v % f.signBit
  let ex := mag / 2 ^ f.mw
  let man := mag % 2 ^ f.mw
  if f.hasInf && ex = 2 ^ f.ew - 1 then (if man = 0 then .inf neg else .nan)
  else if !f.hasInf && f.nan = some mag then .nan
  else if ex = 0 then .fin neg man (1 - (f.bias : Int) - f.mw)
  else .fin neg (2 ^ f.mw + man) ((ex : Int) - f.bias - f.mw)

/-- The class bit of R256 of an element. -/
def classBit (f : FloatFmt) (v : Nat) : Nat :=
  match decodeF f v with
  | .nan => 8
  | .inf neg => if neg then 0 else 7
  | .fin neg m _ =>
    if m = 0 then (if neg then 3 else 4)
    else if m < 2 ^ f.mw then (if neg then 2 else 5)
    else (if neg then 1 else 6)

def FVal.isNan : FVal → Bool
  | .nan => true
  | _ => false
def FVal.isZero : FVal → Bool
  | .fin _ 0 _ => true
  | _ => false
def FVal.sign : FVal → Bool
  | .nan => false
  | .inf n => n
  | .fin n _ _ => n
def FVal.neg : FVal → FVal
  | .nan => .nan
  | .inf n => .inf !n
  | .fin n m e => .fin (!n) m e
def FVal.abs : FVal → FVal
  | .nan => .nan
  | .inf _ => .inf false
  | .fin _ m e => .fin false m e

/-- m1 × 2^e1 as a natural number over 2^(min e1 e2), beside the other. -/
def alignMag (m1 : Nat) (e1 : Int) (m2 : Nat) (e2 : Int) : Nat × Nat × Int :=
  let e := min e1 e2
  (m1 * 2 ^ (e1 - e).toNat, m2 * 2 ^ (e2 - e).toNat, e)

/-- x < y on values that are not NaN; −0 and +0 are equal. -/
def FVal.lt : FVal → FVal → Bool
  | .nan, _ => false
  | _, .nan => false
  | .inf a, .inf b => a && !b
  | .inf a, .fin _ _ _ => a
  | .fin _ _ _, .inf b => !b
  | .fin n1 m1 e1, .fin n2 m2 e2 =>
    let p := alignMag m1 e1 m2 e2
    let a : Int := if n1 then -(p.1 : Int) else p.1
    let b : Int := if n2 then -(p.2.1 : Int) else p.2.1
    a < b
/-- x = y on values that are not NaN. -/
def FVal.eq : FVal → FVal → Bool
  | .nan, _ => false
  | _, .nan => false
  | x, y => !x.lt y && !y.lt x

/-! ## Exact arithmetic -/

/-- x + y exactly; an exact zero of opposite values is −0 under RD and +0 otherwise (R126). -/
def FVal.add (rd : Bool) : FVal → FVal → FVal
  | .nan, _ => .nan
  | _, .nan => .nan
  | .inf a, .inf b => if a = b then .inf a else .nan
  | .inf a, .fin _ _ _ => .inf a
  | .fin _ _ _, .inf b => .inf b
  | .fin n1 m1 e1, .fin n2 m2 e2 =>
    let p := alignMag m1 e1 m2 e2
    if n1 = n2 then .fin n1 (p.1 + p.2.1) p.2.2
    else if p.1 = p.2.1 then .fin rd 0 p.2.2
    else if p.1 > p.2.1 then .fin n1 (p.1 - p.2.1) p.2.2
    else .fin n2 (p.2.1 - p.1) p.2.2

/-- x × y exactly; 0 × ∞ is NaN. -/
def FVal.mul : FVal → FVal → FVal
  | .nan, _ => .nan
  | _, .nan => .nan
  | .inf a, y => if y.isZero then .nan else .inf (a != y.sign)
  | x, .inf b => if x.isZero then .nan else .inf (x.sign != b)
  | .fin n1 m1 e1, .fin n2 m2 e2 => .fin (n1 != n2) (m1 * m2) (e1 + e2)

/-! ## Rounding (R125 to R127, R133) -/

/-- Whether a remainder `rem` of 2^d (and something more when `sticky`) rounds away from zero. `u` is the draw of RS. -/
def roundUp (mode : Nat) (neg odd : Bool) (rem d : Nat) (sticky : Bool) (u : Nat) : Bool :=
  let inexact := rem != 0 || sticky
  match mode with
  | 0 => 2 * rem > 2 ^ d || (2 * rem = 2 ^ d && (sticky || odd))
  | 1 => false
  | 2 => inexact && !neg
  | 3 => inexact && neg
  | _ => u < rem * 2 ^ 24 / 2 ^ d

/-- R127: what an overflowed result becomes. -/
def overflowCode (f : FloatFmt) (mode : Nat) (sat neg : Bool) : Nat :=
  let s := if neg then f.signBit else 0
  if f.hasInf then
    if sat then s + f.top
    else
      let toMax := mode = 1 || (mode = 2 && neg) || (mode = 3 && !neg)
      if toMax then s + f.top else s + (f.top + 1)
  else if f.nan.isNone || sat then s + f.top
  else f.nanCode

/-- Rounds ±(m + [sticky]) × 2^e once to a format: R126's two steps. No result is E2M1's code 1000 (R118). -/
def roundF (f : FloatFmt) (mode : Nat) (sat : Bool) (u : Nat) (neg : Bool) (m : Nat) (e : Int) (sticky : Bool) : Nat :=
  let s := if neg then f.signBit else 0
  let qmin : Int := 1 - (f.bias : Int) - f.mw
  let code :=
    if m = 0 && !sticky then s
    else
      let q : Int := max ((Nat.log2 m : Int) + e - f.mw) qmin
      if q ≤ e then
        let r := m * 2 ^ (e - q).toNat
        let c := (q - qmin).toNat * 2 ^ f.mw + r
        if c > f.top then overflowCode f mode sat neg else s + c
      else
        let d := (q - e).toNat
        let lo := m / 2 ^ d
        let r := if roundUp mode neg (lo % 2 = 1) (m % 2 ^ d) d sticky u then lo + 1 else lo
        let c := (q - qmin).toNat * 2 ^ f.mw + r
        if c > f.top then overflowCode f mode sat neg else s + c
  if f.nan.isNone && code = f.signBit then 0 else code

/-- Rounds an exact value of an arithmetic operation. `conv` says that it is the operand of a conversion (R127's last column). -/
def encodeF (f : FloatFmt) (mode : Nat) (sat conv : Bool) (u : Nat) : FVal → Nat
  | .nan => f.nanCode
  | .inf neg =>
    let s := if neg then f.signBit else 0
    if f.hasInf then (if conv && sat then s + f.top else s + (f.top + 1))
    else if f.nan.isNone || sat then s + f.top
    else f.nanCode
  | .fin neg m e => roundF f mode sat u neg m e false

/-- R253: the smaller or the larger of two elements, −0 below +0, a single NaN ignored; never rounded. -/
def minMaxF (f : FloatFmt) (isMax : Bool) (x y : Nat) : Nat :=
  let a := decodeF f x
  let b := decodeF f y
  match a.isNan, b.isNan with
  | true, true => f.nanCode
  | true, false => y
  | false, true => x
  | false, false =>
    let aLess := a.lt b || (a.eq b && a.sign && !b.sign)
    if aLess = isMax then y else x

/-! ## DRAW64 (R132) -/

def mix64 (z : DWord) : DWord :=
  let z := (z ^^^ (z >>> 30)) * 0xBF58476D1CE4E5B9#64
  let z := (z ^^^ (z >>> 27)) * 0x94D049BB133111EB#64
  z ^^^ (z >>> 31)
def draw64 (seed key seq : DWord) : DWord :=
  let h := mix64 (seed ^^^ 0x9E3779B97F4A7C15#64)
  let h := mix64 (h ^^^ key)
  mix64 (h + seq * 0x9E3779B97F4A7C15#64)
/-- Bits [63:40]. -/
def drawFraction (seed key seq : DWord) : Nat := fieldNat (draw64 seed key seq) 40 24

/-! ## Floating instructions on one element (R252 to R261) -/

def faddE (f : FloatFmt) (mode : Nat) (sat : Bool) (u x y : Nat) : Nat :=
  encodeF f mode sat false u ((decodeF f x).add (mode = 3) (decodeF f y))
def fsubE (f : FloatFmt) (mode : Nat) (sat : Bool) (u x y : Nat) : Nat :=
  encodeF f mode sat false u ((decodeF f x).add (mode = 3) (decodeF f y).neg)
def fmulE (f : FloatFmt) (mode : Nat) (sat : Bool) (u x y : Nat) : Nat :=
  encodeF f mode sat false u ((decodeF f x).mul (decodeF f y))
def ffmaE (f : FloatFmt) (mode : Nat) (sat : Bool) (u x y z : Nat) : Nat :=
  encodeF f mode sat false u (((decodeF f x).mul (decodeF f y)).add (mode = 3) (decodeF f z))

/-- FP32 RNE sums and products of the engines (R328). -/
def fadd32 (x y : Word) : Word := BitVec.ofNat 32 (faddE (floatFmt 4) 0 false 0 x.toNat y.toNat)
def fmul32 (x y : Word) : Word := BitVec.ofNat 32 (fmulE (floatFmt 4) 0 false 0 x.toNat y.toNat)

/-- A conversion of one element between floating formats (R128). -/
def fcvtE (dst src : FloatFmt) (mode : Nat) (sat : Bool) (u x : Nat) : Nat := encodeF dst mode sat true u (decodeF src x)

/-- ±m × 2^e rounded to an integer magnitude by a mode. -/
def roundInt (mode : Nat) (u : Nat) (neg : Bool) (m : Nat) (e : Int) : Nat :=
  if 0 ≤ e then m * 2 ^ e.toNat
  else
    let d := (-e).toNat
    let lo := m / 2 ^ d
    if roundUp mode neg (lo % 2 = 1) (m % 2 ^ d) d false u then lo + 1 else lo

/-- F2I (R129): rounds, then saturates; NaN gives 0. -/
def f2iE (f : FloatFmt) (w : Nat) (sg : Bool) (mode u x : Nat) : Nat :=
  match decodeF f x with
  | .nan => 0
  | .inf neg => narrow w sg true (if neg then -(2 ^ 64 : Nat) else (2 ^ 64 : Nat))
  | .fin neg m e =>
    let r := roundInt mode u neg m e
    narrow w sg true (if neg then -(r : Int) else r)

/-- I2F (R129). -/
def i2fE (f : FloatFmt) (w : Nat) (sg : Bool) (mode : Nat) (sat : Bool) (u x : Nat) : Nat :=
  let i := intOf w sg x
  encodeF f mode sat true u (.fin (i < 0) i.natAbs 0)

/-- FRND (R257): an integral value of the same format; ±0, ±∞ and integral values unchanged, the sign of x kept. -/
def frndE (f : FloatFmt) (mode u x : Nat) : Nat :=
  match decodeF f x with
  | .nan => f.nanCode
  | .inf _ => x
  | .fin neg m e =>
    if 0 ≤ e || m % 2 ^ (-e).toNat = 0 then x
    else roundF f 0 false 0 neg (roundInt mode u neg m e) 0 false

/-- Integer square root by bits, on fuel. -/
def isqrt (n : Nat) : Nat :=
  let k := Nat.log2 n / 2 + 1
  (List.range (k + 1)).foldl (fun r i => let t := r + 2 ^ (k - i); if t * t ≤ n then t else r) 0

/-! ## FP32 codes -/

/-- The canonical NaN, an infinity and a zero of FP32 (R116, R117). -/
def f32Nan : Word := 0x7FC00000
def f32Inf (neg : Bool) : Word := if neg then 0xFF800000 else 0x7F800000
def f32Zero (neg : Bool) : Word := if neg then 0x80000000 else 0

/-! ## Scales and tile sums (R119 to R124, R131, R135 to R138) -/

/-- An E3M5 scale (R119). -/
def e3m5 (v : Nat) : FVal :=
  let v := v % 256
  if v = 0xFF then .nan
  else if v / 32 = 0 then .fin false (v % 32) (-8)
  else .fin false (32 + v % 32) ((v / 32 : Nat) - 4 - 5)
/-- An E8M0 scale (R120). -/
def e8m0 (v : Nat) : FVal := if v % 256 = 255 then .nan else .fin false 1 ((v % 256 : Nat) - 127)
/-- A block scale of kind 1 or 2 (R315); kind 0 is 1. -/
def scaleVal (kind v : Nat) : FVal :=
  match kind with
  | 0 => .fin false 1 0
  | 1 => e3m5 v
  | _ => e8m0 v

/-- R135 and R136: the FP32 value of one K-group of exact products. -/
def groupSum (ps : List FVal) : Word :=
  if ps.any FVal.isNan then f32Nan
  else
    let pos := ps.any fun p => p = .inf false
    let neg := ps.any fun p => p = .inf true
    if pos && neg then f32Nan
    else if pos then f32Inf false
    else if neg then f32Inf true
    else
      let tops := ps.filterMap fun p => match p with
        | .fin _ m e => if m = 0 then none else some ((Nat.log2 m : Int) + e)
        | _ => none
      match tops with
      | [] => 0
      | t :: ts =>
        let emax := ts.foldl max t
        let q := emax - 47
        let sum : Int := ps.foldl (fun acc p => match p with
          | .fin n m e =>
            let k := if q ≤ e then m * 2 ^ (e - q).toNat else m / 2 ^ (q - e).toNat
            if n then acc - k else acc + k
          | _ => acc) 0
        BitVec.ofNat 32 (roundF (floatFmt 4) 0 false 0 (sum < 0) sum.natAbs q false)

/-- R131: the scale code of a block whose largest |x| is `m`, before division by the band scale, by format 1 E3M5 or 2 E8M0: the
least code s with 6 s |β| ≥ m. -/
def blockScale (kind : Nat) (band m : FVal) : Nat :=
  let ok (c : Nat) : Bool := !(((scaleVal kind c).mul (.fin false 6 0)).mul band.abs).lt m
  ((List.range 255).find? ok).getD 254

/-- x / s to E2M1, RNE, one rounding of the exact quotient of finite values (R131). -/
def quotE2m1 (x s : FVal) : Nat :=
  match x, s with
  | .fin n m e, .fin sn sm se =>
    if m = 0 || sm = 0 then 0
    else
      let q := m * 2 ^ 320 / sm
      roundF (floatFmt 9) 0 true 0 (n != sn) q (e - se - 320) (m * 2 ^ 320 % sm != 0)
  | _, _ => 0

/-- x / β where it is special: none for a finite quotient. -/
def quotSpecial : FVal → FVal → Option FVal
  | .nan, _ => some .nan
  | _, .nan => some .nan
  | .inf _, .inf _ => some .nan
  | .inf n, y => some (.inf (n != y.sign))
  | .fin n _ _, .inf b => some (.fin (n != b) 0 0)
  | .fin n m _, .fin b k _ => if k ≠ 0 then none else if m = 0 then some .nan else some (.inf (n != b))

/-- R131: the values that the down-converter's E2M1 codes of one block stand for. -/
def downBlock (kind : Nat) (band : FVal) (xs : List FVal) : List FVal :=
  let sp := xs.map fun x => quotSpecial x band
  if sp.any fun y => match y with | some .nan => true | _ => false then xs.map fun _ => .nan
  else
    let big := sp.any fun y => match y with | some (.inf _) => true | _ => false
    let m := (xs.zip sp).foldl (fun (m : FVal) p => if p.2.isNone && m.lt p.1.abs then p.1.abs else m) (.fin false 0 0)
    let s := scaleVal kind (if big then 254 else blockScale kind band m)
    (xs.zip sp).map fun p =>
      let code := match p.2 with
        | some (.inf n) => if n then 15 else 7
        | some _ => 0
        | none => quotE2m1 p.1 (s.mul band)
      s.mul (decodeF (floatFmt 9) code)

/-! ## Gauge levels (R140 to R144) -/

/-- 2^(f / 2^s) × 2^23 to nearest: T(s, f) × 2^23 (R140), by the integer root of 2^(f + 23·2^s). -/
def gaugeT (s f : Nat) : Nat :=
  -- 2 x is the floor of 2^(f/2^s + 24); rounding to nearest adds the bit below
  let r := (List.range s).foldl (fun n _ => isqrt n) (2 ^ ((f + 24 * 2 ^ s)))
  (r + 1) / 2
/-- pow_b(L) × 2^23. -/
def gaugePow (s l : Nat) : Nat := 2 ^ (l / 2 ^ s) * gaugeT s (l % 2 ^ s)
/-- E(L) × 2^23. -/
def gaugeE (s l : Nat) : Nat := (List.range l).foldl (fun a j => a + gaugePow s j) 0
/-- GRD: E(L) rounded once to FP32 (R141). -/
def gaugeRead (s l : Nat) : Word := BitVec.ofNat 32 (roundF (floatFmt 4) 0 false 0 false (gaugeE s l) (-23) false)
/-- GINC (R142): the new level and whether it saturated. `n` is scaled by 2^23 in the loop; `u` is the draw. -/
def gaugeAdd (s lmax l n u : Nat) : Nat × Bool :=
  let step := fun (st : Nat × Nat) (_ : Nat) =>
    if st.1 ≥ gaugePow s st.2 && st.2 < lmax then (st.1 - gaugePow s st.2, st.2 + 1) else st
  let r := (List.range 256).foldl step (n * 2 ^ 23, l)
  if r.1 > 0 && r.2 = lmax then (r.2, true)
  else if r.1 > 0 && u < r.1 * 2 ^ 24 / gaugePow s r.2 then (r.2 + 1, false)
  else (r.2, false)
/-- GMRG (R143): `us j` is the draw of step j. -/
def gaugeMerge (s lmax src dst : Nat) (us : Nat → Nat) : Nat × Bool :=
  (List.range (Nat.min src dst)).foldl (fun st j =>
    if us j < gaugePow s j * 2 ^ 24 / gaugePow s st.1 then
      (if st.1 = lmax then (st.1, true) else (st.1 + 1, st.2))
    else st) (Nat.max src dst, false)

end Sys2Proof.Machine
end

