-- ==== Sys2Proof/Config.lean ====
section
/-! DEFINITION. What the manual leaves open: free values (constants without a body) and the fixed numbers of one module.
Nothing can evaluate a free value, so a theorem about it holds for every value. -/
namespace Sys2Proof.Config

/-! ## Free values (log 2, 3, 5, 6, 7, 8) -/

/-- Which of several ready agents moves next, at step `clock` (log 3). DESIGN CHOICE: the manual leaves the interleaving open. -/
opaque pick : Nat → Nat
/-- The ticks of the package timebase that pass in step `clock`, and how die `die`'s copy then stands to die 12's (R378; log 2). -/
opaque ticks : Nat → Nat
opaque skew : Nat → Nat → Nat
/-- The core-clock cycles of die `die` since its reset at step `clock` (R193; log 2). -/
opaque cycles : Nat → Nat → BitVec 64
/-- What an unpredictable register of a newly started gang holds (R23; log 5): seed, then register key. -/
opaque startWord : Nat → Nat → Word
/-- The q and k predicates of a slice of a newly started gang (R23; log 5). -/
opaque startPreds : Nat → Nat → BitVec 40
/-- What an element of a newly claimed accumulator slot holds (R322; log 6): seed, then element number. -/
opaque slotWord : Nat → Nat → Word
/-- What FRCP, FRSQ, FEX2, FLG2, FSIN and FCOS return among the values that the manual's accuracy allows (R254; log 7). -/
opaque frcp : Word → Word
opaque frsq : Word → Word
opaque fex2 : Word → Word
opaque flg2 : Word → Word
opaque fsin : Word → Word
opaque fcos : Word → Word
/-- The same for EACT on finite operands: .SIGM, .SILU, .TANH, .GELU (R332; log 8). -/
opaque sigm : Word → Word
opaque silu : Word → Word
opaque tanh : Word → Word
opaque gelu : Word → Word
/-- Whether a `.INV` load is served by the read-only cache when the line is held there (R274; log 19). -/
opaque invHit : Nat → Bool
/-- Whether a fetch is served by a word of code that the core holds (R222: how long one is held is not given; log 28): step, address. -/
opaque codeHit : Nat → Nat → Bool
/-- Whether a TLB entry filled earlier is still held (R86: how long an entry stays is not given; log 14): step, page base. -/
opaque tlbHit : Nat → Nat → Bool
/-- Which entry a full TLB gives up (R86; log 14). -/
opaque tlbVictim : Nat → Nat
/-- Whether a GEN load hits its home L2 (R476's sources 2 and 3; log 2). -/
opaque l2Hit : Nat → Bool
/-- A residue failure found at step `clock` (R464): member, K-group, row, column; none while the engines are sound (log 23). -/
opaque upset : Nat → Option (Nat × Nat × Nat × Nat)
/-- A signature by the device identity key over the report bytes (R386): the private key never leaves the part. -/
opaque identitySign : List Byte → List Byte
/-- The fused key hashes that are not revoked (R382), and the fused minimum SVN per KIND. -/
opaque keyHashes : List (List Byte)
opaque minSvn : Nat → Nat
/-- A readout of the power and temperature sensors: 0x30 bytes of MGMT (R388), at a refresh. -/
opaque sensors : Nat → List Byte
/-- A Grender flit that fails at step `clock` (R452; log 20): whether it is the flit that failed before, and whether the far end received it. -/
opaque sameFlit : Nat → Bool
opaque farEnd : Nat → Bool
/-- Whether flits of the previous key generation of a port are unacknowledged at step `clock` (R100, R454; log 20). -/
opaque prevLive : Nat → Nat → Bool
/-- Which line a full read-only cache gives up (R72; log 19). -/
opaque roVictim : Nat → Nat
/-- Whether fabric firmware has enumerated a CXL port's expander by the step after `clock`, and whether CXL.io reports a retraining of its link
in that step (R113, R460; log 20): step, far die × 4 + port. -/
opaque enumerated : Nat → Nat → Bool
opaque cxlRetrain : Nat → Nat → Bool
/-- Whether the accesses of the step after `clock` to their own die are held in flight (R336 to R339; log 66). -/
opaque flight : Nat → Bool
/-- Whether an access meets a granule that is corrected (R475; log 23): step, address. -/
opaque corrected : Nat → Nat → Bool
/-- The latency or wait that a monitor samples (R476), which is time (log 2). -/
opaque latency : Nat → Nat

/-! ## Fixed numbers -/

/-- Near dies 0 to 7 (R8). -/
def nearDies : Nat := 8
/-- Local store bytes per core (R12). -/
def lsBytes : Nat := 0x800000
/-- Weight store bytes per near die (R14). -/
def wgtBytes : Nat := 0x20000000
/-- HBM bytes per near die (R14): 96 GiB. -/
def hbmBytes : Nat := 96 * 2 ^ 30
/-- Far-tier bytes of a far die. DESIGN CHOICE (log 60): the capacity installed, which R14 and R70 leave open up to 2 TiB, is the whole
2 TiB. -/
def farBytes : Nat := 2 ^ 41

end Sys2Proof.Config
end

