-- ==== Sys2Proof/Machine/State.lean ====
section
/-! DEFINITION. The state of one Kilmar G9 package, as plain data. Other packages, the host and the switches act only through
`inputs` and see only `outputs` (log 9). -/
namespace Sys2Proof.Machine

/-! ## Storage -/

/-- Memory as (address, byte) pairs in canonical form: addresses strictly rising, no byte equal to what an unlisted one reads. -/
abbrev Memory := List Host.Cell

/-- What an unwritten entry of a word map holds: zero, or the free value of seed `seed` (log 5, 6). -/
inductive WordInit where
  | zero
  | start (seed : Nat)
  | slot (seed : Nat)
  deriving DecidableEq, Repr

/-- Words by number: a scalar register file, a lane register file, an accumulator slot. -/
structure WordMap where
  init : WordInit
  cells : List (Nat × Word)
  deriving DecidableEq, Repr

/-! ## Slices and gangs -/

/-- One level of the loop stack (R212); the list in a slice is innermost first. -/
structure LoopLevel where
  start : Word
  stop : Word
  count : Word
  deriving DecidableEq, Repr

/-- A run in a lane queue (R29, R30): first lane index, count, the captured s0 to s30 and DMASK, and the mask of an LMASK
that takes effect when it starts (log 13). -/
structure Run where
  index : Nat
  count : Nat
  regs : WordMap
  dmask : Word
  mask : Option (BitVec 4)
  deriving DecidableEq, Repr

/-- The run in progress: the run and the lane index of its next instruction. -/
structure CurRun where
  run : Run
  next : Nat
  deriving DecidableEq, Repr

/-- Why a part is not in the ready set (R48). A part that wakes re-executes its instruction unless the constructor says that
the wake completes it. -/
inductive Wait where
  /-- an empty lane queue (R214, R222, R285, R292, R295) -/
  | laneQueue
  /-- room in the lane queue (R29) -/
  | queueSpace
  /-- the other slices of a REGANG mask (R33) -/
  | regang
  /-- the end of barrier `b`'s phase, in an instruction of `size` bytes (R285) -/
  | barrier (b size : Nat)
  /-- barrier `b`'s phase has ended: the wake completes the instruction (R286) -/
  | barrierDone (b size : Nat)
  /-- WAIT on a sync word (R289) -/
  | sync (space : Nat) (addr : Nat) (gen : Word)
  /-- MWAIT on a stamp (R289) -/
  | stamp (space : Nat) (addr : Nat) (v : DWord)
  /-- TAKE (R296) -/
  | take (h : Nat)
  /-- WAITC (R290) -/
  | counters (l s c t : Nat)
  /-- fewer than 15 incomplete sealed batches (R81, R291) -/
  | batches
  /-- own requests and flushed entries performed (R279, R285, R292) -/
  | outstanding
  /-- DRAIN sweeps: the counts of the sweep before (R294) -/
  | drain (scope : DrainScope) (prev : Option (Nat × Nat))
  /-- DRAIN has completed: the wake completes it -/
  | drainDone
  /-- the rendezvous latch (R323) -/
  | latch
  /-- a free latch entry (R323) -/
  | latchEntry
  /-- YIELD: the gangs that must issue once (R298); the wake completes it -/
  | yield (others : List GangId)
  /-- LAUNCH: a free grid entry on each die (R225) -/
  | gridEntry (dies : List Nat)
  /-- CTXSV or RESUME on a halting block (R227) -/
  | halting (blocks : List BlockId)
  /-- CTXLD before its block is placed (R227) -/
  | placed (b : BlockId)
  /-- KILL: its blocks killed and freed; the wake completes it (R228) -/
  | killed (handle : Word) (blocks : List Nat) (size : Nat)
  /-- a supervisor COPY to WGT (R309) -/
  | weightStore (die : Nat)
  /-- DETACH: the gang's accesses to the member (R66) -/
  | member (m : Nat)
  /-- an l, s or t counter at 63 (R190), or a requester with no room for its requests (R98) -/
  | counterSpace
  /-- the page whose entry lies at a physical address finishes its migration (R73) -/
  | migration (pte : Nat)
  /-- that migration was abandoned: the instruction is ready, and its access is performed at the old location (R427) -/
  | inPlace (pte : Nat)
  /-- a watched word is to be read again: the instruction is ready, and re-executes (R48) -/
  | rewatch
  /-- the condition of a wait of R357 held as the round started: the instruction is ready, and completes (R362) -/
  | held
  /-- the refresh window of a weight-store bank ends (R68) -/
  | refresh (die bank : Nat)
  /-- a unit takes no other work during a forced pass (R469) -/
  | unit (die u : Nat)
  /-- a read made at issue that waits for another package or a migrating page -/
  | fetch
  /-- registers whose writes are pending: the instruction is held by the scoreboard (R47, R190) -/
  | operands (regs : List Nat)
  deriving DecidableEq, Repr

/-- One slice (R2, R232). `k` holds kj of lane i in bit 4j + i; k7 always reads 1. -/
structure Slice where
  pc : VAddr
  regs : WordMap
  q : BitVec 8
  active : BitVec 4
  k : BitVec 32
  loops : List LoopLevel
  exited : Bool
  queue : List Run
  cur : Option CurRun
  nextMask : Option (BitVec 4)
  pending : BitVec 8
  pendingPc : VAddr
  wait : Option Wait
  /-- the lane stream waits: for a migration, a refresh window, a flush or room for requests -/
  lwait : Option Wait
  deriving DecidableEq, Repr

/-- A quantum-buffer entry (R231, R358): `kind` 1 store, 2 reduction, 3 atomic, 4 gauge, 5 sync-word arrival, 9 barrier arrival. -/
structure QEntry where
  kind : Nat
  space : Nat
  addr : Nat
  mask : BitVec 16
  op : Nat
  fmt : Nat
  width : Nat
  order : Nat
  scope : Nat
  lane : Nat
  signed : Bool
  bytes : List Byte
  deriving DecidableEq, Repr

/-- An atomic-buffer entry (R278). -/
structure AEntry where
  space : Nat
  addr : Nat
  op : Nat
  fmt : Nat
  width : Nat
  signed : Bool
  value : Nat
  deriving DecidableEq, Repr

/-- A sealed batch: its number and the engine operations still incomplete or faulted (R81, R82). -/
structure Batch where
  number : Word
  ops : List Nat
  deriving DecidableEq, Repr

/-- What a trap record holds beside the gang's state (R393). -/
structure TrapInfo where
  cause : Nat
  src : Nat
  slice : Nat
  info : Nat
  lanes : BitVec 32
  addr : Option (Nat × Nat)   -- space code (7 physical) and address
  laneIdx : Nat
  words : List Word
  deriving DecidableEq, Repr

/-- A fault of one access: cause, INFO, space and address (R422). -/
structure AccFault where
  cause : Nat
  info : Nat
  space : Nat
  addr : Nat
  deriving DecidableEq, Repr

/-- How a quantum ended (R357), with what its commit slot performs last (R361). -/
inductive QuantumEnd where
  | plain
  /-- VATM with a result: the lane word, the slices, its lane index and its words -/
  | atomic (w : LaneWord) (mask : BitVec 8) (idx : Nat) (words : List Word)
  /-- an engine instruction: its words and the part -/
  | engine (words : List Word) (mask : BitVec 8)
  /-- GIVE or DETACH: its words and the part -/
  | handle (words : List Word) (mask : BitVec 8)
  | exit
  deriving DecidableEq, Repr

/-- Operations of one counter class that it still counts, oldest first, and whether each is complete (R190): the counter falls when
the oldest completes. An operation goes by a number. -/
abbrev Counter := List (Nat × Bool)

/-- One gang (R2, R231): counts and sequence numbers are named as there; `lq`, `sq` and `tq` hold what the counters l, s and t
count. -/
structure Gang where
  id : GangId
  parts : List (BitVec 8)
  slices : List Slice
  v : WordMap
  /-- lane registers that hold an uncorrectable error, by 32 × register + lane (R440) -/
  bad : List Nat
  lq : Counter
  sq : Counter
  tq : Counter
  c : Nat
  batch : Word
  openOps : List Nat
  sealed : List Batch
  rsSeq : Nat
  gaugeSeq : Nat
  dmask : Word
  crew : Word
  moncfg : Word
  quant : Nat
  qcount : Nat
  replay : BitVec 32
  /-- the slices whose lane instruction has been issued and is to be performed again or completed, with gauge_seq at its first issue (R144,
R424) -/
  replaySeq : List (Nat × Nat)
  arrived : BitVec 16
  arrPhase : BitVec 16
  qbuf : List QEntry
  abuf : List AEntry
  acq : Nat
  halted : Bool
  /-- a trap taken, whose record waits for the instructions already issued (R391) -/
  trapping : Option TrapInfo
  exited : Bool
  turn : Option (BitVec 8)
  ended : Option QuantumEnd
  /-- stop-issue has reached the gang (R431) -/
  stopped : Bool
  /-- the column group on which it lies (R24, R25) -/
  group : Nat
  deriving DecidableEq, Repr

/-! ## Blocks, cohorts, grids -/

/-- Block states of R227; an undispatched block is queued or held by its grid's record. -/
inductive BlockState where
  | running | halting | halted | saved | pending | placed | loaded | exited | killed
  deriving DecidableEq, Repr

/-- One of the 16 barriers of a block slot (R285): `fixed` 0 stands for ALL, scope 7 for none. -/
structure Barrier where
  phase : Bool
  arrivals : Nat
  fixed : Nat
  scope : Nat
  deriving DecidableEq, Repr

/-- A member recorded in a rendezvous latch entry (R323). -/
structure LatchMember where
  gang : Nat
  d0 : Word
  d1 : Word
  a : Word
  b : Word
  pc : VAddr
  fmtBlock : List Byte
  words : List Word
  slotA : List Word
  deriving DecidableEq, Repr

structure LatchEntry where
  key : Word
  members : List LatchMember
  deriving DecidableEq, Repr

/-- A race-detector shadow entry (R436). -/
structure RaceEntry where
  scope : Nat
  rank : Nat
  gang : Nat
  interval : Nat
  deriving DecidableEq, Repr

/-- A dispatched block (R24, R227). -/
structure Block where
  id : BlockId
  state : BlockState
  integrity : Bool
  killing : Bool
  die : Nat
  core : Nat
  slot : Nat
  granule : Nat
  barriers : List Barrier
  accs : List (Nat × WordMap)
  latch : List LatchEntry
  race : List (Nat × RaceEntry)
  signalled : Bool
  /-- a gang of the block has issued an instruction (R40) -/
  issued : Bool
  /-- its slot, registers, accumulator slots and partition are free (R35) -/
  freed : Bool
  /-- the supervisor gang whose CTXSV waits for the block's halt (R421) -/
  saver : Option GangId
  /-- the accumulator slots that the block held at CTXSV: its next core must have them free (R58) -/
  want : List Nat
  deriving DecidableEq, Repr

/-- A handle-table entry (R62). -/
structure HandleEntry where
  owner : Nat
  holder : Nat
  off : Nat
  len : Nat
  deriving DecidableEq, Repr

/-- A placed cohort: handle table by handle number, interval counter (R437), sent and performed requests (R294). -/
structure Cohort where
  handle : Word
  index : Nat
  shadow : Bool
  table : List (Nat × HandleEntry)
  interval : Nat
  sent : Nat
  performed : Nat
  deriving DecidableEq, Repr

/-- The fields of a launch record that govern the grid (R36). -/
structure LaunchRec where
  dieMask : Nat
  evStamp : Nat
  expLen : Nat
  expOff : Nat
  csVal : DWord
  csAddr : Nat
  sigWord : Nat
  sliceLen : Nat
  depGen : Word
  depWord : Nat
  pkgList : List Nat
  spanSize : Nat
  spanId : Nat
  gaugeSz : Nat
  lsSz : Nat
  qlog : Nat
  esQuota : Nat
  wload : Bool
  early : Bool
  raceAct : Bool
  race : Bool
  redun : Bool
  determ : Bool
  regs : Nat
  cls : Nat
  cohort : Nat
  slices : Nat
  gangs : Nat
  gridX : Nat
  gridY : Nat
  gridZ : Nat
  laneBase : Nat
  entry : VAddr
  deriving DecidableEq, Repr

/-- Phases of a deterministic grid (R353): before round 0, executing, committing, between rounds, or stopped in a commit phase by a
mismatch of signatures (R371). -/
inductive RoundPhase where
  | notStarted | executing | committing | between | stopped
  deriving DecidableEq, Repr

/-- A grid (R39 to R49, R224). -/
structure Grid where
  handle : Word
  record : LaunchRec
  params : List Byte
  ctxDie : Nat
  ctxCore : Nat
  order : Nat
  next : Nat
  quota : Nat
  producer : Option Word
  held : List Nat
  killedBlocks : List Nat
  depMet : Bool
  depReported : Bool
  timerOn : Bool
  round : Nat
  phase : RoundPhase
  /-- device memory, local and weight stores as they stood at the start of the round (R357, R360), in an execution phase -/
  image : Option (Memory × Memory × Memory)
  /-- gangs whose commit slots of this phase have been performed, by gang_index (R361) -/
  committed : List Nat
  windowOpen : Bool
  spanKilled : Bool
  detached : List (Nat × Nat)
  stopIssued : Bool
  spanPlaced : Bool
  deriving DecidableEq, Repr

/-! ## Engines (11) -/

/-- A copy (R303 to R308): `landed` holds the 16-byte units performed, `piece` the units of a piece not yet counted by an arrival,
`last` the unit performed last, `data` the unit whose source has been read in another package. -/
structure CopyOp where
  reduce : Bool
  bf16 : Bool
  dspace : Nat
  sspace : Nat
  dst : Nat
  src : Nat
  units : Nat
  mark : Nat
  markAddr : Nat
  stamp : DWord
  landed : List Nat
  last : Nat
  piece : Nat
  data : Option (Nat × List Byte)
  stamped : Bool
  deriving DecidableEq, Repr

/-- A pooled partial: its group, the positions that it sums, ascending, and its elements (R109). -/
structure Partial where
  group : Nat
  positions : List Nat
  vals : List Word
  deriving DecidableEq, Repr

/-- A gather or scatter-add at the issuing package (R108 to R111): the home packages whose sub-request is still to be sent (none
before the fold), and the positions not yet answered. `tile` and `maskAddr` are window addresses of the block's own partition. -/
structure GatherOp where
  scad : Bool
  tile : Nat
  maskAddr : Nat
  desc : List Byte
  pkgs : List Nat
  mode : Nat
  glog : Nat
  indices : List Nat
  mark : Bool
  stampAddr : Nat
  stamp : DWord
  unsent : Option (List Nat)
  left : List Nat
  failed : List Nat
  partials : List Partial
  deriving DecidableEq, Repr

/-- A member of a tile operation (R322 to R324). `regA` holds a register source captured at issue. -/
structure TileMember where
  gang : Nat
  slot : Nat
  asrc : Nat
  aAddr : Nat
  sslot : Nat
  cblk : Nat
  regA : List Word
  fmtBlock : List Byte
  words : List Word
  deriving DecidableEq, Repr

inductive TileOp where
  | product (solo : Bool) (members : List TileMember) (b : Word)
  | zero (slot : Nat)
  | load (slot : Nat) (src : Nat)
  deriving DecidableEq, Repr

/-- A drain in progress (R327, R328): the row, the next program word, x0 to x7 (key 256r + j), the addresses of the band scales, and
the stores of the row so far. -/
structure DrainOp where
  slot : Nat
  raw : Bool
  zero : Bool
  prog : List Word
  params : List Word
  aband : Nat
  bband : Nat
  row : Nat
  word : Nat
  x : WordMap
  pend : List (Nat × List Byte)
  deriving DecidableEq, Repr

inductive OpKind where
  | copy (x : CopyOp)
  | gather (x : GatherOp)
  | tile (x : TileOp)
  | drain (x : DrainOp)
  /-- EPLD's check of a program: its address, and its bytes once read in another package -/
  | epld (addr : Nat) (data : Option (List Byte))
  deriving DecidableEq, Repr

/-- An engine operation: `complete` when its last byte is written and every reply has sunk, `fault` when it stopped. -/
structure EngineOp where
  id : Nat
  gang : GangId
  kind : OpKind
  /-- the slice whose registers gave the operands, and the instruction's words (R393) -/
  slice : Nat
  words : List Word
  waiting : Bool
  complete : Bool
  fault : Option TrapInfo
  deriving DecidableEq, Repr

/-! ## Requests (R98, R447, R449) -/

/-- Where an access lands: this package's physical memory, a local store (with the block and partition offset), a weight store, an
accumulator slot, the parameter block of a grid, a device register, a host window, a remote aperture, a remote polder export. -/
inductive Place where
  | mem (pa home : Nat)
  | ls (i : Nat) (blk : BlockId) (off : Nat)
  | wgt (i : Nat)
  | acc (b : BlockId) (slot off : Nat)
  | con (h : Word) (off : Nat)
  | reg (die off : Nat)
  | host (w off : Nat)
  | remote (pkg off : Nat)
  | polder (pkg : Nat) (key : SpanKey) (die slot off : Nat)
  deriving DecidableEq, Repr

/-- How an access synchronises: its scope when it is an acquire, atomic operation, reduction or arrival, and what its write
records: its scope when a release or one of those, 7 otherwise; and whether it goes through LOC, where alone the race detector checks
(R436), and under which DMASK. -/
structure SyncUse where
  acq : Option Nat
  rel : Nat
  loc : Bool
  /-- the DMASK in force (R337, R351) -/
  dmask : Word
  deriving DecidableEq, Repr

/-- Whose access a request in flight is; `n` is the number of its instruction, the step in which it issued. -/
inductive Owner where
  /-- a lane's access: the destination register and count, the width in bytes, sign extension -/
  | lane (n : Nat) (g : GangId) (lane : Nat) (dst : Option Nat) (bytes : Nat) (sext : Bool)
  /-- a scalar access: part, slice, destination register and words -/
  | scalar (n : Nat) (g : GangId) (slice : Nat) (dst : Option Nat) (words : Nat)
  /-- the source read of a lane's GMRG: what its merge needs next (destination, base exponent, draws) -/
  | merge (n : Nat) (g : GangId) (lane : Nat) (addr : Nat) (sc : Nat) (draws : List Nat)
  /-- a flushed atomic-buffer entry -/
  | flush (g : GangId)
  /-- a read of a stamp (8 bytes) or sync word in another package, for the value or generation `v` (R48, R289) -/
  | reread (g : GangId) (mask : BitVec 8) (stamp : Bool) (v : Nat) (scope : Nat)
  /-- an arrival of a gang on a word in another package -/
  | arrival (g : GangId) (slice : Nat) (words : List Word) (rel : Bool)
  | engine (op : Nat)
  /-- a sub-request of a gather or scatter-add: its positions -/
  | sub (op : Nat) (positions : List Nat)
  /-- a read or write of memory made at issue (log 15); `code` names the stream, scalar or lane, whose instruction is fetched -/
  | fetch (g : GangId) (code : Option (Bool × BitVec 8))
  /-- a write of the device itself for a grid (R38, R49) -/
  | device (handle : Word)
  deriving DecidableEq, Repr

/-- Where a host window leads (R92): the memory key of its RMAs and the fabric address of the host's endpoint. -/
structure HostEntry where
  mkey : DWord
  fa : BitVec 128
  deriving DecidableEq, Repr

/-- What was sent, kept so that it can be sent again (R454): to another package, to the host, or to a place of this package. -/
inductive OutMsg where
  | request (r : Request)
  | sub (r : SubReq)
  | host (e : HostEntry) (off : Nat)
  | here (p : Place)
  deriving DecidableEq, Repr

/-- A request whose reply has not been received; `target` is a package (this one for a request that stays here), or 512 for the host,
`plane` the plane it went on. -/
structure Outgoing where
  src : Requester
  tsn : BitVec 16
  target : Nat
  plane : Nat
  addr : Nat
  space : Nat
  op : ReqOp
  owner : Owner
  msg : OutMsg
  deriving DecidableEq, Repr

/-- A request on its way, or its reply (R98, R443, R446; log 66): the request with its header's ACKTSN and INC, whose access it is, how it
synchronises and its lane index; whether it has left its requester, and what its target has answered. -/
structure Flight where
  out : Outgoing
  acktsn : BitVec 16
  inc : BitVec 16
  gang : GangId
  sync : SyncUse
  laneIdx : Nat
  sent : Bool
  reply : Option ReplyBody
  deriving DecidableEq, Repr

/-- A gang's instruction that awaits replies (log 15, 66): its number, stream, part, words and lane index, what each lane has faulted with,
and what happens at the last reply. -/
structure RemoteWait where
  n : Nat
  gang : GangId
  laneStream : Bool
  mask : BitVec 8
  words : List Word
  laneIdx : Nat
  /-- its stream has gone on past it -/
  ahead : Bool
  faults : List (Nat × AccFault)
  clsL : Bool
  size : Nat
  race : Option (Nat × RaceEntry)
  /-- its number in its counter (R190) -/
  tok : Nat
  deriving DecidableEq, Repr

/-- The answer to a read that an instruction made at issue in another package: it is used when the instruction re-executes. -/
structure Fetched where
  gang : GangId
  addr : Nat
  code : Bool
  bytes : List Byte
  fault : Option AccFault
  deriving DecidableEq, Repr

/-- Work of a row engine: its die and the items of a sub-request that are homed there (R108). -/
structure RowJob where
  die : Nat
  r : SubReq
  deriving DecidableEq, Repr

/-- A sub-request that this package has received: its source, and the replies sent so far (R98, R447; log 29). -/
structure SubSeen where
  src : Requester
  tsn : BitVec 16
  replies : List SubReply
  deriving DecidableEq, Repr

/-- A target die's duplicate filter and reply cache for one requester (R98, R447). -/
structure Filter where
  die : Nat
  src : Requester
  acked : BitVec 16
  inc : BitVec 16
  done : List (BitVec 16 × ReplyBody)
  deriving DecidableEq, Repr

/-- An arrival in flight to a sync word (R288), with who made it. That of an ARRIVE holds the place found at its issue, where it is
performed whatever is changed before it lands (R87, R431). -/
structure Arrival where
  place : Option Place
  space : Nat
  addr : Nat
  n : Nat
  src : Option GangId
  op : Option Nat
  handle : Word
  ctx : Option (Nat × Nat)
  words : List Word
  slice : Nat
  scope : Nat
  /-- it is performed only after every earlier scalar access of its gang -/
  rel : Bool
  deriving DecidableEq, Repr

/-! ## Translation, links, dies -/

/-- A TLB entry (R86) of a core, or of a die where `core` is none: context, page base and size in bytes, the entry as it was read
and its physical address. -/
structure TlbEntry where
  die : Nat
  core : Option Nat
  ctxDie : Nat
  ctxCore : Nat
  base : Nat
  size : Nat
  pte : DWord
  ptePa : Nat
  deriving DecidableEq, Repr

/-- An invalidation that has been written and is not complete (R87), with the requests sent through translations made before it. -/
structure Invalidation where
  die : Nat
  v : DWord
  /-- it has taken effect: its entries are gone -/
  effective : Bool
  waits : List (Requester × BitVec 16)
  deriving DecidableEq, Repr

/-- A write of the device for a grid that waits for a migrating page (R38, R49). -/
structure HeldWrite where
  handle : Word
  addr : Nat
  op : ReqOp
  deriving DecidableEq, Repr

/-- The second half of a remote GMRG that waits for a migrating page (R282): its request, and the level read. -/
structure HeldMerge where
  out : Outgoing
  level : Nat
  deriving DecidableEq, Repr

/-- A stream of a part that is ready for its issue slot since a step (R46, R47); `after` is the last issue of its gang there, before which
the gang's own ready time does not lie. -/
structure ReadySince where
  gang : GangId
  lane : Bool
  mask : BitVec 8
  since : Nat
  after : Nat
  deriving DecidableEq, Repr

/-- A migration in progress (R73, R74). -/
structure Migration where
  ptePa : Nat
  va : Nat
  oldPte : DWord
  frame : Nat
  size : Nat
  far : Nat
  demote : Bool
  /-- the cause with which it has been abandoned, while a full retire ring stalls it (R427, R428) -/
  failed : Option Nat
  /-- the step in which it started (R20) -/
  since : Nat
  deriving DecidableEq, Repr

/-- What a flit carries (R96, R462): the header of a request or reply, and the access where it may still be on its way. -/
structure Flit where
  src : Requester
  tsn : BitVec 16
  acktsn : BitVec 16
  inc : BitVec 16
  reply : Bool
  load : Option Flight
  deriving DecidableEq, Repr

/-- A UCIe module's end (R442, R443, R463): flits kept in the retry buffer, how many it has ever sent, whether those kept have been sent
again, failed replays of the head flit; and whether this end discards flits until an intact copy arrives. Its state and counts are device
registers. -/
structure Module where
  die : Nat
  m : Nat
  flits : List Flit
  sent : Nat
  again : Bool
  replays : Nat
  discarding : Bool
  deriving DecidableEq, Repr

/-- A Grender port (R100, R452): failures of one flit. -/
structure Port where
  n : Nat
  fails : Nat
  deriving DecidableEq, Repr

/-- A die (R98, R378, R387, R451). -/
structure Die where
  powered : Bool
  inReset : Bool
  inc : BitVec 16
  stretched : Bool
  timebaseOn : Bool
  refresh : Option Nat
  p4 : Nat
  /-- the die's copy of the package timebase (R378) -/
  ticks : Nat
  deriving DecidableEq, Repr

/-- A control core (R10, R83, R385). `identity` says that its context is the one the boot ROM builds (R380; log 11). -/
structure ControlCore where
  die : Nat
  idx : Nat
  root : Nat
  identity : Bool
  running : Bool
  launches : Nat
  deriving DecidableEq, Repr

/-- An accepted image (R381, R382). -/
structure Image where
  loadPa : Nat
  entry : Nat
  svn : Nat
  deriving DecidableEq, Repr

/-- The boot unit (R379 to R386) and the power manager's count of clock stretches (R388). `romRegions` holds the
inbound regions whose entries are still the boot ROM's own (R380). -/
structure Boot where
  firmware : Option Image
  supervisor : Option Image
  verifying : Option Nat
  attesting : Option (List Byte)
  romRegions : List Nat
  stretches : Nat
  deriving DecidableEq, Repr

/-- Room for one block (R24, R39): a core, a block slot, the first granule of its partition, the column group of each gang. -/
structure Spot where
  die : Nat
  core : Nat
  slot : Nat
  granule : Nat
  groups : List Nat
  deriving DecidableEq, Repr

/-- A span reservation (R45): the room that it holds for each copy, by rank. -/
structure Reservation where
  key : SpanKey
  handle : Word
  places : List (Bool × List Spot)
  deriving DecidableEq, Repr

/-- Rounds of a span coordinator (R45, R112, R458). -/
inductive SpanRound where
  | reserve | commit | release | stop | retry | placed | dead
  deriving DecidableEq, Repr

/-- A span that this package coordinates: answers by member, attempts by member. -/
structure Span where
  key : SpanKey
  handle : Word
  members : List Nat
  round : SpanRound
  answers : List (Nat × Bool)
  acked : List Nat
  /-- other members whose saved blocks are loaded again (R227) -/
  loaded : List Nat
  attempts : List (Nat × Nat)
  deriving DecidableEq, Repr

/-- A structural test pass in progress: the unit index (R474), its next step, whether it is forced and why (R469, R472). -/
structure TestPass where
  die : Nat
  u : Nat
  step : Nat
  forced : Bool
  byReq : Bool
  lift : Bool
  /-- its next step has been granted over all other work of the die (R21) -/
  granted : Bool
  /-- the step at which its next step was asked for: the oldest request is granted (R20) -/
  since : Nat
  deriving DecidableEq, Repr

/-- A word of code that a core holds in its caches and fetch buffers, of the scalar or the lane section, and the slices for which it has
been discarded (R222; log 28). -/
structure HeldCode where
  die : Nat
  core : Nat
  lane : Bool
  pa : Nat
  word : Word
  gone : List (GangId × Nat)
  deriving DecidableEq, Repr

/-- Readings of a monitor (R476). -/
structure Monitor where
  die : Nat
  n : Nat
  min : Word
  max : Word
  count : Word
  bins : List Word
  last : Nat
  deriving DecidableEq, Repr

/-- Messages of the control class between members of a span (R45, R66, R112, R286, R431). -/
inductive ControlMsg where
  | spanReserve (k : SpanKey) (member : Nat)
  | spanAnswer (k : SpanKey) (yes : Bool)
  | spanCommit (k : SpanKey) (member : Nat)
  | spanRelease (k : SpanKey) (member : Nat)
  | spanStop (k : SpanKey) (member : Nat)
  | spanStopAck (k : SpanKey)
  | spanCommitAck (k : SpanKey) (a : SpanAck)
  /-- the coordinator tells a member that every member is placed, or loaded (R45, R227; log 33) -/
  | spanReady (k : SpanKey) (member : Nat)
  | spanKill (k : SpanKey)
  | spanBarrier (k : SpanKey) (b : Nat) (m : SpanBarrierMsg)
  /-- member `a` has detached from member `b` (R66) -/
  | spanDetach (k : SpanKey) (a b : Nat)
  deriving DecidableEq, Repr

/-- What leaves the package. -/
inductive Output where
  | request (target : Nat) (r : Request)
  | reply (r : Reply)
  | subRequest (target : Nat) (r : SubReq)
  | subReply (target : Nat) (op : Nat) (r : SubReply)
  /-- an RMA to the host on the context of window `w`, to the destination of its entry, with a tag (R92) -/
  | hostWrite (w : Nat) (e : HostEntry) (tag : Nat) (off : Nat) (bytes : List Byte)
  | hostRead (w : Nat) (e : HostEntry) (tag : Nat) (off : Nat) (len : Nat)
  /-- the answer to an inbound RMA: data, or an error class: 1 invalid key, 2 out of range, 3 access (R89) -/
  | rmaDone (bytes : List Byte)
  | rmaError (cls : Nat)
  | notSupported
  /-- a message of the control class on a plane to a package (R99) -/
  | control (plane : Nat) (pkg : Nat) (m : ControlMsg)
  /-- a module's retransmission or retry request (R463) -/
  | flits (die : Nat) (m : Nat) (l : List Flit)
  | retry (die : Nat) (m : Nat)
  /-- die 12 announces a new incarnation (R451) -/
  | incarnation (die : Nat) (n : BitVec 16)
  deriving DecidableEq, Repr

/-! ## The issue slot -/

/-- Who issues in this step: a part's scalar stream, a lane group's lane stream, an epilogue unit, or no one. -/
inductive Issuer where
  | none
  | scalar (g : GangId) (mask : BitVec 8)
  | lane (g : GangId) (mask : BitVec 8)
  | epilogue (op : Nat)
  deriving DecidableEq, Repr

structure IssueSlot where
  who : Issuer
  words : List Word
  deriving DecidableEq, Repr

/-- The whole package. -/
structure State where
  clock : Nat
  /-- the package timebase, as die 12 counts it (R378) -/
  ticks : Nat
  inputs : List Instr
  outputs : List Output
  issue : IssueSlot
  pkgId : Nat
  mem : Memory
  ls : Memory
  wgt : Memory
  dev : List (Nat × DWord)
  dies : List Die
  boot : Boot
  controls : List ControlCore
  grids : List Grid
  blocks : List Block
  cohorts : List Cohort
  gangs : List Gang
  ops : List EngineOp
  nextOp : Nat
  arrivals : List Arrival
  outstanding : List Outgoing
  /-- requests on their way and replies on their way back (R98; log 66) -/
  flights : List Flight
  /-- a free value: whether the accesses of the next step to their own die are held in flight (log 66) -/
  flight : Bool
  remote : List RemoteWait
  fetched : List Fetched
  /-- requests given up, by requester and TSN: a late reply raises LATEREPLY (R446, R449) -/
  retired : List (Requester × BitVec 16)
  /-- positions of gathers and scatter-adds whose sub-requests were given up, by operation (R446, R449) -/
  retiredSubs : List (Nat × Nat)
  tsns : List ((Nat × Nat) × BitVec 16)
  filters : List Filter
  /-- sub-requests of this package to itself (R374), work of its row engines, their replies, and what other packages sent -/
  subOwn : List SubReq
  rowJobs : List RowJob
  subReplies : List (Nat × SubReply)
  subSeen : List SubSeen
  badPlanes : List (Nat × Nat)
  tlb : List TlbEntry
  invalidations : List Invalidation
  migrations : List Migration
  /-- pages whose migration was abandoned: accesses of no gang that waited are performed at the old location (R427) -/
  inPlace : List Nat
  heldWrites : List HeldWrite
  heldMerges : List HeldMerge
  ready : List ReadySince
  /-- inbound messages that wait for a migrating page, in the order in which they came (R73, R90, R99) -/
  parked : List Instr
  modules : List Module
  ports : List Port
  reservation : Option Reservation
  reserveQueue : List SpanKey
  spans : List Span
  /-- span barriers whose other members have all arrived (R286) -/
  spanArrived : List (SpanKey × Nat)
  /-- span barriers whose flushes have been asked for, and whether they are performed: the other members' at the coordinator, its own at a
  member (R286; log 33) -/
  spanFlush : List (SpanKey × Nat × Bool)
  monitors : List Monitor
  passes : List TestPass
  fences : List (Nat × Nat)
  poison : List (EccArray × Nat × Nat)
  /-- bytes that a core's read-only cache holds, by core, context and address (R72, R274; log 19) -/
  roCache : List ((Nat × Nat × Nat) × Byte)
  heldCode : List HeldCode
  abandoned : List Nat
  /-- parts that wait on a word without a watch entry: they read it again themselves (R48) -/
  unwatched : List (GangId × BitVec 8)
  deriving DecidableEq, Repr

/-- What ends a run of the model. -/
inductive Fault where
  /-- Raised by a meaning that is called with no issuer in the issue slot; `step` always names one. Safe: the machine stops. -/
  | noIssuer
  deriving DecidableEq, Repr

/-- Instructions without a meaning. -/
inductive Refusal where
  /-- Raised by an arm of `exec` that rejects its instruction by name. Safe: the machine stops. -/
  | notModelled (mnemonic : String)
  deriving DecidableEq, Repr

abbrev Outcome := Host.Outcome State Fault Refusal

/-! ## Reset -/

/-- A die at reset: nothing is powered before POWER_ON (R378; log 22). -/
def Die.reset : Die := ⟨false, true, 0, false, false, none, 0, 0⟩

/-- A barrier whose phase no gang has arrived in (R230, R285). -/
def Barrier.empty : Barrier := ⟨false, 0, 0, 7⟩

/-- The control cores of dies 0 to 7 and 12 (R8, R10). -/
def State.resetControls : List ControlCore :=
  [0, 1, 2, 3, 4, 5, 6, 7, 12].flatMap fun d => [⟨d, 0, 0, false, false, 0⟩, ⟨d, 1, 0, false, false, 0⟩]

/-- The package before auxiliary power is applied: no memory listed, every device register at its reset value, no gang. -/
def State.reset : State where
  clock := 0
  ticks := 0
  inputs := []
  outputs := []
  issue := ⟨.none, []⟩
  pkgId := 0
  mem := []
  ls := []
  wgt := []
  dev := []
  dies := List.replicate 13 Die.reset
  boot := ⟨none, none, none, none, [], 0⟩
  controls := State.resetControls
  grids := []
  blocks := []
  cohorts := []
  gangs := []
  ops := []
  nextOp := 0
  arrivals := []
  outstanding := []
  flights := []
  flight := false
  remote := []
  fetched := []
  retired := []
  retiredSubs := []
  tsns := []
  filters := []
  subOwn := []
  rowJobs := []
  subReplies := []
  subSeen := []
  badPlanes := []
  tlb := []
  invalidations := []
  migrations := []
  inPlace := []
  heldWrites := []
  heldMerges := []
  ready := []
  parked := []
  modules := []
  ports := []
  reservation := none
  reserveQueue := []
  spans := []
  spanArrived := []
  spanFlush := []
  monitors := []
  passes := []
  fences := []
  poison := []
  roCache := []
  heldCode := []
  abandoned := []
  unwatched := []

end Sys2Proof.Machine
end

