-- ==== Sys2Proof/Machine/Map.lean ====
section
/-! DEFINITION. Memory, word maps and device registers: reading and writing one entry, and the wider accesses built from them
(little-endian, R7). -/
namespace Sys2Proof.Machine

/-! ## Memory -/

/-- What an unlisted address reads as (log 4). DESIGN CHOICE: power-on contents are not given; a partition is zero at its
block's first instruction (R60), which clearing at placement gives. -/
def Memory.unlisted : Byte := 0

/-- The canonical form: addresses strictly rising, no byte equal to what an unlisted address reads as. -/
def Memory.wf : Memory → Bool
  | [] => true
  | [c] => c.2 != Memory.unlisted
  | c :: d :: m => c.2 != Memory.unlisted && c.1 < d.1 && Memory.wf (d :: m)

/-- One byte. -/
def Memory.get : Memory → Nat → Byte
  | [], _ => Memory.unlisted
  | c :: m, a => if c.1 = a then c.2 else Memory.get m a

/-- Write one byte, keeping the canonical form. -/
def Memory.set : Memory → Nat → Byte → Memory
  | [], a, b => if b = Memory.unlisted then [] else [(a, b)]
  | c :: m, a, b =>
    if a < c.1 then (if b = Memory.unlisted then c :: m else (a, b) :: c :: m)
    else if a = c.1 then (if b = Memory.unlisted then m else (a, b) :: m)
    else c :: Memory.set m a b

/-- `n` bytes from `a` upward. -/
def Memory.read (m : Memory) (a n : Nat) : List Byte := (List.range n).map fun i => m.get (a + i)

/-- Bytes from `a` upward. -/
def Memory.write (m : Memory) (a : Nat) : List Byte → Memory
  | [] => m
  | b :: bs => Memory.write (m.set a b) (a + 1) bs

/-- The little-endian number of `n` bytes. -/
def Memory.readNat (m : Memory) (a n : Nat) : Nat := ofLeBytes (m.read a n)

/-- Every listed byte of [a, a + n) removed: the range reads as unlisted. -/
def Memory.clear (m : Memory) (a n : Nat) : Memory := m.filter fun c => c.1 < a || a + n ≤ c.1

/-! ## Word maps -/

/-- Number-sorted association lists. -/
def insertAt {α : Type} (k : Nat) (x : α) : List (Nat × α) → List (Nat × α)
  | [] => [(k, x)]
  | p :: l => if k < p.1 then (k, x) :: p :: l else if k = p.1 then (k, x) :: l else p :: insertAt k x l

def lookupAt {α : Type} (k : Nat) : List (Nat × α) → Option α
  | [] => none
  | p :: l => if p.1 = k then some p.2 else lookupAt k l

/-- What an unwritten word holds (log 5, 6). -/
def WordInit.value (i : WordInit) (k : Nat) : Word :=
  match i with
  | .zero => 0
  | .start seed => Config.startWord seed k
  | .slot seed => Config.slotWord seed k

def WordMap.get (m : WordMap) (k : Nat) : Word := (lookupAt k m.cells).getD (m.init.value k)
def WordMap.set (m : WordMap) (k : Nat) (w : Word) : WordMap := { m with cells := insertAt k w m.cells }
def WordMap.zero : WordMap := ⟨.zero, []⟩

/-! ## Device registers (R70: offsets from 0xF000_0000_0000 of a die's window) -/

/-- The key of a register: its die and offset. -/
def devKey (die off : Nat) : Nat := die * 2 ^ 48 + off

/-- The reset value of the register at an offset (R75, R87, R93, R384, R396, R400, R445, R448, R454, R460, R473). -/
def devReset (off : Nat) : DWord :=
  if off = 0x1000 then 0x0100003F
  else if 0x8000 ≤ off && off < 0xA000 && off % 64 = 0 then 0x00FF4002
  else if off = 0xA000 then (2000000#64 <<< 32) ||| 100000#64
  else if 0xB000 ≤ off && off < 0xB400 && off % 32 = 0 then 2
  else if off = 0xE000 then 0x1F
  else 0

/-- The value of a device register. -/
def State.devGet (s : State) (die off : Nat) : DWord := (lookupAt (devKey die off) s.dev).getD (devReset off)
/-- Sets a device register. -/
def State.devSet (s : State) (die off : Nat) (v : DWord) : State := { s with dev := insertAt (devKey die off) v s.dev }
/-- Adds 1 to a 64-bit count, which never wraps (R400). -/
def State.count (s : State) (die off : Nat) : State :=
  if s.devGet die off = BitVec.allOnes 64 then s else s.devSet die off (s.devGet die off + 1)
/-- The same, `n` times. -/
def State.countN (s : State) (die off n : Nat) : State :=
  s.devSet die off (BitVec.ofNat 64 (Nat.min ((s.devGet die off).toNat + n) (2 ^ 64 - 1)))

/-! ## Lists of records -/

/-- Replaces the first record that satisfies `p`. -/
def replaceFirst {α : Type} (p : α → Bool) (x : α) : List α → List α
  | [] => []
  | y :: l => if p y then x :: l else y :: replaceFirst p x l

/-- The record at an index with a change. -/
def modifyAt {α : Type} (f : α → α) : Nat → List α → List α
  | _, [] => []
  | 0, x :: l => f x :: l
  | n + 1, x :: l => x :: modifyAt f n l

end Sys2Proof.Machine
end

