-- ==== Sys2Proof/Machine/Ops.lean ====
section
/-! DEFINITION. The named operations over the state: looking up and replacing its records, parts of a gang and their program
counters, halting and killing, taking a trap (R391 to R399), event records (R397), and the return from a halt in place. -/
namespace Sys2Proof

/-! ## Names of gangs -/

/-- The block of a gang; none for a supervisor gang (R399). -/
def GangId.block? : GangId → Option BlockId
  | .compute b _ => some b
  | .control _ _ => none
/-- GANGID (R23). -/
def GangId.num : GangId → Nat
  | .compute _ n => n
  | .control _ _ => 0
def GangId.isControl : GangId → Bool
  | .control _ _ => true
  | .compute _ _ => false
/-- gang_index (R133). -/
def GangId.index (g : GangId) : Nat := match g with | .compute b n => b.index * 32 + n | .control _ _ => 0

/-- Whether a gang belongs to a grid. -/
def GangId.ofGrid (h : Word) (g : GangId) : Bool := match g with | .compute b _ => b.handle == h | .control _ _ => false
/-- The control core whose stamp a gang's trap raises (R395, R399). -/
def GangId.stampCore : GangId → Nat × Nat
  | .control d i => (d, i)
  | .compute b _ => (Machine.fieldNat b.handle 28 4, Machine.fieldNat b.handle 27 1)

end Sys2Proof

namespace Sys2Proof.Machine

/-! ## Records of the state -/

def State.gang? (s : State) (g : GangId) : Option Gang := s.gangs.find? fun x => x.id == g
def State.setGang (s : State) (g : Gang) : State := { s with gangs := replaceFirst (fun x => x.id == g.id) g s.gangs }
def State.block? (s : State) (b : BlockId) : Option Block := s.blocks.find? fun x => x.id == b
def State.setBlock (s : State) (b : Block) : State := { s with blocks := replaceFirst (fun x => x.id == b.id) b s.blocks }
def State.grid? (s : State) (h : Word) : Option Grid := s.grids.find? fun x => x.handle == h
def State.setGrid (s : State) (g : Grid) : State := { s with grids := replaceFirst (fun x => x.handle == g.handle) g s.grids }
def State.op? (s : State) (n : Nat) : Option EngineOp := s.ops.find? fun x => x.id == n
def State.setOp (s : State) (o : EngineOp) : State := { s with ops := replaceFirst (fun x => x.id == o.id) o s.ops }
def State.control? (s : State) (die idx : Nat) : Option ControlCore := s.controls.find? fun x => x.die == die && x.idx == idx
def State.setControl (s : State) (c : ControlCore) : State :=
  { s with controls := replaceFirst (fun x => x.die == c.die && x.idx == c.idx) c s.controls }
def State.die (s : State) (d : Nat) : Die := s.dies.getD d Die.reset
def State.setDie (s : State) (d : Nat) (f : Die → Die) : State := { s with dies := modifyAt f d s.dies }
def State.emit (s : State) (o : Output) : State := { s with outputs := s.outputs ++ [o] }

/-- The cohort record of a block (R2): grid, cohort number, copy. -/
def Cohort.holds (c : Cohort) (size : Nat) (b : BlockId) : Bool :=
  c.handle == b.handle && c.shadow == b.shadow && c.index == b.index / size
def State.cohortSize (s : State) (h : Word) : Nat := match s.grid? h with | some g => g.record.cohort | none => 1
def State.cohort? (s : State) (b : BlockId) : Option Cohort := s.cohorts.find? (·.holds (s.cohortSize b.handle) b)
def State.setCohort (s : State) (c : Cohort) : State :=
  { s with cohorts := replaceFirst (fun x => x.handle == c.handle && x.index == c.index && x.shadow == c.shadow) c s.cohorts }

def State.blockOf (s : State) (g : GangId) : Option Block := g.block?.bind s.block?
def State.gridOf (s : State) (g : GangId) : Option Grid := g.block?.bind fun b => s.grid? b.handle
/-- The die a gang runs on. -/
def State.gangDie (s : State) (g : GangId) : Nat :=
  match g with
  | .control d _ => d
  | .compute b _ => match s.block? b with | some x => x.die | none => 0
/-- Gangs of a block. -/
def State.blockGangs (s : State) (b : BlockId) : List Gang := s.gangs.filter fun g => g.id.block? == some b
/-- Blocks of a block's cohort, in rank order as dispatched. -/
def State.cohortBlocks (s : State) (b : BlockId) : List Block :=
  let n := s.cohortSize b.handle
  s.blocks.filter fun x => x.id.handle == b.handle && x.id.shadow == b.shadow && x.id.index / n == b.index / n
/-- Rank in the cohort (R23). -/
def State.rank (s : State) (b : BlockId) : Nat := b.index % s.cohortSize b.handle
/-- The key of a grid's span (R45). -/
def Grid.spanKey (g : Grid) : SpanKey := ⟨g.record.pkgList.headD 0, g.record.spanId⟩
/-- The grid of a span on this package. -/
def State.spanGrid? (s : State) (k : SpanKey) : Option Grid := s.grids.find? fun g => g.record.spanSize != 0 && g.spanKey == k
/-- This package's member number (R23). -/
def Grid.member (g : Grid) (pkg : Nat) : Nat := if g.record.spanSize = 0 then 0 else g.record.pkgList.idxOf pkg

/-! ## Counters (R190) -/

/-- An operation is complete: the counter falls past every complete operation from the oldest on. -/
def Counter.finish (q : Counter) (n : Nat) : Counter :=
  (q.map fun p => if p.1 = n then (n, true) else p).dropWhile (·.2)
/-- A number that no operation of the counter goes by. -/
def Counter.fresh (q : Counter) : Nat := q.foldl (fun n p => Nat.max n (p.1 + 1)) 0
/-- An operation is issued under a number. -/
def Counter.raise (q : Counter) (n : Nat) : Counter := q ++ [(n, false)]
/-- An operation is issued and complete in one step: it stays counted behind one that is not complete. -/
def Counter.pass (q : Counter) : Counter := (q.raise q.fresh).finish q.fresh
def Gang.l (g : Gang) : Nat := g.lq.length
def Gang.s (g : Gang) : Nat := g.sq.length
def Gang.t (g : Gang) : Nat := g.tq.length
/-- The counter of an access of class l or s. -/
def Gang.accesses (g : Gang) (inL : Bool) : Counter := if inL then g.lq else g.sq
def Gang.setAccesses (g : Gang) (inL : Bool) (q : Counter) : Gang := if inL then { g with lq := q } else { g with sq := q }

/-! ## Parts and slices (R31 to R33, R198) -/

def Gang.slice? (g : Gang) (i : Nat) : Option Slice := g.slices[i]?
/-- A change of each slice of a part, by slice number. -/
def Gang.mapPart (g : Gang) (m : BitVec 8) (f : Nat → Slice → Slice) : Gang :=
  { g with slices := g.slices.mapIdx fun i sl => if bit m i then f i sl else sl }
/-- The slices of a part. -/
def Gang.partSlices (g : Gang) (m : BitVec 8) : List Slice :=
  (setBits 8 m.toNat).filterMap g.slice?
/-- The lowest slice number of a mask. -/
def lowestSlice (m : BitVec 8) : Nat := (setBits 8 m.toNat).headD 8
/-- Every slice of the gang, as a mask. -/
def Gang.full (g : Gang) : BitVec 8 := BitVec.ofNat 8 (2 ^ g.slices.length - 1)

/-- The end check of the loop stack (R212): an instruction at `p` whose sequential next address is `p2`. -/
def loopEnd (p : Nat) : List LoopLevel → Nat → List LoopLevel × Nat
  | [], p2 => ([], p2)
  | l :: ls, p2 =>
    if l.start.toNat ≤ p && p < l.stop.toNat && l.stop.toNat ≤ p2 then
      if l.count.toNat > 1 then ({ l with count := l.count - 1 } :: ls, l.start.toNat) else loopEnd p ls p2
    else (l :: ls, p2)

/-- The program counter with its low 32 bits replaced (R208). -/
def withLow (pc : VAddr) (low : Nat) : VAddr := bits pc 32 24 ++ BitVec.ofNat 32 low

/-- The address of the word after an instruction of `size` bytes and its literal (R208). -/
def Slice.nextPc (sl : Slice) (size : Nat) : VAddr := sl.pc + BitVec.ofNat 56 size

/-- Sequential advance, with the loop end check (R212). -/
def Slice.advance (sl : Slice) (size : Nat) : Slice :=
  match sl.loops with
  | [] => { sl with pc := sl.nextPc size }
  | _ =>
    let r := loopEnd (fieldNat sl.pc 0 32) sl.loops (fieldNat sl.pc 0 32 + size)
    { sl with loops := r.1, pc := if r.2 = fieldNat sl.pc 0 32 + size then sl.nextPc size else withLow sl.pc r.2 }

/-- Whether the body of a loop level holds an address (R212). -/
def LoopLevel.holds (l : LoopLevel) (t : Nat) : Bool := l.start.toNat ≤ t && t < l.stop.toNat

/-- A taken branch whose target lies outside the innermost body pops that level and every further one whose body does not hold the
target, also one below a level that stays (R213; log 54). -/
def Slice.branchTo (sl : Slice) (target : VAddr) : Slice :=
  let t := fieldNat target 0 32
  { sl with
    pc := target
    loops := match sl.loops with
      | [] => []
      | l :: ls => if l.holds t then l :: ls else ls.filter (·.holds t) }

/-- The groups of equal program counters among slices of a part, lowest slice first. -/
def groupByPc : List (Nat × VAddr) → List (VAddr × BitVec 8)
  | [] => []
  | (i, pc) :: rest =>
    let b : BitVec 8 := BitVec.ofNat 8 (2 ^ i)
    let l := groupByPc rest
    match l.find? fun p => p.1 == pc with
    | some p => (pc, p.2 ||| b) :: l.filter fun p => p.1 != pc
    | none => (pc, b) :: l

/-- The masks that a part splits into: one for each distinct address of its slices that have not exited (R198). -/
def Gang.splits (g : Gang) (m : BitVec 8) : List (BitVec 8) :=
  let live := (setBits 8 m.toNat).filterMap fun i => match g.slice? i with
    | some sl => if sl.exited then none else some (i, sl.pc)
    | none => none
  (groupByPc live).map (·.2)

/-- Parts in ascending order of lowest slice. -/
def insertPart (m : BitVec 8) : List (BitVec 8) → List (BitVec 8)
  | [] => [m]
  | p :: l => if lowestSlice m < lowestSlice p then m :: p :: l else p :: insertPart m l

/-- After an instruction of part `m`: the part is replaced by the parts its slices form (R198). -/
def Gang.settle (g : Gang) (m : BitVec 8) : Gang :=
  { g with parts := (g.splits m).foldl (fun l p => insertPart p l) (g.parts.filter (· != m)) }

/-- A scalar instruction of part `m` in each of its slices, then the split. -/
def Gang.runPart (g : Gang) (m : BitVec 8) (f : Nat → Slice → Slice) : Gang := (g.mapPart m f).settle m

/-- Whether a slice's lane queue is empty and no run is in progress (R35). -/
def Slice.laneIdle (sl : Slice) : Bool := sl.queue.isEmpty && sl.cur.isNone
def Gang.laneIdle (g : Gang) (m : BitVec 8) : Bool := (g.partSlices m).all Slice.laneIdle

/-- Sets or clears the wait of every slice of a part. -/
def Gang.setWait (g : Gang) (m : BitVec 8) (w : Option Wait) : Gang := g.mapPart m fun _ sl => { sl with wait := w }
/-- The part stops at its instruction and waits (R48). -/
def State.waitPart (s : State) (g : Gang) (m : BitVec 8) (w : Wait) : State := s.setGang (g.setWait m (some w))
/-- The wait of a part: that of its slices. -/
def Gang.partWait (g : Gang) (m : BitVec 8) : Option Wait := (g.partSlices m).findSome? (·.wait)

/-- REGANG's join (R33): every slice of `m` that has not exited has arrived with mask `m` at one address, with empty queues;
they become one part after the instruction. -/
def Gang.tryJoin (g : Gang) (m : BitVec 8) : Gang :=
  let named := (setBits 8 m.toNat).filterMap fun i => (g.slice? i)
  let live := named.filter fun sl => !sl.exited
  let pcs := live.map (·.pendingPc)
  let arrived := live.all fun sl => sl.pending == m && sl.laneIdle
  if live.isEmpty || !arrived || pcs.any (· != pcs.headD 0) then g
  else
    let liveMask := (setBits 8 m.toNat).foldl (fun (acc : BitVec 8) i => match g.slice? i with
      | some sl => if sl.exited then acc else acc ||| BitVec.ofNat 8 (2 ^ i)
      | none => acc) 0
    let g := g.mapPart liveMask fun _ sl => { sl.advance 4 with pending := 0, wait := none }
    { g with parts := [liveMask].foldl (fun l p => insertPart p l) (g.parts.filter fun p => p &&& liveMask == 0) }
      |>.settle liveMask

/-- Every pending mask of the gang, tried in turn. -/
def Gang.joinAll (g : Gang) : Gang :=
  ((g.slices.filterMap fun sl => if sl.pending == 0 then none else some sl.pending).eraseDups).foldl Gang.tryJoin g

/-! ## Stamps and events in memory (R80, R395 to R397) -/

/-- Adds 1 to the 8-byte word at a physical address and answers its new value. -/
def State.bumpStamp (s : State) (pa : Nat) : State × Nat :=
  let v := (s.mem.readNat pa 8 + 1) % 2 ^ 64
  ({ s with mem := s.mem.write pa (leBytes 8 v) }, v)

/-- TIMEBASE as a die samples it: its own copy (R378). -/
def State.timebase (s : State) (die : Nat) : DWord := BitVec.ofNat 64 (s.die die).ticks
/-- A die's copy of the timebase at a count of die 12's: within one tick of it, never going back, standing while the die has no
power (R378; log 2). -/
def Die.follow (d : Die) (now skew : Nat) : Die :=
  if d.timebaseOn then { d with ticks := Nat.max d.ticks (now + skew % 3 - 1) } else d
/-- Time moves on by one step: the timebase counts the ticks that pass, once die 12 has power. -/
def State.tick (s : State) : State :=
  let now := if (s.die 12).timebaseOn then s.ticks + Config.ticks s.clock else s.ticks
  { s with
    clock := s.clock + 1, ticks := now
    dies := s.dies.mapIdx fun i d => if i = 12 then { d with ticks := now } else d.follow now (Config.skew s.clock i) }

/-- Raises a control core's trap stamp, where its EN is 1, and answers the value that STAMP of a header takes (R394, R396). -/
def State.raiseStamp (s : State) (die idx : Nat) : State × Nat :=
  let r := s.devGet die (0x6008 + 8 * idx)
  let pa := fieldNat r 3 49 * 8
  if bit r 0 then s.bumpStamp pa else (s, s.mem.readNat pa 8)

/-- The die whose ring records an event: a far die's events go to die 12 (R395). -/
def eventDie (d : Nat) : Nat := if 8 ≤ d && d < 12 then 12 else d

/-- An event record (R397). `detail` fills 0x18 upward. -/
def State.event (s : State) (origin cause kind unit info : Nat) (addr : Option (Nat × Nat)) (detail : List Byte) : State :=
  let d := eventDie origin
  let win := s.devGet d 0x6000
  if !bit win 0 then s
  else
    let prod := fieldNat (s.devGet d 0x6018) 0 32
    let cons := fieldNat (s.devGet d 0x6020) 0 32
    if (prod + 2 ^ 32 - cons) % 2 ^ 32 = 256 then s.count d 0x7048
    else
      let a := match addr with | some (sp, x) => x % 2 ^ 56 + sp % 8 * 2 ^ 56 | none => 0
      let det := (detail ++ List.replicate 39 0).take 39
      let bytes := leBytes 1 cause ++ leBytes 1 kind ++ leBytes 2 unit ++ leBytes 4 info ++ leBytes 8 a ++
        leBytes 8 (s.timebase d).toNat ++ det ++ leBytes 1 origin
      let base := fieldNat win 16 36 * 2 ^ 16 + 0x4000 + 64 * (prod % 256)
      let s := { s with mem := s.mem.write base bytes }
      let s := s.devSet d 0x6018 (BitVec.ofNat 64 ((prod + 1) % 2 ^ 32))
      (s.raiseStamp d 0).1

/-! ## Halting and killing (R50, R227, R228, R389) -/

/-- A running block begins to halt. -/
def State.haltBlock (s : State) (b : BlockId) : State :=
  match s.block? b with
  | some x => if x.state == .running then s.setBlock { x with state := .halting } else s
  | none => s

/-- Marks a dispatched block for killing: it halts, and is killed once its halt and its engine operations end (R228). -/
def State.markKill (s : State) (b : BlockId) : State :=
  match s.block? b with
  | some x =>
    match x.state with
    | .exited | .killed => s
    | .running => s.setBlock { x with state := .halting, killing := true }
    | _ => s.setBlock { x with killing := true }
  | none => s

/-- One arrival of 1 on the grid's SIGWORD, if it has one, for a block that exits or is killed (R42, R228). -/
def State.signal (s : State) (g : Grid) : State :=
  if g.record.sigWord = 0 then s
  else { s with arrivals := s.arrivals ++ [⟨none, 0, g.record.sigWord, 1, none, none, g.handle, some (g.ctxDie, g.ctxCore), [], 0, 6, true⟩] }

/-- The number of blocks of a grid (R36). -/
def Grid.blockCount (g : Grid) : Nat := g.record.gridX * g.record.gridY * g.record.gridZ

/-- Kills undispatched blocks of a grid: each makes its arrival at once (R228). -/
def State.killQueued (s : State) (h : Word) (is : List Nat) : State :=
  match s.grid? h with
  | some g =>
    let new := is.filter fun i => !g.killedBlocks.contains i
    new.foldl (fun s _ => s.signal g) (s.setGrid { g with killedBlocks := g.killedBlocks ++ new })
  | none => s

/-- Blocks of a grid that have not been dispatched and not been killed. -/
def State.undispatched (s : State) (g : Grid) : List Nat :=
  (List.range g.blockCount).filter fun i =>
    !(g.killedBlocks.contains i) && !(s.blocks.any fun b => b.id.handle == g.handle && b.id.index == i)

/-- Whether a request is one of a gang's, of any stream. -/
def Owner.ofGang (g : GangId) : Owner → Bool
  | .lane _ x _ _ _ _ => x == g
  | .scalar _ x _ _ _ => x == g
  | .merge _ x _ _ _ _ => x == g
  | .flush x => x == g
  | .reread x _ _ _ _ => x == g
  | .arrival x _ _ _ => x == g
  | .fetch x _ => x == g
  | _ => false
/-- Whether a gang has requests or arrivals outstanding, of any stream. -/
def State.gangOutstanding (s : State) (g : GangId) : Bool :=
  (s.outstanding.any fun o => o.owner.ofGang g) || s.arrivals.any fun a => a.src == some g && a.op.isNone
/-- The requester of a gang's accesses: its core's memory port (R98). -/
def State.requester (s : State) (g : GangId) : Requester :=
  ⟨s.pkgId, s.gangDie g, match g with
    | .control _ i => 16 + i
    | .compute b _ => match s.block? b with | some x => x.core | none => 0⟩

/-! ## Code that a core holds (R222; log 28) -/

/-- Whether a held word serves a part's stream of a gang on a core. -/
def HeldCode.serves (e : HeldCode) (die core : Nat) (g : GangId) (lane : Bool) (m : BitVec 8) (pa : Nat) : Bool :=
  e.die == die && e.core == core && e.lane == lane && e.pa == pa && !e.gone.any fun x => x.1 == g && bit m x.2
/-- Whether a section operand of INVI names the lane section, or the scalar one. -/
def sectionCovers (sec : InviSection) (lane : Bool) : Bool :=
  match sec with
  | .scal => !lane
  | .lane => lane
  | .both => true

/-! ## Planes and control messages (R99, R100, R454) -/

/-- Whether a plane is usable for a target package: the port has not failed, its keys are installed (R100; log 20), and the switch has
not reported the target's port failed. -/
def State.planeUsable (s : State) (plane pkg : Nat) : Bool :=
  let st := s.devGet 12 (0xB000 + 0x20 * plane)
  fieldNat st 0 3 != 7 && fieldNat st 8 4 != 0 && !s.badPlanes.contains (plane, pkg)
/-- Whether some port has a session key (R100). -/
def State.anyKey (s : State) : Bool := (List.range 32).any fun n => fieldNat (s.devGet 12 (0xB000 + 0x20 * n)) 8 4 != 0
/-- The plane of a request that wants `want`: the next usable one, wrapping round. -/
def State.planeFor (s : State) (want pkg : Nat) : Option Nat :=
  ((List.range 32).find? fun i => s.planeUsable ((want + i) % 32) pkg).map fun i => (want + i) % 32
/-- What a control message to another package sends: it goes on plane (target PKGID) mod 32 or its substitute, or cannot leave. -/
def State.controlTo (s : State) (pkg : Nat) (m : ControlMsg) : List Output :=
  match s.planeFor (pkg % 32) pkg with
  | some p => [.control p pkg m]
  | none => []
def State.tell (s : State) (pkg : Nat) (m : ControlMsg) : State := { s with outputs := s.outputs ++ s.controlTo pkg m }
/-- The same to every other package of a span. -/
def State.tellAll (s : State) (g : Grid) (m : ControlMsg) : State :=
  (g.record.pkgList.filter (· != s.pkgId)).foldl (fun s p => s.tell p m) s

/-- Kills every block of a grid's span member, and tells the other members (R228, R65). -/
def State.killSpan (s : State) (g : Grid) (tell : Bool) : State :=
  let s := { s with spans := s.spans.filter (·.handle != g.handle), reservation := s.reservation.filter (·.handle != g.handle) }
  let s := (s.setGrid { g with spanKilled := true, windowOpen := false }).killQueued g.handle (s.undispatched g)
  let s := (s.blocks.filter fun b => b.id.handle == g.handle).foldl (fun s b => s.markKill b.id) s
  if tell then s.tellAll g (.spanKill g.spanKey) else s

/-- The kill of disposition K: the block's cohort, and its span if it has one (R389). -/
def State.killCohort (s : State) (b : BlockId) : State :=
  match s.grid? b.handle with
  | some g =>
    if g.record.spanSize != 0 then s.killSpan g true
    else
      let s := (s.cohortBlocks b).foldl (fun s x => s.markKill x.id) s
      if g.record.redun then (s.cohortBlocks { b with shadow := !b.shadow }).foldl (fun s x => s.markKill x.id) s else s
  | none => s

/-! ## Dispositions and the trap procedure (R389 to R399) -/

/-- Dispositions of the causes that trap a gang (R390). -/
inductive Disposition where
  | halt | kill | integrity
  deriving DecidableEq, Repr

def disposition (cause : Nat) : Disposition :=
  match cause with
  | 0x01 | 0x02 | 0x10 | 0x1F => .halt
  | 0x60 | 0x61 => .integrity
  | _ => .kill

/-- A trap with no address and no lanes. -/
def TrapInfo.plain (cause info src slice : Nat) (words : List Word) : TrapInfo := ⟨cause, src, slice, info, 0, none, 0, words⟩

/-- Word s of PCS (R393). -/
def Gang.pcsWord (g : Gang) (i : Nat) : Nat :=
  match g.slice? i with
  | none => 3
  | some sl => fieldNat sl.pc 2 30 * 4 + (if sl.exited then 2 else if sl.pending != 0 then 1 else 0)

/-- The 64 bytes of a trap record (R393). -/
def trapRecord (g : Gang) (t : TrapInfo) : List Byte :=
  let src := t.src + 16 * t.slice + (if t.addr.isSome then 128 else 0)
  let a := match t.addr with | some (sp, x) => x % 2 ^ 56 + sp % 8 * 2 ^ 56 | none => 0
  let ws := (t.words ++ [0, 0, 0]).take 3
  leBytes 1 t.cause ++ leBytes 1 src ++ leBytes 2 t.info ++ leBytes 4 t.lanes.toNat ++ leBytes 8 a ++
    leBytes 4 (t.laneIdx % 2 ^ 24) ++ ws.flatMap (fun w => leBytes 4 w.toNat) ++
    (List.range 8).flatMap fun i => leBytes 4 (g.pcsWord i)

/-- Where a gang's record and slot header lie: die, core in the window, block slot, gang (R394, R399). -/
def State.windowPlace (s : State) (g : Gang) : Nat × Nat × Nat × Nat :=
  match g.id with
  | .control d i => (d, 16 + i, 0, 0)
  | .compute b n => match s.block? b with
    | some x => (x.die, x.core, x.slot, n)
    | none => (0, 0, 0, n)

/-- Writes a gang's record, then its slot header, then raises the stamp (R391, R394 to R396). -/
def State.writeTrap (s : State) (g : Gang) (t : TrapInfo) : State :=
  let (d, core, slot, n) := s.windowPlace g
  let win := s.devGet d 0x6000
  let base := fieldNat win 16 36 * 2 ^ 16
  let en := bit win 0
  let s := if en then
      { s with mem := s.mem.write (base + 0x10000 + 64 * (256 * core + 32 * slot + n)) (trapRecord g t) }.count d 0x7000
    else s
  let hdr := base + 64 * (8 * core + slot)
  let trapped := s.mem.readNat (hdr + 8) 4 ||| 2 ^ n
  let hi := match g.slices with | sl :: _ => fieldNat sl.pc 32 24 | [] => 0
  let h := match g.id with | .compute b _ => b.handle.toNat | .control _ _ => 0
  let idx := match g.id with | .compute b _ => b.index | .control _ _ => 0
  let r := s.raiseStamp g.id.stampCore.1 g.id.stampCore.2
  let s := r.1
  if en then
    { s with mem := s.mem.write hdr (leBytes 4 h ++ leBytes 4 idx ++ leBytes 4 trapped ++ leBytes 4 hi ++ leBytes 8 r.2 ++
        leBytes 8 (s.timebase d).toNat ++ List.replicate 32 0) }
  else s

/-- Whether a cause comes from a memory fault, which sets the replay mask (R424). -/
def isMemoryCause (c : Nat) : Bool := (0x10 ≤ c && c ≤ 0x1E) || c == 0x33

/-- The lanes of a group of slices, as a mask of LANEIDs. -/
def lanesOf (m : BitVec 8) : BitVec 32 := maskOf 32 ((setBits 8 m.toNat).flatMap fun i => (List.range 4).map (4 * i + ·))
/-- The value of gauge_seq with which the slices of an issue draw is kept for each of them until the instruction completes (R144). -/
def Gang.keepSeq (g : Gang) (m : BitVec 8) (seq : Nat) : Gang :=
  { g with replaySeq := (setBits 8 m.toNat).foldl (fun l i => insertAt i ((lookupAt i l).getD seq) l) g.replaySeq }
/-- The replay mask after a lane memory instruction of a group (R424): the lanes that fault this time, none where it completed. The
lanes of other groups keep theirs. Each slice of the group knows that its instruction is to be performed again, or has completed. -/
def Gang.replayed (g : Gang) (m : BitVec 8) (faulted : BitVec 32) : Gang :=
  let g : Gang := { g with replay := (g.replay &&& ~~~lanesOf m) ||| faulted }
  if faulted = 0 then { g with replaySeq := g.replaySeq.filter fun p => !bit m p.1 }
  else g.keepSeq m ((g.gaugeSeq + 2 ^ 32 - 1) % 2 ^ 32)

/-- An operation of a kind whose instruction the pipeline completes before a halt: tile instructions (R50). -/
def OpKind.isTile : OpKind → Bool
  | .tile _ | .drain _ | .epld _ _ => true
  | .copy _ | .gather _ => false
/-- Whether an operation performs a tile instruction of a gang: its own, or a crew's with the gang as a member. -/
def EngineOp.tileOf (o : EngineOp) (g : GangId) : Bool :=
  o.kind.isTile && (o.gang == g || match o.kind, g with
    | .tile (.product _ ms _), .compute b n => o.gang.block? == some b && ms.any fun m => m.gang == n
    | _, _ => false)
/-- Slots that an operation reads or writes. -/
def OpKind.slots : OpKind → List Nat
  | .tile (.product _ ms _) => ms.flatMap fun m => if m.asrc = 2 then [m.slot, m.sslot] else [m.slot]
  | .tile (.zero k) => [k]
  | .tile (.load k _) => [k]
  | .drain d => [d.slot]
  | _ => []
/-- Operations that wait until their block runs again: those that failed their residue check (R464), and those that wait for a slot of one. -/
def State.heldTiles (s : State) : List EngineOp :=
  s.ops.foldl (fun l o =>
    if o.kind.isTile && !o.complete && (o.fault.isSome || l.any fun x => x.gang.block? == o.gang.block? &&
        x.kind.slots.any fun k => o.kind.slots.contains k) then l ++ [o] else l) []
/-- Whether an operation is one of them. -/
def State.tileHeld (s : State) (o : EngineOp) : Bool := s.heldTiles.any fun x => x.id == o.id
/-- Whether an instruction that a gang has issued is not complete: a lane or scalar access, or a tile instruction (R50, R391). -/
def State.issuing (s : State) (g : GangId) : Bool :=
  (s.remote.any fun r => r.gang == g) || s.ops.any fun o => o.tileOf g && !o.complete && !s.tileHeld o

/-- A trap halts the other gangs of the block, and of its copy in a redundant grid, as PREEMPT does (R391). -/
def State.trapHalts (s : State) (gid : GangId) : State :=
  match gid with
  | .control _ _ => s
  | .compute b _ =>
    let s := s.haltBlock b
    match s.grid? b.handle with
    | some gr => if gr.record.redun then s.haltBlock { b with shadow := !b.shadow } else s
    | none => s
/-- The trap of a gang whose issued instructions are complete (R391, R399): its record, header and stamp are written, and its block
halts, or is killed. -/
def State.trapCore (s : State) (gid : GangId) (t : TrapInfo) : State :=
  match s.gang? gid with
  | none => s
  | some g =>
    let s := (s.setGang { g with halted := true, trapping := none }).writeTrap g t
    match gid with
    | .control d i =>
      match s.control? d i with
      | some c => s.setControl { c with running := false }
      | none => s
    | .compute b _ =>
      let s := s.trapHalts gid
      match disposition t.cause with
      | .halt => s
      | .integrity => match s.block? b with
        | some x => s.setBlock { x with integrity := true }
        | none => s
      | .kill => s.killCohort b
/-- A gang traps: it stops issuing at once, and its record is written when what it has issued is complete. Of a further fault before
then only a kill is kept: the record is that of the first (log 56). -/
def State.trapGang (s : State) (gid : GangId) (t : TrapInfo) : State :=
  match s.gang? gid with
  | none => s
  | some g => match g.trapping with
    | some _ => if disposition t.cause == .kill then (match gid with | .compute b _ => s.killCohort b | .control _ _ => s) else s
    | none => if s.issuing gid then (s.setGang { g with trapping := some t }).trapHalts gid else s.trapCore gid t
/-- The traps whose gangs have completed what they had issued. -/
def State.finishTraps (s : State) : State :=
  s.gangs.foldl (fun s g => match g.trapping with
    | some t => if s.issuing g.id then s else s.trapCore g.id t
    | none => s) s

/-- Latch entries of the block that list a gang and have recorded others (R323, R407). -/
def State.latchPeers (s : State) (gid : GangId) : List LatchMember :=
  match s.blockOf gid with
  | some b => ((b.latch.filter fun e => bit e.key gid.num).flatMap (·.members)).filter fun m => m.gang != gid.num
  | none => []

/-- TAKING A TRAP: the gang's own trap, and 0x0E for every member recorded in a latch that lists a gang now gone (R407). -/
def State.takeTrap (s : State) (gid : GangId) (t : TrapInfo) : State :=
  let peers := s.latchPeers gid
  let s := s.trapGang gid t
  match disposition t.cause, gid with
  | .kill, .compute b n =>
    let s := peers.foldl (fun s m => s.trapGang (.compute b m.gang) (TrapInfo.plain 0x0E 1 4 0 m.words)) s
    match s.block? b with
    | some x => s.setBlock { x with latch := x.latch.filter fun e => !bit e.key n }
    | none => s
  | _, _ => s

/-! ## The return from a halt: RESUME in place (R227, R398) -/

/-- A wait on a watched word ends when its block runs again: the instruction re-executes (R50). -/
def Slice.unwatch (sl : Slice) : Slice := match sl.wait with
  | some (.sync _ _ _) | some (.stamp _ _ _) => { sl with wait := none }
  | _ => sl
/-- A gang of a block that runs again. -/
def Gang.runAgain (g : Gang) : Gang := { g with halted := false, stopped := false, slices := g.slices.map Slice.unwatch }
/-- Continues every gang of a halted block at the program counters of its records. -/
def State.resumeInPlace (s : State) (b : BlockId) : State :=
  match s.block? b with
  | none => s
  | some x =>
    let s := s.setBlock { x with state := .running, integrity := false }
    (s.blockGangs b).foldl (fun s g => s.setGang g.runAgain) s

/-- Whether a block holds its places on a core. -/
def Block.resident (b : Block) : Bool := !b.freed && b.state != .saved && b.state != .pending

/-! ## The issue slot -/

/-- The gang and part whose scalar instruction this step runs. -/
def State.scalarIssuer (s : State) : Option (Gang × BitVec 8) :=
  match s.issue.who with
  | .scalar g m => (s.gang? g).map fun x => (x, m)
  | _ => none
/-- The gang and part whose lane instruction this step runs. -/
def State.laneIssuer (s : State) : Option (Gang × BitVec 8) :=
  match s.issue.who with
  | .lane g m => (s.gang? g).map fun x => (x, m)
  | _ => none
/-- Bytes of the issuing instruction, its literal included (R171). -/
def State.issueSize (s : State) : Nat := 4 * s.issue.words.length

/-- A meaning that runs for the issuing part of the scalar stream. -/
def withScalar (s : State) (k : Gang → BitVec 8 → State) : Outcome :=
  match s.scalarIssuer with
  | some p => .next (k p.1 p.2)
  | none => .fault .noIssuer
/-- A meaning that runs for the issuing part of the lane stream. -/
def withLane (s : State) (k : Gang → BitVec 8 → State) : Outcome :=
  match s.laneIssuer with
  | some p => .next (k p.1 p.2)
  | none => .fault .noIssuer

/-- A trap of the issuing part at issue: nothing else changes (R401). -/
def State.trapScalar (s : State) (g : Gang) (m : BitVec 8) (cause info : Nat) : State :=
  s.takeTrap g.id (TrapInfo.plain cause info 0 (lowestSlice m) s.issue.words)
/-- The same with the lowest slice that fails named. -/
def State.trapSlice (s : State) (g : Gang) (slice cause info : Nat) : State :=
  s.takeTrap g.id (TrapInfo.plain cause info 0 slice s.issue.words)

/-- Counts a request of a cohort as sent and performed (R294). -/
def State.countSent (s : State) (g : GangId) (sent performed : Nat) : State :=
  match g.block?.bind s.cohort? with
  | some c => s.setCohort { c with sent := c.sent + sent, performed := c.performed + performed }
  | none => s

/-- The race detector's interval counter rises (R437). -/
def State.bumpInterval (s : State) (g : GangId) : State :=
  match g.block?.bind s.cohort? with
  | some c => s.setCohort { c with interval := (c.interval + 1) % 2 ^ 24 }
  | none => s
/-- A gang completes an acquire at .block or wider: ACQ takes the counter's value (R437). -/
def State.acquire (s : State) (g : GangId) : State :=
  match g.block?.bind s.cohort?, s.gang? g with
  | some c, some x => s.setGang { x with acq := c.interval }
  | _, _ => s

end Sys2Proof.Machine
end

