-- ==== Sys2Proof/Machine/Flags.lean ====
section
/-! DEFINITION. Predicates and conditions: scalar q registers, lane k registers, compare conditions of CMP, VCMP and FCMP
(R172, R177, R186, R239, R248, R255). -/
namespace Sys2Proof.Machine

/-- The condition of CMP (R177): .LT and .LE as i32, .LTN and .LEN as n32. -/
def cmpHolds (c : Cond) (x y : Word) : Bool :=
  match c with
  | .eq => x == y
  | .ne => x != y
  | .lt => x.slt y
  | .le => x.sle y
  | .ltn => x.ult y
  | .len => x.ule y

/-- q(n) of a slice. -/
def Slice.getQ (sl : Slice) (n : BitVec 3) : Bool := bit sl.q n.toNat
/-- Writes q(n). -/
def Slice.setQ (sl : Slice) (n : BitVec 3) (v : Bool) : Slice :=
  { sl with q := if v then sl.q ||| BitVec.ofNat 8 (2 ^ n.toNat) else sl.q &&& ~~~(BitVec.ofNat 8 (2 ^ n.toNat)) }

/-- R172: guard 7 is true whatever q7 holds; the negate bit inverts. -/
def guardTrue (g : Guard) (sl : Slice) : Bool := (g.q == 7 || sl.getQ g.q) != g.neg

/-- kj of a lane position; k7 reads 1 (R186). -/
def Slice.getK (sl : Slice) (j pos : Nat) : Bool := j == 7 || bit sl.k (4 * j + pos)
/-- Writes kj of a lane position; k7 is never written (R239). -/
def Slice.setK (sl : Slice) (j pos : Nat) (v : Bool) : Slice :=
  if j == 7 then sl
  else
    let b : BitVec 32 := BitVec.ofNat 32 (2 ^ (4 * j + pos))
    { sl with k := if v then sl.k ||| b else sl.k &&& ~~~b }

/-- R186: the lane guard kn with its negate bit. -/
def laneGuard (w : LaneWord) (sl : Slice) (pos : Nat) : Bool := sl.getK (fieldNat w.guard 0 3) pos != bit w.guard 3

/-- An element condition of VCMP by its code (R248), on the exact integer values. -/
def vcmpHolds (code : Nat) (x y : Int) : Bool :=
  match code with
  | 0 => x == y
  | 1 => x != y
  | 2 => decide (x < y)
  | 3 => decide (x ≤ y)
  | 4 => decide (x > y)
  | _ => decide (x ≥ y)

/-- An element condition of FCMP by its code (R255). -/
def fcmpHolds (code : Nat) (x y : FVal) : Bool :=
  let un := x.isNan || y.isNan
  match code with
  | 0 => x.eq y
  | 1 => !x.eq y
  | 2 => x.lt y
  | 3 => !un && !y.lt x
  | 4 => y.lt x
  | 5 => !un && !x.lt y
  | 6 => un
  | _ => !un

/-- Element results combine: 0 is .ALL, 1 is .ANY (R248, R255). -/
def combine (any : Bool) (l : List Bool) : Bool := if any then l.any id else l.all id

end Sys2Proof.Machine
end

