-- ==== Sys2Proof/Machine/Operands.lean ====
section
/-! DEFINITION. Operand forms: scalar sources and destinations (R171, R176, R198), special registers (R193 to R197), lane
sources, modifiers and write-select (R180 to R185, R237). -/
namespace Sys2Proof.Machine

/-! ## Scalar operands -/

/-- src(i, f): a register or the literal (R198). -/
def Slice.src (sl : Slice) : Src → Word
  | .reg n => sl.regs.get n.val
  | .lit w => w
/-- A write to d; 31 discards (R171). -/
def Slice.setDst (sl : Slice) (d : Dst) (v : Word) : Slice :=
  match d with
  | .reg n => { sl with regs := sl.regs.set n.val v }
  | .discard => sl
def Slice.reg (sl : Slice) (n : Nat) : Word := sl.regs.get n
def Slice.setReg (sl : Slice) (n : Nat) (v : Word) : Slice := { sl with regs := sl.regs.set n v }
/-- The 64-bit value of a pair: s(2p) low, s(2p + 1) high (R177). -/
def Slice.pair (sl : Slice) (p : Pair) : Nat := (sl.reg (2 * p.val)).toNat + 2 ^ 32 * (sl.reg (2 * p.val + 1)).toNat
/-- Writes a pair, low word first. -/
def Slice.setPair (sl : Slice) (p : Pair) (v : Nat) : Slice :=
  (sl.setReg (2 * p.val) (BitVec.ofNat 32 v)).setReg (2 * p.val + 1) (BitVec.ofNat 32 (v / 2 ^ 32))
/-- imm7 sign-extended (R176). -/
def immS (i : BitVec 7) : Word := i.signExtend 32
/-- imm7 zero-extended (R176). -/
def immZ (i : BitVec 7) : Word := i.zeroExtend 32

/-- The slices of a part whose guard is true. -/
def Gang.guarded (g : Gang) (m : BitVec 8) (gd : Guard) : List Nat :=
  (setBits 8 m.toNat).filter fun i => match g.slice? i with | some sl => guardTrue gd sl | none => false
/-- The leader slice: the lowest of the part whose guard is true (R283). -/
def Gang.leader (g : Gang) (m : BitVec 8) (gd : Guard) : Option (Nat × Slice) :=
  (g.guarded m gd).head?.bind fun i => (g.slice? i).map fun sl => (i, sl)
/-- The slice from which gang-wide instructions read their operands: the lowest that has not exited (R300). -/
def Gang.operandSlice (g : Gang) : Option (Nat × Slice) :=
  ((List.range g.slices.length).filterMap fun i => (g.slice? i).bind fun sl => if sl.exited then none else some (i, sl)).head?

/-! ## Places of a block in the core's local store (R13, R60) -/

/-- The byte of `ls` at which a block's partition starts. -/
def Block.base (b : Block) : Nat := (16 * b.die + b.core) * 2 ^ 23 + b.granule * 4096
/-- The byte of `ls` at which a block's gauge partition starts (R60, R76). -/
def Block.gaugeBase (b : Block) (r : LaunchRec) : Nat := b.base + (r.lsSz - r.gaugeSz) * 4096

/-! ## Special registers (R193 to R197) -/

/-- WREFRESH from the timebase (R68, R69). -/
def wrefresh (t : Nat) : Word :=
  let p := t % 6400 % 400
  let b := t % 6400 / 400
  BitVec.ofNat 32 ((400 - p) * 2 ^ 8 + (if p < 120 then 16 + b else (b + 1) % 16))

/-- MONRD: the item of MONCFG of the die's monitor (R197, R476). -/
def State.monItem (s : State) (die : Nat) (cfg : Word) : Word :=
  match s.monitors.find? fun m => m.die == die && m.n == fieldNat cfg 24 4 with
  | none => 0
  | some m =>
    match fieldNat cfg 0 5 with
    | 0 => m.min
    | 1 => m.max
    | 2 => m.count
    | i => if i ≤ 18 then m.bins.getD (i - 3) 0 else 0

/-- Word `n` of the special register map as slice `i` of a gang reads it (R193, R206). -/
def State.special (s : State) (g : Gang) (i n : Nat) : Word :=
  let die := s.gangDie g.id
  let grid := s.gridOf g.id
  let idx := match g.id with | .compute b _ => b.index | .control _ _ => 0
  let ofRec (f : LaunchRec → Nat) : Word := match grid with | some gr => BitVec.ofNat 32 (f gr.record) | none => 0
  let gauge (off : Nat) : Word := match grid, s.blockOf g.id with
    | some gr, some b => if gr.record.gaugeSz = 0 then 0 else BitVec.ofNat 32 (s.ls.readNat (b.gaugeBase gr.record + off) 4)
    | _, _ => 0
  let determ := match grid with | some gr => gr.record.determ | none => false
  match n with
  | 0x00 => BitVec.ofNat 32 (4 * i)
  | 0x01 => BitVec.ofNat 32 i
  | 0x02 => BitVec.ofNat 32 g.id.num
  | 0x03 => ofRec fun r => idx % r.gridX
  | 0x04 => ofRec fun r => idx / r.gridX % r.gridY
  | 0x05 => ofRec fun r => idx / (r.gridX * r.gridY)
  | 0x06 => ofRec fun r => idx / r.cohort
  | 0x07 => match grid with | some gr => BitVec.ofNat 32 (gr.member s.pkgId) | none => 0
  | 0x08 => ofRec (·.spanSize)
  | 0x09 => ofRec (·.gridX)
  | 0x0A => ofRec (·.gridY)
  | 0x0B => ofRec (·.gridZ)
  | 0x0C => BitVec.ofNat 32 (s.pkgId % 512)
  | 0x0D => if determ then BitVec.ofNat 32 g.quant else 0
  | 0x0E => if determ then ofRec fun r => 2 ^ r.qlog else 0
  | 0x0F => wrefresh (s.timebase die).toNat
  | 0x10 => bits (s.timebase die) 0 32
  | 0x11 => bits (s.timebase die) 32 32
  | 0x12 => bits (Config.cycles s.clock die) 0 32
  | 0x13 => bits (Config.cycles s.clock die) 32 32
  | 0x14 => gauge 8
  | 0x15 => gauge 12
  | 0x16 => gauge 0
  | 0x17 => g.dmask
  | 0x18 => g.crew
  | 0x19 => g.moncfg
  | 0x1A => s.monItem die g.moncfg
  | _ => 0

/-! ## Lane operands -/

/-- The sixteen swizzles (R183): source byte for result bytes 0, 1, 2, 3; 4 stands for a zero byte. -/
def swizzleBytes (n : Nat) : List Nat :=
  match n with
  | 0 => [0, 1, 2, 3] | 1 => [2, 3, 0, 1] | 2 => [1, 0, 3, 2] | 3 => [3, 2, 1, 0]
  | 4 => [0, 0, 0, 0] | 5 => [1, 1, 1, 1] | 6 => [2, 2, 2, 2] | 7 => [3, 3, 3, 3]
  | 8 => [0, 1, 0, 1] | 9 => [2, 3, 2, 3] | 10 => [0, 1, 4, 4] | 11 => [2, 3, 4, 4]
  | 12 => [0, 2, 1, 3] | 14 => [1, 4, 3, 4] | _ => [0, 4, 2, 4]

/-- R183: a swizzle of a register; w13 swaps the nibbles of each byte. -/
def swizzle (n : Nat) (x : Word) : Word :=
  if n = 13 then packElems 8 ((elems 8 x).map fun b => b % 16 * 16 + b / 16)
  else packElems 8 ((swizzleBytes n).map fun i => if i = 4 then 0 else elem 8 x i)

/-- R182: an operand modifier at element width `w`. -/
def applyMod (m : BitVec 6) (w : Nat) (x : Word) : Word :=
  let low := fieldNat m 0 4
  match fieldNat m 4 2 with
  | 0 => x
  | 1 => packElems 16 [elem 16 x (low % 2), elem 16 x (low % 2)]
  | 2 => packElems w (List.replicate (32 / w) (elem w x low))
  | _ => swizzle low x

/-- Constants of the special sources 800 to 809 (R181). -/
def sourceConst (n : Nat) : Word :=
  match n with
  | 800 => 0x3F800000 | 801 => 0xBF800000 | 802 => 0x3F000000 | 803 => 0x40000000 | 804 => 0x3FB8AA3B
  | 805 => 0x3F317218 | 806 => 0x40490FDB | 807 => 0xFFFFFFFF | 808 => 0x3F803F80 | _ => 0x3C003C00

/-- vn of a lane. -/
def Gang.vreg (g : Gang) (n lane : Nat) : Word := g.v.get (32 * n + lane)
/-- A write of a whole register, after which it holds no error (R440). -/
def Gang.setVreg (g : Gang) (n lane : Nat) (x : Word) : Gang :=
  { g with v := g.v.set (32 * n + lane) x, bad := g.bad.filter (· != 32 * n + lane) }

/-- The 32-bit value of a source field in a lane, before its modifier (R181). DESIGN CHOICE (log 67): source 1020 read for a lane whose slice is in
another run, or in none, gives that slice's own captured register, or 0. -/
def State.laneSource (s : State) (g : Gang) (w : LaneWord) (lane : Nat) (f : BitVec 10) : Word :=
  let n := f.toNat
  if n < 768 then g.vreg n lane
  else if n = 768 || n = 1021 then BitVec.ofNat 32 lane
  else if n < 800 then s.special g (lane / 4) (n - 768)
  else if n < 810 then sourceConst n
  else if n = 1020 then
    match (g.slice? (lane / 4)).bind (·.cur) with
    | some c => c.run.regs.get (fieldNat w.imm 0 5)
    | none => 0
  else if n = 1022 then w.imm.signExtend 32
  else 0

/-- Operands a, b, c with their modifiers at width `ew`. -/
def State.opA (s : State) (g : Gang) (w : LaneWord) (ew lane : Nat) : Word := applyMod w.am ew (s.laneSource g w lane w.a)
def State.opB (s : State) (g : Gang) (w : LaneWord) (ew lane : Nat) : Word := applyMod w.bm ew (s.laneSource g w lane w.b)
def State.opC (s : State) (g : Gang) (w : LaneWord) (ew lane : Nat) : Word := applyMod w.cm ew (s.laneSource g w lane w.c)

/-- R185: what is written to d under the write-select. -/
def writeSelect (ws : BitVec 2) (old new : Word) : Word :=
  match ws.toNat with
  | 1 => packElems 16 [elem 16 new 0, elem 16 old 1]
  | 2 => packElems 16 [elem 16 old 0, elem 16 new 0]
  | _ => new

/-- The part to which a group of slices belongs. -/
def Gang.partOf (g : Gang) (m : BitVec 8) : BitVec 8 := (g.parts.find? fun p => p &&& m != 0).getD m
/-- The lanes of a part that are active in their slices' masks (R186). -/
def Gang.activeLanes (g : Gang) (m : BitVec 8) : List Nat :=
  (setBits 8 m.toNat).flatMap fun i => match g.slice? i with
    | some sl => (List.range 4).filterMap fun p => if bit sl.active p then some (4 * i + p) else none
    | none => []
/-- The lanes of a part that execute a lane instruction: active, with a true guard (R186, R237). -/
def Gang.execLanes (g : Gang) (m : BitVec 8) (w : LaneWord) : List Nat :=
  (g.activeLanes m).filter fun l => match g.slice? (l / 4) with
    | some sl => laneGuard w sl (l % 4)
    | none => false

/-- The lane index of the part's next lane instruction (R154). -/
def Gang.laneIndex (g : Gang) (m : BitVec 8) : Nat :=
  match (g.partSlices m).head?.bind (·.cur) with
  | some c => c.next
  | none => 0
/-- DMASK as a part's run captured it (R207). -/
def Gang.runDmask (g : Gang) (m : BitVec 8) : Word :=
  match (g.partSlices m).head?.bind (·.cur) with
  | some c => c.run.dmask
  | none => g.dmask

end Sys2Proof.Machine
end

