-- ==== Sys2Proof/Machine/LaneFrame.lean ====
section
/-! DEFINITION. What every lane instruction does around its effect (R29, R57, R185, R237, R240, R242): the checks at issue, the
executing lanes, the writes, and the move to the next instruction of the run. -/
namespace Sys2Proof.Machine

/-- The lanes of a set as a 32-bit mask. -/
def laneMask (l : List Nat) : BitVec 32 := maskOf 32 l

/-- A trap of a lane instruction at issue, with the lanes named. -/
def State.trapLane (s : State) (g : Gang) (m : BitVec 8) (cause info : Nat) (lanes : List Nat) (addr : Option (Nat × Nat)) : State :=
  s.takeTrap g.id ⟨cause, 1, lowestSlice m, info, laneMask lanes, addr, g.laneIndex m, s.issue.words⟩

/-- The quantum of a deterministic gang (R354): Q, or none outside deterministic operation. -/
def State.quantum (s : State) (g : GangId) : Option Nat :=
  match s.gridOf g with
  | some gr => if gr.record.determ then some (2 ^ gr.record.qlog) else none
  | none => none
/-- Whether a gang's grid is deterministic (R353). -/
def State.determ (s : State) (g : GangId) : Bool := (s.quantum g).isSome
/-- Whether a gang's grid is redundant (R368). -/
def State.redun (s : State) (g : GangId) : Bool :=
  match s.gridOf g with
  | some gr => gr.record.redun
  | none => false
/-- The gang of the shadow copy (R368). -/
def GangId.shadowed : GangId → GangId
  | .compute b n => .compute { b with shadow := true } n
  | g => g
/-- The shadow of a gang, in a redundant grid. -/
def State.shadowOf (s : State) (g : GangId) : Option GangId := if s.redun g then some (GangId.shadowed g) else none
/-- Registers per lane of a gang (R25); 0 on a control core. -/
def State.laneRegs (s : State) (g : GangId) : Nat :=
  match s.gridOf g with
  | some gr => 32 * gr.record.regs
  | none => 0

/-- A slice at the end of its run: an LMASK that follows the run in queue order takes effect (R30, R217). -/
def Slice.endRun (sl : Slice) : Slice :=
  match sl.queue with
  | [] => { sl with cur := none, active := sl.nextMask.getD sl.active, nextMask := none }
  | r :: _ => { sl with cur := none, active := r.mask.getD sl.active }
/-- One slice past a lane instruction: the next of the run, or the end of the run (R29). -/
def Slice.laneAdvance (sl : Slice) : Slice :=
  match sl.cur with
  | some c => if c.next + 1 < c.run.index + c.run.count then { sl with cur := some { c with next := c.next + 1 } } else sl.endRun
  | none => sl

/-- A gang past a lane instruction of part `m`: the run moves on, QCOUNT rises in deterministic operation (R242), and a REGANG
that waited only for empty queues joins (R33). -/
def State.laneDone (s : State) (g : Gang) (m : BitVec 8) : State :=
  let g := g.mapPart m fun _ sl => sl.laneAdvance
  let g := if s.determ g.id then { g with qcount := g.qcount + 1 } else g
  s.setGang g.joinAll

/-- v registers that a field names: none for a special source. -/
def vNames (f : BitVec 10) (n : Nat) : List Nat := if f.toNat ≤ 767 then (List.range n).map (f.toNat + ·) else []

/-- A register that an instruction reads and that holds an uncorrectable error, with the lanes in which it does (R242, R440); `reads`
gives the registers read, by lane. -/
def Gang.badRead (g : Gang) (reads : List (Nat × Nat)) : Option (Nat × List Nat) :=
  match reads.find? fun p => g.bad.contains (32 * p.1 + p.2) with
  | some p => some (p.1, (reads.filter fun q => q.1 == p.1 && g.bad.contains (32 * q.1 + q.2)).map (·.2))
  | none => none
/-- Registers of a gang among those named that await the reply to a lane's access, whose write is pending (R47). -/
def State.pendingRegs (s : State) (g : GangId) (names : List Nat) : List Nat :=
  names.filter fun n => s.outstanding.any fun o => match o.owner with
    | .lane _ x _ (some d) bytes _ => x == g && d ≤ n && n < d + Nat.max 1 (bytes / 4)
    | _ => false
/-- What a lane instruction meets at issue: the scoreboard, which holds it while a register that it names awaits a pending write (R47,
R190); then the checks always made, in the order of R401: the core kind (0x05), every register named (0x04), the registers read (0x62). The
instruction's own effect follows where none fails. -/
def laneChecked (s : State) (names : List Nat) (reads : Gang → BitVec 8 → List (Nat × Nat)) (k : Gang → BitVec 8 → State) : Outcome :=
  withLane s fun g m =>
    if !(s.pendingRegs g.id names).isEmpty then
      s.setGang (g.mapPart m fun _ sl => { sl with lwait := some (.operands (s.pendingRegs g.id names)) })
    else if g.id.isControl then s.trapLane g m 0x05 1 (g.activeLanes (g.partOf m)) none
    else match names.find? (fun n => n ≥ s.laneRegs g.id) with
      | some n => s.trapLane g m 0x04 n (g.activeLanes (g.partOf m)) none
      | none => match if g.bad.isEmpty then none else g.badRead (reads g m) with
        | some p => s.trapLane g m 0x62 p.1 p.2 none
        | none => k g m
/-- The registers of fields, read in each lane of a list. -/
def fieldReads (fs : List (BitVec 10 × Nat)) (lanes : List Nat) : List (Nat × Nat) :=
  fs.flatMap fun f => (vNames f.1 f.2).flatMap fun n => lanes.map fun l => (n, l)
/-- The destination, in the lanes written, where the write-select keeps half of it (R185). -/
def keptReads (w : LaneWord) (lanes : List Nat) : List (Nat × Nat) :=
  if w.ws = 1 || w.ws = 2 then fieldReads [(w.d, 1)] lanes else []
/-- The sources a, b, c, as many as `n`, and where `old` the destination as a source, with .U in the leader lane alone (R240); and what the
write-select keeps. -/
def aluReads (w : LaneWord) (n : Nat) (old : Bool) (lanes : List Nat) : List (Nat × Nat) :=
  fieldReads ((([w.a, w.b, w.c].take n) ++ if old then [w.d] else []).map fun f => (f, 1)) (if w.u then lanes.take 1 else lanes) ++
    keptReads w lanes

/-- Registers of an instruction with sources a, b, c (as many as `n`) and destination d. -/
def aluNames (w : LaneWord) (n : Nat) : List Nat :=
  (([w.d, w.a, w.b, w.c].take (n + 1)).filter fun f => f.toNat ≤ 767).map (·.toNat)

/-- Writes one result per lane under the write-select (R185). -/
def Gang.writeLanes (g : Gang) (w : LaneWord) (res : List (Nat × Word)) : Gang :=
  res.foldl (fun g p => g.setVreg w.d.toNat p.1 (writeSelect w.ws (g.vreg w.d.toNat p.1) p.2)) g

/-- Results per executing lane: with .U the leader's result for every lane (R240). -/
def laneResults (w : LaneWord) (lanes : List Nat) (f : Nat → Word) : List (Nat × Word) :=
  if w.u then match lanes with
    | [] => []
    | l :: _ => let r := f l; lanes.map fun x => (x, r)
  else lanes.map fun x => (x, f x)

/-- An instruction that writes v registers: `f g lane` is computed from the gang at issue, before any write (R237); `old` says that it
reads the destination. -/
def laneAlu (s : State) (w : LaneWord) (n : Nat) (f : Gang → Nat → Word) (old : Bool := false) : Outcome :=
  laneChecked s (aluNames w n) (fun g m => aluReads w n old (g.execLanes m w)) fun g m =>
    s.laneDone (g.writeLanes w (laneResults w (g.execLanes m w) (f g))) m

/-- Writes a lane predicate in each lane given. -/
def Gang.writePreds (g : Gang) (j : Nat) (res : List (Nat × Bool)) : Gang :=
  res.foldl (fun g p => { g with slices := modifyAt (fun sl => sl.setK j (p.1 % 4) p.2) (p.1 / 4) g.slices }) g

/-- An instruction that writes a lane predicate (R239); `n` sources are registers. -/
def lanePred (s : State) (w : LaneWord) (n : Nat) (f : Gang → Nat → Bool) : Outcome :=
  laneChecked s (((([w.a, w.b].take n).filter fun x => x.toNat ≤ 767)).map (·.toNat))
      (fun g m => fieldReads (([w.a, w.b].take n).map fun f => (f, 1)) (g.execLanes m w)) fun g m =>
    s.laneDone (g.writePreds (fieldNat w.d 0 3) ((g.execLanes m w).map fun l => (l, f g l))) m

/-- A lane predicate as a source (R239). -/
def Gang.pred (g : Gang) (j lane : Nat) : Bool :=
  match g.slice? (lane / 4) with
  | some sl => sl.getK j (lane % 4)
  | none => false

end Sys2Proof.Machine
end

