-- ==== Sys2Proof/Machine/Crypto.lean ====
section
/-! DEFINITION. The named algorithms of the manual: SHA-256 and RSASSA-PSS (R381 to R383), and CRC-64 (R230, R370). PRESUMED
(log 21): SHA-256, MGF1 and RSASSA-PSS are those of FIPS 180-4 and RFC 8017, which the manual names and does not restate. -/
namespace Sys2Proof.Machine

/-! ## SHA-256 -/

def shaK : List Word := [
  0x428A2F98, 0x71374491, 0xB5C0FBCF, 0xE9B5DBA5, 0x3956C25B, 0x59F111F1, 0x923F82A4, 0xAB1C5ED5,
  0xD807AA98, 0x12835B01, 0x243185BE, 0x550C7DC3, 0x72BE5D74, 0x80DEB1FE, 0x9BDC06A7, 0xC19BF174,
  0xE49B69C1, 0xEFBE4786, 0x0FC19DC6, 0x240CA1CC, 0x2DE92C6F, 0x4A7484AA, 0x5CB0A9DC, 0x76F988DA,
  0x983E5152, 0xA831C66D, 0xB00327C8, 0xBF597FC7, 0xC6E00BF3, 0xD5A79147, 0x06CA6351, 0x14292967,
  0x27B70A85, 0x2E1B2138, 0x4D2C6DFC, 0x53380D13, 0x650A7354, 0x766A0ABB, 0x81C2C92E, 0x92722C85,
  0xA2BFE8A1, 0xA81A664B, 0xC24B8B70, 0xC76C51A3, 0xD192E819, 0xD6990624, 0xF40E3585, 0x106AA070,
  0x19A4C116, 0x1E376C08, 0x2748774C, 0x34B0BCB5, 0x391C0CB3, 0x4ED8AA4A, 0x5B9CCA4F, 0x682E6FF3,
  0x748F82EE, 0x78A5636F, 0x84C87814, 0x8CC70208, 0x90BEFFFA, 0xA4506CEB, 0xBEF9A3F7, 0xC67178F2]

def shaH : List Word := [0x6A09E667, 0xBB67AE85, 0x3C6EF372, 0xA54FF53A, 0x510E527F, 0x9B05688C, 0x1F83D9AB, 0x5BE0CD19]

def rotr (x : Word) (n : Nat) : Word := x.rotateRight n

/-- Big-endian bytes of a number, `n` of them. -/
def beBytes (n v : Nat) : List Byte := (leBytes n v).reverse

/-- The padded message. -/
def shaPad (m : List Byte) : List Byte :=
  let z := (119 - m.length % 64) % 64
  m ++ [0x80] ++ List.replicate z 0 ++ beBytes 8 (8 * m.length)

/-- The 64 words of one block's schedule, newest first. -/
def shaSchedule (ws : List Word) : List Word :=
  (List.range 48).foldl (fun l _ =>
    let a := l.getD 14 0
    let b := l.getD 1 0
    let s0 := rotr a 7 ^^^ rotr a 18 ^^^ (a >>> 3)
    let s1 := rotr b 17 ^^^ rotr b 19 ^^^ (b >>> 10)
    (s1 + l.getD 6 0 + s0 + l.getD 15 0) :: l) ws.reverse

/-- One round on the eight working words. -/
def shaRound (h : List Word) (kw : Word) : List Word :=
  match h with
  | [a, b, c, d, e, f, g, i] =>
    let t1 := i + (rotr e 6 ^^^ rotr e 11 ^^^ rotr e 25) + ((e &&& f) ^^^ (~~~e &&& g)) + kw
    let t2 := (rotr a 2 ^^^ rotr a 13 ^^^ rotr a 22) + ((a &&& b) ^^^ (a &&& c) ^^^ (b &&& c))
    [t1 + t2, a, b, c, d + t1, e, f, g]
  | l => l

/-- One 64-byte block. -/
def shaBlock (h : List Word) (bs : List Byte) : List Word :=
  let ws := (List.range 16).map fun i => BitVec.ofNat 32 (ofBeBytes ((bs.drop (4 * i)).take 4))
  let w := (shaSchedule ws).reverse
  List.zipWith (· + ·) h ((List.zipWith (· + ·) shaK w).foldl shaRound h)

/-- SHA-256 of a message, as 32 bytes. -/
def sha256 (m : List Byte) : List Byte :=
  let p := shaPad m
  let h := (List.range (p.length / 64)).foldl (fun h i => shaBlock h ((p.drop (64 * i)).take 64)) shaH
  h.flatMap fun w => beBytes 4 w.toNat

/-! ## RSASSA-PSS with SHA-256, MGF1 and a 32-byte salt (R382) -/

/-- b^e mod n, on the bits of e from the top. -/
def powMod (b n : Nat) : List Bool → Nat
  | bs => bs.foldl (fun r bit => let s := r * r % n; if bit then s * b % n else s) 1
/-- The 17 bits of the exponent 65,537, from the top. -/
def e65537 : List Bool := [true] ++ List.replicate 15 false ++ [true]

/-- MGF1 with SHA-256. -/
def mgf1 (seed : List Byte) (n : Nat) : List Byte :=
  ((List.range ((n + 31) / 32)).flatMap fun c => sha256 (seed ++ beBytes 4 c)).take n

/-- EMSA-PSS check of an encoded message of 384 bytes against a message, for a modulus of 3,072 bits. -/
def pssCheck (em msg : List Byte) : Bool :=
  let h := (em.drop 351).take 32
  let db := List.zipWith (· ^^^ ·) (em.take 351) (mgf1 h 351)
  let db := (match db with | b :: l => (b &&& 0x7F) :: l | [] => [])
  let salt := db.drop 319
  em.length == 384 && em.getD 383 0 == 0xBC && (em.getD 0 0) &&& 0x80 == 0 &&
    db.take 319 == List.replicate 318 0 ++ [1] &&
    h == sha256 (List.replicate 8 0 ++ sha256 msg ++ salt)

/-- Verifies a 384-byte big-endian signature. -/
def pssVerify (modulus sig msg : List Byte) : Bool :=
  let n := ofBeBytes modulus
  let s := ofBeBytes sig
  s < n && pssCheck (beBytes 384 (powMod s n e65537)) msg

/-! ## CRC-64 of ECMA-182: initial value 0, no reflection, no final inversion -/

/-- One byte: eight steps of the polynomial. -/
def crcByte (c : DWord) (b : Byte) : DWord :=
  (List.range 8).foldl (fun c _ => if c.msb then (c <<< 1) ^^^ 0x42F0E1EBA9EA3693#64 else c <<< 1)
    (c ^^^ (b.zeroExtend 64 <<< 56))
def crc64 (bs : List Byte) : DWord := bs.foldl crcByte 0

end Sys2Proof.Machine
end

