-- ==== Sys2Proof/Machine/Start.lean ====
section
/-! DEFINITION. New gangs (R23, R399) and the structural-test units: fences, passes and monitors (R465 to R476). -/
namespace Sys2Proof.Machine

/-! ## New slices and gangs -/

/-- A slice at launch (R23): every lane active, its registers the free values of its seed (log 5), but q7 and k7, which are true. -/
def newSlice (seed i : Nat) (pc : VAddr) : Slice :=
  let p := Config.startPreds seed i
  { pc := pc, regs := ⟨.start (16 * seed + i), []⟩, q := bits p 0 8 ||| 0x80, active := 15, k := bits p 8 32 ||| 0xF0000000, loops := [],
    exited := false, queue := [], cur := none, nextMask := none, pending := 0, pendingPc := 0, wait := none, lwait := none }

/-- A gang at launch on a die with `n` slices, all in one part; DMASK holds the issuing die (R196). -/
def newGang (id : GangId) (die seed n group : Nat) (pc : VAddr) : Gang :=
  { id := id, parts := [BitVec.ofNat 8 (2 ^ n - 1)], slices := (List.range n).map fun i => newSlice seed i pc,
    v := ⟨.start (16 * seed + 15), []⟩, bad := [], lq := [], sq := [], tq := [], c := 0, batch := 0, openOps := [], sealed := [],
    rsSeq := 0, gaugeSeq := 0, dmask := BitVec.ofNat 32 (2 ^ die), crew := 0, moncfg := 0, quant := 0, qcount := 0, replay := 0, replaySeq := [], arrived := 0,
    arrPhase := 0, qbuf := [], abuf := [], acq := 0, halted := false, trapping := none, exited := false, turn := none, ended := none,
    stopped := false, group := group }

/-- Whether a request is a gang's, or one of its operations'. -/
def State.ownsRequest (s : State) (g : GangId) (o : Outgoing) : Bool :=
  o.owner.ofGang g || match o.owner with
    | .engine i | .sub i _ => match s.op? i with | some x => x.gang == g | none => false
    | _ => false
/-- Requests, operations and arrivals of a gang whose state is gone end with it: none of its cohort's traffic is left to be performed. -/
def State.dropGang (s : State) (g : GangId) : State :=
  let left := (s.outstanding.filter (s.ownsRequest g)).length + (s.arrivals.filter fun a => a.src == some g).length +
    (s.ops.filter fun o => o.gang == g && !o.complete).length
  let s := s.countSent g 0 left
  { s with
    outstanding := s.outstanding.filter (fun o => !s.ownsRequest g o)
    flights := s.flights.filter (fun f => !s.ownsRequest g f.out)
    remote := s.remote.filter (fun r => r.gang != g)
    fetched := s.fetched.filter (fun f => f.gang != g)
    arrivals := s.arrivals.filter (fun a => a.src != some g)
    ops := s.ops.filter (fun o => o.gang != g) }
/-- Starts the supervisor gang of a control core at an address (R385, R399). A new start replaces the gang before, with all that it had
under way. -/
def State.startControl (s : State) (die idx : Nat) (root : Nat) (identity : Bool) (pc : VAddr) : State :=
  match s.control? die idx with
  | none => s
  | some c =>
    let g := newGang (.control die idx) die (s.clock * 4096) 1 0 pc
    let s := s.setControl { c with root := root, identity := identity, running := true }
    { s.dropGang g.id with gangs := s.gangs.filter (fun x => x.id != g.id) ++ [g] }

/-! ## Units with structural tests (R467, R474) -/

/-- UNITKIND, number within the die and steps of a pass, for a unit index of R474. -/
def testUnit (die u : Nat) : Option (Nat × Nat × Nat) :=
  if die < 8 then
    if u < 64 then some (1, u, 256)
    else if u < 2112 then some (2, u - 64, 512)
    else if u < 2624 then some (3, u - 2112, 4096)
    else if u < 2632 then some (4, u - 2624, 128)
    else none
  else if die < 12 then (if u < 4 then some (4, u, 128) else none)
  else if die = 12 then (if u < 16 then some (5, u, 64) else none)
  else none

/-- The unit index of row engine 0 of a die. -/
def rowEngineBase (die : Nat) : Nat := if die < 8 then 2624 else 0
/-- Row engines of a die. -/
def rowEngines (die : Nat) : Nat := if die < 8 then 8 else if die < 12 then 4 else 0

/-- The offset of a unit's entry in the test result table. -/
def trtOff (u : Nat) : Nat := 0x20000 + 8 * u
def State.fenced (s : State) (die u : Nat) : Bool := bit (s.devGet die (trtOff u)) 63
def State.suspect (s : State) (die u : Nat) : Bool := bit (s.devGet die (trtOff u)) 62

/-- An entry with its flags and counts (R474). -/
def trtEntry (fenced suspect : Bool) (failStep fails passes : Nat) : DWord :=
  BitVec.ofNat 64 (((if fenced then 2 ^ 63 else 0) + (if suspect then 2 ^ 62 else 0)) + failStep % 2 ^ 12 * 2 ^ 48 +
    Nat.min fails 0xFFFF * 2 ^ 32 + Nat.min passes 0xFFFFFFFF)
/-- Replaces an entry by a function of its fields. -/
def State.trtSet (s : State) (die u : Nat) (f : Bool → Bool → Nat → Nat → Nat → DWord) : State :=
  let e := s.devGet die (trtOff u)
  s.devSet die (trtOff u) (f (bit e 63) (bit e 62) (fieldNat e 48 12) (fieldNat e 32 16) (fieldNat e 0 32))

/-- The blocks that can no longer run on their core once a unit of a die is fenced (R471). -/
def State.fenceBlocks (s : State) (die u : Nat) : List BlockId :=
  match testUnit die u with
  | some (1, n, _) =>
    if (List.range 4).all fun e => s.fenced die (n / 4 * 4 + e) then
      (s.blocks.filter fun b => b.die == die && b.core == n / 4).map (·.id)
    else []
  | some (2, n, _) =>
    ((s.blocks.filter fun b => b.die == die && b.core == n / 128).filter fun b =>
      (s.blockGangs b.id).any fun g => !g.exited && g.id.num % 4 == n % 128 / 32 && g.group == n % 32 / 8 &&
        n % 8 < g.slices.length).map (·.id)
  | some (3, n, _) => (s.blocks.filter fun b => b.die == die && b.core == n / 32).map (·.id)
  | _ => []

/-- Fences a unit (R471) and answers whether a resident block was halted. -/
def State.fenceUnit (s : State) (die u : Nat) : State × Bool :=
  let s := { s with fences := s.fences.filter (· != (die, u)) }
  if s.fenced die u then (s, false)
  else
    let s := (s.trtSet die u fun _ su fs f p => trtEntry true su fs f p).count die 0x7090
    let hit := (s.fenceBlocks die u).filter fun b => match s.block? b with | some x => x.state == .running | none => false
    (hit.foldl (fun s b => s.haltBlock b) s, !hit.isEmpty)

/-- Whether a unit is in a forced pass, during which it takes no other work (R469). -/
def State.unitForced (s : State) (die u : Nat) : Bool := s.passes.any fun p => p.die == die && p.u == u && p.forced
/-- Whether a unit takes work: neither fenced nor in a forced pass (R469, R471). -/
def State.unitTakes (s : State) (die u : Nat) : Bool := !s.fenced die u && !s.unitForced die u
/-- The engines of a core that take work: neither fenced, nor suspect, nor in a forced pass (R324, R465, R469, R471). -/
def State.engines (s : State) (die core : Nat) : List Nat :=
  (List.range 4).filter fun e => let u := 4 * core + e
    s.unitTakes die u && !s.suspect die u
/-- The engine that computes a row of member `k`: the solo engine, or the strip's by round-robin (R324, R471). -/
def State.engineFor (s : State) (b : Block) (solo : Bool) (slot k row : Nat) : Option Nat :=
  let l := s.engines b.die b.core
  if solo then (if l.contains (slot / 8) then some (slot / 8) else l.head?)
  else if l.isEmpty then none else l[(4 * k + row / 16) % l.length]?
/-- Whether an engine of a block's core does a part of a tile operation. -/
def State.engineWorks (s : State) (b : Block) (e : Nat) : TileOp → Bool
  | .product true ms _ => ms.any fun m => s.engineFor b true m.slot 0 0 == some e
  | .product false ms _ => (List.range (4 * ms.length)).any fun k => s.engineFor b false 0 (k / 4) (16 * (k % 4)) == some e
  | .zero k => s.engineFor b true k 0 0 == some e
  | .load k _ => s.engineFor b true k 0 0 == some e
/-- The rank that a LOC address names, for a block of rank `me` (R61). -/
def windowRank (me addr : Nat) : Nat := addr / 2 ^ 23 % 16 + 16 * (if (me ≥ 16) != (addr / 2 ^ 27 % 2 = 1) then 1 else 0)
/-- The block of a rank in a block's cohort and copy. -/
def State.peer (s : State) (b : BlockId) (rank : Nat) : Option Block :=
  s.block? { b with index := b.index / s.cohortSize b.handle * s.cohortSize b.handle + rank }
/-- The blocks whose local stores an operation reads or writes: through the cohort window, its own member's exports, or its own partition. -/
def State.opStores (s : State) (o : EngineOp) : List Block :=
  match o.gang.block? with
  | none => []
  | some b =>
    let at' (space addr : Nat) : List Block :=
      if space = 1 then (s.peer b (windowRank (s.rank b) addr)).toList
      else if space = 2 then (s.block? ⟨b.handle, 16 * (addr / 2 ^ 27 % 2) + addr / 2 ^ 23 % 16, false⟩).toList
      else []
    match o.kind with
    | .copy c => at' c.dspace c.dst ++ at' c.sspace c.src
    | .gather _ => (s.block? b).toList
    | _ => []
/-- Whether a unit is running work that a fence waits for: a tile operation, a copy step or a gather (R472). -/
def State.unitBusy (s : State) (die u : Nat) : Bool :=
  let live := s.ops.filter fun o => !o.complete && !s.tileHeld o
  match testUnit die u with
  | some (1, n, _) => live.any fun o => match o.kind, s.blockOf o.gang with
    | .tile t, some b => b.die == die && b.core == n / 4 && s.engineWorks b (n % 4) t
    | _, _ => false
  | some (3, n, _) => live.any fun o => (s.opStores o).any fun b => b.die == die && b.core == n / 32
  | some (4, _, _) => s.rowJobs.any fun j => j.die == die
  | some (5, _, _) => live.any fun o => match o.kind with
    | .gather _ => true
    | _ => false
  | _ => false

/-- Starts a forced pass (R469), replacing any pass of the unit in progress. -/
def State.startPass (s : State) (die u : Nat) (byReq lift : Bool) : State :=
  match testUnit die u with
  | none => s
  | some _ => { s with passes := s.passes.filter (fun p => !(p.die == die && p.u == u)) ++ [⟨die, u, 0, true, byReq, lift, false, s.clock⟩] }

/-- TESTREQ after a pass that it started has ended (R473). -/
def State.testreqDone (s : State) (die : Nat) (p : TestPass) (failed : Bool) : State :=
  if p.byReq then s.devSet die 0xE008 (if failed then 0x40000000 else 0)
  else if p.forced then
    s.devSet die 0xE008 ((s.devGet die 0xE008 &&& 0xBFFFFFFF) ||| (if failed then 0x40000000 else 0))
  else s

/-- One step of a pass (R467, R470, R471). -/
def State.passStep (s : State) (p : TestPass) (kind num steps : Nat) (r : StepResult) : State :=
  let s := s.count p.die 0x7080
  let rest := s.passes.filter fun x => !(x.die == p.die && x.u == p.u)
  match r with
  | .mismatch =>
    let s := ({ s with passes := rest }.count p.die 0x7088).trtSet p.die p.u fun fe su _ f n => trtEntry fe su p.step (f + 1) n
    let f := s.fenceUnit p.die p.u
    (f.1.event p.die (0x6F + kind) kind num (p.step + if f.2 then 2 ^ 31 else 0) none []).testreqDone p.die p true
  | .pass =>
    if p.step + 1 < steps then { s with passes := rest ++ [{ p with step := p.step + 1, since := s.clock }] }
    else
      let s := { s with passes := rest }.trtSet p.die p.u fun fe _ fs f n => trtEntry (fe && !p.lift) false fs f (n + 1)
      s.testreqDone p.die p false

/-! ## Monitors (R476) -/

/-- Readings of monitor `n`: none sampled yet. -/
def Monitor.empty (die n : Nat) : Monitor := ⟨die, n, 0, 0, 0, List.replicate 16 0, 0⟩
def State.monitor (s : State) (die n : Nat) : Monitor :=
  (s.monitors.find? fun m => m.die == die && m.n == n).getD (Monitor.empty die n)
def State.setMonitor (s : State) (m : Monitor) : State :=
  { s with monitors := s.monitors.filter (fun x => !(x.die == m.die && x.n == m.n)) ++ [m] }
/-- The bin of a sample. -/
def sampleBin (v : Nat) : Nat := if v = 0 then 0 else Nat.min 15 (Nat.log2 v + 1)
/-- Saturating increment of a 32-bit reading. -/
def satInc (w : Word) : Word := if w = BitVec.allOnes 32 then w else w + 1
/-- One sample. -/
def Monitor.sample (m : Monitor) (v : Nat) : Monitor :=
  let w : Word := BitVec.ofNat 32 (Nat.min v 0xFFFFFFFF)
  { m with
    min := if m.count = 0 || w.ult m.min then w else m.min
    max := if m.max.ult w then w else m.max
    count := satInc m.count
    bins := modifyAt satInc (sampleBin v) m.bins }
/-- A sample of every enabled monitor of a die whose source is `src`: of the state, only the monitors change. -/
def State.sampleAll (s : State) (die src v : Nat) : State :=
  let enabled (n : Nat) : Bool :=
    let c := s.devGet die (0xE100 + 8 * n)
    bit c 8 && fieldNat c 0 8 == src
  let after := (List.range 16).foldl (fun (t : State) n => if enabled n then t.setMonitor ((t.monitor die n).sample v) else t) s
  { s with monitors := after.monitors }

end Sys2Proof.Machine
end

