-- ==== Sys2Proof/Machine/Boot.lean ====
section
/-! DEFINITION. Bring-up: the boot ROM, image verification and measurement, attestation, the control-core start (R378 to R388). -/
namespace Sys2Proof.Machine

/-! ## BOOTSTAT and MEASURE (R383, R384) -/

def State.stage (s : State) : Nat := fieldNat (s.devGet 12 0x4000) 0 4
/-- BOOTSTAT with a STAGE and a CODE. -/
def State.setStage (s : State) (stage code : Nat) : State := s.devSet 12 0x4000 (BitVec.ofNat 64 (stage + 2 ^ 8 * code))
/-- Four words of die 12's registers from an offset, as bytes. -/
def State.devBytes (s : State) (off n : Nat) : List Byte :=
  (List.range n).flatMap fun i => leBytes 8 (s.devGet 12 (off + 8 * i)).toNat
/-- Writes bytes into consecutive 8-byte registers of die 12. -/
def State.setDevBytes (s : State) (off : Nat) (bs : List Byte) : State :=
  (List.range (bs.length / 8)).foldl
    (fun s i => s.devSet 12 (off + 8 * i) (BitVec.ofNat 64 (ofLeBytes ((bs.drop (8 * i)).take 8)))) s
/-- MEASURE extended by an accepted image. -/
def State.extendMeasure (s : State) (kind svn : Nat) (digest : List Byte) : State :=
  s.setDevBytes 0x4020 (sha256 (s.devBytes 0x4020 4 ++ leBytes 1 kind ++ leBytes 4 svn ++ digest))

/-! ## Images (R381, R382) -/

/-- The checks of R382 up to the signature, on an image whose header lies at `pa`: the first cause that fails. -/
def State.headerCause (s : State) (pa kind : Nat) : Option Nat :=
  let h := s.mem.read pa 0x400
  let f (off n : Nat) := ofLeBytes ((h.drop off).take n)
  let zero (off n : Nat) := ((h.drop off).take n).all (· == 0)
  let payload := s.mem.readNat (pa + 0x20) 4
  let load := f 0x10 8
  if f 0 4 != 0x4B473942 || f 4 2 != 1 || f 6 1 != kind || f 7 1 != 0 || f 0x0C 4 != 0 || !zero 0x24 28 || !zero 0x60 32 ||
      !zero 0x204 124 || payload % 64 != 0 || payload > 0x4000000 || load % 0x10000 != 0 || load / 2 ^ 48 ≥ 8 ||
      load % 2 ^ 48 + payload > Config.hbmBytes || f 0x18 8 % 4 != 0 || f 0x18 8 ≥ payload then some 1
  else if f 0x200 4 != 65537 || !(Config.keyHashes.contains (sha256 ((h.drop 0x80).take 384 ++ (h.drop 0x200).take 4))) then some 2
  else if f 8 4 < Config.minSvn kind then some 3
  else if !pssVerify ((h.drop 0x80).take 384) ((h.drop 0x280).take 384) (h.take 0x280) then some 4
  else none

/-- Verification of an image: the payload is copied to LOADPA before its digest is taken; on acceptance MEASURE is extended. -/
def State.verifyImage (s : State) (pa kind : Nat) : State × Except Nat Image :=
  match s.headerCause pa kind with
  | some c => (s, .error c)
  | none =>
    let load := s.mem.readNat (pa + 0x10) 8
    let payload := s.mem.read (pa + 0x400) (s.mem.readNat (pa + 0x20) 4)
    let digest := s.mem.read (pa + 0x40) 32
    let svn := s.mem.readNat (pa + 8) 4
    let entry := s.mem.readNat (pa + 0x18) 8
    let s := { s with mem := s.mem.write load payload }
    if sha256 payload != digest then (s, .error 5)
    else (s.extendMeasure kind svn digest, .ok ⟨load, entry, svn⟩)

/-! ## The steps of bring-up (R379, R380, R384, R385) -/

/-- The entry of an inbound region that the ROM opens (R91, R380), in the identity context of die 12's control core 0. -/
def State.openRegion (s : State) (i vabase len : Nat) : State :=
  (s.devSet 12 (0x2000 + 16 * i) (BitVec.ofNat 64 vabase)).devSet 12 (0x2008 + 16 * i)
    (BitVec.ofNat 64 (2 ^ 63 + 2 ^ 60 + 2 ^ 59 + 12 * 2 ^ 55 + len * 2 ^ 32))
/-- POWER_ON: the timebase counts on, every die's copy set from die 12's, and the boot ROM performs steps 1 and 2. -/
def State.powerOn (s : State) : State :=
  let up (d : Die) : Die := { d with powered := true, inReset := false, timebaseOn := true, ticks := s.ticks }
  let identity (c : ControlCore) : ControlCore := if c.die = 12 && c.idx = 0 then { c with identity := true } else c
  let s := { s with dies := s.dies.map up, controls := s.controls.map identity, boot := { s.boot with romRegions := [62, 63] } }
  let s := (s.openRegion 62 (12 * 2 ^ 48 + 0xF00000000000) 1).openRegion 63 0 1024
  (s.setDevBytes 0x4020 (List.replicate 32 0)).setStage 1 0

/-- A write to BOOTCMD: 1 in stage 1 starts step 4. -/
def State.bootcmd (s : State) (v : DWord) : State :=
  if v != 1 || s.stage != 1 then s
  else
    match s.verifyImage 0 1 with
    | (s, .error c) => s.setStage 0xF c
    | (s, .ok img) =>
      let s := { s with boot := { s.boot with firmware := some img } }
      (s.setStage 2 0).startControl 12 0 0 true (BitVec.ofNat 56 (img.loadPa + img.entry))

/-- A write to SBVERIFY: the PA of a supervisor image header; ignored while busy. -/
def State.sbverify (s : State) (v : DWord) : State :=
  if s.boot.verifying.isSome then s
  else ({ s with boot := { s.boot with verifying := some v.toNat } }).devSet 12 0x4010 1

/-- The end of that verification: 2 accepted, 0x80 + cause rejected. -/
def State.sbverifyDone (s : State) : State :=
  match s.boot.verifying with
  | none => s
  | some pa =>
    let s := { s with boot := { s.boot with verifying := none } }
    match s.verifyImage pa 2 with
    | (s, .error c) => s.devSet 12 0x4010 (BitVec.ofNat 64 (0x80 + c))
    | (s, .ok img) => ({ s with boot := { s.boot with supervisor := some img } }).devSet 12 0x4010 2

/-- A write to ATTREQ: 1 starts a report of NONCE and MEASURE as they stand; ignored while busy. -/
def State.attreq (s : State) (v : DWord) : State :=
  if v != 1 || s.boot.attesting.isSome then s
  else ({ s with boot := { s.boot with attesting := some (s.devBytes 0x4040 4 ++ s.devBytes 0x4020 4) } }).devSet 12 0x4060 1

/-- The first 128 bytes of a report (R386). -/
def State.reportBody (s : State) (captured : List Byte) : List Byte :=
  let svn (i : Option Image) : Nat := match i with | some x => x.svn | none => 0
  captured ++ leBytes 2 s.pkgId ++ leBytes 1 (fieldNat (s.devGet 12 0x1000) 24 8) ++ List.replicate 5 0 ++
    leBytes 4 (svn s.boot.firmware) ++ leBytes 4 (svn s.boot.supervisor) ++ leBytes 8 (s.timebase 12).toNat ++
    List.replicate 40 0
/-- The report is written and ATTREQ reads 0. -/
def State.reportDone (s : State) : State :=
  match s.boot.attesting with
  | none => s
  | some captured =>
    let body := s.reportBody captured
    let sig := (Config.identitySign body ++ List.replicate 384 0).take 384
    (({ s with boot := { s.boot with attesting := none } }).setDevBytes 0x4100 (body ++ sig)).devSet 12 0x4060 0

/-- Whether every near die's control cores run. -/
def State.nearStarted (s : State) : Bool := s.controls.all fun c => 8 ≤ c.die || c.running
/-- A write to CCSTART: starts a near-die control core at the accepted supervisor image; STAGE becomes 3 with the last of them
(log 11). -/
def State.ccstart (s : State) (v : DWord) : State :=
  let die := fieldNat v 4 4
  let idx := fieldNat v 0 1
  match s.boot.supervisor, s.control? die idx with
  | some img, some c =>
    if c.running || 8 ≤ die then s
    else
      let s := s.startControl die idx (fieldNat v 16 48 * 2 ^ 16) false (BitVec.ofNat 56 (img.loadPa + img.entry))
      if s.stage = 2 && s.nearStarted then s.setStage 3 0 else s
  | _, _ => s

/-- What a read of CCSTART returns. -/
def State.ccstartRead (s : State) : DWord :=
  BitVec.ofNat 64 ((s.controls.filter fun c => c.running && c.die < 8).foldl (fun n c => n + 2 ^ (2 * c.die + c.idx)) 0)

/-- A refresh of MGMT (R388): TIMEBASE is written last. -/
def State.mgmtRefresh (s : State) : State :=
  let sample := (Config.sensors s.clock ++ List.replicate 0x22 0).take 0x22 ++ List.replicate 14 0
  ((s.setDevBytes 0x5000 sample).devSet 12 0x5030 (BitVec.ofNat 64 s.boot.stretches)).devSet 12 0x5038 (s.timebase 12)

end Sys2Proof.Machine
end

