-- ==== Sys2Proof/Machine/Regs.lean ====
section
/-! DEFINITION. Device registers as software reads and writes them: which exist on a die, which bits a write keeps (a reserved
bit is ignored and reads as zero, R404), and what a write starts. Offsets are from 0xF000_0000_0000 of the die's window. -/
namespace Sys2Proof.Machine

def inRange (lo hi off : Nat) : Bool := lo ≤ off && off < hi

/-- Whether a die has a register at an 8-byte offset (R75, R87, R93, R384, R396, R400, R445, R446, R448, R454, R460, R473). -/
def regExists (die off : Nat) : Bool :=
  let near := die < 8
  let far := 8 ≤ die && die < 12
  let fab := die == 12
  die < 13 && ((off == 0 || off == 8) && !far || inRange 0x100 0x160 off && !fab ||
  (off == 0x1000 || inRange 0x2000 0x2400 off || inRange 0x3000 0x3200 off || inRange 0x10000 0x14000 off ||
    inRange 0x4000 0x4018 off || inRange 0x4020 0x4068 off || inRange 0x4100 0x4300 off || off == 0x4400 ||
    inRange 0x5000 0x5100 off || inRange 0xB000 0xB400 off) && fab ||
  inRange 0x6000 0x6028 off && !far || inRange 0x7000 0x70A0 off || off == 0xA000 ||
  inRange 0x8000 (0x8000 + 0x40 * (if near then 24 else if far then 4 else 80)) off ||
  inRange 0xC000 0xC080 off && far || inRange 0xE000 0xE018 off || inRange 0xE100 0xE180 off ||
  inRange 0x20000 (0x20000 + 8 * (if near then 2632 else if far then 4 else 16)) off)

/-- The 8-byte register at an offset as a read returns it; zero where none is. -/
def State.regRead (s : State) (die off : Nat) : DWord :=
  if !regExists die off then 0
  else if off = 0x8 then BitVec.ofNat 64 (s.invalidations.filter fun p => p.die == die).length
  else if off = 0x4008 then 0
  else if off = 0x4400 then s.ccstartRead
  else s.devGet die off

/-! ## TLB invalidation (R87) -/

/-- Whether an invalidation covers a range of virtual addresses: every one, or those that meet the named page. -/
def invCovers (v : DWord) (base size : Nat) : Bool :=
  let page := fieldNat v 16 40 * 2 ^ 16
  match fieldNat v 14 2 with
  | 3 => true
  | k =>
    let n := if k = 0 then 0x10000 else if k = 1 then 0x200000 else 0x40000000
    page / n * n < base + size && base < page / n * n + n
def invMatches (v : DWord) (e : TlbEntry) : Bool := invCovers v e.base e.size
/-- A write to TLBINV: the invalidation is pending until it has taken effect and the accesses translated before it are done. -/
def State.tlbinv (s : State) (die : Nat) (v : DWord) : State :=
  { s with invalidations := s.invalidations ++ [⟨die, v &&& 0x00FFFFFFFFFFC000, false, []⟩] }
/-- Requests of a die in flight through translations that an invalidation covers. -/
def State.invWaits (s : State) (p : Invalidation) : List (Requester × BitVec 16) :=
  (s.outstanding.filter fun o => o.src.die == p.die && o.space == 0 && invCovers p.v o.addr 1).map fun o => (o.src, o.tsn)
/-- Whether an access translated before an invalidation took effect is still to be performed. -/
def State.invBusy (s : State) (p : Invalidation) : Bool :=
  (s.outstanding.any fun o => p.waits.contains (o.src, o.tsn)) ||
  s.arrivals.any fun a => a.space == 0 && a.place.isSome && invCovers p.v a.addr 16 &&
    match a.src with | some g => s.gangDie g == p.die | none => false
/-- Whether a pending invalidation of a die can move on. -/
def State.invDue (s : State) (p : Invalidation) : Bool := !p.effective || !s.invBusy p
/-- The oldest pending invalidation of a die that can takes effect, or is complete. -/
def State.tlbinvDone (s : State) (die : Nat) : State :=
  match s.invalidations.find? fun p => p.die == die && s.invDue p with
  | none => s
  | some p =>
    let q : Invalidation := if p.effective then p else { p with effective := true, waits := s.invWaits p }
    let s := { s with tlb := s.tlb.filter fun e => !(e.die == die && invMatches p.v e) }
    if s.invBusy q then { s with invalidations := s.invalidations.map fun x => if x == p then q else x }
    else { s with invalidations := s.invalidations.erase p }

/-! ## Test registers (R473) -/

/-- A write to TESTREQ. -/
def State.testreq (s : State) (die : Nat) (v : DWord) : State :=
  if bit v 31 && !bit (s.devGet die 0xE008) 31 && (testUnit die (fieldNat v 0 16)).isSome then
    (s.startPass die (fieldNat v 0 16) true false).devSet die 0xE008 (0x80000000 ||| (s.devGet die 0xE008 &&& 0x40000000))
  else s
/-- A write of 1 to a unit's fence: it waits for the work that the unit is running (R472). -/
def State.fenceReq (s : State) (die u : Nat) : State :=
  if bit (s.devGet die 0xE008) 31 || (testUnit die u).isNone then s
  else if s.unitBusy die u then (if s.fences.contains (die, u) then s else { s with fences := s.fences ++ [(die, u)] })
  else (s.fenceUnit die u).1
/-- A write of 0: a forced pass, and the fence is lifted only if it succeeds (R472). -/
def State.liftReq (s : State) (die u : Nat) : State :=
  if bit (s.devGet die 0xE008) 31 then s else s.startPass die u false true
/-- A write to MONCTL (R476): CLR clears the readings and reads 0; the rise of a count is measured from now. -/
def State.monctl (s : State) (die n : Nat) (v : DWord) : State :=
  let s := s.devSet die (0xE100 + 8 * n) (v &&& 0x1FF)
  let m := if bit v 9 then Monitor.empty die n else s.monitor die n
  s.setMonitor { m with last := if fieldNat v 0 8 < 16 then 0 else (s.devGet die (0x7000 + 8 * (fieldNat v 0 8 - 16))).toNat }

/-! ## Writes -/

/-- The writable bits of a plain register that only a supervisor program writes; none for the others. -/
def svMask (off : Nat) : Option DWord :=
  if inRange 0x100 0x160 off then
    match off % 0x20 with
    | 0x00 => some 0x000FFFFFFFFFFFC0
    | 0x08 => some 0x1F
    | 0x10 => if off = 0x150 then none else some 0xFFFFFFFF
    | _ => if off = 0x158 then some 0xFFFFFFFF else none
  else if inRange 0x2000 0x2400 off then
    some (if off % 16 = 0 then 0x00FFFFFFFFFFFFFF else 0xFFC3FFFFFFFFFFFF)
  else if inRange 0x3000 0x3200 off then some (if off % 32 = 0 then 0x800000FFFFFFFFFF else BitVec.allOnes 64)
  else if inRange 0x10000 0x14000 off then
    some (if off % 16 = 0 then 0x000FFFFFFFFFFFFF else 0x801F000000000000)
  else if off = 0x6000 then some 0x000FFFFFFFFF0001
  else if off = 0x6008 || off = 0x6010 then some 0x000FFFFFFFFFFFF9
  else if off = 0x6020 then some 0xFFFFFFFF
  else if off = 0xA000 then some (BitVec.allOnes 64)
  else if off = 0xE000 then some 0x1F
  else none

/-- A write to the inbound region table replaces an entry of the boot ROM's with the firmware's own (R379, R380). -/
def State.regionWritten (s : State) (off : Nat) : State :=
  if inRange 0x2000 0x2400 off then
    { s with boot := { s.boot with romRegions := s.boot.romRegions.filter fun i => i != (off - 0x2000) / 16 } }
  else s
/-- A write of a whole register. `sv` says that a supervisor program makes it; another agent's write of an SV register is
ignored (log 25). A read-only register ignores every write (R6). -/
def State.regWrite (s : State) (die off : Nat) (v : DWord) (sv : Bool) : State :=
  if !regExists die off then s
  else if off = 0x4008 then s.bootcmd v
  else if inRange 0x4040 0x4060 off then s.devSet die off v
  else if off = 0x4060 then s.attreq v
  else if !sv then s
  else if off = 0 then s.tlbinv die v
  else if off = 0x4010 then s.sbverify v
  else if off = 0x4400 then s.ccstart v
  else if off = 0xE008 then s.testreq die v
  else if off = 0xE010 then (if bit v 31 then s.fenceReq die (fieldNat v 0 16) else s.liftReq die (fieldNat v 0 16))
  else if inRange 0xE100 0xE180 off then s.monctl die ((off - 0xE100) / 8) v
  else match svMask off with
    | some m => (s.devSet die off (v &&& m)).regionWritten off
    | none => s

/-! ## Byte views, for accesses of any width (log 25) -/

/-- `n` bytes of the register space of a die from `off`. -/
def State.regBytes (s : State) (die off n : Nat) : List Byte :=
  (List.range n).map fun i => bits (s.regRead die ((off + i) / 8 * 8)) (8 * ((off + i) % 8)) 8
/-- A store of at most 16 bytes: each register touched is written once, its other bytes as they read. -/
def State.regStore (s : State) (die off : Nat) (bs : List Byte) (sv : Bool) : State :=
  let first := off / 8
  let last := (off + bs.length - 1) / 8
  (List.range (last + 1 - first)).foldl (fun s k =>
    let base := (first + k) * 8
    let old := leBytes 8 (s.regRead die base).toNat
    let new := (List.range 8).map fun i => if off ≤ base + i && base + i < off + bs.length then bs.getD (base + i - off) 0 else old.getD i 0
    s.regWrite die base (BitVec.ofNat 64 (ofLeBytes new)) sv) s

end Sys2Proof.Machine
end

