-- ==== Sys2Proof/Machine/Links.lean ====
section
/-! DEFINITION. Links: which die-link module carries a request (R442, R444), flits and retry buffers (R462, R463), requests on their way
with their Kilmar link headers (R98, R443, R447), and planes of the Grender fabric (R99, R454). -/
namespace Sys2Proof.Machine

/-! ## Die links (R442 to R445; log 20) -/

/-- The modules of the link from one die to the next, by number at the sender: first module and count. -/
def linkModules (a b : Nat) : Nat × Nat :=
  if a = 12 then (if b < 8 then (8 * b, 8) else (64 + 4 * (b - 8), 4))
  else if a < 8 then (if b = 12 then (16, 8) else (0, 16))
  else (0, 4)
/-- The other end of a module (R442). -/
def modulePeer (die m : Nat) : Nat × Nat :=
  if die < 8 then (if m < 16 then (die ^^^ 1, m) else (12, 8 * die + (m - 16)))
  else if die < 12 then (12, 64 + 4 * (die - 8) + m)
  else if m < 64 then (m / 8, 16 + m % 8)
  else (8 + (m - 64) / 4, m % 4)
/-- The links between two dies, in order: the partner bridge, or through die 12. -/
def linkPath (a b : Nat) : List (Nat × Nat) :=
  if a = b then []
  else if a = 12 || b = 12 || (a < 8 && b < 8 && a / 2 = b / 2) then [(a, b)]
  else [(a, 12), (12, b)]
/-- STATE of a module's ULSTAT. -/
def State.moduleState (s : State) (die m : Nat) : Nat := fieldNat (s.devGet die (0x8000 + 0x40 * m)) 0 3
/-- Whether an end sends flits: its module is neither training nor failed (R443). -/
def State.moduleActive (s : State) (die m : Nat) : Bool := s.moduleState die m != 1 && s.moduleState die m != 7
/-- Whether every module of a link has failed. -/
def State.linkFailed (s : State) (a b : Nat) : Bool :=
  let l := linkModules a b
  (List.range l.2).all fun i => s.moduleState a (l.1 + i) == 7
/-- Whether no path of links joins two dies. -/
def State.unreachable (s : State) (a b : Nat) : Bool := (linkPath a b).any fun l => s.linkFailed l.1 l.2
/-- The module that carries a request to a line: its own, or the next that is active (R442). -/
def State.moduleFor (s : State) (a b addr : Nat) : Nat :=
  let l := linkModules a b
  let want := addr / 128 % l.2
  match (List.range l.2).find? fun i => s.moduleActive a (l.1 + (want + i) % l.2) with
  | some i => l.1 + (want + i) % l.2
  | none => l.1 + want
/-- Whether a flit to a line can leave now on every link of its path: requests for a module that trains wait at their requesters (R443). -/
def State.linkActive (s : State) (a b addr : Nat) : Bool :=
  (linkPath a b).all fun l => s.moduleActive l.1 (s.moduleFor l.1 l.2 addr)

def Module.empty (die m : Nat) : Module := ⟨die, m, [], 0, false, 0, false⟩
def State.module (s : State) (die m : Nat) : Module :=
  (s.modules.find? fun x => x.die == die && x.m == m).getD (Module.empty die m)
def State.setModule (s : State) (x : Module) : State :=
  { s with modules := s.modules.filter (fun y => !(y.die == x.die && y.m == x.m)) ++ [x] }
/-- A flit leaves an end, and stays in its retry buffer. -/
def Module.send (x : Module) (f : Flit) : Module := { x with flits := x.flits ++ [f], sent := x.sent + 1 }
/-- A flit from one die to another enters the retry buffer of the module that carries it, on each link of the path. -/
def State.sendFlit (s : State) (a b addr : Nat) (f : Flit) : State :=
  (linkPath a b).foldl (fun s l => s.setModule ((s.module l.1 (s.moduleFor l.1 l.2 addr)).send f)) s
/-- Whether the far end of a module takes its flits: it does not discard them, or intact copies have been sent again (R463). -/
def State.moduleCarries (s : State) (die m : Nat) : Bool :=
  s.moduleActive die m && (!(s.module (modulePeer die m).1 (modulePeer die m).2).discarding || (s.module die m).again)

/-- Why a request from one die to another cannot be sent: every module of a link failed (R444), or the target is powered down or
held in reset (R451). The answer is (cause, INFO). -/
def State.dieRefuses (s : State) (a b : Nat) : Option (Nat × Nat) :=
  if a = b then none
  else if s.unreachable a b then some (0x53, 0)
  else if !(s.die b).powered || (s.die b).inReset then some (0x51, 2)
  else none

/-! ## Places -/

/-- Whether a place lies outside this package. -/
def Place.isRemote : Place → Bool
  | .host _ _ => true
  | .remote _ _ => true
  | .polder _ _ _ _ _ => true
  | _ => false
/-- The die at which a place of this package lies. -/
def Place.die (p : Place) (d : Nat) : Nat :=
  match p with
  | .mem _ home => home
  | .ls i _ _ => i / (16 * Config.lsBytes)
  | .reg r _ => r
  | _ => d
/-- Its address for the choice of a link module. -/
def Place.addr (p : Place) : Nat :=
  match p with
  | .mem pa _ => pa
  | .ls _ _ off => off
  | .reg _ off => off
  | _ => 0
/-- The die at which a request leaves the package, or its place lies (R447). -/
def Outgoing.dest (o : Outgoing) : Nat := match o.msg with | .here p => p.die o.src.die | _ => 12
/-- The address by which a request chooses its modules. -/
def Outgoing.line (o : Outgoing) : Nat := match o.msg with | .here p => p.addr | _ => o.addr

/-! ## Requests (R98) -/

/-- The next TSN of a requester. -/
def State.nextTsn (s : State) (die agent : Nat) : BitVec 16 := ((s.tsns.find? fun p => p.1 == (die, agent)).map (·.2)).getD 0
def State.setTsn (s : State) (die agent : Nat) (t : BitVec 16) : State :=
  { s with tsns := s.tsns.filter (fun p => p.1 != (die, agent)) ++ [((die, agent), t)] }
/-- Requests of a requester whose replies have not been received, oldest first. -/
def State.heldBy (s : State) (q : Requester) : List Outgoing := s.outstanding.filter fun o => o.src == q
/-- Whether a requester can hold `n` more requests (R98). -/
def State.hasRoom (s : State) (q : Requester) (n : Nat) : Bool := (s.heldBy q).length + n ≤ 256
/-- ACKTSN of a requester's next request: the oldest TSN whose reply is owed. -/
def State.ackTsn (s : State) (q : Requester) : BitVec 16 :=
  match s.heldBy q with | o :: _ => o.tsn | [] => s.nextTsn q.die q.agent
/-- A request from one die of this package to another that is answered in the same step: it takes a TSN, and it and its reply are a flit
of each link between them. Its target's filter never sees it again (log 29). -/
def State.sendOver (s : State) (q : Requester) (b addr : Nat) : State :=
  if q.die = b then s
  else
    let x : Flit := ⟨q, s.nextTsn q.die q.agent, s.ackTsn q, (s.die q.die).inc, false, none⟩
    ((s.setTsn q.die q.agent (s.nextTsn q.die q.agent + 1)).sendFlit q.die b addr x).sendFlit b q.die addr { x with reply := true }

/-- Where a request or reply on its way sets out, and where it goes. -/
def Flight.source (f : Flight) : Nat := if f.reply.isSome then f.out.dest else f.out.src.die
def Flight.target (f : Flight) : Nat := if f.reply.isSome then f.out.src.die else f.out.dest
/-- The flit that carries it: sent again, it carries the same bits (R462). -/
def Flight.flit (f : Flight) : Flit := ⟨f.out.src, f.out.tsn, f.acktsn, f.inc, f.reply.isSome, some { f with sent := true }⟩
/-- What a request for another package or the host is, as it leaves the package. -/
def Outgoing.output (o : Outgoing) : List Output :=
  match o.msg with
  | .request r => [.request o.target r]
  | .sub r => [.subRequest o.target r]
  | .host e off =>
    let tag := o.tsn.toNat + 2 ^ 16 * (o.src.agent + 2 ^ 8 * o.src.die)
    match o.op with
    | .store bs => [.hostWrite o.plane e tag off bs]
    | .load n => [.hostRead o.plane e tag off n]
    | _ => []
  | .here _ => []
/-- A request or reply leaves its sender; one that leaves the package is no longer here. -/
def State.launch (s : State) (f : Flight) : State :=
  let here := match f.out.msg with | .here _ => [{ f with sent := true }] | _ => []
  let s := s.sendFlit f.source f.target f.out.line f.flit
  { s with
    flights := (s.flights.takeWhile (· != f)) ++ here ++ (s.flights.dropWhile (· != f)).drop 1
    outputs := s.outputs ++ f.out.output }
/-- What has waited for its links leaves as soon as they carry it, in order (R443). -/
def State.launchFlights (s : State) : State :=
  s.flights.foldl (fun s f => if f.sent || !s.linkActive f.source f.target f.out.line then s else s.launch f) s

/-- A new request of a requester: it takes a TSN and is kept until its reply; `mk` gives what is sent from its TSN, ACKTSN and INC. -/
def State.request (s : State) (q : Requester) (target plane addr space : Nat) (op : ReqOp) (owner : Owner) (g : GangId) (u : SyncUse)
    (laneIdx : Nat) (mk : BitVec 16 → BitVec 16 → BitVec 16 → OutMsg) : State :=
  let tsn := s.nextTsn q.die q.agent
  let ack := s.ackTsn q
  let inc := (s.die q.die).inc
  let o : Outgoing := ⟨q, tsn, target, plane, addr, space, op, owner, mk tsn ack inc⟩
  let s := s.setTsn q.die q.agent (tsn + 1)
  { s with outstanding := s.outstanding ++ [o], flights := s.flights ++ [Flight.mk o ack inc g u laneIdx false none] }.launchFlights

/-- Whether incarnation `a` is newer than `b` (R451). -/
def newerInc (a b : BitVec 16) : Bool := a != b && (a - b).toNat < 2 ^ 15
/-- The duplicate filter of a target die for a requester as a request of an incarnation finds it: cleared when the incarnation is newer,
none when it is older (R98, R451). At first sight nothing is acknowledged beyond what the request itself says. -/
def State.filterOf (s : State) (die : Nat) (q : Requester) (acktsn inc : BitVec 16) : Option Filter :=
  match s.filters.find? fun f => f.die == die && f.src == q with
  | some f => if newerInc f.inc inc then none else some (if newerInc inc f.inc then ⟨die, q, acktsn, inc, []⟩ else f)
  | none => some ⟨die, q, acktsn, inc, []⟩
def State.setFilter (s : State) (f : Filter) : State :=
  { s with filters := s.filters.filter (fun x => !(x.die == f.die && x.src == f.src)) ++ [f] }
/-- acked(q) takes ACKTSN, which frees the cache entries below it. -/
def Filter.ack (f : Filter) (t : BitVec 16) : Filter := { f with acked := t, done := f.done.filter fun p => (p.1 - t).toNat < 256 }
/-- Whether a TSN is older than every reply still owed. -/
def Filter.past (f : Filter) (t : BitVec 16) : Bool := 256 ≤ (t - f.acked).toNat

/-- The destination that a host window's entry gives (R92). -/
def State.hostEntry (s : State) (w : Nat) : HostEntry :=
  ⟨s.devGet 12 (0x3008 + 32 * w), s.devGet 12 (0x3018 + 32 * w) ++ s.devGet 12 (0x3010 + 32 * w)⟩
/-- The target number that stands for the host. -/
def hostTarget : Nat := 512
/-- The tag of a request sent to the host (R92): its TSN with its die and agent above. -/
def Outgoing.tag (o : Outgoing) : Nat := o.tsn.toNat + 2 ^ 16 * (o.src.agent + 2 ^ 8 * o.src.die)

end Sys2Proof.Machine
end

