-- ==== Sys2Proof/Machine/Trans.lean ====
section
/-! DEFINITION. Physical addresses and translation (R70 to R75, R83 to R87, R422, R426 to R428): the walk, the TLB of each die,
and migration between tiers. -/
namespace Sys2Proof

/-- The context of a gang (R83): that of the supervisor that launched its grid. -/
def GangId.context (g : GangId) : Nat × Nat := g.stampCore

end Sys2Proof

namespace Sys2Proof.Machine

/-! ## Physical addresses (R70, R92) -/

inductive PaKind where
  | mem
  | reg (die off : Nat)
  | host (w off : Nat)
  | remote (pkg off : Nat)
  | none
  deriving DecidableEq, Repr

def PaKind.isHost : PaKind → Bool
  | .host _ _ => true
  | _ => false
/-- What a physical address selects. -/
def paKind (pa : Nat) : PaKind :=
  let d := pa / 2 ^ 48
  let off := pa % 2 ^ 48
  if d = 15 then .remote (off / 2 ^ 39) (off % 2 ^ 39)
  else if 12 < d then .none
  else if d = 12 && 0xF80000000000 ≤ off then .host (off / 2 ^ 39 % 16) (off % 2 ^ 39)
  else if 0xF00000000000 ≤ off then .reg d (off - 0xF00000000000)
  else if d < 8 && off < Config.hbmBytes then .mem
  else if 8 ≤ d && d < 12 && off < Config.farBytes then .mem
  else .none

/-! ## Page-table entries (R84) -/

def pteValid (e : DWord) : Bool := bit e 63
def pteClass (e : DWord) : Nat := fieldNat e 58 2
def pteFar (e : DWord) : Bool := bit e 57
def pteMigrate (e : DWord) : Bool := bit e 56
def pteMig (e : DWord) : Bool := bit e 52
def ptePpn (e : DWord) : Nat := fieldNat e 0 36

/-- A leaf found by a walk: the entry, its level, its physical address, the page's virtual base and size. -/
structure Leaf where
  pte : DWord
  level : Nat
  ptePa : Nat
  base : Nat
  size : Nat
  deriving DecidableEq, Repr

/-- The physical address of a virtual address in a leaf's page. -/
def Leaf.pa (l : Leaf) (va : Nat) : Nat := ptePpn l.pte * 2 ^ 16 / l.size * l.size + va % l.size
/-- The home die of a line (R71). -/
def Leaf.home (l : Leaf) (va : Nat) : Nat :=
  let d := l.pa va / 2 ^ 48
  if 8 ≤ d && d < 12 then fieldNat l.pte 53 3 else d

/-- The malformed case of an entry (R85, R422): 1 reserved field, 2 CLASS 11, 3 misaligned PPN, 4 LEAF at L0 or L1. -/
def pteBad (level : Nat) (e : DWord) : Option Nat :=
  let leaf := level = 3 || (level = 2 && bit e 51)
  if fieldNat e 36 14 != 0 then some 1
  else if leaf && pteClass e = 3 then some 2
  else if level < 2 && bit e 51 then some 4
  else if level = 2 && (if bit e 51 then ptePpn e % 2 ^ 14 != 0 else ptePpn e % 2 != 0) then some 3
  else if level = 3 && bit e 50 && ptePpn e % 32 != 0 then some 3
  else none

/-- A fault of a translation, with its address in GEN. -/
def genFault (cause info va : Nat) : AccFault := ⟨cause, info, 0, va⟩

/-! ## Poison (R440, R460, R475; log 23) -/

/-- Poisoned granules that an access to `n` bytes at a place meets: array, die, granule, granule size in bytes and the byte of the
place's array at which it starts; with the byte at which the access starts in that array. -/
def State.poisonHits (s : State) (p : Place) (n : Nat) : List (EccArray × Nat × Nat × Nat) × Nat :=
  let hit (arr : EccArray) (die a size reach : Nat) : List (EccArray × Nat × Nat × Nat) :=
    (s.poison.filter fun q => q.1 == arr && q.2.1 == die && q.2.2 * size < (a + n + reach - 1) / reach * reach &&
      a / reach * reach < (q.2.2 + 1) * size).map fun q => (q.1, q.2.1, q.2.2, size)
  match p with
  | .mem pa _ =>
    let d := pa / 2 ^ 48
    let a := pa % 2 ^ 48
    (hit .hbm d a 64 128 ++ hit .l2 d a 32 32, a)
  | .ls i _ _ =>
    let per := 16 * Config.lsBytes
    (hit .localStore (i / per) (i % per) 8 8, i % per)
  | .wgt i => (hit .wgtStore (i / Config.wgtBytes) (i % Config.wgtBytes) 16 16, i % Config.wgtBytes)
  | .acc b slot off => match s.block? b with
    | some x => (hit .accStore x.die ((x.core * 32 + slot) * 2 ^ 16 + off) 4 4, (x.core * 32 + slot) * 2 ^ 16 + off)
    | none => ([], 0)
  | _ => ([], 0)

/-- The cause and INFO of an array's uncorrectable error; a far-tier granule is poisoned through CXL (R460). -/
def eccCause (arr : EccArray) (die : Nat) : Nat × Nat :=
  match arr with
  | .regFile => (0x62, 0)
  | .localStore => (0x63, 0)
  | .accStore => (0x64, 0)
  | .l2 => (0x65, 0)
  | .wgtStore => (0x66, 0)
  | .hbm => if 8 ≤ die then (0x5A, 1) else (0x67, 0)
  | .buffer => (0x68, 0)

/-- Whether the access fails on poison; a write that covers every poisoned granule it meets clears them. -/
def State.poisonCheck (s : State) (p : Place) (n : Nat) (write : Bool) : State × Option (Nat × Nat) :=
  match s.poisonHits p n with
  | ([], _) => (s, none)
  | (h :: hs, a) =>
    if write && (h :: hs).all fun q => a ≤ q.2.2.1 * q.2.2.2 && (q.2.2.1 + 1) * q.2.2.2 ≤ a + n then
      ({ s with poison := s.poison.filter fun q => !((h :: hs).any fun x => x.1 == q.1 && x.2.1 == q.2.1 && x.2.2.1 == q.2.2) }, none)
    else
      let c := eccCause h.1 h.2.1
      let s := if c.1 = 0x5A then s.count h.2.1 (0xC008 + 0x20 * (h.2.2.1 * 64 / 2 ^ 39 % 4)) else s
      (s, some c)

/-- Whether a far-tier address's CXL port has failed (R460). -/
def State.cxlDown (s : State) (pa : Nat) : Bool :=
  let d := pa / 2 ^ 48
  8 ≤ d && d < 12 && fieldNat (s.devGet d (0xC000 + 0x20 * (pa / 2 ^ 39 % 4))) 0 2 == 3

/-! ## The walk (R83 to R85) -/

/-- The entries that a walk reads, in order. -/
def walkReads (mem : Memory) (va : Nat) : List (Nat × Nat × Nat) → Nat → List Nat
  | [], _ => []
  | (level, shift, n) :: rest, table =>
    let epa := table + 8 * (va / 2 ^ shift % 2 ^ n)
    let e : DWord := BitVec.ofNat 64 (mem.readNat epa 8)
    if paKind epa != .mem then []
    else if !pteValid e || (pteBad level e).isSome || level = 3 || (level = 2 && bit e 51) then [epa]
    else epa :: walkReads mem va rest (ptePpn e * 2 ^ 16)
/-- The walk over its levels: shift and index bits of each, with the level's number (R83). -/
def walkLevels (mem : Memory) (va : Nat) : List (Nat × Nat × Nat) → Nat → Except AccFault Leaf
  | [], _ => .error (genFault 0x13 0 va)
  | (level, shift, n) :: rest, table =>
    let epa := table + 8 * (va / 2 ^ shift % 2 ^ n)
    if paKind epa != .mem then .error (genFault 0x13 0 va)
    else
      let e : DWord := BitVec.ofNat 64 (mem.readNat epa 8)
      if !pteValid e then .error (genFault 0x10 level va)
      else match pteBad level e with
        | some k => .error (genFault 0x12 (level + 16 * k) va)
        | none =>
          if level = 3 || (level = 2 && bit e 51) then
            let size := if level = 2 then 0x40000000 else if bit e 50 then 0x200000 else 0x10000
            .ok ⟨e, level, epa, va / size * size, size⟩
          else walkLevels mem va rest (ptePpn e * 2 ^ 16)

def levels : List (Nat × Nat × Nat) := [(0, 48, 8), (1, 39, 9), (2, 30, 9), (3, 16, 14)]

/-- The identity context that the boot ROM builds (R380): a near die's memory, or the device registers as device class. -/
def identityLeaf (va : Nat) : Leaf :=
  let cls : DWord := if 0xF00000000000 ≤ va % 2 ^ 48 then 0x0800000000000000 else 0
  let base := va / 0x10000 * 0x10000
  ⟨0xF000000000000000 ||| cls ||| BitVec.ofNat 64 (base / 0x10000), 3, 0, base, 0x10000⟩

/-- What a walk finds. -/
inductive Walked where
  | leaf (l : Leaf)
  | fault (f : AccFault)
  /-- the link to the table is training: the read waits at its requester (R443) -/
  | wait (pa : Nat)
  deriving DecidableEq, Repr
/-- One read of a table entry by a die's walker, over the links to the table's die: a link or die that is gone (R444, R451), a failed CXL
port or a poisoned granule (R440, R460) faults it. -/
def State.walkRead (s : State) (die va epa : Nat) : State × Option Walked :=
  let home := epa / 2 ^ 48
  match s.dieRefuses die home with
  | some (c, i) => (s, some (.fault (genFault c i va)))
  | none =>
    if s.cxlDown epa then (s, some (.fault (genFault 0x5A 2 va)))
    else if !s.linkActive die home epa then (s, some (.wait epa))
    else match s.poisonCheck (.mem epa home) 8 false with
      | (s, some (c, i)) => (s, some (.fault (genFault c i va)))
      | (s, none) => (s.sendOver ⟨s.pkgId, die, 67⟩ home epa, none)
/-- The walk of a control core's context, for an agent of a die. -/
def State.walk (s : State) (die ctxDie ctxCore va : Nat) : State × Walked :=
  match s.control? ctxDie ctxCore with
  | none => (s, .fault (genFault 0x10 0 va))
  | some c =>
    if c.identity then (s, if va < 2 ^ 52 then .leaf (identityLeaf va) else .fault (genFault 0x10 0 va))
    else
      let r := (walkReads s.mem va levels c.root).foldl (fun (st : State × Option Walked) epa => match st.2 with
        | none => st.1.walkRead die va epa
        | some _ => st) (s, none)
      (r.1, r.2.getD (match walkLevels s.mem va levels c.root with | .ok l => .leaf l | .error f => .fault f))

/-! ## The TLBs of a die and its cores (R85, R86; log 14) -/

/-- Who translates: its die, its core where it has a TLB of its own, its context, and the entries of pages on which its access starts
no migration (R427). -/
structure Xagent where
  die : Nat
  core : Option Nat
  ctxDie : Nat
  ctxCore : Nat
  stay : List Nat
  deriving DecidableEq, Repr

/-- Whether a TLB entry of an agent's die translates an address in its context. -/
def TlbEntry.covers (e : TlbEntry) (x : Xagent) (va : Nat) : Bool :=
  e.die == x.die && e.ctxDie == x.ctxDie && e.ctxCore == x.ctxCore && e.base ≤ va && va < e.base + e.size
/-- Whether an entry filled earlier is still held; a core's and its die's are asked apart. -/
def State.tlbHeld (s : State) (e : TlbEntry) : Bool := Config.tlbHit s.clock (e.base + if e.core.isSome then 1 else 0)
/-- The entry that answers: of the agent's core, else of its die. -/
def State.tlbEntry (s : State) (x : Xagent) (va : Nat) : Option TlbEntry :=
  let look (c : Option Nat) := s.tlb.find? fun e => e.core == c && e.covers x va && s.tlbHeld e
  (if x.core.isSome then look x.core else none).orElse fun _ => look none
/-- The leaf that an entry holds. -/
def TlbEntry.leaf (e : TlbEntry) : Leaf := ⟨e.pte, if e.size = 0x40000000 then 2 else 3, e.ptePa, e.base, e.size⟩
/-- Entries of one TLB. -/
def tlbRoom (core : Option Nat) : Nat := if core.isSome then 64 else 8192
/-- An entry enters its TLB, in place of one of the same page, or of a free choice where the TLB is full. -/
def State.tlbEnter (s : State) (e : TlbEntry) : State :=
  let rest := s.tlb.filter fun y => !(y.core == e.core && y.base == e.base && y.covers ⟨e.die, e.core, e.ctxDie, e.ctxCore, []⟩ e.base)
  let mine := rest.filter fun y => y.die == e.die && y.core == e.core
  let rest := if mine.length < tlbRoom e.core then rest
    else match mine[Config.tlbVictim s.clock % mine.length]? with
      | some v => rest.erase v
      | none => rest
  { s with tlb := e :: rest }
/-- A walk's result enters the TLB of the die, and of the core: only a valid entry that is not migrating. -/
def State.tlbFill (s : State) (x : Xagent) (l : Leaf) : State :=
  let e (c : Option Nat) : TlbEntry := ⟨x.die, c, x.ctxDie, x.ctxCore, l.base, l.size, l.pte, l.ptePa⟩
  let s := s.tlbEnter (e none)
  if x.core.isSome then s.tlbEnter (e x.core) else s

/-! ## Migration (R73 to R75, R427, R428) -/

/-- Offsets of the free ring of a die for frames of a size (R75). -/
def freeRing (size : Nat) : Nat := if size = 0x10000 then 0x100 else 0x120
/-- The next frame of a free ring, if it has one. -/
def State.freeFrame (s : State) (die size : Nat) : Option Nat :=
  let r := freeRing size
  let cons := (s.devGet die (r + 0x18)).toNat
  if cons = (s.devGet die (r + 0x10)).toNat then none
  else
    let k := (s.devGet die (r + 8)).toNat
    some (s.mem.readNat ((s.devGet die r).toNat + 8 * (cons % 2 ^ k)) 8)
/-- That frame is taken. -/
def State.takeFrame (s : State) (die size : Nat) : State :=
  let r := freeRing size
  s.devSet die (r + 0x18) (BitVec.ofNat 64 (((s.devGet die (r + 0x18)).toNat + 1) % 2 ^ 32))
/-- Whether a retire ring is full. -/
def State.retireFull (s : State) (die : Nat) : Bool :=
  let k := (s.devGet die 0x148).toNat
  ((s.devGet die 0x150).toNat + 2 ^ 32 - (s.devGet die 0x158).toNat) % 2 ^ 32 ≥ 2 ^ k
/-- Pushes a frame on a retire ring. -/
def State.retire (s : State) (die frame : Nat) : State :=
  let k := (s.devGet die 0x148).toNat
  let prod := (s.devGet die 0x150).toNat
  let s := { s with mem := s.mem.write ((s.devGet die 0x140).toNat + 8 * (prod % 2 ^ k)) (leBytes 8 frame) }
  s.devSet die 0x150 (BitVec.ofNat 64 ((prod + 1) % 2 ^ 32))

/-- The physical addresses of the entries of a page: 32 for a 2 MiB page, one otherwise (log 18). -/
def Migration.ptes (m : Migration) : List Nat :=
  if m.size = 0x200000 then (List.range 32).map fun i => m.ptePa / 256 * 256 + 8 * i else [m.ptePa]
def State.writePtes (s : State) (l : List Nat) (e : DWord) : State :=
  { s with mem := l.foldl (fun m a => m.write a (leBytes 8 e.toNat)) s.mem }

/-- The frame that is left. -/
def Migration.oldFrame (m : Migration) : Nat := ptePpn m.oldPte * 2 ^ 16 / m.size * m.size
/-- Whether a TLB entry is one of the page: through its page-table entries as they were at any time, or to its frame. -/
def Migration.evicts (m : Migration) (e : TlbEntry) : Bool :=
  m.ptes.contains e.ptePa || (e.leaf.pa e.base < m.oldFrame + m.size && m.oldFrame < e.leaf.pa e.base + e.size)
/-- Starts the migration of a leaf's page: MIG is set, a frame is taken, every TLB entry of the page is invalidated. -/
def State.migrate (s : State) (l : Leaf) (frame ring far : Nat) (demote : Bool) : State :=
  let m : Migration := ⟨l.ptePa, l.base, l.pte, frame, l.size, far, demote, none, s.clock⟩
  let s := (s.takeFrame ring l.size).writePtes m.ptes (l.pte ||| 0x0010000000000000)
  { s with
    migrations := s.migrations ++ [m], tlb := s.tlb.filter (fun e => !m.evicts e)
    inPlace := s.inPlace.filter fun p => !m.ptes.contains p }

/-- A promotion of a far MIGRATE page (R73): the frame comes from its home die's ring; none leaves the page as DIRECT. The
answer says whether a migration started. DESIGN CHOICE (log 52): MIGEMPTY rises on the die whose free ring is empty, the home die
here, the far die on a demotion. -/
def State.promote (s : State) (l : Leaf) : State × Bool :=
  let home := fieldNat l.pte 53 3
  match s.freeFrame home l.size with
  | some f => (s.migrate l f home (l.pa 0 / 2 ^ 48) false, true)
  | none => (s.count home 0x7010, false)
/-- A demotion of a near MIGRATE page (R74). -/
def State.demote (s : State) (l : Leaf) : State :=
  let home := l.pa 0 / 2 ^ 48
  let far := 8 + home / 2
  match s.freeFrame far l.size with
  | some f => s.migrate l f far far true
  | none => s.count far 0x7010

/-- Moves the bytes of a page. -/
def Memory.copyPage (m : Memory) (src dst n : Nat) : Memory :=
  ((m.filter fun c => src ≤ c.1 && c.1 < src + n).foldl (fun acc c => acc.set (c.1 - src + dst) c.2) (m.clear dst n))

/-- The die whose retire ring takes the old frame: the far die on promotion, the home die on demotion. -/
def Migration.retireDie (m : Migration) : Nat := if m.demote then ptePpn m.oldPte * 2 ^ 16 / 2 ^ 48 else m.far
/-- The die whose retire ring takes the new frame back when the copy cannot complete: that of the frame. -/
def Migration.unusedDie (m : Migration) : Nat := if m.demote then m.far else fieldNat m.oldPte 53 3

/-- The end of a migration: the page is copied, in what rounds in progress read too (R360), the entry rewritten, the old frame retired. -/
def State.migrationDone (s : State) (m : Migration) : State :=
  let move (x : Memory) : Memory := x.copyPage m.oldFrame m.frame m.size
  let grids := s.grids.map fun g => { g with image := g.image.map fun x => (move x.1, x.2) }
  let s := { s with mem := move s.mem, migrations := s.migrations.erase m, grids := grids }
  let home := if m.demote then m.oldFrame / 2 ^ 48 else m.frame / 2 ^ 48
  let s := s.sendOver ⟨s.pkgId, m.far, 68⟩ home m.oldFrame
  let cleared := m.oldPte &&& 0xFDEFFFF000000000
  let tier : DWord := if m.demote then 0x0200000000000000 else 0
  (s.writePtes m.ptes (cleared ||| tier ||| BitVec.ofNat 64 (m.frame / 2 ^ 16))).retire m.retireDie m.oldFrame

/-- What waits on a page whose migration was abandoned goes on and is performed at the old location (R427). -/
def Wait.abandon (m : Migration) : Wait → Wait
  | .migration p => if m.ptes.contains p then .inPlace p else .migration p
  | w => w
def State.releaseInPlace (s : State) (m : Migration) : State :=
  { s with
    inPlace := s.inPlace ++ m.ptes
    gangs := s.gangs.map fun g => { g with slices := g.slices.map fun sl =>
      { sl with wait := sl.wait.map (Wait.abandon m), lwait := sl.lwait.map (Wait.abandon m) } } }
/-- A migration whose copy cannot complete (R427): the entry as before, the unused frame retired with bit 0 set, an event, and what
waited goes on. A full retire ring stalls it (R428). -/
def State.migrationFail (s : State) (m : Migration) (cause : Nat) : State :=
  if s.retireFull m.unusedDie then
    { s with migrations := s.migrations.map fun x => if x == m then { m with failed := some cause } else x }
  else
    let s := { s with migrations := s.migrations.erase m }
    (((s.writePtes m.ptes m.oldPte).retire m.unusedDie (m.frame + 1)).event m.far cause 10 m.far 0 (some (0, m.va)) []).releaseInPlace m

/-! ## Translation of an access -/

inductive Xlat where
  | ok (l : Leaf)
  | fault (f : AccFault)
  /-- the page is migrating, or the walk waits for a link: the access waits and translates again -/
  | wait (pte : Nat)
  deriving DecidableEq, Repr

/-- Permissions that an access lacks, as R422 packs them. `need`: bit 2 R, bit 1 W, bit 0 X. -/
def lacks (e : DWord) (need : Nat) : Nat := need - (need &&& fieldNat e 60 3)

/-- R85: translation of an access of an agent, needing permissions. -/
def State.translate (s : State) (x : Xagent) (va need : Nat) : State × Xlat :=
  let check (l : Leaf) : Xlat :=
    if lacks l.pte need != 0 then .fault (genFault 0x11 (l.level + 16 * lacks l.pte need) va)
    else if paKind (l.pa va) = .none then .fault (genFault 0x13 0 va)
    else .ok l
  match s.tlbEntry x va with
  | some e => (if x.core.isSome && e.core.isNone then s.tlbEnter { e with core := x.core } else s, check e.leaf)
  | none =>
    match s.walk x.die x.ctxDie x.ctxCore va with
    | (s, .fault f) => (s, .fault f)
    | (s, .wait p) => (s, .wait p)
    | (s, .leaf l) =>
      match check l with
      | .ok l =>
        if pteMig l.pte then (s, .wait l.ptePa)
        else if pteFar l.pte && pteMigrate l.pte && l.size != 0x40000000 then
          if x.stay.contains l.ptePa then (s, .ok l)
          else
            let r := s.promote l
            if r.2 then (r.1, .wait l.ptePa) else (r.1, .ok l)
        else (s.tlbFill x l, .ok l)
      | y => (s, y)

/-- The pages that a gang's waiting instructions use in place (R427). -/
def Gang.inPlace (g : Gang) : List Nat :=
  g.slices.flatMap fun sl => [sl.wait, sl.lwait].filterMap fun w => match w with
    | some (.inPlace p) => some p
    | _ => none
/-- A gang as it translates: a control core counts as core 16 + its index. -/
def State.xagent (s : State) (g : GangId) : Xagent :=
  { die := s.gangDie g
    core := match g with
      | .control _ i => some (16 + i)
      | .compute b _ => (s.block? b).map (·.core)
    ctxDie := g.context.1
    ctxCore := g.context.2
    stay := match s.gang? g with | some x => x.inPlace | none => [] }
/-- An engine or the device as it translates: its die's TLB serves it. -/
def State.dieAgent (s : State) (die : Nat) (ctx : Nat × Nat) : Xagent := ⟨die, none, ctx.1, ctx.2, s.inPlace⟩

end Sys2Proof.Machine
end

