-- ==== Sys2Proof/Machine/Access.lean ====
section
/-! DEFINITION. One access to memory: from a space and an address to a place (R55 to R70, R92, R101, R422), and the operation
performed at a place of this package (R59, R71, R79, R102, R275 to R277, R282, R438, R440). -/
namespace Sys2Proof

/-- Bytes that an operation touches. -/
def ReqOp.size : ReqOp → Nat
  | .load n => n
  | .store bs => bs.length
  | .atomic _ _ _ d _ => d.length
  | .reduce _ _ _ d => d.length
  | .line _ ws => 4 * ws.length
  | .gauge _ _ _ _ => 1
  | .arrival _ => 16
def ReqOp.writes : ReqOp → Bool
  | .load _ => false
  | .gauge k _ _ _ => k < 3
  | _ => true
/-- Whether an operation replaces every byte that it touches and reads none: an atomic operation, a reduction, a line and an arrival read
what they change (R440). -/
def ReqOp.covers : ReqOp → Bool
  | .store _ => true
  | .gauge k _ _ _ => k == 2
  | _ => false

end Sys2Proof

namespace Sys2Proof.Machine

/-! ## Kinds of access -/

/-- What kind of access it is: a sync word or stamp is checked as `word`, for reading or for an arrival; a gauge operation names
the permissions it needs; a stamp that the device or an engine writes may lie in a host window (R92). -/
inductive AccKind where
  | load | store | atomic | reduce | stamp
  | word (write : Bool)
  | gauge (need : Nat)
  deriving DecidableEq, Repr

/-- Permissions needed (R84): atomics need R and W. DEDUCED (log 27): a reduction, a gauge update and an arrival need W. -/
def AccKind.need : AccKind → Nat
  | .load => 4
  | .store => 2
  | .atomic => 6
  | .reduce => 2
  | .stamp => 2
  | .word w => if w then 2 else 4
  | .gauge n => n
def AccKind.isLoad : AccKind → Bool
  | .load => true
  | _ => false

inductive Located where
  | ok (p : Place)
  | fault (f : AccFault)
  | wait (w : Wait)
  deriving DecidableEq, Repr

/-- Address bits of each space by its code (R55). -/
def spaceBits (space : Nat) : Nat := [56, 28, 41, 29, 16, 21].getD space 0

/-! ## GEN -/

/-- Class misuse of a page, of which `host` says that it maps a host window (R78, R92, R287, R422). -/
def classMisuse (cls : Nat) (host : Bool) (k : AccKind) : Option Nat :=
  match k with
  | .gauge _ => if cls = 1 then none else some 1
  | .load | .store => none
  | .stamp => if cls = 0 || (cls = 2 && host) then none else if cls = 1 then some 2 else some 3
  | _ => if cls = 0 then none else if cls = 1 then some 2 else some 3

/-- The place of a virtual address in a leaf, for an agent on a die. -/
def State.genPlace (s : State) (die : Nat) (l : Leaf) (k : AccKind) (va n : Nat) : Located :=
  let pa := l.pa va
  let refused (b : Nat) (p : Place) : Located := match s.dieRefuses die b with
    | some (c, i) => .fault (genFault c i va)
    | none => .ok p
  match classMisuse (pteClass l.pte) (paKind pa).isHost k with
  | some i => .fault (genFault 0x14 i va)
  | none =>
    match paKind pa with
    | .mem =>
      match refused (l.home va) (.mem pa (l.home va)) with
      | .ok p =>
        if s.cxlDown pa then .fault (genFault 0x5A 2 va)
        else match s.dieRefuses (l.home va) (pa / 2 ^ 48) with
          | some (c, i) => .fault (genFault c i va)
          | none => .ok p
      | x => x
    | .reg d off => refused d (.reg d off)
    | .host w off =>
      let e := s.devGet 12 (0x3000 + 32 * w)
      if !bit e 63 || off + n > fieldNat e 0 40 then .fault (genFault 0x1D w va)
      else if s.abandoned.contains w then .fault (genFault 0x51 5 va)
      else refused 12 (.host w off)
    | .remote pkg off =>
      match s.planeFor (off / 128 % 32 + pkg % 32) pkg with
      | some _ => refused 12 (.remote pkg off)
      | none => .fault (genFault 0x51 3 va)
    | .none => .fault (genFault 0x13 0 va)

def State.locateGen (s : State) (x : Xagent) (k : AccKind) (va n : Nat) : State × Located :=
  match s.translate x va k.need with
  | (s, .fault f) => (s, .fault f)
  | (s, .wait p) => (s, .wait (.migration p))
  | (s, .ok l) => (s, s.genPlace x.die l k va n)

/-! ## LOC: the cohort window and handles (R61 to R63) -/

/-- The handle rule for bytes [off, off + n) of the partition of rank `owner`, by a block of rank `me`: none where it passes,
else the INFO of cause 0x18 (R422). -/
def handleInfo (table : List (Nat × HandleEntry)) (me owner off n : Nat) : Option Nat :=
  let hits := table.filter fun p => p.2.owner == owner && p.2.off < off + n && off < p.2.off + p.2.len
  match hits.find? fun p => p.2.holder != me with
  | some p => some (p.1 + 2 ^ 8 * p.2.holder)
  | none =>
    if me = owner || hits.any fun p => p.2.off ≤ off && off + n ≤ p.2.off + p.2.len then none
    else some (2 ^ 15)

def State.locateLoc (s : State) (g : GangId) (k : AccKind) (addr n : Nat) : Located :=
  let bad (c i : Nat) : Located := .fault ⟨c, i, 1, addr⟩
  match g.block?, s.gridOf g, s.blockOf g, g.block?.bind s.cohort? with
  | some b, some gr, some own, some co =>
    let me := s.rank b
    let die := addr / 2 ^ 27 % 2
    let off := addr % 2 ^ 23
    let rank := windowRank me addr
    let limit := gr.record.lsSz * 4096
    let check (t : Block) : Located :=
      match k with
      | .word _ | .stamp => .ok (.ls (t.base + off) t.id off)
      | _ => match handleInfo co.table me rank off n with
        | some i => bad 0x18 i
        | none => .ok (.ls (t.base + off) t.id off)
    if rank = me then (if off ≥ limit then bad 0x16 1 else check own)
    else if die = 1 && gr.record.cohort ≤ 16 then bad 0x17 1
    else match if rank < gr.record.cohort then s.peer b rank else none with
      | none => bad 0x17 2
      | some t =>
        if off ≥ limit then bad 0x17 3
        else match s.dieRefuses own.die t.die with
          | some (c, i) => bad c i
          | none => check t
  | _, _, _, _ => bad 0x05 2

/-! ## POL (R64, R65, R431) -/

/-- A polder access at the target: the block and the export bound; the case of cause 0x19, or the place. -/
def State.polderPlace (s : State) (gr : Grid) (die slot off n : Nat) : Except Nat Place :=
  match if 16 * die + slot < gr.record.cohort then s.block? ⟨gr.handle, 16 * die + slot, false⟩ else none with
  | none => .error 2
  | some t =>
    if off < gr.record.expOff || gr.record.expOff + gr.record.expLen < off + n then .error 3
    else .ok (.ls (t.base + off) t.id off)

/-- Whether a polder access that its gang made within this package now reaches a member of a killed span, and its fault (R65). -/
def State.reachesKilled (s : State) (g : GangId) (space : Nat) : Bool :=
  space == 2 && match s.gridOf g with | some gr => gr.spanKilled | none => false
def killedFault (addr : Nat) : AccFault := ⟨0x33, addr / 2 ^ 32 + 2 ^ 15, 2, addr⟩
def State.locatePol (s : State) (g : GangId) (addr n : Nat) : Located :=
  let bad (c i : Nat) : Located := .fault ⟨c, i, 2, addr⟩
  let m := addr / 2 ^ 32
  if addr / 2 ^ 28 % 16 != 0 then bad 0x16 2
  else match s.gridOf g with
    | none => bad 0x05 2
    | some gr =>
      if m ≥ gr.record.spanSize then bad 0x19 (m + 1 * 2 ^ 9)
      else if gr.spanKilled then bad 0x33 (m + 2 ^ 15)
      else if gr.detached.contains (gr.member s.pkgId, m) || !gr.windowOpen then bad 0x33 m
      else
        let die := addr / 2 ^ 27 % 2
        let slot := addr / 2 ^ 23 % 16
        let off := addr % 2 ^ 23
        if m = gr.member s.pkgId then
          match s.polderPlace gr die slot off n with
          | .error c => bad 0x19 (m + c * 2 ^ 9)
          | .ok p => .ok p
        else
          let pkg := gr.record.pkgList.getD m 0
          match s.dieRefuses (s.gangDie g) 12, s.planeFor (off / 128 % 32 + pkg % 32) pkg with
          | some (c, i), _ => bad c i
          | none, some _ => .ok (.polder pkg gr.spanKey die slot off)
          | none, none => bad 0x51 3

/-! ## WGT, CON, ACC (R55, R58, R59, R67, R68) -/

def State.locateWgt (s : State) (g : GangId) (k : AccKind) (addr : Nat) : Located :=
  let die := s.gangDie g
  let wload := match s.gridOf g with | some gr => gr.record.wload | none => true
  if 8 ≤ die then .fault ⟨0x16, 3, 3, addr⟩
  else if !k.isLoad && !wload then .fault ⟨0x1A, 0, 3, addr⟩
  else if k.isLoad && (s.die die).refresh = some (addr / 0x1000 % 16) then .wait (.refresh die (addr / 0x1000 % 16))
  else .ok (.wgt (die * Config.wgtBytes + addr))

def State.locateCon (s : State) (g : GangId) (addr n : Nat) : Located :=
  match s.gridOf g with
  | some gr => if gr.params.length < addr + n then .fault ⟨0x16, 4, 4, addr⟩ else .ok (.con gr.handle addr)
  | none => .fault ⟨0x05, 2, 4, addr⟩

/-- The block that holds an accumulator slot of a core. -/
def State.slotOwner (s : State) (die core slot : Nat) : Option BlockId :=
  (s.blocks.find? fun b => b.die == die && b.core == core && b.accs.any fun p => p.1 == slot).map (·.id)

def State.locateAcc (s : State) (g : GangId) (addr : Nat) : Located :=
  match s.blockOf g with
  | some b =>
    match s.slotOwner b.die b.core (addr / 2 ^ 16) with
    | some o => if o = b.id then .ok (.acc b.id (addr / 2 ^ 16) (addr % 2 ^ 16)) else .fault ⟨0x1B, addr / 2 ^ 16, 5, addr⟩
    | none => .fault ⟨0x16, 5, 5, addr⟩
  | none => .fault ⟨0x05, 2, 5, addr⟩

/-- A bank in a forced pass takes no other work: an access that a granule of it would serve waits (R469). -/
def State.bankOpen (s : State) (r : Located) (n : Nat) : Located :=
  match r with
  | .ok (.ls i b off) =>
    let die := i / (16 * Config.lsBytes)
    let unit (k : Nat) : Nat := 2112 + 32 * (i / Config.lsBytes % 16) + (off / 64 + k) % 32
    match (List.range ((off + n - 1) / 64 - off / 64 + 1)).find? fun k => s.unitForced die (unit k) with
    | some k => .wait (.unit die (unit k))
    | none => .ok (.ls i b off)
  | r => r
/-- R55, R56: an access of `n` bytes by a gang to an address of a space. DESIGN CHOICE (log 62): an address that is both too wide and
misaligned reports 0x16, since R401 gives the two no order. -/
def State.locate (s : State) (g : GangId) (k : AccKind) (space addr n : Nat) : State × Located :=
  if 2 ^ spaceBits space ≤ addr then (s, .fault ⟨0x16, space, space, addr⟩)
  else if addr % n != 0 then (s, .fault ⟨0x15, Nat.log2 n, space, addr⟩)
  else match space with
    | 0 => s.locateGen (s.xagent g) k addr n
    | 1 => (s, s.bankOpen (s.locateLoc g k addr n) n)
    | 2 => (s, s.bankOpen (s.locatePol g addr n) n)
    | 3 => (s, s.locateWgt g k addr)
    | 4 => (s, s.locateCon g addr n)
    | _ => (s, s.locateAcc g addr)

/-! ## Bytes at a place -/

/-- Bytes [off, off + n) of an accumulator slot: little-endian words by element number. -/
def accBytes (w : WordMap) (off n : Nat) : List Byte :=
  (List.range n).map fun i => bits (w.get ((off + i) / 4)) (8 * ((off + i) % 4)) 8

def State.readPlace (s : State) (p : Place) (n : Nat) : List Byte :=
  match p with
  | .mem pa _ => s.mem.read pa n
  | .ls i _ _ => s.ls.read i n
  | .wgt i => s.wgt.read i n
  | .acc b slot off => match (s.block? b).bind fun x => lookupAt slot x.accs with
    | some w => accBytes w off n
    | none => List.replicate n 0
  | .con h off => match s.grid? h with
    | some g => (g.params.drop off).take n
    | none => List.replicate n 0
  | .reg d off => s.regBytes d off n
  | _ => []

/-- A write of bytes at a place of this package; `sv` says that a supervisor program makes it (R6). -/
def State.writePlace (s : State) (p : Place) (bs : List Byte) (sv : Bool) : State :=
  match p with
  | .mem pa _ => { s with mem := s.mem.write pa bs }
  | .ls i _ _ => { s with ls := s.ls.write i bs }
  | .wgt i => { s with wgt := s.wgt.write i bs }
  | .reg d off => s.regStore d off bs sv
  | _ => s

/-! ## Operations (R79, R102, R275 to R277, R282) -/

/-- One step of an atomic operation's arithmetic on a width of `n` bytes (R275, R278); .EXCH keeps the newer value. -/
def atomicStep (op fmt : Nat) (sg : Bool) (n old data : Nat) : Nat :=
  let w := 8 * n
  match op with
  | 3 => Nat.land old data
  | 4 => Nat.lor old data
  | 5 => Nat.xor old data
  | 6 => data
  | _ =>
    if fmt = 0 then
      let iv (x : Nat) : Int := if sg then signedOf w x else ((x % 2 ^ w : Nat) : Int)
      match op with
      | 0 => (old + data) % 2 ^ w
      | 1 => if iv data < iv old then data else old
      | _ => if iv old < iv data then data else old
    else
      let f := floatFmt fmt
      let el (x : Word) (e : Nat) : Nat := elem f.width x e
      let a : Word := BitVec.ofNat 32 old
      let b : Word := BitVec.ofNat 32 data
      (packElems f.width ((List.range (32 / f.width)).map fun e =>
        match op with
        | 0 => faddE f 0 false 0 (el a e) (el b e)
        | 1 => minMaxF f false (el a e) (el b e)
        | _ => minMaxF f true (el a e) (el b e))).toNat

/-- One arrival of `n` at a sync word's 16 bytes (R79): the new bytes, or none on overrun. -/
def arriveWord (bs : List Byte) (n : Nat) : Option (List Byte) :=
  let target := ofLeBytes (bs.take 4)
  let count := ofLeBytes ((bs.drop 4).take 4)
  let gen := ofLeBytes ((bs.drop 8).take 4)
  if n = 0 then some bs
  else if target = 0 || count + n > target then none
  else if count + n = target then some (bs.take 4 ++ leBytes 4 0 ++ leBytes 4 ((gen + 1) % 2 ^ 32) ++ bs.drop 12)
  else some (bs.take 4 ++ leBytes 4 (count + n) ++ bs.drop 8)

/-- A gauge operation on a level (R141 to R143): 0 GINC, 1 GMRG, 2 GCLR, 3 GRD, 4 the read of
a GMRG's source; the new level and the answer: whether it saturated, the estimate, or the level. -/
def gaugeStep (kind s lmax l n : Nat) (draws : List Nat) : Nat × List Byte :=
  match kind with
  | 0 => let r := gaugeAdd s lmax l n (draws.headD 0); (r.1, [if r.2 then 1 else 0])
  | 1 => let r := gaugeMerge s lmax n l (fun j => draws.getD j 0); (r.1, [if r.2 then 1 else 0])
  | 2 => (0, [0])
  | 4 => (l, leBytes 1 l)
  | _ => (l, leBytes 4 (gaugeRead s l).toNat)

/-- Performs an operation at a place of this package: the answer's bytes, or cause and INFO. -/
def State.apply (s : State) (p : Place) (op : ReqOp) (sv : Bool) : State × Except (Nat × Nat) (List Byte) :=
  match op with
  | .load n => (s, .ok (s.readPlace p n))
  | .store bs => (s.writePlace p bs sv, .ok [])
  | .atomic o f sg data expected =>
    let n := data.length
    let old := s.readPlace p n
    let new := if o = 7 then (if old = expected then data else old)
      else leBytes n (atomicStep o.toNat f.toNat sg n (ofLeBytes old) (ofLeBytes data))
    (s.writePlace p new sv, .ok old)
  | .reduce o f sg data =>
    let n := data.length
    (s.writePlace p (leBytes n (atomicStep o.toNat f.toNat sg n (ofLeBytes (s.readPlace p n)) (ofLeBytes data))) sv, .ok [])
  | .line f ws =>
    let old := s.readPlace p (4 * ws.length)
    let new := (List.range ws.length).flatMap fun i =>
      let x := (old.drop (4 * i)).take 4
      match ws.getD i none with
      | some w => leBytes 4 (atomicStep 0 f.toNat false 4 (ofLeBytes x) w.toNat)
      | none => x
    (s.writePlace p new sv, .ok [])
  | .gauge k sc n draws =>
    let l := ofLeBytes (s.readPlace p 1)
    let r := gaugeStep k sc 255 l n draws
    (if k ≥ 3 then s else s.writePlace p (leBytes 1 r.1) sv, .ok r.2)
  | .arrival n =>
    match arriveWord (s.readPlace p 16) n with
    | some bs => (s.writePlace p bs sv, .ok [])
    | none => (s, .error (0x32, Nat.min n 0xFFFF))

/-! ## The race detector (R436 to R439) -/

/-- A shadow entry's 64 bits. -/
def RaceEntry.word (e : RaceEntry) : Nat :=
  2 ^ 63 + e.scope % 8 * 2 ^ 60 + e.rank % 32 * 2 ^ 55 + e.gang % 32 * 2 ^ 50 + e.interval % 2 ^ 24

/-- The die set of a gang's .die instance: the DMASK in force, its own die, and every die on which its cohort lies (R3, R337). -/
def State.dieSet (s : State) (g : GangId) (dmask : Word) : List Nat :=
  setBits 13 dmask.toNat ++ [s.gangDie g] ++ match g.block? with
    | some b => (s.cohortBlocks b).map (·.die)
    | none => []
/-- An agent that a scope's instance may hold (R337): a gang or a distributor of this package, an engine of die 12, a gang of another member of
a span; and the rest, die 12's RMA agent, the agents of other packages and the hosts. -/
inductive ScopeAgent where
  | gang (g : GangId)
  | distributor (die : Nat)
  | fabric
  | member (k : SpanKey)
  | outside
  deriving DecidableEq, Repr
/-- Whether the instance of a gang that a scope names holds an agent (R337). -/
def State.inInstance (s : State) (scope : Nat) (g : GangId) (dmask : Word) : ScopeAgent → Bool
  | .gang h => match scope with
    | 0 => g == h
    | 1 => g == h || (g.block?.isSome && g.block? == h.block?)
    | 2 => g == h || (match g.block?, h.block? with | some a, some b => s.cohort? a == s.cohort? b && (s.cohort? a).isSome | _, _ => false)
    | 3 => (s.dieSet g dmask).contains (s.gangDie h)
    | _ => true
  | .distributor d => if scope = 3 then (s.dieSet g dmask).contains d else 4 ≤ scope
  | .fabric => 4 ≤ scope
  | .member k => scope = 6 || (scope = 5 && match s.gridOf g with | some gr => gr.record.spanSize != 0 && gr.spanKey == k | none => false)
  | .outside => scope = 6

/-- An access that the race detector does not check (R436). -/
def SyncUse.unchecked : SyncUse := ⟨none, 7, false, 0⟩
/-- A plain relaxed access of a gang's scalar stream or engines through a space. -/
def SyncUse.plain (g : Gang) (space : Nat) : SyncUse := ⟨none, 7, space == 1, g.dmask⟩

/-- The check of one sector: the new entry, if any, and whether a race is reported; `holds` says whether the instance of a scope holds the
writer that an entry records. -/
def raceSector (holds : RaceEntry → Nat → Bool) (e : Option RaceEntry) (rank gang acq now : Nat) (write : Bool) (u : SyncUse) :
    Option RaceEntry × Bool :=
  let mine : RaceEntry := ⟨u.rel, rank, gang, now⟩
  let raced := match e with
    | none => false
    | some e =>
      let same := e.rank == rank && e.gang == gang
      let ordered := e.scope != 7 && (match u.acq with | some sc => holds e sc && holds e e.scope | none => false)
      let d := (acq + 2 ^ 24 - e.interval) % 2 ^ 24
      !same && !ordered && !(1 ≤ d && d ≤ 2 ^ 23 - 1)
  (if write then some mine else if raced then some { mine with scope := 7 } else e, raced)

/-- The gang that an entry of a cohort's shadow records. -/
def State.raceWriter (s : State) (b : BlockId) (e : RaceEntry) : GangId :=
  .compute { b with index := b.index / s.cohortSize b.handle * s.cohortSize b.handle + e.rank } e.gang
/-- The check of an access of `n` bytes at an offset of a block's partition: the first raced sector with the entry found. -/
def State.raceCheck (s : State) (g : Gang) (blk : BlockId) (off n : Nat) (write : Bool) (u : SyncUse) :
    State × Option RaceEntry :=
  match s.gridOf g.id, g.id.block?, g.id.block?.bind s.cohort? with
  | some gr, some b, some co =>
    if !gr.record.race then (s, none)
    else
      (List.range ((off + n - 1) / 32 - off / 32 + 1)).foldl (fun (st : State × Option RaceEntry) k =>
        match st.1.block? blk with
        | none => st
        | some x =>
          let sec := off / 32 + k
          let old := lookupAt sec x.race
          let holds (e : RaceEntry) (sc : Nat) : Bool := s.inInstance sc g.id u.dmask (.gang (s.raceWriter b e))
          let r := raceSector holds old (s.rank b) g.id.num g.acq co.interval write u
          let race := match r.1 with | some e => insertAt sec e x.race | none => x.race
          (st.1.setBlock { x with race := race }, if st.2.isNone && r.2 then old else st.2)) (s, none)
  | _, _, _ => (s, none)

/-- The event of a logged race (R439). -/
def State.raceEvent (s : State) (g : Gang) (p : Place) (addr lane laneIdx : Nat) (e : RaceEntry) : State :=
  match p with
  | .ls i _ off =>
    let die := i / (16 * Config.lsBytes)
    s.event die 0x1F 3 (32 * (i / Config.lsBytes % 16) + off / 64 % 32) 0 (some (1, addr / 32 * 32))
      (leBytes 8 e.word ++ leBytes 8 g.id.index ++ leBytes 4 laneIdx ++ leBytes 1 lane)
  | _ => s

/-! ## Places that meet -/

/-- The array that holds the bytes of a place, and the byte at which it starts: memory, local stores, weight stores, device registers, the
aperture and the exports of each other package, the host windows. -/
def Place.start : Place → Option (Nat × Nat)
  | .mem pa _ => some (0, pa)
  | .ls i _ _ => some (1, i)
  | .wgt i => some (2, i)
  | .reg d off => some (3, devKey d off)
  | .remote pkg off => some (2 * pkg + 4, off)
  | .polder pkg _ die slot off => some (2 * pkg + 5, die * 2 ^ 27 + slot * 2 ^ 23 + off)
  | .host w off => some (2 ^ 20 + w, off)
  | _ => none
/-- Whether `n` bytes at one place and `k` at another have a byte in common, whatever names them. -/
def Place.meets (p : Place) (n : Nat) (q : Place) (k : Nat) : Bool :=
  match p.start, q.start with
  | some a, some b => a.1 == b.1 && a.2 < b.2 + k && b.2 < a.2 + n
  | _, _ => false
/-- Whether an arrival is one of a gang's ARRIVE, not of an engine. -/
def Arrival.ofGang (a : Arrival) (g : GangId) : Bool := a.src == some g && a.op.isNone
/-- Whether an arrival in flight of a gang is at a location that a later scalar access of the gang meets: one sub-order keeps the order
of accesses to one location (R338, R339). -/
def State.arrivalAt (s : State) (g : GangId) (p : Place) (n : Nat) : Bool :=
  s.arrivals.any fun a => a.ofGang g && match a.place with | some q => p.meets n q 16 | none => false
def State.arrivalMeets (s : State) (g : GangId) (n : Nat) (l : List (Nat × Nat × Located)) : Bool :=
  l.any fun x => match x.2.2 with | .ok p => s.arrivalAt g p n | _ => false

/-! ## An access of a gang performed here -/

/-- What a performed access answers: data or cause and INFO, and a race that must trap (RACEACT 0). -/
structure Done where
  data : Except (Nat × Nat) (List Byte)
  race : Option (Nat × RaceEntry)

/-- A granule that is corrected on access raises ECCCORR (R400, R475); whether one is, is a free value (log 23). -/
def State.corrected (s : State) (p : Place) (die : Nat) : State :=
  { s with dev := if Config.corrected s.clock p.addr then (s.count (p.die die) 0x7040).dev else s.dev }
/-- A far-tier line that its home L2 does not hold is filled over the links from its far die (R71, R442); whether it is held is a free
value. -/
def State.farFill (s : State) (p : Place) : State :=
  match p with
  | .mem pa home =>
    if pa / 2 ^ 48 = home then s
    else
      let t := s.sendOver ⟨s.pkgId, home, 69⟩ (pa / 2 ^ 48) pa
      { s with modules := if Config.l2Hit s.clock then s.modules else t.modules, tsns := t.tsns }
  | _ => s
/-- Latency samples of the monitors (R476): local store loads, accesses that hit L2, accesses to HBM; and a correction on access. -/
def State.sampleAccess (s : State) (die : Nat) (p : Place) (op : ReqOp) : State :=
  let s := s.corrected p die
  match p, op with
  | .ls _ _ _, .load _ => s.sampleAll die 1 (Config.latency s.clock)
  | .mem _ _, _ => s.sampleAll die (if Config.l2Hit s.clock then 2 else 3) (Config.latency s.clock)
  | _, _ => s

/-- Memory as a gang's loads see it: in deterministic operation, as it stood at the start of the round (R360). -/
def State.roundView (s : State) (g : GangId) : State :=
  match (s.gridOf g).bind (·.image) with
  | some m => { s with mem := m.1, ls := m.2.1, wgt := m.2.2 }
  | none => s
/-- The operation of a gang at a place: a load sees the round's memory. -/
def State.applyFor (s : State) (g : GangId) (p : Place) (op : ReqOp) : State × Except (Nat × Nat) (List Byte) :=
  match op with
  | .load n => (s, .ok ((s.roundView g).readPlace p n))
  | _ => s.apply p op g.isControl

/-- One access of a gang performed at a place of this package: poison, the race detector (LOC only, R436), the operation. -/
def State.performHere (s : State) (g : Gang) (lane laneIdx addr : Nat) (p : Place) (op : ReqOp) (u : SyncUse) : State × Done :=
  match s.poisonCheck p op.size op.covers with
  | (s, some c) => (s, ⟨.error c, none⟩)
  | (s, none) =>
    let r := match p with
      | .ls _ blk off => if u.loc then s.raceCheck g blk off op.size op.writes u else (s, none)
      | _ => (s, none)
    let act := match s.gridOf g.id with | some gr => gr.record.raceAct | none => true
    let s := match r.2 with
      | some e => if act then r.1.raceEvent g p addr lane laneIdx e else r.1
      | none => r.1
    let s := (s.farFill p).sampleAccess (s.gangDie g.id) p op
    let q := s.applyFor g.id p op
    (q.1, ⟨q.2, if act then none else r.2.map fun e => (addr / 32 * 32, e)⟩)
/-- The same in the step of its issue, with its request counted, and sent and answered over the links where its place lies on another
die. -/
def State.performAt (s : State) (g : Gang) (lane laneIdx addr : Nat) (p : Place) (op : ReqOp) (u : SyncUse) : State × Done :=
  ((s.countSent g.id 1 1).sendOver (s.requester g.id) (p.die (s.gangDie g.id)) p.addr).performHere g lane laneIdx addr p op u

/-! ## An access that is sent (R98, R443; log 15, 66) -/

/-- What is sent for an access at a place: a request under the Kilmar link header, an RMA of a host window, or a request to a place of this
package. -/
def State.message (s : State) (q : Requester) (p : Place) (addr : Nat) (op : ReqOp) (tsn ack inc : BitVec 16) : OutMsg :=
  match p with
  | .host w off => .host (s.hostEntry w) off
  | .remote _ off => .request ⟨q, tsn, ack, inc, .aperture off, op⟩
  | .polder _ key die slot off => .request ⟨q, tsn, ack, inc, .polder key (addr / 2 ^ 32) die slot off, op⟩
  | p => .here p
/-- Sends an access of a requester to its place, on behalf of a gang. -/
def State.sendFrom (s : State) (q : Requester) (g : GangId) (p : Place) (addr space : Nat) (op : ReqOp) (owner : Owner) (u : SyncUse)
    (laneIdx : Nat) : State :=
  let s := s.countSent g 1 0
  let plane (off pkg : Nat) := (s.planeFor (off / 128 % 32 + pkg % 32) pkg).getD 0
  let dest : Nat × Nat := match p with
    | .host w _ => (hostTarget, w)
    | .remote pkg off => (pkg, plane off pkg)
    | .polder pkg _ _ _ off => (pkg, plane off pkg)
    | _ => (s.pkgId, 0)
  s.request q dest.1 dest.2 addr space op owner g u laneIdx (s.message q p addr op)
/-- Sends an access of a gang through its core's memory port. -/
def State.sendAccess (s : State) (g : GangId) (p : Place) (addr space : Nat) (op : ReqOp) (owner : Owner) (u : SyncUse) (laneIdx : Nat) :
    State :=
  s.sendFrom (s.requester g) g p addr space op owner u laneIdx

/-- The number of a gang's instruction whose request it is, on a stream. -/
def Owner.onStream (g : GangId) (lane : Bool) : Owner → Bool
  | .lane _ x _ _ _ _ => lane && x == g
  | .merge _ x _ _ _ _ => lane && x == g
  | .flush x => lane && x == g
  | .scalar _ x _ _ _ => !lane && x == g
  | .arrival x _ _ _ => !lane && x == g
  | .reread x _ _ _ _ => !lane && x == g
  | _ => false
/-- Whether a request of a gang's stream that has not been performed is to a location that `n` bytes at a place meet: accesses of one
sub-order to one location are performed in order (R338, R339). -/
def State.flightMeets (s : State) (g : GangId) (lane : Bool) (p : Place) (n : Nat) : Bool :=
  s.flights.any fun f => f.reply.isNone && f.out.owner.onStream g lane &&
    match f.out.msg with | .here q => q.meets f.out.op.size p n | _ => false
/-- Whether an address lies in a device-class page, accesses to which a sub-order makes in program order (R72, R339). -/
def State.deviceClass (s : State) (g : GangId) (space a : Nat) : Bool :=
  space == 0 && match (s.translate (s.xagent g) a 0).2 with
  | .ok l => pteClass l.pte == 2
  | _ => false
/-- Whether an access of a gang's stream is sent and answered later, not performed in the step of its issue: it leaves the die, it follows
one on its way to the same location, or it is held in flight by free choice (log 66), which a deterministic gang's is not. -/
def State.departs (s : State) (g : GangId) (lane : Bool) (p : Place) (n : Nat) : Bool :=
  p.isRemote || p.die (s.gangDie g) != s.gangDie g || s.flightMeets g lane p n || (s.flight && !s.determ g && p.start.isSome)

end Sys2Proof.Machine
end

