-- ==== Sys2Proof/Machine/Buffers.lean ====
section
/-! DEFINITION. The atomic buffers of a core's quadrants (R278 to R280) and the quantum buffer of a deterministic gang
(R358 to R360, R413). -/
namespace Sys2Proof.Machine

/-! ## Atomic buffers -/

/-- The gangs of a core, in the order of a forced flush: quadrant, block slot, GANGID (R279). -/
def State.coreGangs (s : State) (die core : Nat) : List Gang :=
  (List.range 4).flatMap fun q => (List.range 8).flatMap fun sl => (List.range 32).flatMap fun n =>
    if n % 4 != q then [] else s.gangs.filter fun g => g.id.num == n && match s.blockOf g.id with
      | some b => b.die == die && b.core == core && b.slot == sl
      | none => false
/-- Die, core and quadrant of a gang. -/
def State.quadrant (s : State) (g : GangId) : Nat × Nat × Nat :=
  match s.blockOf g with
  | some b => (b.die, b.core, g.num % 4)
  | none => (0, 0, 0)
/-- Entries in the atomic buffer of a gang's quadrant. -/
def State.quadEntries (s : State) (g : GangId) : Nat :=
  let q := s.quadrant g
  (s.gangs.filter fun x => !x.id.isControl && s.quadrant x.id == q).foldl (fun n x => n + x.abuf.length) 0

def AEntry.sameKey (a b : AEntry) : Bool :=
  a.space == b.space && a.addr == b.addr && a.op == b.op && a.fmt == b.fmt && a.width == b.width
/-- A value joins the entry of its key, one step of the arithmetic; none where the gang holds no such entry. -/
def joinEntry (e : AEntry) : List AEntry → Option (List AEntry)
  | [] => none
  | x :: l =>
    if x.sameKey e then some ({ x with value := atomicStep x.op x.fmt e.signed x.width x.value e.value } :: l)
    else (joinEntry e l).map (x :: ·)

/-- The operation that an entry is sent as: one relaxed operation carrying its value, with no result. -/
def AEntry.req (e : AEntry) : ReqOp := .reduce (BitVec.ofNat 3 e.op) (BitVec.ofNat 4 e.fmt) e.signed (leBytes e.width e.value)

/-- INFO of cause 0x50 for an operation (R455). -/
def refusedInfo (op : ReqOp) : Nat :=
  match op with
  | .atomic o f _ _ _ => o.toNat + 16 * f.toNat
  | .reduce o f _ _ => o.toNat + 16 * f.toNat
  | .line f _ => 16 * f.toNat + 256
  | _ => 0

/-- Where an access issued earlier lands: a polder access issued before its gang's stop is performed normally while the window is
closed (R431). -/
def State.issuedLocate (s : State) (g : GangId) (k : AccKind) (space addr n : Nat) : State × Located :=
  match space, s.gridOf g with
  | 2, some gr => (s, ((s.setGrid { gr with windowOpen := true }).locate g k 2 addr n).2)
  | _, _ => s.locate g k space addr n

/-- What becomes of an entry at a flush: it has left the buffer, it stays for now, it faults, or it completes a race (R439). -/
inductive Flushed where
  | gone
  | kept
  | fault (f : AccFault)
  | race (r : Nat × RaceEntry)
/-- One entry leaves the buffer: it is performed here, or sent, where its requester has room for one more request (R98). -/
def State.flushEntry (s : State) (g : Gang) (e : AEntry) : State × Flushed :=
  match s.issuedLocate g.id .reduce e.space e.addr e.width with
  | (s, .fault f) => (s, .fault f)
  | (s, .wait _) => (s, .kept)
  | (s, .ok p) =>
    let u : SyncUse := ⟨some 0, 0, e.space == 1, g.dmask⟩
    if s.departs g.id true p e.width then
      if s.hasRoom (s.requester g.id) 1 then (s.sendAccess g.id p e.addr e.space e.req (.flush g.id) u 0, .gone) else (s, .kept)
    else
      match s.performAt g 0 0 e.addr p e.req u with
      | (s, ⟨.error (c, i), _⟩) => (s, .fault ⟨c, i, e.space, e.addr⟩)
      | (s, ⟨.ok _, some r⟩) => (s, .race r)
      | (s, ⟨.ok _, none⟩) => (s, .gone)
/-- Entries leave in entry order: what stays in the buffer, and what stops the flush with a trap. -/
def State.flushEntries (g : Gang) : List AEntry → State → State × List AEntry × Flushed
  | [], s => (s, [], .gone)
  | e :: l, s => match s.flushEntry g e with
    | (s, .gone) => State.flushEntries g l s
    | (s, .kept) => (s, e :: l, .kept)
    | (s, x) => (s, l, x)

/-- The first entry of a gang whose page is migrating, or starts to: its flush point waits. -/
def State.entriesWait (s : State) (gid : GangId) : State × Option Wait :=
  match s.gang? gid with
  | none => (s, none)
  | some g => (g.abuf.findSome? fun e => match s.issuedLocate gid .reduce e.space e.addr e.width with
    | (t, .wait w) => some (t, some w)
    | _ => none).getD (s, none)

/-- Sets what a gang's share of the buffer holds. -/
def State.setAbuf (s : State) (gid : GangId) (l : List AEntry) : State :=
  match s.gang? gid with | some g => s.setGang { g with abuf := l } | none => s
/-- A trap on an access that no lane and no slice of the issuing instruction made. -/
def State.trapAccess (s : State) (g : GangId) (src slice laneIdx : Nat) (f : AccFault) (words : List Word) : State :=
  s.takeTrap g ⟨f.cause, src, slice, f.info, 0, some (f.space, f.addr), laneIdx, words⟩

/-- A race that traps at the next instruction boundary (R439). -/
def State.trapRace (s : State) (gid : GangId) (src slice laneIdx : Nat) (r : Nat × RaceEntry) (words : List Word) : State :=
  s.takeTrap gid ⟨0x1F, src, slice, r.2.rank * 32 + r.2.gang, 0, some (1, r.1), laneIdx, words⟩

/-- A gang's entries leave the buffer in entry order (R279); an entry that faults traps the gang, and the rest go
unperformed with it; one that completes a race traps it, and the rest stay. The answer says that no trap was taken. -/
def State.flushGang (s : State) (gid : GangId) : State × Bool :=
  match s.gang? gid with
  | none => (s, true)
  | some g =>
    if g.abuf.isEmpty then (s, true)
    else
      let q := s.quadrant gid
      let s := (s.sampleAll q.1 8 (s.quadEntries gid)).setGang { g with abuf := [] }
      match State.flushEntries g g.abuf s with
      | (s, _, .fault f) => (s.trapAccess gid 1 0 0 f s.issue.words, false)
      | (s, l, .race r) => ((s.setAbuf gid l).trapRace gid 1 0 0 r s.issue.words, false)
      | (s, l, _) => (s.setAbuf gid l, true)
/-- Whether flushed entries of a gang are on their way. -/
def State.flushSent (s : State) (gid : GangId) : Bool := s.outstanding.any fun o => o.owner == .flush gid
/-- Whether entries of a gang have found no room to be sent. -/
def State.flushKept (s : State) (gid : GangId) : Bool := match s.gang? gid with | some g => !g.abuf.isEmpty | none => false

/-- How far a flush point of a gang has come. -/
inductive FlushEnd where
  | done
  | wait (w : Wait)
  | trapped
/-- A flush point of a gang: it waits for a migrating page before any entry leaves, then for room, then for the entries sent. -/
def State.flushPoint (s : State) (gid : GangId) : State × FlushEnd :=
  match s.entriesWait gid with
  | (s, some w) => (s, .wait w)
  | (s, none) => match s.flushGang gid with
    | (s, false) => (s, .trapped)
    | (s, true) => (s, if s.flushKept gid then .wait .counterSpace else if s.flushSent gid then .wait .outstanding else .done)
/-- The flush points of several gangs in order: a migrating page stops those behind it. The answer is what is still waited for. -/
def State.flushAll : List GangId → State → State × Option Wait
  | [], s => (s, none)
  | g :: l, s => match s.flushPoint g with
    | (s, .wait .outstanding) => let r := State.flushAll l s; (r.1, r.2.orElse fun _ => some .outstanding)
    | (s, .wait w) => (s, some w)
    | (s, _) => State.flushAll l s

/-- The gangs whose entries a forced flush takes: those of the core outside deterministic grids (R278, R279, R359). -/
def State.forcedGangs (s : State) (die core : Nat) : List Gang := (s.coreGangs die core).filter fun g => !s.determ g.id
/-- A forced flush of a core (R278, R279). -/
def State.forcedFlush (s : State) (die core : Nat) : State :=
  (s.forcedGangs die core).foldl (fun s g => (s.flushGang g.id).1) (s.count die 0x7020)
/-- Entries of a quadrant's buffer. -/
def bufferRoom : Nat := 256
/-- What an instruction that brings `n` new entries waits for: a migrating page of an entry that a forced flush would take, or, once what there is
room to send has left the buffer, room for the rest (R98); `again` says that it waits already. -/
def State.forcedWait (s : State) (gid : GangId) (n : Nat) (again : Bool) : State × Option Wait :=
  let q := s.quadrant gid
  if s.quadEntries gid + n ≤ bufferRoom then (s, none)
  else match (s.forcedGangs q.1 q.2.1).findSome? fun g => match s.entriesWait g.id with
      | (t, some w) => some (t, w)
      | _ => none with
  | some (t, w) => (t, some w)
  | none =>
    let t := (s.forcedGangs q.1 q.2.1).foldl (fun s g => (s.flushGang g.id).1) (if again then s else s.count q.1 0x7020)
    if t.quadEntries gid + n ≤ bufferRoom then (s, none) else (t, some .counterSpace)

/-- One lane's value enters the buffer, after a forced flush where the quadrant's buffer is full. -/
def State.bufferValue (s : State) (gid : GangId) (e : AEntry) : State :=
  match s.gang? gid with
  | none => s
  | some g =>
    match joinEntry e g.abuf with
    | some l => s.setGang { g with abuf := l }
    | none =>
      let q := s.quadrant gid
      let s := if s.quadEntries gid ≥ bufferRoom then s.forcedFlush q.1 q.2.1 else s
      match s.gang? gid with
      | some g => s.setGang { g with abuf := g.abuf ++ [e] }
      | none => s

/-! ## The quantum buffer -/

/-- Byte mask of [addr, addr + n) in its 16-byte unit. -/
def unitMask (addr n : Nat) : BitVec 16 := maskOf 16 ((List.range n).map fun i => addr % 16 + i)

/-- A store of at most 16 bytes within one unit, as an entry at the unit's address. -/
def storeEntry (space addr order scope : Nat) (bs : List Byte) : QEntry :=
  { kind := 1, space := space, addr := addr / 16 * 16, mask := unitMask addr bs.length, op := 0, fmt := 0, width := bs.length,
    order := order, scope := scope, lane := 0, signed := false,
    bytes := (List.replicate (addr % 16) 0 ++ bs ++ List.replicate 16 0).take 16 }
/-- The later store's bytes win. -/
def QEntry.merge (a b : QEntry) : QEntry :=
  { a with
    mask := a.mask ||| b.mask, order := b.order, scope := b.scope
    bytes := (List.range 16).map fun i => if bit b.mask i then b.bytes.getD i 0 else a.bytes.getD i 0 }
/-- A new entry; a store merges into a store entry of its unit. -/
def addQ (l : List QEntry) (e : QEntry) : List QEntry :=
  if e.kind = 1 && l.any (fun x => x.kind == 1 && x.space == e.space && x.addr == e.addr) then
    l.map fun x => if x.kind == 1 && x.space == e.space && x.addr == e.addr then x.merge e else x
  else l ++ [e]
/-- Entries of the quantum buffer (R358). -/
def quantumRoom : Nat := 512
/-- A byte of a load: the latest store entry that covers it, else memory (R360). -/
def overlayByte (l : List QEntry) (space a : Nat) (b : Byte) : Byte :=
  match l.reverse.find? fun e => e.kind == 1 && e.space == space && e.addr == a / 16 * 16 && bit e.mask (a % 16) with
  | some e => e.bytes.getD (a % 16) 0
  | none => b
def overlay (l : List QEntry) (space a : Nat) (bs : List Byte) : List Byte :=
  bs.mapIdx fun i b => overlayByte l space (a + i) b

/-- An instruction whose entries would not fit: the quantum ends before it (R357). -/
def State.quantumFull (s : State) (g : Gang) : State :=
  ((s.count (s.gangDie g.id) 0x7028).sampleAll (s.gangDie g.id) 7 g.qbuf.length).setGang { g with ended := some .plain }
/-- A quantum ends (R357). -/
def State.endQuantum (s : State) (gid : GangId) (q : QuantumEnd) : State :=
  match s.gang? gid with
  | some g => (s.sampleAll (s.gangDie gid) 7 g.qbuf.length).setGang { g with ended := some q }
  | none => s

end Sys2Proof.Machine
end

