-- ==== Sys2Proof/Machine/Transc.lean ====
section
/-! DEFINITION. The functions whose accuracy the manual bounds (R254, R332): the stated values, and elsewhere a free value within the
bound (log 7, 8). A real number is an integer in units of 2^-256; the series below are exact to far less than any bound. -/
namespace Sys2Proof.Machine

/-! ## Fixed point -/

/-- Fraction bits. -/
def fracBits : Nat := 256
def fixOne : Int := 2 ^ fracBits
/-- A floating value ±m × 2^e, e at least −149. -/
def fixOf (neg : Bool) (m : Nat) (e : Int) : Int :=
  let x : Int := ((m * 2 ^ (e + fracBits).toNat : Nat) : Int)
  if neg then -x else x
def fixMul (a b : Int) : Int := a * b / fixOne
def fixDiv (a b : Int) : Int := a * fixOne / b
/-- π and ln 2, to 320 fraction bits. -/
def piBits : Nat := 0x3243f6a8885a308d313198a2e03707344a4093822299f31d0082efa98ec4e6c89452821e638d01377
def ln2Bits : Nat := 0xb17217f7d1cf79abc9e3b39803f2f6af40f343267298b62d8a0d175b8baafa2be7b876206debac98
def fixLn2 : Int := ((ln2Bits / 2 ^ 64 : Nat) : Int)

/-- A power series by its terms: `next n t` is the term after the nth. -/
def series (next : Nat → Int → Int) : Nat → Nat → Int → Int
  | 0, _, _ => 0
  | f + 1, n, t => t + series next f (n + 1) (next n t)
/-- e^x for x in [0, 1). -/
def fixExpUnit (x : Int) : Int := series (fun n t => fixMul t x / ((n + 1 : Nat) : Int)) 60 0 fixOne
/-- 2^x. -/
def fixExp2 (x : Int) : Int :=
  let n := x / fixOne
  let y := fixExpUnit (fixMul (x - n * fixOne) fixLn2)
  if 0 ≤ n then y * 2 ^ n.toNat else y / 2 ^ (-n).toNat
/-- log2 of m × 2^e, with 2^k ≤ m < 2^(k + 1). -/
def fixLog2 (m : Nat) (e : Int) : Int :=
  let k := Nat.log2 m
  let y := fixOf false m (-(k : Int))
  let t := fixDiv (y - fixOne) (y + fixOne)
  let ln := 2 * (series (fun n x => fixMul (fixMul x t) t * ((2 * n + 1 : Nat) : Int) / ((2 * n + 3 : Nat) : Int)) 90 0 t)
  fixDiv ln fixLn2 + (k + e) * fixOne
/-- 1 / (1 + e^-x), for x between −200 and 200. -/
def fixSigm (x : Int) : Int := fixDiv fixOne (fixOne + fixExp2 (fixDiv (-x) fixLn2))
def fixClamp (b x : Int) : Int := max (-b * fixOne) (min (b * fixOne) x)
/-- x less the nearest multiple of 2π. -/
def fixTurn (x : Int) : Int :=
  let two : Int := 2 * ((piBits : Nat) : Int)
  let k := (x * 2 ^ 64 + two / 2) / two
  (x * 2 ^ 64 - k * two) / 2 ^ 64
/-- sin and cos of x. -/
def fixSin (x : Int) : Int :=
  let r := fixTurn x
  series (fun n t => -(fixMul (fixMul t r) r) / (((2 * n + 2) * (2 * n + 3) : Nat) : Int)) 60 0 r
def fixCos (x : Int) : Int :=
  let r := fixTurn x
  series (fun n t => -(fixMul (fixMul t r) r) / (((2 * n + 1) * (2 * n + 2) : Nat) : Int)) 60 0 fixOne

/-! ## A result within a bound -/

/-- One ulp of FP32 at a real number. -/
def fixUlp (x : Int) : Int := 2 ^ (Nat.max (Nat.log2 x.natAbs - 23) (fracBits - 149))
/-- The free value where it is a finite FP32 number within `w` of `x`; else the FP32 number nearest to `x`. -/
def nearValue (x w : Int) (free : Word) : Word :=
  let near := BitVec.ofNat 32 (roundF (floatFmt 4) 0 false 0 (x < 0) x.natAbs (-(fracBits : Int)) false)
  match decodeF (floatFmt 4) free.toNat with
  | .fin neg m e => if (fixOf neg m e - x).natAbs ≤ w.natAbs then free else near
  | _ => near
/-- The same, where a result too small to represent is the zero of its sign (R332; log 8). -/
def nearOrZero (neg : Bool) (x w : Int) (free : Word) : Word :=
  if x.natAbs < 2 ^ (fracBits - 150) then f32Zero neg else nearValue x w free

/-! ## Lane functions (R254) -/

/-- FSQRT: correctly rounded. -/
def fsqrtE (mode : Nat) (x : Word) : Word :=
  match decodeF (floatFmt 4) x.toNat with
  | .nan => f32Nan
  | .inf neg => if neg then f32Nan else f32Inf false
  | .fin neg m e =>
    if m = 0 then x
    else if neg then f32Nan
    else
      let (m2, e2) := if e % 2 = 0 then (m * 2 ^ 64, e - 64) else (m * 2 ^ 65, e - 65)
      let r := isqrt m2
      BitVec.ofNat 32 (roundF (floatFmt 4) mode false 0 false r (e2 / 2) (r * r != m2))

/-- FRCP: within 1 ulp, and exact for ±2^k with a normal reciprocal (R377); a reciprocal beyond the range is ∞ of its sign. -/
def frcpE (x : Word) : Word :=
  match decodeF (floatFmt 4) x.toNat with
  | .nan => f32Nan
  | .inf neg => f32Zero neg
  | .fin neg m e =>
    let k := (Nat.log2 m : Int) + e
    if m = 0 then f32Inf neg
    else if m = 2 ^ Nat.log2 m ∧ -127 ≤ k ∧ k ≤ 126 then
      BitVec.ofNat 32 ((if neg then 2 ^ 31 else 0) + (127 - k).toNat * 2 ^ 23)
    else
      let r := fixDiv fixOne (fixOf neg m e)
      if (fixOf false (2 ^ 24 - 1) 104).natAbs < r.natAbs then f32Inf neg else nearValue r (fixUlp r) (Config.frcp x)

/-- FRSQ: within 1 ulp. -/
def frsqE (x : Word) : Word :=
  match decodeF (floatFmt 4) x.toNat with
  | .nan => f32Nan
  | .inf neg => if neg then f32Nan else f32Zero false
  | .fin neg m e =>
    if m = 0 then f32Inf neg
    else if neg then f32Nan
    else
      let r : Int := ((isqrt ((fixDiv fixOne (fixOf false m e)).toNat * 2 ^ fracBits) : Nat) : Int)
      nearValue r (fixUlp r) (Config.frsq x)

/-- FEX2: exact for an integral x with a normal result, else within 2 ulp. -/
def fex2E (x : Word) : Word :=
  match decodeF (floatFmt 4) x.toNat with
  | .nan => f32Nan
  | .inf neg => if neg then f32Zero false else f32Inf false
  | .fin neg m e =>
    let whole := 0 ≤ e || m % 2 ^ (-e).toNat = 0
    let mag := roundInt 1 0 neg m e
    if !neg && mag ≥ 128 then f32Inf false
    else if whole && !neg then BitVec.ofNat 32 ((127 + mag) * 2 ^ 23)
    else if whole && mag ≤ 126 then BitVec.ofNat 32 ((127 - mag) * 2 ^ 23)
    else
      let r := fixExp2 (fixClamp 200 (fixOf neg m e))
      nearOrZero false r (2 * fixUlp r) (Config.fex2 x &&& 0x7FFFFFFF)

/-- FLG2: on [0.5, 2) an absolute error of at most 2^-22, elsewhere within 2 ulp. -/
def flg2E (x : Word) : Word :=
  match decodeF (floatFmt 4) x.toNat with
  | .nan => f32Nan
  | .inf neg => if neg then f32Nan else f32Inf false
  | .fin neg m e =>
    if m = 0 then f32Inf true
    else if neg then f32Nan
    else if x = 0x3F800000 then 0
    else
      let r := fixLog2 m e
      let v := fixOf false m e
      nearValue r (if fixOne / 2 ≤ v && v < 2 * fixOne then fixOne / 2 ^ 22 else 2 * fixUlp r) (Config.flg2 x)

/-- A word read as a value of [−1, 1]: what a free value of FSIN or FCOS is brought into beyond 2^15. -/
def unitWord (w : Word) : Word := (w &&& 0x80000000) ||| BitVec.ofNat 32 (w.toNat % 2 ^ 31 % 0x3F800001)
/-- FSIN and FCOS on a finite value: an absolute error of at most 2^-21 up to 2^15. -/
def circular (f : Int → Int) (neg : Bool) (m : Nat) (e : Int) (free : Word) : Word :=
  let v := fixOf neg m e
  if v.natAbs ≤ (2 ^ 15 * fixOne).natAbs then nearValue (f v) (fixOne / 2 ^ 21) free else unitWord free
def fsinE (x : Word) : Word :=
  match decodeF (floatFmt 4) x.toNat with
  | .nan => f32Nan
  | .inf _ => f32Nan
  | .fin neg m e => if m = 0 then x else circular fixSin neg m e (Config.fsin x)
def fcosE (x : Word) : Word :=
  match decodeF (floatFmt 4) x.toNat with
  | .nan => f32Nan
  | .inf _ => f32Nan
  | .fin neg m e => circular fixCos neg m e (Config.fcos x)

/-! ## EACT (R332) -/

/-- A bound of `k` ulp, or of 2^-22 where that is wider. -/
def ulpsOrAbs (k : Int) (r : Int) : Int := max (k * fixUlp r) (fixOne / 2 ^ 22)
/-- 0.5x(1 + tanh y) = x / (1 + e^-2y), y = 0.79788456 (x + 0.044715 x³). -/
def fixGelu (v : Int) : Int :=
  let x := fixClamp 32 v
  let y := 79788456 * (x + 44715 * fixMul (fixMul x x) x / 1000000) / 100000000
  fixMul v (fixSigm (fixClamp 200 (2 * y)))
/-- EACT on a finite value. -/
def eactFin (fn : Nat) (x : Word) (neg : Bool) (m : Nat) (e : Int) : Word :=
  let v := fixOf neg m e
  match fn with
  | 0 => if m = 0 || neg then 0 else x
  | 1 => let r := fixSigm (fixClamp 200 v); nearOrZero false r (2 * fixUlp r) (Config.sigm x)
  | 2 => let r := fixMul v (fixSigm (fixClamp 200 v)); nearOrZero neg r (ulpsOrAbs 4 r) (Config.silu x)
  | 3 => let r := 2 * fixSigm (2 * fixClamp 100 v) - fixOne; nearOrZero neg r (ulpsOrAbs 2 r) (Config.tanh x)
  | _ => let r := fixGelu v; nearOrZero neg r (ulpsOrAbs 4 r) (Config.gelu x)
def eactE (fn : Nat) (x : Word) : Word :=
  match fn, decodeF (floatFmt 4) x.toNat with
  | 5, _ => fex2E x
  | _, .nan => f32Nan
  | 0, .inf neg => if neg then 0 else f32Inf false
  | 1, .inf neg => if neg then 0 else 0x3F800000
  | 2, .inf neg => if neg then f32Zero true else f32Inf false
  | 3, .inf neg => if neg then 0xBF800000 else 0x3F800000
  | _, .inf neg => if neg then f32Zero true else f32Inf false
  | fn, .fin neg m e => eactFin fn x neg m e

end Sys2Proof.Machine
end

