-- ==== Sys2Proof/Machine/LaneFloat.lean ====
section
/-! DEFINITION. The floating and conversion lane instructions (R252 to R261). -/
namespace Sys2Proof.Machine

/-- Rounding field (R125). -/
def LaneRounding (w : LaneWord) : Nat := fieldNat w.imm 13 3
/-- The saturate control for a destination format (R127): inverted for E4M3. -/
def laneSat (fmt : Nat) (w : LaneWord) : Bool := if fmt = 7 then !bit w.imm 12 else bit w.imm 12

/-- GSEED of the issuing block, 0 without a gauge partition (R133). -/
def State.gseed (s : State) (g : GangId) : DWord :=
  match s.gridOf g, s.blockOf g with
  | some gr, some b => if gr.record.gaugeSz = 0 then 0 else BitVec.ofNat 64 (s.ls.readNat (b.gaugeBase gr.record + 8) 8)
  | _, _ => 0
/-- The draw of element `e` under RS (R133). -/
def State.rsDraw (s : State) (g : Gang) (lane e : Nat) : Nat :=
  drawFraction (s.gseed g.id) (BitVec.ofNat 64 g.id.index) (BitVec.ofNat 64 (g.rsSeq * 2 ^ 8 + lane * 2 ^ 3 + e))

/-- rs_seq rises at each issue with rounding field RS, whether or not any guard is true (R133). -/
def State.rsRise (s : State) (w : LaneWord) (g : GangId) : State :=
  if LaneRounding w = 4 then
    match s.gang? g with
    | some x => if x.halted then s else s.setGang { x with rsSeq := (x.rsSeq + 1) % 2 ^ 32 }
    | none => s
  else s
/-- An outcome with rs_seq raised for the gang that issues. -/
def withRs (s : State) (w : LaneWord) (o : Outcome) : Outcome :=
  match o, s.laneIssuer with
  | .next t, some p => .next (match t.gang? p.1.id with
    | some g => if g.trapping.isSome || g.halted then t else t.rsRise w g.id
    | none => t)
  | o, _ => o

/-- An element-wise floating instruction with `n` sources: `f mode sat draw x y z`. -/
def floatMap (s : State) (w : LaneWord) (n : Nat) (f : Nat → Bool → Nat → Nat → Nat → Nat → Nat) : Outcome :=
  withRs s w <| laneAlu s w n fun g l =>
    let xs := elems w.ew (s.opA g w w.ew l)
    let ys := elems w.ew (s.opB g w w.ew l)
    let zs := elems w.ew (s.opC g w w.ew l)
    let mode := LaneRounding w
    packElems w.ew ((List.range (32 / w.ew)).map fun e =>
      f mode (laneSat w.fmt w) (if mode = 4 then s.rsDraw g l e else 0) (xs.getD e 0) (ys.getD e 0) (zs.getD e 0))
/-- An FP32 function of one source. -/
def float32 (s : State) (w : LaneWord) (f : Word → Word) : Outcome := laneAlu s w 1 fun g l => f (s.opA g w w.ew l)

def execFadd (w : LaneWord) (s : State) : Outcome := floatMap s w 2 fun m st u x y _ => faddE (floatFmt w.fmt) m st u x y
def execFsub (w : LaneWord) (s : State) : Outcome := floatMap s w 2 fun m st u x y _ => fsubE (floatFmt w.fmt) m st u x y
def execFmul (w : LaneWord) (s : State) : Outcome := floatMap s w 2 fun m st u x y _ => fmulE (floatFmt w.fmt) m st u x y
def execFfma (w : LaneWord) (s : State) : Outcome := floatMap s w 3 fun m st u x y z => ffmaE (floatFmt w.fmt) m st u x y z
def execFmin (w : LaneWord) (s : State) : Outcome := floatMap s w 2 fun _ _ _ x y _ => minMaxF (floatFmt w.fmt) false x y
def execFmax (w : LaneWord) (s : State) : Outcome := floatMap s w 2 fun _ _ _ x y _ => minMaxF (floatFmt w.fmt) true x y
def execFrcp (w : LaneWord) (s : State) : Outcome := float32 s w frcpE
def execFrsq (w : LaneWord) (s : State) : Outcome := float32 s w frsqE
def execFsqrt (w : LaneWord) (s : State) : Outcome := float32 s w (fsqrtE (LaneRounding w))
def execFex2 (w : LaneWord) (s : State) : Outcome := float32 s w fex2E
def execFlg2 (w : LaneWord) (s : State) : Outcome := float32 s w flg2E
def execFsin (w : LaneWord) (s : State) : Outcome := float32 s w fsinE
def execFcos (w : LaneWord) (s : State) : Outcome := float32 s w fcosE
def execFrnd (w : LaneWord) (s : State) : Outcome := floatMap s w 1 fun m _ u x _ _ => frndE (floatFmt w.fmt) m u x

/-- FCMP (R255). -/
def execFcmp (w : LaneWord) (s : State) : Outcome :=
  lanePred s w 2 fun g l =>
    combine w.v86 (List.zipWith
      (fun x y => fcmpHolds w.ctl (decodeF (floatFmt w.fmt) x) (decodeF (floatFmt w.fmt) y))
      (elems w.ew (s.opA g w w.ew l)) (elems w.ew (s.opB g w w.ew l)))
/-- FCLS (R256): the class mask is control field c[48:40]. -/
def execFcls (w : LaneWord) (s : State) : Outcome :=
  lanePred s w 1 fun g l =>
    combine w.v86 ((elems w.ew (s.opA g w w.ew l)).map fun x => bit w.c (classBit (floatFmt w.fmt) x))

/-- R258: the converted elements placed by group index; `conv e x` converts an element for destination element `e`. -/
def convertGroup (ws wd grp : Nat) (old x : Word) (conv : Nat → Nat → Nat) : Word :=
  let ns := 32 / ws
  let nd := 32 / wd
  if nd ≥ ns then
    (List.range ns).foldl (fun r e => setElem wd r (grp * ns + e) (conv (grp * ns + e) (elem ws x e))) old
  else
    (List.range nd).foldl (fun r e => setElem wd r e (conv e (elem ws x (grp * nd + e)))) old

/-- A conversion from width `ws` to width `wd` (R258). -/
def laneConvert (s : State) (w : LaneWord) (ws wd : Nat) (conv : Nat → Nat → Nat → Nat) : Outcome :=
  withRs s w <| laneAlu s w 1 (fun g l =>
    convertGroup ws wd w.ctl (g.vreg w.d.toNat l) (s.opA g w ws l)
      fun e x => conv (LaneRounding w) (if LaneRounding w = 4 then s.rsDraw g l e else 0) x) true

/-- Source formats of FCVT and integer formats of F2I and I2F by variant (R259, R260). -/
def cvtSource (v : Nat) : Nat := match v with | 0 => 4 | 1 => 5 | 2 => 6 | 3 => 7 | 4 => 8 | _ => 9
def cvtWidth (v : Nat) : Nat := match v with | 0 => 32 | 1 => 32 | 2 => 16 | 3 => 16 | _ => 8
def cvtSigned (v : Nat) : Bool := v % 2 == 0

def execFcvt (w : LaneWord) (s : State) : Outcome :=
  laneConvert s w (floatFmt (cvtSource w.low3)).width w.ew fun m u x =>
    fcvtE (floatFmt w.fmt) (floatFmt (cvtSource w.low3)) m (laneSat w.fmt w) u x
def execF2i (w : LaneWord) (s : State) : Outcome :=
  laneConvert s w w.ew (cvtWidth w.low3) fun m u x => f2iE (floatFmt w.fmt) (cvtWidth w.low3) (cvtSigned w.low3) m u x
def execI2f (w : LaneWord) (s : State) : Outcome :=
  laneConvert s w (cvtWidth w.low3) w.ew fun m u x =>
    i2fE (floatFmt w.fmt) (cvtWidth w.low3) (cvtSigned w.low3) m (laneSat w.fmt w) u x

end Sys2Proof.Machine
end

