-- ==== Sys2Proof/Machine/LaneMem.lean ====
section
/-! DEFINITION. The lane memory and gauge instructions (R268 to R282, R422 to R424, R433, R455): the lanes' accesses, what waits,
what is sent to another package, and how faults of single lanes are gathered into one trap. -/
namespace Sys2Proof.Machine

/-! ## Operands -/

/-- Word `k` of a register operand: a v register, or the special sources 1021 and 1023 (R268). -/
def Gang.operandWord (g : Gang) (f : BitVec 10) (lane k : Nat) : Word :=
  if f.toNat < 768 then g.vreg (f.toNat + k) lane
  else if f = 1021 && k = 0 then BitVec.ofNat 32 lane
  else 0
/-- `n` bytes of an operand from word `k`: the low bytes of one register, or whole registers (R269, R274). -/
def Gang.operandBytes (g : Gang) (f : BitVec 10) (lane k n : Nat) : List Byte :=
  if n ≤ 4 then leBytes n (g.operandWord f lane k).toNat
  else (List.range (n / 4)).flatMap fun i => leBytes 4 (g.operandWord f lane (k + i)).toNat
/-- A lane's address: a pair for GEN and POL, else one register (R269). -/
def Gang.laneAddr (g : Gang) (f : BitVec 10) (space lane : Nat) : Nat :=
  if space = 0 || space = 2 then (g.operandWord f lane 0).toNat + 2 ^ 32 * (g.operandWord f lane 1).toNat
  else (g.operandWord f lane 0).toNat
/-- Registers of an address operand. -/
def addrRegs (space : Nat) : Nat := if space = 0 || space = 2 then 2 else 1

/-- The bytes of a result land in a lane's registers from `d` (R274). -/
def Gang.land (g : Gang) (d lane : Nat) (bs : List Byte) (sext : Bool) : Gang :=
  let n := bs.length
  if n ≤ 4 then
    g.setVreg d lane (if sext then BitVec.ofInt 32 (signedOf (8 * n) (ofLeBytes bs)) else BitVec.ofNat 32 (ofLeBytes bs))
  else (List.range (n / 4)).foldl (fun g i => g.setVreg (d + i) lane (BitVec.ofNat 32 (ofLeBytes ((bs.drop (4 * i)).take 4)))) g

/-! ## Waiting, trapping, finishing -/

/-- The lane stream of a part waits at its instruction. -/
def State.waitLane (s : State) (g : Gang) (m : BitVec 8) (w : Wait) : State :=
  s.setGang (g.mapPart m fun _ sl => { sl with lwait := some w })

/-- One trap for the faults of single lanes (R392, R441): cause and address of the lowest, every faulting lane in LANEMASK, the
block killed if any cause kills. -/
def State.trapLanesFrom (s : State) (src : Nat) (gid : GangId) (m : BitVec 8) (laneIdx : Nat) (faults : List (Nat × AccFault))
    (words : List Word) : State :=
  match faults with
  | [] => s
  | p :: rest =>
    let low := rest.foldl (fun (a b : Nat × AccFault) => if b.1 < a.1 then b else a) p
    let s := s.takeTrap gid ⟨low.2.cause, src, lowestSlice m, low.2.info, laneMask (faults.map (·.1)),
      some (low.2.space, low.2.addr), laneIdx, words⟩
    match gid with
    | .compute b _ =>
      if disposition low.2.cause != .kill && faults.any (fun q => disposition q.2.cause == .kill) then s.killCohort b else s
    | .control _ _ => s

/-- The same at the issue of a lane instruction. -/
def State.trapLanes (s : State) (gid : GangId) (m : BitVec 8) (laneIdx : Nat) (faults : List (Nat × AccFault)) (words : List Word) : State :=
  s.trapLanesFrom 1 gid m laneIdx faults words

/-- Order and scope of a lane memory instruction, from its first word (R187). -/
def wordsOrder (words : List Word) : Nat × Nat := (fieldNat (words.headD 0) 8 2, fieldNat (words.headD 0) 10 3)
/-- What a performed release or acquire at .block or wider does to the race detector's counters (R437). -/
def State.orderDone (s : State) (gid : GangId) (order scope : Nat) : State :=
  if scope = 0 then s
  else
    let s := if order ≥ 2 then s.bumpInterval gid else s
    if order % 2 = 1 then s.acquire gid else s

/-- The faults of an instruction lane by lane: what refuses a VATL's line refuses the elements of every executing lane (R102). -/
def Gang.lineFaults (g : Gang) (m : BitVec 8) (words : List Word) (faults : List (Nat × AccFault)) : List (Nat × AccFault) :=
  if fieldNat (words.getD 2 0) 24 8 = 0x54 then
    match decodeLane (laneBits (words.headD 0) (words.getD 1 0) (words.getD 2 0)), faults with
    | .ok (.vatl w), p :: _ => (g.execLanes m w).map fun l => (l, p.2)
    | _, _ => faults
  else faults

/-- The end of a lane memory instruction: past it when no lane faulted, else the trap, with the gang at the instruction. -/
def State.endLane (s : State) (g : Gang) (m : BitVec 8) (faults : List (Nat × AccFault)) (race : Option (Nat × RaceEntry))
    (words : List Word) : State :=
  if faults.isEmpty then
    let s := (s.laneDone (g.replayed m 0) m).orderDone g.id (wordsOrder words).1 (wordsOrder words).2
    match race with
    | some r => s.trapRace g.id 1 (lowestSlice m) (g.laneIndex m) r words
    | none => s
  else
    let faults := g.lineFaults m words faults
    (s.setGang (g.replayed m (laneMask (faults.map (·.1))))).trapLanes g.id m (g.laneIndex m) faults words

/-! ## The accesses of the lanes -/

/-- What a lane memory instruction does in each lane. -/
structure LaneOp where
  kind : AccKind
  bytes : Nat
  /-- the register that takes the result -/
  dst : Option Nat
  sext : Bool
  sync : SyncUse
  /-- whether a replay is limited to the replay mask (R424) -/
  masked : Bool
  /-- whether the instruction counts in class l (R273) -/
  inL : Bool

/-- How an order and scope synchronise: `rmw` for atomic operations, reductions and gauge updates. -/
def syncUse (g : Gang) (m : BitVec 8) (w : LaneWord) (rmw : Bool) : SyncUse :=
  ⟨if rmw || w.order % 2 = 1 then some w.scope else none, if rmw || w.order ≥ 2 then w.scope else 7, w.space == 1, g.runDmask m⟩

/-- Where each lane's access lands. -/
def State.locateLanes (s : State) (g : Gang) (k : AccKind) (space n : Nat) (las : List (Nat × Nat)) :
    State × List (Nat × Nat × Located) :=
  las.foldl (fun st p => let r := st.1.locate g.id k space p.2 n; (r.1, st.2 ++ [(p.1, p.2, r.2)])) (s, [])

/-- The first lane that must wait. -/
def firstWait (l : List (Nat × Nat × Located)) : Option Wait :=
  l.findSome? fun p => match p.2.2 with | .wait w => some w | _ => none
/-- How many of a stream's accesses of `n` bytes are sent. -/
def State.departCount (s : State) (g : GangId) (lane : Bool) (n : Nat) (l : List (Nat × Nat × Located)) : Nat :=
  (l.filter fun p => match p.2.2 with | .ok q => s.departs g lane q n | _ => false).length

/-- Result of performing the lanes so far. -/
structure LaneRun where
  s : State
  g : Gang
  faults : List (Nat × AccFault)
  race : Option (Nat × RaceEntry)
  sent : Nat
  /-- the stream must wait for the replies: an access leaves the package, or goes to a device-class page (log 15, R339) -/
  hold : Bool

/-- One lane's access (R271): performed here, sent, or faulted. `after` sees what a local access answered. -/
def LaneRun.step (r : LaneRun) (op : LaneOp) (space laneIdx : Nat) (mk : Nat → ReqOp) (fix : Nat → List Byte → List Byte)
    (p : Nat × Nat × Located) : LaneRun :=
  match p with
  | (lane, addr, .fault f) => { r with faults := r.faults ++ [(lane, { f with addr := addr })] }
  | (_, _, .wait _) => r
  | (lane, addr, .ok q) =>
    if r.s.departs r.g.id true q (mk lane).size then
      { r with
        s := r.s.sendAccess r.g.id q addr space (mk lane) (.lane r.s.clock r.g.id lane op.dst op.bytes op.sext) op.sync laneIdx
        sent := r.sent + 1, hold := r.hold || q.isRemote || r.s.deviceClass r.g.id space addr }
    else
      match r.s.performAt r.g lane laneIdx addr q (mk lane) op.sync with
      | (s, ⟨.error (c, i), race⟩) =>
        { r with s := s, faults := r.faults ++ [(lane, ⟨c, i, space, addr⟩)], race := r.race.orElse fun _ => race }
      | (s, ⟨.ok bs, race⟩) =>
        let g := match op.dst with | some d => r.g.land d lane (fix addr bs) op.sext | none => r.g
        { r with s := s, g := g, race := r.race.orElse fun _ => race }

/-- Whether a lane group performs again an instruction that it has issued with lanes that faulted, in this group or in one that it has
parted from. -/
def Gang.replaying (g : Gang) (m : BitVec 8) : Bool := g.replaySeq.any fun p => bit m p.1
/-- The executing lanes of an issue: on a replay of a masked instruction those of the replay mask only (R424). -/
def Gang.issueLanes (g : Gang) (m : BitVec 8) (w : LaneWord) (masked : Bool) : List Nat :=
  let l := g.execLanes m w
  if masked && g.replaying m then l.filter fun i => bit g.replay i else l

/-- The end of an issue: the instruction is complete, or its replies are still to come, and its counter holds it (R190). The stream goes on
past it unless it is an acquire, a lane of it has faulted, or it must wait for its replies (log 15, 66). -/
def LaneRun.endIssue (q : LaneRun) (m : BitVec 8) (inL : Bool) (words : List Word) : State :=
  let c := q.g.accesses inL
  if q.sent = 0 then
    q.s.endLane (if q.faults.isEmpty then q.g.setAccesses inL c.pass else q.g) m q.faults q.race words
  else
    let g := q.g.setAccesses inL (c.raise c.fresh)
    let ahead := !q.hold && q.faults.isEmpty && (wordsOrder words).1 % 2 = 0 && !q.s.determ g.id
    let s := if ahead then q.s.laneDone (g.replayed m 0) m else q.s.setGang g
    { s with remote := s.remote ++ [⟨q.s.clock, g.id, true, m, words, g.laneIndex m, ahead, q.faults, inL, 0, q.race, c.fresh⟩] }

/-- Whether a release of a part's lane stream must wait: it covers the earlier accesses of the lane sub-order of every slice (R341). -/
def State.releaseHeld (s : State) (g : Gang) (m : BitVec 8) (order : Nat) : Bool :=
  order ≥ 2 && s.remote.any fun r => r.laneStream && r.gang == g.id && r.mask &&& g.partOf m != 0

/-- The lanes' accesses of one instruction, in ascending LANEID. -/
def State.lanesPerform (s : State) (g : Gang) (m : BitVec 8) (w : LaneWord) (op : LaneOp) (mk : Nat → ReqOp)
    (fix : Nat → List Byte → List Byte) (las : List (Nat × Nat)) : State :=
  if las.isEmpty then s.laneDone (g.replayed m 0) m
  else if s.releaseHeld g m w.order then s.waitLane g m .outstanding
  else if (g.accesses op.inL).length ≥ 63 then s.waitLane g m .counterSpace
  else
    let r := s.locateLanes g op.kind w.space op.bytes las
    match firstWait r.2 with
    | some x => r.1.waitLane g m x
    | none =>
      if !r.1.hasRoom (r.1.requester g.id) (r.1.departCount g.id true op.bytes r.2) then r.1.waitLane g m .counterSpace
      else
        let q := r.2.foldl (fun (acc : LaneRun) p => acc.step op w.space (g.laneIndex m) mk fix p) ⟨r.1, g, [], none, 0, false⟩
        q.endIssue m op.inL s.issue.words

/-! ## Deterministic operation: entries in place of accesses (R357 to R360, R413) -/

/-- The end of a lane memory instruction whose accesses are to be performed in the commit slot, where a release raises the interval counter
(R437). -/
def State.endBuffered (s : State) (g : Gang) (m : BitVec 8) (faults : List (Nat × AccFault)) (words : List Word) : State :=
  if faults.isEmpty then s.laneDone (g.replayed m 0) m else s.endLane g m faults none words
/-- The entries of an instruction enter the quantum buffer, or end the quantum before it; faulted lanes trap as ever. -/
def State.lanesBuffer (s : State) (g : Gang) (m : BitVec 8) (op : LaneOp) (space : Nat) (mkq : Nat → Nat → List QEntry)
    (las : List (Nat × Nat)) : State :=
  let r := s.locateLanes g op.kind space op.bytes las
  match firstWait r.2 with
  | some x => r.1.waitLane g m x
  | none =>
    let faults := r.2.filterMap fun p => match p.2.2 with | .fault f => some (p.1, { f with addr := p.2.1 }) | _ => none
    let es := r.2.flatMap fun p => match p.2.2 with | .ok _ => mkq p.1 p.2.1 | _ => []
    let buf := es.foldl addQ g.qbuf
    if buf.length > quantumRoom then r.1.quantumFull g
    else r.1.endBuffered { g with qbuf := buf } m faults s.issue.words

/-- A load of a deterministic gang takes the gang's own stores over memory (R360). -/
def detFix (det : Bool) (g : Gang) (space : Nat) (addr : Nat) (bs : List Byte) : List Byte :=
  if det then overlay g.qbuf space addr bs else bs

/-! ## VLD and VST -/

/-- The registers that a memory instruction reads in the lanes of its issue. -/
def memReads (w : LaneWord) (masked : Bool) (l : List (BitVec 10 × Nat)) (g : Gang) (m : BitVec 8) : List (Nat × Nat) :=
  fieldReads l (g.issueLanes m w masked)
/-- Register names of a memory instruction: `(field, count)` pairs. -/
def memNames (l : List (BitVec 10 × Nat)) : List Nat := l.flatMap fun p => vNames p.1 p.2

/-- The read-only cache in which a gang's .INV loads look, and the context of its addresses. -/
def State.roKey (s : State) (g : GangId) : Nat × Nat :=
  let q := s.quadrant g
  (16 * q.1 + q.2.1, 16 * g.context.2 + g.context.1)
/-- Whether the read-only cache may hold a line: device-class accesses bypass every cache (R72). -/
def State.roCaches (s : State) (g : GangId) (a : Nat) : Bool :=
  match (s.translate (s.xagent g) a 4).2 with
  | .ok l => pteClass l.pte != 2
  | _ => false
/-- A byte of a .INV load: served by the read-only cache where the line is held there (R72, R274, R435; log 19). -/
def State.invByte (s : State) (g : GangId) (a : Nat) (b : Byte) : Byte :=
  if Config.invHit s.clock && s.roCaches g a then
    match s.roCache.find? fun p => p.1 == ((s.roKey g).1, (s.roKey g).2, a) with
    | some p => p.2
    | none => b
  else b
/-- Room for one more line in a core's cache of 64 KiB: one of its 512 lines goes where it is full (R72; log 19). -/
def State.roRoom (s : State) (core : Nat) : State :=
  let lines := ((s.roCache.filter fun p => p.1.1 == core).map fun p => (p.1.2.1, p.1.2.2 / 128)).eraseDups
  if lines.length < 512 then s
  else match lines[Config.roVictim s.clock % lines.length]? with
    | some l => { s with roCache := s.roCache.filter fun p => !(p.1.1 == core && (p.1.2.1, p.1.2.2 / 128) == l) }
    | none => s
/-- The lines of .INV loads enter the cache: a line held stays where the load hit. -/
def State.roFill (s : State) (g : GangId) (lines : List Nat) : State :=
  let k := s.roKey g
  lines.foldl (fun s line =>
    let held := s.roCache.any fun p => p.1 == (k.1, k.2, line)
    if held && Config.invHit s.clock then s
    else match (s.locate g .load 0 line 128).2 with
      | .ok (.mem pa _) =>
        if !s.roCaches g line then s
        else
          let rest : State := { s with
            roCache := s.roCache.filter fun p => !(p.1.1 == k.1 && p.1.2.1 == k.2 && p.1.2.2 / 128 == line / 128) }
          let t := rest.roRoom k.1
          { t with roCache := t.roCache ++ (s.mem.read pa 128).zipIdx.map fun b => ((k.1, k.2, line + b.2), b.1) }
      | _ => s) s

def execVld (w : LaneWord) (s : State) : Outcome :=
  laneChecked s (memNames [(w.d, w.regs), (w.a, addrRegs w.space)]) (memReads w false [(w.a, addrRegs w.space)]) fun g m =>
    let op : LaneOp := ⟨.load, w.bytes, some w.d.toNat, bit w.imm 0, syncUse g m w false, false, true⟩
    let debug := match s.gridOf g.id with | some gr => gr.record.race | none => true
    let cached := w.inv && !debug
    let las := (g.issueLanes m w false).map fun l => (l, g.laneAddr w.a w.space l)
    let t := s.lanesPerform g m w op (fun _ => .load w.bytes)
      (fun addr bs => detFix (s.determ g.id) g w.space addr (if cached then bs.mapIdx fun i b => s.invByte g.id (addr + i) b else bs)) las
    if cached then t.roFill g.id ((las.map fun p => p.2 / 128 * 128).eraseDups) else t

def execVst (w : LaneWord) (s : State) : Outcome :=
  laneChecked s (memNames [(w.a, addrRegs w.space), (w.b, w.regs)]) (memReads w false [(w.a, addrRegs w.space), (w.b, w.regs)]) fun g m =>
    let op : LaneOp := ⟨.store, w.bytes, none, false, syncUse g m w false, false, false⟩
    let las := (g.issueLanes m w false).map fun l => (l, g.laneAddr w.a w.space l)
    if s.determ g.id then
      s.lanesBuffer g m op w.space (fun l a => [storeEntry w.space a w.order w.scope (g.operandBytes w.b l 0 w.bytes)]) las
    else s.lanesPerform g m w op (fun l => .store (g.operandBytes w.b l 0 w.bytes)) (fun _ bs => bs) las

/-! ## VATM, VRDM, VATL -/

/-- The operation of VATM in a lane: for .CAS the expected value follows the swap value (R276). -/
def atomicReq (g : Gang) (w : LaneWord) (l : Nat) : ReqOp :=
  .atomic (bits w.imm 0 3) w.format w.sg (g.operandBytes w.b l 0 w.bytes)
    (if w.sub = 7 then g.operandBytes w.b l (w.bytes / 4) w.bytes else [])
/-- The same without a result (R278). -/
def reduceReq (g : Gang) (w : LaneWord) (l : Nat) : ReqOp := .reduce (bits w.imm 0 3) w.format w.sg (g.operandBytes w.b l 0 w.bytes)
/-- Registers of the data operand. -/
def atomicRegs (w : LaneWord) : Nat := w.bytes / 4 * (if w.sub = 7 then 2 else 1)

/-- An atomic operation or reduction as an entry of its unit: for .CAS the expected value follows the swap. -/
def atomicEntry (g : Gang) (w : LaneWord) (kind : Nat) (l a : Nat) : QEntry :=
  { kind := kind, space := w.space, addr := a / 16 * 16, mask := unitMask a w.bytes, op := w.sub, fmt := w.fmt, width := w.bytes,
    order := w.order, scope := w.scope, lane := l, signed := w.sg,
    bytes := ((g.operandBytes w.b l 0 w.bytes ++ (if w.sub = 7 then g.operandBytes w.b l (w.bytes / 4) w.bytes else [])) ++
      List.replicate 16 0).take 16 }

/-- VRDM.RLX and VATM.C: each lane's value enters the atomic buffer (R278), in deterministic operation within the gang's share
of 16 entries (R413). -/
def State.lanesToAtomicBuffer (s : State) (g : Gang) (m : BitVec 8) (w : LaneWord) (op : LaneOp) (las : List (Nat × Nat)) : State :=
  let r := s.locateLanes g op.kind w.space w.bytes las
  if las.isEmpty then s.laneDone (g.replayed m 0) m
  else if (g.accesses op.inL).length ≥ 63 then s.waitLane g m .counterSpace
  else match firstWait r.2 with
  | some x => r.1.waitLane g m x
  | none =>
    let faults := r.2.filterMap fun p => match p.2.2 with | .fault f => some (p.1, { f with addr := p.2.1 }) | _ => none
    let ok := r.2.filter fun p => match p.2.2 with | .ok _ => true | _ => false
    let entry (p : Nat × Nat × Located) : AEntry :=
      ⟨w.space, p.2.1, w.sub, w.fmt, w.bytes, w.sg, ofLeBytes (g.operandBytes w.b p.1 0 w.bytes)⟩
    let joined := ok.foldl (fun l p => (joinEntry (entry p) l).getD (l ++ [entry p])) g.abuf
    if s.determ g.id && joined.length > 16 then
      if g.abuf.isEmpty then
        let s := r.1.count (r.1.gangDie g.id) 0x7028
        let buf := (ok.map fun p => atomicEntry g w 2 p.1 p.2.1).foldl addQ g.qbuf
        if buf.length > quantumRoom then s.setGang { g with ended := some .plain }
        else s.endBuffered { g with qbuf := buf } m faults s.issue.words
      else r.1.quantumFull g
    else match r.1.forcedWait g.id (joined.length - g.abuf.length) ((g.partSlices m).any fun sl => sl.lwait == some .counterSpace) with
      | (s, some x) => s.waitLane g m x
      | (s, none) =>
        let t := ok.foldl (fun s p => s.bufferValue g.id (entry p)) (s.setGang g)
        match t.gang? g.id with
        | some x => t.endLane (if faults.isEmpty then x.setAccesses op.inL (x.accesses op.inL).pass else x) m faults none s.issue.words
        | none => t

/-- A flush point of the issuing gang before its instruction takes effect (R279): it waits, it traps, or it goes on. -/
def State.laneFlushThen (s : State) (g : Gang) (m : BitVec 8) (k : State → Gang → State) : State :=
  if s.determ g.id then k s g
  else match s.flushPoint g.id with
    | (s, .trapped) => s
    | (s, r) => match s.gang? g.id, r with
      | some x, .wait w => s.waitLane x m w
      | some x, _ => k s x
      | none, _ => s

def execVatm (w : LaneWord) (s : State) : Outcome :=
  laneChecked s (memNames [(w.d, w.bytes / 4), (w.a, addrRegs w.space), (w.b, atomicRegs w)])
      (memReads w true [(w.a, addrRegs w.space), (w.b, atomicRegs w)]) fun g m =>
    let dst := if w.d.toNat < 768 then some w.d.toNat else none
    let op : LaneOp := ⟨.atomic, w.bytes, dst, false, syncUse g m w true, true, dst.isSome⟩
    let las := (g.issueLanes m w true).map fun l => (l, g.laneAddr w.a w.space l)
    if w.cflag then s.lanesToAtomicBuffer g m w op las
    else if s.determ g.id then
      if dst.isSome then
        (s.laneDone g m).endQuantum g.id (.atomic w m (g.laneIndex m) s.issue.words)
      else s.lanesBuffer g m op w.space (fun l a => [atomicEntry g w 3 l a]) las
    else s.laneFlushThen g m fun s g => s.lanesPerform g m w op (atomicReq g w) (fun _ bs => bs) las

def execVrdm (w : LaneWord) (s : State) : Outcome :=
  laneChecked s (memNames [(w.a, addrRegs w.space), (w.b, w.bytes / 4)])
      (memReads w true [(w.a, addrRegs w.space), (w.b, w.bytes / 4)]) fun g m =>
    let op : LaneOp := ⟨.reduce, w.bytes, none, false, syncUse g m w true, true, false⟩
    let las := (g.issueLanes m w true).map fun l => (l, g.laneAddr w.a w.space l)
    if w.order = 0 then s.lanesToAtomicBuffer g m w op las
    else if s.determ g.id then s.lanesBuffer g m op w.space (fun l a => [atomicEntry g w 2 l a]) las
    else s.laneFlushThen g m fun s g => s.lanesPerform g m w op (reduceReq g w) (fun _ bs => bs) las

/-- The elements that the executing lanes supply to a line (R277). -/
def lineWords (g : Gang) (w : LaneWord) (lanes : List Nat) : List (Option Word) :=
  (List.range 32).map fun l => if lanes.contains l then some (g.operandWord w.b l 0) else none

/-- VATL (R277): one access of the leader lane, whose address must be a multiple of 128. -/
def execVatl (w : LaneWord) (s : State) : Outcome :=
  laneChecked s (memNames [(w.a, addrRegs w.space), (w.b, 1)])
      (fun g m => fieldReads [(w.a, addrRegs w.space)] ((g.execLanes m w).take 1) ++ fieldReads [(w.b, 1)] (g.execLanes m w)) fun g m =>
    let lanes := g.issueLanes m w true
    let op : LaneOp := ⟨.reduce, 128, none, false, syncUse g m w true, true, false⟩
    match g.execLanes m w, lanes with
    | leader :: _, _ :: _ =>
      let addr := g.laneAddr w.a w.space leader
      let all := g.execLanes m w
      if addr % 128 != 0 && addr < 2 ^ spaceBits w.space then
        s.endLane g m [(leader, ⟨0x15, w.wcode, w.space, addr⟩)] none s.issue.words
      else if s.determ g.id then
        s.lanesBuffer g m op w.space (fun _ a => ((List.range 8).filterMap fun u =>
          let ls := all.filter fun l => l / 4 == u
          if ls.isEmpty then none
          else some { kind := 2, space := w.space, addr := a + 16 * u, mask := maskOf 16 (ls.flatMap fun l => (List.range 4).map (4 * (l % 4) + ·)),
                      op := 0, fmt := w.fmt, width := 4, order := w.order, scope := w.scope, lane := leader, signed := false,
                      bytes := ((ls.flatMap fun l => leBytes 4 (g.operandWord w.b l 0).toNat) ++ List.replicate 16 0).take 16 })) [(leader, addr)]
      else s.lanesPerform g m w op (fun _ => .line w.format (lineWords g w all)) (fun _ bs => bs) [(leader, addr)]
    | _, _ => s.laneDone (g.replayed m 0) m

/-! ## Gauge instructions (R76 to R78, R281, R282, R433) -/

/-- GBASE of a gang's block. -/
def State.gbase (s : State) (g : GangId) : Word := 
  match s.gridOf g, s.blockOf g with
  | some gr, some b => BitVec.ofNat 32 (s.ls.readNat (b.gaugeBase gr.record) 4)
  | _, _ => 0
/-- GBASE.SAT is set. -/
def State.setSat (s : State) (g : GangId) : State :=
  match s.gridOf g, s.blockOf g with
  | some gr, some b =>
    let a := b.gaugeBase gr.record
    { s with ls := s.ls.write a (leBytes 4 (s.ls.readNat a 4 ||| 2 ^ 31)) }
  | _, _ => s
def State.gaugeGranules (s : State) (g : GangId) : Nat := match s.gridOf g with | some gr => gr.record.gaugeSz | none => 0

/-- Where a counter lies: an index of the gauge partition (R78), or a byte of a gauge-class page. -/
def State.locateGauge (s : State) (g : GangId) (space addr need : Nat) : State × Located :=
  if space = 0 then s.locate g (.gauge need) 0 addr 1
  else
    match s.gridOf g, s.blockOf g, g.block?.bind s.cohort? with
    | some gr, some b, some co =>
      let w4 := bit (s.gbase g) 3
      let count := (gr.record.gaugeSz * 4096 - 64) * (if w4 then 2 else 1)
      if count ≤ addr then (s, .fault ⟨0x16, 8, 1, addr⟩)
      else
        let off := (gr.record.lsSz - gr.record.gaugeSz) * 4096 + 64 + (if w4 then addr / 2 else addr)
        match handleInfo co.table (s.rank b.id) (s.rank b.id) off 1 with
        | some i => (s, .fault ⟨0x18, i, 1, addr⟩)
        | none => (s, .ok (.ls (b.base + off) b.id off))
    | _, _, _ => (s, .fault ⟨0x05, 2, space, addr⟩)

/-- The draws of a gauge step (R144): `seq` is the gang's gauge_seq at issue. -/
def State.gaugeDraw (s : State) (g : GangId) (space addr seq lane step : Nat) : Nat :=
  let id : DWord := if space = 1 then BitVec.ofNat 64 (2 ^ 63 + addr) else BitVec.ofNat 64 addr
  drawFraction (s.gseed g) (id + BitVec.ofNat 64 g.index * 0x9E3779B97F4A7C15#64) (BitVec.ofNat 64 (seq * 2 ^ 16 + step * 2 ^ 8 + lane))
/-- As many draws as an add or a merge can take. -/
def State.gaugeDraws (s : State) (g : GangId) (kind space addr seq lane : Nat) : List Nat :=
  (List.range (if kind = 1 then 255 else 1)).map fun j => s.gaugeDraw g space addr seq lane j

/-- The address of a counter's byte: of a counter of the gauge partition, in LOC (R78). -/
def Place.gaugeAddr (p : Place) (space addr : Nat) : Nat := match p with | .ls _ _ off => if space = 1 then off else addr | _ => addr
/-- A gauge operation on a counter of this package. In the gauge partition a 4-bit level is a nibble of its byte. -/
def State.gaugeAt (s : State) (g : Gang) (lane laneIdx space addr : Nat) (p : Place) (kind n : Nat) (draws : List Nat) (u : SyncUse) :
    State × Done :=
  let base := s.gbase g.id
  let sc := fieldNat base 0 3
  let a := p.gaugeAddr space addr
  let r := if space = 1 && bit base 3 then
      let b := ofLeBytes (s.readPlace p 1)
      let sh := if addr % 2 = 1 then 16 else 1
      let l := b / sh % 16
      let q := gaugeStep kind sc 15 l n draws
      let nb := if addr % 2 = 1 then b % 16 + 16 * q.1 else b / 16 * 16 + q.1
      let t := s.performAt g lane laneIdx a p (if kind = 3 then .load 1 else .store (leBytes 1 nb)) u
      (t.1, { t.2 with data := t.2.data.map fun _ => q.2 })
    else s.performAt g lane laneIdx a p (.gauge kind sc n draws) u
  match r.2.data, kind with
  | .ok [1], 0 => (r.1.setSat g.id, r.2)
  | .ok [1], 1 => (r.1.setSat g.id, r.2)
  | _, _ => r

/-- The level of a counter of this package. -/
def State.gaugeLevel (s : State) (g : GangId) (space addr : Nat) (p : Place) : Nat :=
  let b := ofLeBytes (s.readPlace p 1)
  if space = 1 && bit (s.gbase g) 3 then (if addr % 2 = 1 then b / 16 else b % 16) else b

/-- The read of a GMRG's source counter in this package, an access of its own (R282); the level is read beside it. -/
def State.gaugeSource (s : State) (g : Gang) (lane laneIdx space addr : Nat) (p : Place) (u : SyncUse) : State × Done :=
  s.performAt g lane laneIdx (p.gaugeAddr space addr) p (if space = 1 then .load 1 else .gauge 4 0 0 []) u

/-- What a gauge instruction does in a lane: `amount` is the add of GINC. -/
structure GaugeOp where
  kind : Nat
  space : Nat
  dst : Option Nat
  seq : Nat
  sync : SyncUse

/-- One lane's gauge operation on a counter: `n` is its amount or source level. DESIGN CHOICE (log 59): a merge draws with the counter_id
of its destination. -/
def LaneRun.gaugeOn (r : LaneRun) (op : GaugeOp) (laneIdx lane addr n : Nat) (q : Place) : LaneRun :=
  let sc := fieldNat (r.s.gbase r.g.id) 0 3
  let draws := r.s.gaugeDraws r.g.id op.kind op.space addr op.seq lane
  if op.space = 0 && r.s.departs r.g.id true q 1 then
    { r with
      s := r.s.sendAccess r.g.id q addr op.space (.gauge op.kind sc n draws) (.lane r.s.clock r.g.id lane op.dst 4 false) op.sync laneIdx
      sent := r.sent + 1, hold := r.hold || q.isRemote }
  else
    match r.s.gaugeAt r.g lane laneIdx op.space addr q op.kind n draws op.sync with
    | (s, ⟨.error (c, i), race⟩) =>
      { r with s := s, faults := r.faults ++ [(lane, ⟨c, i, op.space, addr⟩)], race := r.race.orElse fun _ => race }
    | (s, ⟨.ok bs, race⟩) =>
      let g := match op.dst with | some d => r.g.land d lane bs false | none => r.g
      { r with s := s, g := g, race := r.race.orElse fun _ => race }
/-- One lane's gauge access; GMRG reads its source first (R282). -/
def LaneRun.gauge (r : LaneRun) (op : GaugeOp) (laneIdx : Nat) (amount : Nat → Nat)
    (p : Nat × Nat × Located × Option (Nat × Located)) : LaneRun :=
  match p with
  | (lane, addr, .fault f, _) => { r with faults := r.faults ++ [(lane, { f with addr := addr })] }
  | (lane, _, _, some (sa, .fault f)) => { r with faults := r.faults ++ [(lane, { f with addr := sa })] }
  | (lane, addr, .ok q, some (sa, .ok sq)) =>
    if op.space = 0 && r.s.departs r.g.id true sq 1 then
      let sc := fieldNat (r.s.gbase r.g.id) 0 3
      let draws := r.s.gaugeDraws r.g.id op.kind op.space addr op.seq lane
      { r with
        s := r.s.sendAccess r.g.id sq sa op.space (.gauge 4 sc 0 []) (.merge r.s.clock r.g.id lane addr sc draws) op.sync laneIdx
        sent := r.sent + 1, hold := true }
    else match r.s.gaugeSource r.g lane laneIdx op.space sa sq op.sync with
      | (s, ⟨.error (c, i), race⟩) =>
        { r with s := s, faults := r.faults ++ [(lane, ⟨c, i, op.space, sa⟩)], race := r.race.orElse fun _ => race }
      | (s, ⟨.ok _, race⟩) =>
        ({ r with s := s, race := r.race.orElse fun _ => race }).gaugeOn op laneIdx lane addr (s.gaugeLevel r.g.id op.space sa sq) q
  | (lane, addr, .ok q, _) => r.gaugeOn op laneIdx lane addr (amount lane) q
  | _ => r

/-- The located counters of a gauge instruction: destination, and for GMRG the source. -/
def State.locateGauges (s : State) (g : Gang) (w : LaneWord) (need : Nat) (merge : Bool) (lanes : List Nat) :
    State × List (Nat × Nat × Located × Option (Nat × Located)) :=
  lanes.foldl (fun st l =>
    let a := g.laneAddr w.a w.space l
    let r := st.1.locateGauge g.id w.space a need
    if merge then
      let sa := g.laneAddr w.b w.space l
      let q := r.1.locateGauge g.id w.space sa 4
      (q.1, st.2 ++ [(l, a, r.2, some (sa, q.2))])
    else (r.1, st.2 ++ [(l, a, r.2, none)])) (s, [])

/-- A gauge operation as a quantum-buffer entry (R231, R359, R361): the amount, the gauge_seq of its issue, the source counter. -/
def gaugeEntry (g : Gang) (w : LaneWord) (kind seq l a : Nat) : QEntry :=
  { kind := 4, space := w.space, addr := if w.space = 0 then a / 16 * 16 else a, mask := if w.space = 0 then unitMask a 1 else 0,
    op := kind, fmt := 0, width := 0, order := w.order, scope := w.scope, lane := l, signed := false,
    bytes := leBytes 4 (if kind = 0 then (g.operandWord w.b l 0).toNat else 0) ++ leBytes 4 seq ++
      leBytes 8 (if kind = 1 then g.laneAddr w.b w.space l else 0) }

/-- A gauge instruction of a kind: 0 GINC, 1 GMRG, 2 GCLR, 3 GRD. gauge_seq rises once at each first issue of an add or merge;
a replay draws with the value of the first issue (R144, R424). -/
def execGauge (s : State) (w : LaneWord) (kind : Nat) (names : List Nat) (reads : List (BitVec 10 × Nat)) : Outcome :=
  laneChecked s names (memReads w true reads) fun g m =>
    let lanes := g.issueLanes m w true
    let draws := kind ≤ 1
    let again := draws && g.replaying m
    let seq := if again then g.replaySeq.foldl (fun n p => if bit m p.1 then p.2 else n) g.gaugeSeq else g.gaugeSeq
    let risen : Gang := if draws && !again then { g with gaugeSeq := (g.gaugeSeq + 1) % 2 ^ 32 }.keepSeq m g.gaugeSeq else g
    let need := if kind = 3 then 4 else 2
    if lanes.isEmpty then s.laneDone (risen.replayed m 0) m
    else if s.gaugeGranules g.id = 0 then s.trapLane g m 0x1C 0 lanes none
    else if s.releaseHeld g m w.order then s.waitLane g m .outstanding
    else if (g.accesses (kind = 3)).length ≥ 63 then s.waitLane g m .counterSpace
    else
      let r := s.locateGauges g w need (kind = 1) lanes
      let flat := r.2.flatMap fun p => (p.1, p.2.1, p.2.2.1) :: (match p.2.2.2 with | some q => [(p.1, q.1, q.2)] | none => [])
      match firstWait flat with
      | some x => r.1.waitLane g m x
      | none =>
        if w.space = 0 && !r.1.hasRoom (r.1.requester g.id) (r.1.departCount g.id true 1 flat) then r.1.waitLane g m .counterSpace
        else if s.determ g.id && kind != 3 then
          let faults := flat.filterMap fun p => match p.2.2 with | .fault f => some (p.1, { f with addr := p.2.1 }) | _ => none
          let es := (lanes.filter fun l => !faults.any fun f => f.1 == l).map fun l => gaugeEntry g w kind seq l (g.laneAddr w.a w.space l)
          let buf := es.foldl addQ g.qbuf
          if buf.length > quantumRoom then r.1.quantumFull g
          else r.1.endBuffered { risen with qbuf := buf } m faults s.issue.words
        else
          let op : GaugeOp := ⟨kind, w.space, if kind = 3 then some w.d.toNat else none, seq, syncUse g m w (kind != 3)⟩
          let q := r.2.foldl (fun (acc : LaneRun) p => acc.gauge op (g.laneIndex m) (fun l => (g.operandWord w.b l 0).toNat) p) ⟨r.1, risen, [], none, 0, false⟩
          q.endIssue m (kind = 3) s.issue.words

def execGinc (w : LaneWord) (s : State) : Outcome := execGauge s w 0 (memNames [(w.a, addrRegs w.space), (w.b, 1)]) [(w.a, addrRegs w.space), (w.b, 1)]
def execGmrg (w : LaneWord) (s : State) : Outcome :=
  execGauge s w 1 (memNames [(w.a, addrRegs w.space), (w.b, addrRegs w.space)]) [(w.a, addrRegs w.space), (w.b, addrRegs w.space)]
def execGclr (w : LaneWord) (s : State) : Outcome := execGauge s w 2 (memNames [(w.a, addrRegs w.space)]) [(w.a, addrRegs w.space)]
def execGrd (w : LaneWord) (s : State) : Outcome := execGauge s w 3 (memNames [(w.d, 1), (w.a, addrRegs w.space)]) [(w.a, addrRegs w.space)]

end Sys2Proof.Machine
end

