-- ==== Sys2Proof/Machine/Ready.lean ====
section
/-! DEFINITION. Which parts and lane streams may issue (R29, R40, R46 to R48, R356): what a gang waits for is data of its slices. -/
namespace Sys2Proof.Machine

/-! ## Whether a gang issues at all -/

/-- R40: in a deterministic grid a block issues only after every block of lower index has issued its first instruction; one that is not
dispatched has not. -/
def State.firstIssueOk (s : State) (gr : Grid) (b : BlockId) : Bool :=
  !gr.record.determ ||
    ((s.blocks.all fun x => !(x.id.handle == b.handle && x.id.shadow == b.shadow && x.id.index < b.index) || x.issued ||
        x.state == .exited || x.state == .killed) &&
      !(s.undispatched gr).any (· < b.index))

/-- Whether a gang of a compute core or a control core is running. In deterministic operation a gang that has ended its quantum
waits for its commit slot (R357). -/
def State.gangLive (s : State) (g : Gang) : Bool :=
  !g.halted && !g.exited && !g.stopped && (s.die (s.gangDie g.id)).powered && !(s.die (s.gangDie g.id)).inReset &&
  match g.id with
  | .control d i => match s.control? d i with | some c => c.running | none => false
  | .compute b _ => match s.block? b, s.grid? b.handle with
    | some x, some gr => x.state == .running && (gr.record.spanSize = 0 || gr.spanPlaced) && s.firstIssueOk gr b &&
        (!gr.record.determ || (gr.phase == .executing && g.ended.isNone && g.qcount < 2 ^ gr.record.qlog))
    | _, _ => false

/-- Whether requests of an instruction that a part's scalar or lane stream has not gone on past are still to be answered (log 15, 66). -/
def State.blocked (s : State) (g : GangId) (lane : Bool) (m : BitVec 8) : Bool :=
  s.remote.any fun r => !r.ahead && r.gang == g && r.laneStream == lane && r.mask &&& m != 0
/-- Whether an acquire of some lane group of a part awaits its replies: it covers the later accesses of the lane sub-order of every slice
(R339, R341). -/
def State.acquiring (s : State) (g : GangId) (part : BitVec 8) : Bool :=
  s.remote.any fun r => r.laneStream && r.gang == g && r.mask &&& part != 0 && (wordsOrder r.words).1 % 2 = 1

/-! ## Deterministic operation: the turn (R356) -/

/-- The waits that give up the turn (R357), REGANG, and the latch, in which a member waits through empty quanta (R361). -/
def Wait.givesTurn : Wait → Bool
  | .barrier _ _ | .barrierDone _ _ | .drainDone | .sync _ _ _ | .stamp _ _ _ | .take _ | .drain _ _ | .counters _ _ _ _ | .regang | .latch | .latchEntry => true
  | _ => false
/-- Whether a part can take the turn. -/
def Gang.canTurn (g : Gang) (m : BitVec 8) : Bool :=
  match g.partWait m with
  | some w => !w.givesTurn
  | none => true
/-- Parts in the order in which the turn passes from the part that has it: itself, then ascending, wrapping round. -/
def Gang.turnOrder (g : Gang) : List (BitVec 8) :=
  match g.turn with
  | none => g.parts
  | some t => (g.parts.filter fun p => lowestSlice t ≤ lowestSlice p) ++ g.parts.filter fun p => lowestSlice p < lowestSlice t
/-- The part that holds the turn. -/
def Gang.turnPart (g : Gang) : Option (BitVec 8) := g.turnOrder.find? g.canTurn

/-! ## Streams -/

/-- Whether a stream with a wait is ready: it has none, or what it waited for has ended and its instruction re-executes. -/
def waitReady : Option Wait → Bool
  | none | some (.inPlace _) | some .rewatch | some .held => true
  | _ => false

/-- The groups of slices of a part whose lane streams issue together: those at one instruction of one run (R31). -/
def Gang.laneGroups (g : Gang) (m : BitVec 8) : List (BitVec 8) :=
  let at' := (setBits 8 m.toNat).filterMap fun i => match g.slice? i with
    | some sl => if !waitReady sl.lwait then none else sl.cur.map fun c => (i, (c.next, c.run.index, c.run.count))
    | none => none
  (at'.map (·.2)).eraseDups.map fun k => maskOf 8 ((at'.filter fun p => p.2 == k).map (·.1))

/-- Whether the scalar stream of a part may issue. -/
def State.scalarReady (s : State) (g : Gang) (m : BitVec 8) : Bool :=
  s.gangLive g && (g.partSlices m).all (fun sl => waitReady sl.wait && !sl.exited) && !s.blocked g.id false m &&
    (!s.determ g.id || (g.turnPart == some m && g.laneIdle m))
/-- Whether the columns of a gang are free: none is in a forced pass (R47, R469). -/
def State.columnsFree (s : State) (g : Gang) : Bool :=
  match s.blockOf g.id with
  | some b => (List.range g.slices.length).all fun c => !s.unitForced b.die (64 + 128 * b.core + 32 * (g.id.num % 4) + 8 * g.group + c)
  | none => true
/-- Whether a lane group of a part may issue. -/
def State.laneReady (s : State) (g : Gang) (part group : BitVec 8) : Bool :=
  s.gangLive g && s.columnsFree g && !s.blocked g.id true group && !s.acquiring g.id part && (!s.determ g.id || g.turnPart == some part)
/-- Whether some part of a gang is ready for either slot (R47). -/
def State.gangReady (s : State) (g : Gang) : Bool :=
  g.parts.any fun m => s.scalarReady g m || (g.laneGroups m).any fun l => s.laneReady g m l

/-- A stream of a part is ready from now on. -/
def State.markReady (s : State) (g : GangId) (lane : Bool) (m : BitVec 8) : State :=
  if s.ready.any fun r => r.gang == g && r.lane == lane && r.mask == m then s else { s with ready := s.ready ++ [⟨g, lane, m, s.clock, 0⟩] }
/-- A part that has been woken has the time of the wake as its ready time, on each stream that may issue (R48). -/
def State.markWoken (s : State) (gid : GangId) (m : BitVec 8) : State :=
  match s.gang? gid with
  | none => s
  | some g =>
    let s := if s.scalarReady g m then s.markReady gid false m else s
    (g.laneGroups m).foldl (fun s l => if s.laneReady g m l then s.markReady gid true l else s) s

/-- The class of a gang (R46): 0 is P2, 1 is P3; a supervisor gang is P2 (R478). -/
def State.gangClass (s : State) (g : GangId) : Nat := match s.gridOf g with | some gr => gr.record.cls | none => 0

/-- The other ready gangs of a gang's quadrant (R298). -/
def State.quadrantReady (s : State) (g : Gang) : List GangId :=
  if g.id.isControl then []
  else (s.gangs.filter fun x => x.id != g.id && !x.id.isControl && s.quadrant x.id == s.quadrant g.id && s.gangReady x).map (·.id)

end Sys2Proof.Machine
end

