-- ==== Sys2Proof/Machine/Barrier.lean ====
section
/-! DEFINITION. Barriers (R284 to R286, R409, R410): arrival, departure, and the completion of a phase with its flushes (R279). -/
namespace Sys2Proof.Machine

/-- A part past its scalar instruction. -/
def State.passPart (s : State) (g : Gang) (m : BitVec 8) : State := s.setGang (g.runPart m fun _ sl => sl.advance s.issueSize)

/-! ## Completion of a phase -/

def Block.barrier (x : Block) (b : Nat) : Barrier := x.barriers.getD b Barrier.empty
def Block.setBarrier (x : Block) (b : Nat) (v : Barrier) : Block := { x with barriers := modifyAt (fun _ => v) b x.barriers }

/-- Whether a gang has arrived in barrier `b`'s phase of its block, at a scope, or has exited. -/
def Gang.inPhase (g : Gang) (x : Block) (b scope : Nat) : Bool :=
  g.exited || (bit g.arrived b && bit g.arrPhase b == (x.barrier b).phase && (x.barrier b).scope == scope)
/-- The blocks that take part in a barrier of a block at a scope. -/
def State.barrierBlocks (s : State) (x : Block) (scope : Nat) : List Block :=
  if scope = 1 then [x] else (s.cohortBlocks x.id).filter fun y => !y.freed
/-- Whether every gang of this package in the scope has arrived or exited. -/
def State.allArrived (s : State) (x : Block) (b scope : Nat) : Bool :=
  (s.barrierBlocks x scope).all fun y => (s.blockGangs y.id).all fun g => g.inPhase y b scope
/-- Whether a span barrier's flushes have been asked for, and then whether they are performed. -/
def State.spanFlushed (s : State) (k : SpanKey) (b : Nat) : Option Bool :=
  (s.spanFlush.find? fun p => p.1 == k && p.2.1 == b).map (·.2.2)
def State.setSpanFlush (s : State) (k : SpanKey) (b : Nat) (done : Bool) : State :=
  { s with spanFlush := s.spanFlush.filter (fun p => !(p.1 == k && p.2.1 == b)) ++ [(k, b, done)] }
/-- What is known of the other members in a span barrier's phase is dropped at its end. -/
def State.clearSpanBarrier (s : State) (k : SpanKey) (b : Nat) : State :=
  { s with
    spanArrived := s.spanArrived.filter (· != (k, b))
    spanFlush := s.spanFlush.filter fun p => !(p.1 == k && p.2.1 == b) }
/-- The coordinator asks every other member for its flushes, once (log 33). -/
def State.askFlush (s : State) (g : Grid) (b : Nat) : State :=
  if (s.spanFlushed g.spanKey b).isSome then s else (s.tellAll g (.spanBarrier g.spanKey b .flush)).setSpanFlush g.spanKey b false
/-- Whether the phase of barrier `b` is completing (R286). For .span the arrivals of the other members count too. -/
def State.phaseDone (s : State) (x : Block) (b : Nat) : Bool :=
  let v := x.barrier b
  match v.scope with
  | 1 => if v.fixed ≠ 0 then v.fixed ≤ v.arrivals else s.allArrived x b 1
  | 2 => s.allArrived x b 2
  | 5 => s.allArrived x b 5 && match s.grid? x.id.handle with
    | some gr => s.spanArrived.contains (gr.spanKey, b) || (s.spanFlushed gr.spanKey b).isSome
    | none => false
  | _ => false

/-- The gangs whose entries a completion flushes, in the order of R279. -/
def State.flushOrder (s : State) (l : List Block) : List Gang :=
  l.flatMap fun x => (List.range 4).flatMap fun q => (s.blockGangs x.id).filter fun g => g.id.num % 4 == q

/-- Step 3 of R286: the phase flips in every block that takes part, counts clear, and every waiting part wakes. -/
def State.flipPhase (s : State) (l : List Block) (b : Nat) : State :=
  l.foldl (fun s x =>
    let s := match s.block? x.id with
      | some x => s.setBlock (x.setBarrier b { Barrier.empty with phase := !(x.barrier b).phase })
      | none => s
    (s.blockGangs x.id).foldl (fun s g => s.setGang (g.mapPart 255 fun _ sl =>
      { sl with wait := match sl.wait with
        | some (.barrier k n) => some (if k = b then .barrierDone k n else .barrier k n)
        | w => w })) s) s

/-- The end of a span barrier's phase on this package once its own flushes are performed: at the coordinator when the other members' are
performed too, at a member when the coordinator says so; until then a member that was asked answers (log 33). A deterministic grid has no
flush here. -/
def State.spanPhase (s : State) (g : Grid) (l : List Block) (b : Nat) : State :=
  let k := g.spanKey
  let flip (s : State) : State := (s.flipPhase l b).clearSpanBarrier k b
  if g.member s.pkgId = 0 then
    if g.record.determ || s.spanFlushed k b == some true then (flip s).tellAll g (.spanBarrier k b .complete) else s
  else if s.spanArrived.contains (k, b) then flip s
  else if s.spanFlushed k b == some false then (s.tell k.coord (.spanBarrier k b .flushed)).setSpanFlush k b true
  else s
/-- Completes the phase of barrier `b` of a block once it is completing: the flushes, then the flip. A flush that must wait, or
whose entries went to other packages, leaves the phase completing (R279). -/
def State.barrierCheck (s : State) (bid : BlockId) (b : Nat) : State :=
  match s.block? bid with
  | none => s
  | some x =>
    if !s.phaseDone x b then s
    else
      let scope := (x.barrier b).scope
      let bs := s.barrierBlocks x scope
      let gs := if s.determ (.compute bid 0) then [] else s.flushOrder bs
      let span := if scope = 5 then s.grid? bid.handle else none
      let s := match span with
        | some gr => if gr.member s.pkgId = 0 && !gr.record.determ then s.askFlush gr b else s
        | none => s
      match State.flushAll (gs.map (·.id)) s with
      | (s, some _) => s
      | (s, none) => match span with
        | some gr => s.spanPhase gr bs b
        | none => s.flipPhase bs b

/-- Every barrier of a block, and of its cohort: after an exit or the reply to a flushed entry. -/
def State.barrierSweep (s : State) (bid : BlockId) : State :=
  (List.range 16).foldl (fun s b => (s.cohortBlocks bid).foldl (fun s x => s.barrierCheck x.id b) s) s

/-- Span barriers in which every gang of a block's cohort on this package has arrived or exited. -/
def State.spanFull (s : State) (b : BlockId) : List Nat :=
  (List.range 16).filter fun k => (s.cohortBlocks b).any fun y => !y.freed && (y.barrier k).scope == 5 && s.allArrived y k 5
/-- A member other than the coordinator's tells it once its own gangs have all arrived in a barrier in which they had not (R286). -/
def State.spanTell (s : State) (bid : BlockId) (was : List Nat) : State :=
  match s.grid? bid.handle with
  | some gr =>
    if gr.record.spanSize = 0 || gr.member s.pkgId = 0 then s
    else ((s.spanFull bid).filter fun k => !was.contains k).foldl
      (fun s k => s.tell gr.spanKey.coord (.spanBarrier gr.spanKey k .othersArrived)) s
  | none => s
/-- Whether every gang of a span's cohort on this package has exited. -/
def State.spanExited (s : State) (g : Grid) : Bool :=
  (s.undispatched g).isEmpty && (s.blocks.filter fun x => x.id.handle == g.handle).all fun x => (s.blockGangs x.id).all (·.exited)
/-- A phase in which only the other members take part, this coordinator's gangs having all exited: their flushes, then its end. -/
def State.spanOnly (s : State) (g : Grid) (b : Nat) : State :=
  if !s.spanArrived.contains (g.spanKey, b) then s
  else if g.record.determ || s.spanFlushed g.spanKey b == some true then
    (s.clearSpanBarrier g.spanKey b).tellAll g (.spanBarrier g.spanKey b .complete)
  else s.askFlush g b
/-- The last gang of a span's cohort has exited: it counts as arrived in every barrier, those in which it has told so already excepted;
the coordinator's own completes the phases in which the others have arrived. -/
def State.spanLeave (s : State) (g : Grid) (told : List Nat) : State :=
  let k := g.spanKey
  if g.record.spanSize = 0 || !s.spanExited g then s
  else if g.member s.pkgId != 0 then
    let s := ((s.spanFlush.filter fun p => p.1 == k && !p.2.2).map (·.2.1)).foldl
      (fun s b => (s.tell k.coord (.spanBarrier k b .flushed)).setSpanFlush k b true) s
    ((List.range 16).filter fun b => !told.contains b).foldl (fun s b => s.tell k.coord (.spanBarrier k b .othersArrived)) s
  else ((s.spanArrived.filter fun p => p.1 == k).map (·.2)).foldl (fun s b => s.spanOnly g b) s

/-- A performed arrival of a gang at barrier `b` (R285): the block's count, or the INFO of a mismatch. -/
def State.arriveBarrier (s : State) (gid : GangId) (b scope fixed : Nat) : State × Option Nat :=
  match s.blockOf gid, s.gang? gid with
  | some x, some g =>
    let v := x.barrier b
    if v.arrivals ≠ 0 && v.fixed ≠ fixed then (s, some 3)
    else if v.arrivals ≠ 0 && v.scope ≠ scope then (s, some 4)
    else
      let was := s.spanFull x.id
      let ph := BitVec.ofNat 16 (2 ^ b)
      let g := { g with arrived := g.arrived ||| ph, arrPhase := if v.phase then g.arrPhase ||| ph else g.arrPhase &&& ~~~ph }
      let s := (s.setGang g).setBlock (x.setBarrier b { v with arrivals := v.arrivals + 1, fixed := fixed, scope := scope })
      let s := (s.bumpInterval gid).spanTell x.id was
      (s.barrierCheck x.id b, none)
  | _, _ => (s, none)

/-! ## The instructions -/

/-- Conditions of a gang-wide instruction (R34, R283, R300, R406): the INFO of cause 0x06 and the lanes named. -/
def Gang.gangWide (g : Gang) (m : BitVec 8) (gd : Guard) (matrix : Bool) : Option (Nat × BitVec 32) :=
  let missing := (List.range (4 * g.slices.length)).filter fun l => match g.slice? (l / 4) with
    | some sl => sl.exited || !bit sl.active (l % 4)
    | none => true
  let k := (g.guarded m gd).length
  if g.parts.length > 1 then some (1, 0)
  else if matrix && !missing.isEmpty then some (2, laneMask missing)
  else if k ≠ 0 && k ≠ (setBits 8 m.toNat).length then some (3, 0)
  else none

/-- A gang-wide instruction: the trap, nothing where no guard is true, or the meaning. -/
def gangWide (s : State) (gd : Guard) (matrix : Bool) (k : Gang → BitVec 8 → State) : Outcome :=
  withScalar s fun g m =>
    match g.gangWide m gd matrix with
    | some (info, lanes) => s.takeTrap g.id ⟨0x06, 0, lowestSlice m, info, lanes, none, 0, s.issue.words⟩
    | none => if (g.guarded m gd).isEmpty then s.passPart g m else k g m

/-- Whether a gang has an arrival at barrier `b` in its quantum buffer. -/
def Gang.arrivalBuffered (g : Gang) (b : Nat) : Bool := g.qbuf.any fun e => e.kind == 9 && e.op == b
/-- A barrier arrival as a quantum-buffer entry (R231, R359). -/
def barrierEntry (b scope fixed : Nat) : QEntry :=
  { kind := 9, space := 0, addr := 0, mask := 0, op := b, fmt := scope, width := 0, order := 0, scope := 0, lane := 0,
    signed := false, bytes := leBytes 4 fixed ++ List.replicate 12 0 }

/-- .FAR of an arrived gang: it goes on if the phase has ended, else the part waits. The departure is an acquire (R286). -/
def State.departBarrier (s : State) (g : Gang) (m : BitVec 8) (b : Nat) : State :=
  let gone := match s.blockOf g.id with | some x => (x.barrier b).phase != bit g.arrPhase b | none => true
  if gone && !g.arrivalBuffered b then
    (s.passPart { g with arrived := g.arrived &&& ~~~(BitVec.ofNat 16 (2 ^ b)) } m).acquire g.id
  else s.waitPart g m (.barrier b s.issueSize)

/-- What a barrier instruction does after the gang-wide checks. `fixed` is the explicit count, 0 for ALL. A supervisor gang has no
block: it alone is in the scope, so its phases end as it arrives. -/
def State.runBarrier (s : State) (g : Gang) (m : BitVec 8) (p : Phase) (b scope fixed : Nat) : State :=
  let depart := p != .near
  if p = .far then
    if bit g.arrived b then s.departBarrier g m b else s.trapScalar g m 0x30 2
  else if bit g.arrived b then s.trapScalar g m 0x30 1
  else if !g.laneIdle g.full then s.waitPart g m .laneQueue
  else if s.gangOutstanding g.id then s.waitPart g m .outstanding
  else
    match s.blockOf g.id with
    | none =>
      let flag := BitVec.ofNat 16 (2 ^ b)
      s.passPart (if depart then g else { g with arrived := g.arrived ||| flag }) m
    | some x =>
      if s.determ g.id then
        let ph := BitVec.ofNat 16 (2 ^ b)
        let buf := g.qbuf ++ [barrierEntry b scope fixed]
        if buf.length > quantumRoom then s.quantumFull g
        else
          let g := { g with qbuf := buf, arrived := g.arrived ||| ph,
                            arrPhase := if (x.barrier b).phase then g.arrPhase ||| ph else g.arrPhase &&& ~~~ph }
          if depart then s.departBarrier g m b else s.passPart g m
      else if s.phaseDone x b then s.waitPart g m .outstanding
      else
        match s.arriveBarrier g.id b scope fixed with
        | (_, some info) => s.trapScalar g m 0x30 info
        | (s, none) => match s.gang? g.id with
          | some g => if depart then s.departBarrier g m b else s.passPart g m
          | none => s

/-- BAR: the count is read in the slice that R300 names. -/
def execBar (gd : Guard) (p : Phase) (count : Option Src) (b : BitVec 4) (s : State) : Outcome :=
  gangWide s gd false fun g m =>
    let gangs := match s.gridOf g.id with | some gr => gr.record.gangs | none => 1
    match count with
    | none => s.runBarrier g m p b.toNat 1 0
    | some a =>
      let n := match g.operandSlice with | some q => (q.2.src a).toNat | none => 0
      if p != .far && (n = 0 || gangs < n) then s.trapScalar g m 0x31 (n % 2 ^ 16)
      else s.runBarrier g m p b.toNat 1 n
def execBarc (gd : Guard) (p : Phase) (b : BitVec 4) (s : State) : Outcome :=
  gangWide s gd false fun g m => s.runBarrier g m p b.toNat 2 0
/-- BARS: in a grid that is not a span it is a mismatch (R409). -/
def execBars (gd : Guard) (p : Phase) (b : BitVec 4) (s : State) : Outcome :=
  gangWide s gd false fun g m =>
    let span := match s.gridOf g.id with | some gr => gr.record.spanSize != 0 | none => false
    if span then s.runBarrier g m p b.toNat 5 0 else s.trapScalar g m 0x30 5

end Sys2Proof.Machine
end

