-- ==== Sys2Proof/Machine/ScalarMem.lean ====
section
/-! DEFINITION. The scalar memory instructions LDS, LDP and STS (R204, R205, R405, R422). -/
namespace Sys2Proof

/-- The code of the space (R4). -/
def MemBase.space : MemBase → Nat
  | .gen _ => 0
  | .loc _ => 1
  | .pol _ => 2
  | .con _ => 4

end Sys2Proof

namespace Sys2Proof.Machine

/-- base + 4 · imm7: 64 bits for GEN and POL, a zero-extended word for LOC and CON. -/
def Slice.memAddr (sl : Slice) (b : MemBase) (off : BitVec 7) : Nat :=
  let base : Nat := match b with
    | .gen p => sl.pair p
    | .pol p => sl.pair p
    | .loc a => (sl.src a).toNat
    | .con a => (sl.src a).toNat
  (BitVec.ofNat 64 base + off.signExtend 64 * 4).toNat

/-- The bytes of a result land in the registers of a slice from `d`. -/
def Slice.landWords (sl : Slice) (d : Nat) (bs : List Byte) : Slice :=
  (List.range (bs.length / 4)).foldl (fun sl i => sl.setReg (d + i) (BitVec.ofNat 32 (ofLeBytes ((bs.drop (4 * i)).take 4)))) sl
def Gang.landSlice (g : Gang) (i d : Nat) (bs : List Byte) : Gang :=
  { g with slices := modifyAt (fun sl => sl.landWords d bs) i g.slices }

/-- One trap for the faults of single slices: cause and address of the lowest, the block killed if any cause kills. -/
def State.trapSlices (s : State) (gid : GangId) (faults : List (Nat × AccFault)) (words : List Word) : State :=
  match faults with
  | [] => s
  | p :: _ =>
    let s := s.trapAccess gid 0 p.1 0 p.2 words
    match gid with
    | .compute b _ =>
      if disposition p.2.cause != .kill && faults.any (fun q => disposition q.2.cause == .kill) then s.killCohort b else s
    | .control _ _ => s

/-- The end of a scalar memory instruction: past it when no slice faulted, else the trap with the part at the instruction. -/
def State.endScalar (s : State) (g : Gang) (m : BitVec 8) (faults : List (Nat × AccFault)) (race : Option (Nat × RaceEntry))
    (size : Nat) (words : List Word) : State :=
  if faults.isEmpty then
    let s := s.setGang (g.runPart m fun _ sl => sl.advance size)
    match race with
    | some r => s.trapRace g.id 0 (lowestSlice m) 0 r words
    | none => s
  else (s.setGang g).trapSlices g.id faults words

/-- A scalar access of every executing slice: a load into `dst`, or a store. `req` is the slice's operation of `n` bytes. The stream waits for
the replies of loads; it goes on past stores that are sent within the package (log 66). -/
def scalarMem (s : State) (gd : Guard) (base : MemBase) (off : BitVec 7) (n : Nat) (dst : Option Nat) (req : Slice → ReqOp) : Outcome :=
  withScalar s fun g m =>
    if g.id.isControl && base.space != 0 then s.trapScalar g m 0x05 2
    else
      let kind : AccKind := if dst.isSome then .load else .store
      let las := (g.guarded m gd).filterMap fun i => (g.slice? i).map fun sl => (i, sl.memAddr base off)
      if las.isEmpty then s.setGang (g.runPart m fun _ sl => sl.advance s.issueSize)
      else if (g.accesses dst.isSome).length ≥ 63 then s.waitPart g m .counterSpace
      else
        let r := s.locateLanes g kind base.space n las
        let opOf (i : Nat) : ReqOp := match g.slice? i with | some sl => req sl | none => .load n
        match firstWait r.2 with
        | some w => r.1.waitPart g m w
        | none =>
          if r.1.arrivalMeets g.id n r.2 then r.1.waitPart g m .outstanding
          else if !r.1.hasRoom (r.1.requester g.id) (r.1.departCount g.id false n r.2) then r.1.waitPart g m .counterSpace
          else if s.determ g.id && !dst.isSome then
            let faults := r.2.filterMap fun p => match p.2.2 with | .fault f => some (p.1, { f with addr := p.2.1 }) | _ => none
            let entry (p : Nat × Nat × Located) : Option QEntry := match p.2.2, opOf p.1 with
              | .ok _, .store bs => some (storeEntry base.space p.2.1 0 0 bs)
              | _, _ => none
            let buf := (r.2.filterMap entry).foldl addQ g.qbuf
            if buf.length > quantumRoom then r.1.quantumFull g
            else r.1.endScalar { g with qbuf := buf } m faults none s.issueSize s.issue.words
          else
            let u := SyncUse.plain g base.space
            let one (acc : LaneRun) (p : Nat × Nat × Located) : LaneRun :=
              match p with
              | (i, addr, .fault f) => { acc with faults := acc.faults ++ [(i, { f with addr := addr })] }
              | (_, _, .wait _) => acc
              | (i, addr, .ok q) =>
                if acc.s.departs g.id false q n then
                  { acc with
                    s := acc.s.sendAccess g.id q addr base.space (opOf i) (.scalar s.clock g.id i dst (n / 4)) u 0
                    sent := acc.sent + 1, hold := acc.hold || q.isRemote || acc.s.deviceClass g.id base.space addr }
                else match acc.s.performAt acc.g 0 0 addr q (opOf i) u with
                  | (s, ⟨.error (c, e), race⟩) =>
                    { acc with s := s, faults := acc.faults ++ [(i, ⟨c, e, base.space, addr⟩)], race := acc.race.orElse fun _ => race }
                  | (s, ⟨.ok bs, race⟩) =>
                    let g := match dst with
                      | some d => if d = 31 then acc.g else acc.g.landSlice i d (detFix (s.determ g.id) g base.space addr bs)
                      | none => acc.g
                    { acc with s := s, g := g, race := acc.race.orElse fun _ => race }
            let q := r.2.foldl one ⟨r.1, g, [], none, 0, dst.isSome⟩
            let c := q.g.accesses dst.isSome
            if q.sent = 0 then
              q.s.endScalar (if q.faults.isEmpty then q.g.setAccesses dst.isSome c.pass else q.g) m q.faults q.race s.issueSize s.issue.words
            else
              let x := q.g.setAccesses dst.isSome (c.raise c.fresh)
              let ahead := !q.hold && q.faults.isEmpty && !s.determ g.id
              let t := q.s.setGang (if ahead then x.runPart m fun _ sl => sl.advance s.issueSize else x)
              { t with
                remote := t.remote ++ [⟨s.clock, g.id, false, m, s.issue.words, 0, ahead, q.faults, dst.isSome, s.issueSize, q.race, c.fresh⟩] }

/-- The register of a destination field, 31 for none. -/
def dstNat : Dst → Nat
  | .reg n => n.val
  | .discard => 31

def execLds (gd : Guard) (d : Dst) (base : MemBase) (off : BitVec 7) (s : State) : Outcome :=
  scalarMem s gd base off 4 (some (dstNat d)) fun _ => .load 4
def execSts (gd : Guard) (d : Fin 31) (base : MemBase) (off : BitVec 7) (s : State) : Outcome :=
  scalarMem s gd base off 4 none fun sl => .store (leBytes 4 (sl.reg d.val).toNat)
def execLdp (gd : Guard) (d : Pair) (base : MemBase) (off : BitVec 7) (s : State) : Outcome :=
  scalarMem s gd base off 8 (some (2 * d.val)) fun _ => .load 8

end Sys2Proof.Machine
end

