-- ==== Sys2Proof/Machine/LaneCtl.lean ====
section
/-! DEFINITION. Lane stream control: LRUN and LMASK (R29, R30, R216 to R218; log 13), and the system instructions TRAP, BKPT and
INVI (R219 to R222). -/
namespace Sys2Proof.Machine

/-- Runs that wait in a lane queue (R29). -/
def queueRoom : Nat := 4

/-- The executing slices of a scalar instruction. -/
def Gang.guardedSlices (g : Gang) (m : BitVec 8) (gd : Guard) : List (Nat × Slice) :=
  (g.guarded m gd).filterMap fun i => (g.slice? i).map fun sl => (i, sl)

/-- LRUN: the run enters the lane queue of each executing slice with the slice's registers, DMASK, and the mask of an LMASK before
it. A full queue holds the part back. -/
def execLrun (gd : Guard) (a : Src) (cm1 : BitVec 12) (s : State) : Outcome :=
  withScalar s fun g m =>
    if g.id.isControl then s.trapScalar g m 0x05 1
    else
      let sls := g.guardedSlices m gd
      match sls.find? fun p => (p.2.src a).toNat ≥ 2 ^ 24 with
      | some p => s.trapSlice g p.1 0x09 2
      | none =>
        if sls.any fun p => p.2.queue.length ≥ queueRoom then s.waitPart g m .queueSpace
        else s.setGang (g.runPart m fun _ sl =>
          (if guardTrue gd sl then
            { sl with queue := sl.queue ++ [⟨(sl.src a).toNat, cm1.toNat + 1, sl.regs, g.dmask, sl.nextMask⟩], nextMask := none }
          else sl).advance s.issueSize)

/-- A slice that has been given an active mask: it takes effect at the end of the last run queued before it (R217), at once with no run
queued or in progress (DESIGN CHOICE, log 13). -/
def Slice.setMask (sl : Slice) (x : BitVec 4) : Slice :=
  if sl.laneIdle then { sl with active := x } else { sl with nextMask := some x }
/-- LMASK: `f` gives the mask. -/
def laneMaskTo (s : State) (gd : Guard) (f : Slice → BitVec 4) : Outcome :=
  withScalar s fun g m =>
    if g.id.isControl then s.trapScalar g m 0x05 1
    else s.setGang (g.runPart m fun _ sl => (if guardTrue gd sl then sl.setMask (f sl) else sl).advance s.issueSize)
/-- The register form: bits [3:0] of the word, which the other form takes, have no effect (R217). -/
def execLmaskReg (gd : Guard) (a : Src) (s : State) : Outcome := laneMaskTo s gd fun sl => bits (sl.src a) 0 4
def execLmaskImm (gd : Guard) (m : BitVec 4) (s : State) : Outcome := laneMaskTo s gd fun _ => m

/-- A trap whose stopping point is the next instruction (R220, R221); with no executing slice only the pc moves. -/
def trapAfter (s : State) (gd : Guard) (cause info : Nat) : Outcome :=
  withScalar s fun g m =>
    let s := s.setGang (g.runPart m fun _ sl => sl.advance s.issueSize)
    match g.guarded m gd with
    | [] => s
    | i :: _ => s.takeTrap g.id (TrapInfo.plain cause info 0 i s.issue.words)
def execTrap (gd : Guard) (code : BitVec 10) (s : State) : Outcome := trapAfter s gd 0x01 code.toNat
def execBkpt (gd : Guard) (s : State) : Outcome := trapAfter s gd 0x02 0

/-- The code held for the sections named is discarded: for slices of a gang alone, or on its core, its die or every die (R222). -/
def State.discardCode (s : State) (g : GangId) (slices : List Nat) (sc : InviScope) (sec : InviSection) : State :=
  let q := s.requester g
  let here (e : HeldCode) : Bool := sectionCovers sec e.lane && match sc with
    | .slice | .core => e.die == q.die && e.core == q.agent
    | .die => e.die == q.die
    | .pkg => true
  { s with heldCode := if sc == .slice then
      s.heldCode.map fun e => if here e then { e with gone := e.gone ++ slices.map fun i => (g, i) } else e
    else s.heldCode.filter fun e => !here e }
/-- INVI waits for the empty lane queues of its slices, and discards what is held of the code in its scope. -/
def execInvi (gd : Guard) (sc : InviScope) (sec : InviSection) (s : State) : Outcome :=
  withScalar s fun g m =>
    let l := g.guardedSlices m gd
    let s' := if l.isEmpty then s else s.discardCode g.id (l.map (·.1)) sc sec
    if l.all fun p => p.2.laneIdle then s'.setGang (g.runPart m fun _ sl => sl.advance s.issueSize)
    else s.waitPart g m .laneQueue

end Sys2Proof.Machine
end

