-- ==== Sys2Proof/Machine/Sync.lean ====
section
/-! DEFINITION. Sync words, stamps, counters, batches, fences, drains, handles and pacing (R79 to R82, R283 to R298). -/
namespace Sys2Proof

/-- The code of the space (R4). -/
def SyncAddr.space : SyncAddr → Nat
  | .gen _ => 0
  | .loc _ => 1
  | .pol _ => 2
/-- The code of a scope (R187). -/
def Scope.code : Scope → Nat
  | .gang => 0 | .block => 1 | .cohort => 2 | .die => 3 | .pkg => 4 | .span => 5 | .sys => 6
/-- The code of a fence order (R284). -/
def FenceOrder.code : FenceOrder → Nat
  | .acq => 1 | .rel => 2 | .ar => 3

end Sys2Proof

namespace Sys2Proof.Machine

/-- The address of a sync word or stamp in a slice. -/
def Slice.syncAddr (sl : Slice) : SyncAddr → Nat
  | .gen p => sl.pair p
  | .pol p => sl.pair p
  | .loc a => (sl.src a).toNat

/-- An instruction that executes once per part, in the leader slice (R283). -/
def withLeader (s : State) (gd : Guard) (k : Gang → BitVec 8 → Nat → Slice → State) : Outcome :=
  withScalar s fun g m =>
    match g.leader m gd with
    | some (i, sl) => k g m i sl
    | none => s.passPart g m
/-- An instruction that acts for the whole part, where some guard is true (R283). -/
def forPart (s : State) (gd : Guard) (k : Gang → BitVec 8 → State) : Outcome :=
  withScalar s fun g m => if (g.guarded m gd).isEmpty then s.passPart g m else k g m

/-! ## ARRIVE (R288) -/

def execArrive (gd : Guard) (sc : Scope) (rel : Bool) (a : SyncAddr) (n : Src) (s : State) : Outcome :=
  withLeader s gd fun g m i sl =>
    let addr := sl.syncAddr a
    let k := (sl.src n).toNat
    match s.locate g.id (.word true) a.space addr 16 with
    | (s, .fault f) => s.trapAccess g.id 0 i 0 { f with addr := addr } s.issue.words
    | (s, .wait w) => s.waitPart g m w
    | (s, .ok p) =>
      if k = 0 then s.passPart g m
      else if s.determ g.id then
        let e : QEntry := { kind := 5, space := a.space, addr := addr, mask := BitVec.allOnes 16, op := 0, fmt := 0, width := 0,
                            order := if rel then 2 else 0, scope := sc.code, lane := 0, signed := false,
                            bytes := leBytes 4 k ++ List.replicate 12 0 }
        if g.qbuf.length + 1 > quantumRoom then s.quantumFull g
        else s.passPart { g with qbuf := g.qbuf ++ [e] } m
      else if p.isRemote && !rel && !s.hasRoom (s.requester g.id) 1 then s.waitPart g m .counterSpace
      else
        let s := s.passPart g m
        if p.isRemote && !rel then
          s.sendAccess g.id p addr a.space (.arrival k) (.arrival g.id i s.issue.words false) ⟨some sc.code, sc.code, a.space == 1, g.dmask⟩ 0
        else
          let x : Arrival := ⟨some p, a.space, addr, k, some g.id, none, 0, none, s.issue.words, i, sc.code, rel⟩
          { s.countSent g.id 1 0 with arrivals := s.arrivals ++ [x] }

/-! ## WAIT and MWAIT (R79, R80, R289) -/

/-- Whether a sync word's bytes satisfy a generation (R79), or a stamp's a value (R80). -/
def syncHolds (stamp : Bool) (v : Nat) (bs : List Byte) : Bool :=
  if stamp then decide ((ofLeBytes (bs.take 8) + 2 ^ 64 - v) % 2 ^ 64 < 2 ^ 63)
  else decide ((ofLeBytes ((bs.drop 8).take 4) + 2 ^ 32 - v) % 2 ^ 32 < 2 ^ 31)

/-- Whether a word's bytes complete a WAIT or MWAIT: a WAIT on a word whose TARGET is 0 never completes (R411). -/
def waitHolds (stamp : Bool) (v : Nat) (bs : List Byte) : Bool := syncHolds stamp v bs && (stamp || ofLeBytes (bs.take 4) != 0)

/-- Distinct words named by the waits of a core's gangs: its watch entries in use (R48). A part that found none free has none. -/
def State.watched (s : State) (g : GangId) : List (Nat × Nat) :=
  match s.blockOf g with
  | none => []
  | some b =>
    (((s.gangs.filter fun x => match s.blockOf x.id with
        | some y => y.die == b.die && y.core == b.core && y.resident
        | none => false).flatMap
      fun x => x.parts.filterMap fun m => if s.unwatched.contains (x.id, m) then none else match x.partWait m with
        | some (.sync sp a _) => some (sp, a)
        | some (.stamp sp a _) => some (sp, a)
        | _ => none)).eraseDups

/-- The wait of WAIT and MWAIT: a part that newly waits on a word and finds the 64 watch entries full raises WATCHFULL (R400); one that
has read its word again does not. -/
def State.watch (s : State) (g : Gang) (m : BitVec 8) (space addr : Nat) (w : Wait) : State :=
  let l := s.watched g.id
  let full := 64 ≤ l.length && !l.contains (space, addr)
  let rest := s.unwatched.filter (· != (g.id, m))
  let s := if full && g.partWait m != some .rewatch then s.count (s.gangDie g.id) 0x7008 else s
  { s with unwatched := if full then rest ++ [(g.id, m)] else rest }.waitPart g m w

/-- WAIT and MWAIT: the word is read; the part goes on, or waits; one whose condition held as a round started goes on (R362). In another package the read is a request (log 15). -/
def waitWord (s : State) (gd : Guard) (sc : Scope) (a : SyncAddr) (stamp : Bool) (value : Slice → Nat) : Outcome :=
  withLeader s gd fun g m i sl =>
    let addr := sl.syncAddr a
    let n := if stamp then 8 else 16
    let v := value sl
    let w : Wait := if stamp then .stamp a.space addr (BitVec.ofNat 64 v) else .sync a.space addr (BitVec.ofNat 32 v)
    if g.partWait m = some .held then (s.passPart (g.setWait m none) m).orderDone g.id 1 sc.code
    else match s.locate g.id (.word false) a.space addr n with
    | (s, .fault f) => s.trapAccess g.id 0 i 0 { f with addr := addr } s.issue.words
    | (s, .wait w) => s.waitPart g m w
    | (s, .ok p) =>
      let u : SyncUse := ⟨some sc.code, 7, a.space == 1, g.dmask⟩
      if s.arrivalAt g.id p n || s.flightMeets g.id false p n then s.waitPart g m .outstanding
      else if p.isRemote then
        if !s.hasRoom (s.requester g.id) 1 then s.waitPart g m .counterSpace
        else
          let s := s.sendAccess g.id p addr a.space (.load n) (.reread g.id m stamp v sc.code) u 0
          { s with remote := s.remote ++ [⟨s.clock, g.id, false, m, s.issue.words, 0, false, [], true, s.issueSize, none, 0⟩] }
      else match s.performAt g 0 0 addr p (.load n) u with
        | (s, ⟨.error (c, e), _⟩) => s.trapAccess g.id 0 i 0 ⟨c, e, a.space, addr⟩ s.issue.words
        | (s, ⟨.ok bs, race⟩) =>
          let s := if waitHolds stamp v bs then (s.passPart g m).orderDone g.id 1 sc.code else s.watch g m a.space addr w
          match race with
          | some r => s.trapRace g.id 0 i 0 r s.issue.words
          | none => s

def execWait (gd : Guard) (sc : Scope) (a : SyncAddr) (gen : Src) (s : State) : Outcome :=
  waitWord s gd sc a false fun sl => (sl.src gen).toNat
/-- The value of MWAIT: a pair, or the literal zero-extended. -/
def Slice.mwaitValue (sl : Slice) : PairOrLit → Nat
  | .pair p => sl.pair p
  | .lit w => w.toNat
def execMwait (gd : Guard) (sc : Scope) (a : SyncAddr) (v : PairOrLit) (s : State) : Outcome :=
  waitWord s gd sc a true fun sl => sl.mwaitValue v

/-! ## WAITC and SEAL (R81, R190, R290, R291) -/

/-- Whether every counter is at or below its limit. DEDUCED (log 55): a limit of 0 for l or s, which lets no access of the class remain,
also covers the runs that the part has enqueued, as the publish and turn idioms need (R347, R349). -/
def Gang.within (g : Gang) (m : BitVec 8) (l st c t : Nat) : Bool :=
  g.l ≤ l && g.s ≤ st && g.c ≤ c && g.t ≤ t && ((l != 0 && st != 0) || g.laneIdle m)
def execWaitc (gd : Guard) (l sc c t : BitVec 4) (s : State) : Outcome :=
  forPart s gd fun g m =>
    if g.partWait m = some .held then s.passPart (g.setWait m none) m
    else if g.within m l.toNat sc.toNat c.toNat t.toNat then s.passPart g m
    else s.waitPart g m (.counters l.toNat sc.toNat c.toNat t.toNat)

/-- Sealed batches that may be incomplete (R81). -/
def batchRoom : Nat := 15
/-- Closes the open batch. -/
def Gang.seal (g : Gang) : Gang :=
  { g with sealed := g.sealed ++ [⟨g.batch, g.openOps⟩], openOps := [], c := g.c + 1, batch := g.batch + 1 }
def execSeal (gd : Guard) (s : State) : Outcome :=
  withLeader s gd fun g m _ _ =>
    if g.sealed.length ≥ batchRoom then s.waitPart g m .batches else s.passPart g.seal m

/-! ## Fences (R292, R293) -/

/-- A flush point of the scalar stream (R279): it waits, it traps, or it goes on. In deterministic operation the commit slot
flushes (R359). -/
def State.scalarFlushThen (s : State) (g : Gang) (m : BitVec 8) (k : State → Gang → State) : State :=
  if s.determ g.id then k s g
  else match s.flushPoint g.id with
    | (s, .trapped) => s
    | (s, r) => match s.gang? g.id, r with
      | some x, .wait w => s.waitPart x m w
      | some x, _ => k s x
      | none, _ => s

/-- Whether loads of a gang have not completed. -/
def State.loadsOut (s : State) (g : GangId) : Bool := s.remote.any fun r => r.gang == g && r.clsL
/-- FENCE and FENCEM for a part: a release waits for every earlier access, an acquire for every earlier load. -/
def State.fence (s : State) (g : Gang) (m : BitVec 8) (order scope : Nat) : State :=
  if !g.laneIdle m then s.waitPart g m .laneQueue
  else
    let fin (s : State) (g : Gang) : State :=
      if order ≥ 2 && s.gangOutstanding g.id || s.loadsOut g.id then s.waitPart g m .outstanding
      else (s.passPart g m).orderDone g.id order scope
    if scope = 0 then fin s g else s.scalarFlushThen g m fin
def execFence (gd : Guard) (sc : Scope) (o : FenceOrder) (s : State) : Outcome :=
  forPart s gd fun g m => s.fence g m o.code sc.code
/-- DESIGN CHOICE (log 67): FENCEM's src(a) is read in the leader slice. -/
def execFencem (gd : Guard) (o : FenceOrder) (a : Src) (s : State) : Outcome :=
  withLeader s gd fun g m i sl =>
    if fieldNat (sl.src a) 13 19 ≠ 0 then s.trapSlice g i 0x09 3 else s.fence g m o.code 3

/-! ## DRAIN (R294) -/

/-- The cohorts whose traffic a scope counts on this package. -/
def State.drainCohorts (s : State) (g : GangId) (sc : DrainScope) : List Cohort :=
  match g.block? with
  | none => []
  | some b => match sc with
    | .cohort => match s.cohort? b with | some c => [c] | none => []
    | _ => s.cohorts.filter fun c => c.handle == b.handle
/-- The sums of one sweep: sent and performed. -/
def State.drainSums (s : State) (g : GangId) (sc : DrainScope) : Nat × Nat :=
  (s.drainCohorts g sc).foldl (fun p c => (p.1 + c.sent, p.2 + c.performed)) (0, 0)
/-- .span in a grid that is not a span acts as .pkg (R409). -/
def State.drainScope (s : State) (g : GangId) (sc : DrainScope) : DrainScope :=
  match sc, s.gridOf g with
  | .span, some gr => if gr.record.spanSize = 0 then .pkg else .span
  | .span, none => .pkg
  | x, _ => x
/-- DRAIN. In a deterministic grid no traffic of this package is in flight as a round starts, so its condition then holds (R357). -/
def execDrain (gd : Guard) (sc : DrainScope) (s : State) : Outcome :=
  gangWide s gd false fun g m => s.scalarFlushThen g m fun s g =>
    let sc := s.drainScope g.id sc
    if s.determ g.id && sc ≠ .span then (s.passPart g m).acquire g.id
    else s.waitPart g m (.drain sc none)

/-! ## Handles (R62, R295, R296, R430) -/

/-- The change that a GIVE makes to a cohort's table: word `w`, offset and length, by the block of rank `me`; or the INFO of 0x34. -/
def giveTable (r : LaunchRec) (t : List (Nat × HandleEntry)) (me : Nat) (w : Word) (off len : Nat) :
    Except Nat (List (Nat × HandleEntry)) :=
  let h := fieldNat w 0 8
  let rank := fieldNat w 8 5
  let retire := bit w 31
  if fieldNat w 13 18 ≠ 0 then .error 9
  else if r.cohort ≤ rank then .error 1
  else match lookupAt h t with
    | none =>
      if retire then .error 2
      else if off % 64 ≠ 0 || len % 64 ≠ 0 || len < 64 || 8 * 2 ^ 20 < len || r.lsSz * 4096 < off + len then .error 3
      else if (t.any fun p => p.2.owner == me && off < p.2.off + p.2.len && p.2.off < off + len) ||
          (off < r.expOff + r.expLen && r.expOff < off + len && r.expLen ≠ 0) then .error 4
      else .ok (insertAt h ⟨me, rank, off, len⟩ t)
    | some e =>
      if e.holder ≠ me then .error 5
      else if retire then (if e.owner ≠ me then .error 6 else .ok (t.filter fun p => p.1 != h))
      else .ok (insertAt h { e with holder := rank } t)

/-- The table change of a GIVE, or the INFO. A supervisor gang has no cohort: no rank is in it. -/
def State.give (s : State) (g : GangId) (w : Word) (off len : Nat) : Except Nat State :=
  match g.block?, g.block?.bind s.cohort?, s.gridOf g with
  | some b, some co, some gr =>
    match giveTable gr.record co.table (s.rank b) w off len with
    | .ok t => .ok ((s.setCohort { co with table := t }).bumpInterval g)
    | .error i => .error i
  | _, _, _ => .error 1

def execGive (gd : Guard) (d : Fin 31) (a b : Src) (s : State) : Outcome :=
  withLeader s gd fun g m i sl =>
    if !g.laneIdle m then s.waitPart g m .laneQueue
    else if s.gangOutstanding g.id then s.waitPart g m .outstanding
    else if s.determ g.id then (s.passPart g m).endQuantum g.id (.handle s.issue.words m)
    else match s.give g.id (sl.reg d.val) (sl.src a).toNat (sl.src b).toNat with
      | .error e => s.trapSlice g i 0x34 e
      | .ok s => s.passPart g m

/-- Whether a handle is valid and held by the block of a gang. -/
def State.holds (s : State) (g : GangId) (h : Nat) : Bool :=
  match g.block?, g.block?.bind s.cohort? with
  | some b, some co => match lookupAt h co.table with | some e => e.holder == s.rank b | none => false
  | _, _ => false
def execTake (gd : Guard) (a : Src) (s : State) : Outcome :=
  withLeader s gd fun g m i sl =>
    if fieldNat (sl.src a) 8 24 ≠ 0 then s.trapSlice g i 0x09 4
    else if g.partWait m = some .held then (s.passPart (g.setWait m none) m).acquire g.id
    else if s.holds g.id (sl.src a).toNat then (s.passPart g m).acquire g.id
    else s.waitPart g m (.take (sl.src a).toNat)

/-! ## DETACH (R65, R66, R297) -/

/-- Whether a request is one of a gang's, or of its engine operations; an operation that has been dropped may be anyone's. -/
def State.requestOf (s : State) (g : GangId) (o : Owner) : Bool :=
  o.ofGang g || match o with
    | .engine n | .sub n _ => match s.op? n with | some x => x.gang == g | none => true
    | _ => false
/-- Whether accesses of a gang to a member are incomplete: requests to its package, arrivals in flight to its exports, copies to or from
them, and gathers, whose sub-requests may reach it. DESIGN CHOICE (log 57): values that the gang's atomic buffer holds for the member
are not accesses made yet, and are not waited for. -/
def State.usesMember (s : State) (g : GangId) (gr : Grid) (m : Nat) : Bool :=
  (s.outstanding.any fun o => s.requestOf g o.owner && o.target == gr.record.pkgList.getD m 0) ||
  (s.arrivals.any fun a => a.src == some g && a.space == 2 && a.addr / 2 ^ 32 == m) ||
  s.ops.any fun o => o.gang == g && !o.complete && match o.kind with
    | .copy c => o.fault.isNone && ((c.dspace == 2 && c.dst / 2 ^ 32 == m) || (c.sspace == 2 && c.src / 2 ^ 32 == m) || o.waiting)
    | .gather _ => o.fault.isNone
    | _ => false
/-- Records that this member has detached from member `m`. -/
def State.detach (s : State) (gr : Grid) (m : Nat) : State :=
  let me := gr.member s.pkgId
  if gr.detached.contains (me, m) then s
  else (s.setGrid { gr with detached := gr.detached ++ [(me, m)] }).tell (gr.record.pkgList.getD m 0) (.spanDetach gr.spanKey me m)
/-- The INFO of a refused DETACH. -/
def State.detachRefused (s : State) (g : GangId) (m : Nat) : Option Nat :=
  match s.gridOf g with
  | none => some 7
  | some gr => if gr.record.spanSize = 0 then some 7 else if gr.record.spanSize ≤ m then some 8 else none
def execDetach (gd : Guard) (a : Src) (s : State) : Outcome :=
  withLeader s gd fun g m i sl =>
    let k := (sl.src a).toNat
    match s.detachRefused g.id k, s.gridOf g.id with
    | some e, _ => s.trapSlice g i 0x34 e
    | none, some gr =>
      if s.usesMember g.id gr k then s.waitPart g m (.member k)
      else if s.determ g.id then (s.passPart g m).endQuantum g.id (.handle s.issue.words m)
      else (s.passPart g m).detach gr k
    | none, none => s

/-! ## QEND and YIELD (R298) -/

def execQend (gd : Guard) (s : State) : Outcome :=
  forPart s gd fun g m =>
    let s' := s.passPart g m
    if s.determ g.id then s'.endQuantum g.id .plain else s'
def execYield (gd : Guard) (s : State) : Outcome :=
  forPart s gd fun g m =>
    match s.quadrantReady g with
    | [] => s.passPart g m
    | l => s.waitPart g m (.yield l)

end Sys2Proof.Machine
end

