-- ==== Sys2Proof/Machine/Engine.lean ====
section
/-! DEFINITION. What every engine instruction shares (R299 to R302, R308, R392), and COPY and COPYR (R303 to R309). -/
namespace Sys2Proof.Machine

/-! ## Issue -/

/-- How an engine instruction leaves issue: accepted, refused by a trap already taken, or held back. -/
inductive Issued where
  | ok (s : State)
  | trapped (s : State)
  | wait (s : State) (w : Wait)

/-- The source that a record names (R393): an instruction that issues, or a commit slot, which has no issuer. -/
def State.engineSrc (s : State) : Nat := if s.issue.who = .none then 5 else 0
/-- A trap of an engine instruction. -/
def State.refuse (s : State) (g : Gang) (slice cause info : Nat) (words : List Word) : Issued :=
  .trapped (s.takeTrap g.id (TrapInfo.plain cause info s.engineSrc slice words))
/-- A trap of an engine instruction on a read of memory. -/
def State.refuseRead (s : State) (g : Gang) (slice : Nat) (f : AccFault) (words : List Word) : Issued :=
  .trapped (s.trapAccess g.id s.engineSrc slice 0 f words)

/-- The answers that an instruction used are dropped when it ends. -/
def State.dropFetched (s : State) (g : GangId) : State := { s with fetched := s.fetched.filter fun f => f.gang != g }

/-- An engine instruction other than PFT: the core kind (R405), the gang-wide conditions, the operand checks on registers, then
its effect; in deterministic operation the effect follows in the commit slot (R302, R357), and an instruction that stays is passed
only then. -/
def engineInstr (s : State) (gd : Guard) (onControl matrix stay : Bool)
    (check : State → Gang → Nat → Slice → Option (Nat × Nat)) (run : State → Gang → Nat → Slice → List Word → Issued) : Outcome :=
  withScalar s fun g m =>
    if g.id.isControl && !onControl then s.trapScalar g m 0x05 1
    else match g.gangWide m gd matrix with
      | some (info, lanes) => s.takeTrap g.id ⟨0x06, 0, lowestSlice m, info, lanes, none, 0, s.issue.words⟩
      | none =>
        if (g.guarded m gd).isEmpty then s.passPart g m
        else match g.operandSlice with
          | none => s
          | some (i, sl) =>
            match check s g i sl with
            | some (cause, info) => s.trapSlice g i cause info
            | none =>
              if s.determ g.id then (if stay then s else s.passPart g m).endQuantum g.id (.engine s.issue.words m)
              else match run s g i sl s.issue.words with
                | .ok s => match s.gang? g.id with
                  | some g => (s.passPart g m).dropFetched g.id
                  | none => s
                | .trapped s => s.dropFetched g.id
                | .wait s w => match s.gang? g.id with
                  | some g => s.waitPart g m w
                  | none => s

/-! ## Operations -/

/-- A new operation, counted as one of its cohort's requests until it ends (R294). -/
def State.addOp (s : State) (g : GangId) (slice : Nat) (words : List Word) (k : OpKind) : State :=
  { s.countSent g 1 0 with ops := s.ops ++ [⟨s.nextOp, g, k, slice, words, false, false, none⟩], nextOp := s.nextOp + 1 }

/-- Operations that an open batch holds (R81). -/
def openRoom : Nat := 256
/-- COPY, COPYR, GATH and SCAD join the open batch, which seals itself first when it is full (R81). -/
def State.joinBatch (s : State) (g : Gang) (slice : Nat) (words : List Word) (k : OpKind) : Issued :=
  if g.openOps.length ≥ openRoom && g.sealed.length ≥ batchRoom then .wait s .batches
  else
    let g := if g.openOps.length ≥ openRoom then g.seal else g
    .ok ((s.setGang { g with openOps := g.openOps ++ [s.nextOp] }).addOp g.id slice words k)

/-- An operation that has ended: every byte written and every reply sunk. -/
def State.endOp (s : State) (o : EngineOp) : State := (s.setOp { o with complete := true, waiting := false }).countSent o.gang 0 1
/-- An operation that stops on a fault (R308); its gang traps when the batch completes. -/
def State.failOp (s : State) (o : EngineOp) (src : Nat) (f : AccFault) : State :=
  s.endOp { o with fault := some ⟨f.cause, src, o.slice, f.info, 0, some (f.space, f.addr), 0, o.words⟩ }

/-- The engine's requester number on a core or control core (R98). -/
def State.engineRequester (s : State) (g : GangId) : Requester := { s.requester g with agent := (s.requester g).agent + 32 }

/-! ## One access of an engine for a gang -/

inductive EngAcc where
  | ok (bs : List Byte)
  | fault (f : AccFault)
  | wait
  | remote (p : Place)

/-- A read by an engine: the race detector does not check it (R438). -/
def State.engineRead (s : State) (g : GangId) (space addr n : Nat) : State × EngAcc :=
  match s.issuedLocate g .load space addr n with
  | (s, .fault f) => (s, .fault { f with addr := addr })
  | (s, .wait _) => (s, .wait)
  | (s, .ok p) =>
    if p.isRemote then (s, .remote p)
    else match s.poisonCheck p n false with
      | (s, some (c, i)) => (s, .fault ⟨c, i, space, addr⟩)
      | (s, none) =>
        ((s.sendOver (s.engineRequester g) (p.die (s.gangDie g)) p.addr).corrected p (s.gangDie g), .ok (s.readPlace p n))

/-- A race found in an engine write traps the gang with the engine as the source (R438, R439). -/
def State.engineRace (s : State) (o : EngineOp) (r : Option (Nat × RaceEntry)) : State :=
  match r with
  | some r => s.trapRace o.gang 2 o.slice 0 r o.words
  | none => s

/-- How an engine's write synchronises: a stamp or tracked arrival is a release at every scope (R345). -/
def engineUse (g : Gang) (space : Nat) (op : ReqOp) (rel : Bool) : SyncUse :=
  let acq : Option Nat := match op with | .arrival _ => some 6 | _ => none
  if rel then ⟨acq, 6, space == 1, g.dmask⟩ else SyncUse.plain g space
/-- What follows an engine's write: a stamp or tracked arrival raises the interval counter once its write is recorded (R437). -/
def State.engineWrote (s : State) (o : EngineOp) (rel : Bool) (race : Option (Nat × RaceEntry)) : State :=
  (if rel then s.bumpInterval o.gang else s).engineRace o race
/-- A write or an addition by an engine: recorded and checked as a write of the issuing gang. -/
def State.engineWrite (s : State) (o : EngineOp) (k : AccKind) (space addr n : Nat) (op : ReqOp) (rel : Bool) : State × EngAcc :=
  match s.issuedLocate o.gang k space addr n with
  | (s, .fault f) => (s, .fault { f with addr := addr })
  | (s, .wait _) => (s, .wait)
  | (s, .ok p) =>
    if p.isRemote then (s, .remote p)
    else match s.gang? o.gang with
      | none => (s, .ok [])
      | some g => match s.performAt g 0 0 addr p op (engineUse g space op rel) with
        | (s, ⟨.error (c, i), race⟩) => (s.engineRace o race, .fault ⟨c, i, space, addr⟩)
        | (s, ⟨.ok bs, race⟩) => (s.engineWrote o rel race, .ok bs)

/-- Sends an engine's access and waits for the reply; while its requester can hold no more requests it is not sent (R98). -/
def State.engineSend (s : State) (o : EngineOp) (p : Place) (addr space : Nat) (op : ReqOp) (rel : Bool) : State :=
  let u : SyncUse := match op, s.gang? o.gang with
    | .load _, _ | _, none => SyncUse.unchecked
    | _, some g => engineUse g space op rel
  let q := s.engineRequester o.gang
  if !s.hasRoom q 1 then s
  else (s.setOp { o with waiting := true }).sendFrom q o.gang p addr space op (.engine o.id) u 0
/-- Whether an engine's access leaves its gang's die. -/
def State.engineLeaves (s : State) (g : GangId) (p : Place) : Bool := p.isRemote || p.die (s.gangDie g) != s.gangDie g

/-! ## Longer reads (R305, R317) -/

/-- Naturally aligned pieces of at most `top` bytes of [a, a + n), on fuel. -/
def pieces (top : Nat) : Nat → Nat → Nat → List (Nat × Nat)
  | 0, _, _ => []
  | f + 1, a, n =>
    if n = 0 then []
    else
      let w := ([16, 8, 4, 2, 1].find? fun w => w ≤ top && a % w = 0 && w ≤ n).getD 1
      (a, w) :: pieces top f (a + w) (n - w)
/-- A read of `n` bytes, piece by piece; the first piece that does not succeed decides. -/
def State.engineReadAll (s : State) (g : GangId) (space addr n : Nat) : State × EngAcc :=
  (pieces 16 n addr n).foldl (fun (st : State × EngAcc) p => match st.2 with
    | .ok bs => match st.1.engineRead g space p.1 p.2 with
      | (s, .ok x) => (s, .ok (bs ++ x))
      | r => r
    | _ => st) (s, .ok [])

/-- Whether a read at issue is waiting for another package. -/
def State.fetching (s : State) (g : GangId) : Bool := s.outstanding.any fun x => x.owner == .fetch g none
/-- A read of memory at issue, of a program, a descriptor or a list: in another package it is a request, and the instruction
re-executes with the answer (log 15). -/
def State.issueRead (s : State) (g : GangId) (space addr n : Nat) : State × EngAcc :=
  match s.fetched.find? fun f => f.gang == g && f.addr == addr && !f.code with
  | some f => match f.fault with
    | some x => (s, .fault x)
    | none => (s, .ok f.bytes)
  | none =>
    if s.fetching g then (s, .wait)
    else match s.engineReadAll g space addr n with
      | (s, .remote p) =>
        if s.hasRoom (s.requester g) 1 then (s.sendAccess g p addr space (.load n) (.fetch g none) SyncUse.unchecked 0, .wait) else (s, .wait)
      | r => r

/-- Pieces of [a, a + n) that do not cross a page of 64 KiB, on fuel. -/
def pagePieces : Nat → Nat → Nat → List (Nat × Nat)
  | 0, _, _ => []
  | f + 1, a, n =>
    let w := Nat.min n (0x10000 - a % 0x10000)
    if n = 0 then [] else (a, w) :: pagePieces f (a + w) (n - w)
/-- A longer read at issue, page by page. -/
def State.pageRead (s : State) (g : GangId) (addr n : Nat) : State × EngAcc :=
  (pagePieces (n / 0x10000 + 2) addr n).foldl (fun (st : State × EngAcc) p => match st.2 with
    | .ok bs => match st.1.issueRead g 0 p.1 p.2 with
      | (s, .ok x) => (s, .ok (bs ++ x))
      | r => r
    | _ => st) (s, .ok [])
/-- Keeps what an instruction has read for its next try: it reads once (R36, R225). -/
def State.keepRead (s : State) (g : GangId) (addr : Nat) (bs : List Byte) : State :=
  { s with fetched := s.fetched.filter (fun f => !(f.gang == g && f.addr == addr && !f.code)) ++ [Fetched.mk g addr false bs none] }

/-! ## The control word of COPY and COPYR (R303, R304, R309) -/

/-- A copy's operands from the registers of a slice. -/
def copyOf (sl : Slice) (reduce : Bool) (d a b : Nat) : CopyOp :=
  let cw := sl.reg b
  let ds := fieldNat cw 27 3
  let addrOf (space n : Nat) : Nat :=
    if space = 0 || space = 2 then (sl.reg n).toNat + 2 ^ 32 * (sl.reg (n + 1)).toNat else (sl.reg n).toNat
  { reduce := reduce, bf16 := bit cw 20, dspace := ds, sspace := fieldNat cw 24 3, dst := addrOf ds d,
    src := addrOf (fieldNat cw 24 3) a, units := fieldNat cw 0 20, mark := fieldNat cw 30 2,
    markAddr := (sl.reg (b + 1)).toNat + (if ds = 0 || ds = 2 then 2 ^ 32 * (sl.reg (d + 1)).toNat else 0),
    stamp := sl.reg (b + 3) ++ sl.reg (b + 2), landed := [], last := 0, piece := 0, data := none, stamped := false }

/-- Whether a copy's combination of fields is allowed; `control` names the die of a control core. -/
def copyAllowed (c : CopyOp) (cw : Word) (control : Option Nat) (d a : Nat) : Bool :=
  let pairOk (space n : Nat) : Bool := !(space == 0 || space == 2) || (n % 2 == 0 && n ≤ 28)
  let dOk := c.dspace ≤ 2 || (c.dspace == 3 && !c.reduce && c.mark == 0)
  fieldNat cw 21 3 == 0 && dOk && c.sspace ≤ 4 && (c.reduce || !c.bf16) && c.units ≠ 0 && c.mark ≠ 3 &&
  pairOk c.dspace d && pairOk c.sspace a && c.dst % 16 == 0 && c.src % 16 == 0 &&
  (c.mark != 1 || c.markAddr % 16 == 0) && (c.mark != 2 || c.markAddr % 8 == 0) &&
  match control with
  | none => true
  | some die => (c.sspace == 0 || c.sspace == 3) && (c.dspace == 0 || c.dspace == 3) &&
      !(die == 12 && (c.sspace == 3 || c.dspace == 3))

/-- Dies on which a supervisor COPY to WGT must wait: a resident block, or a weight-load grid in dispatch (R309). DESIGN CHOICE (log 68): a
span's reservation counts as the blocks that its commit will place. -/
def State.dieBusy (s : State) (die : Nat) : Bool :=
  (s.blocks.any fun b => b.die == die && !b.freed && b.state != .saved && b.state != .pending) ||
  (match s.reservation with | some v => v.places.any fun p => p.2.any fun x => x.die == die | none => false) ||
  s.grids.any fun g => g.record.wload && bit (BitVec.ofNat 16 g.record.dieMask) die && g.next ≠ 0

/-- The refusals of a copy's control word. DESIGN CHOICE (log 68): a register that a GEN or POL address may not name is one of them (0x45),
where R405 gives 0x03 INFO 4. -/
def copyCheck (x : CopyForm) (reduce : Bool) (g : Gang) (sl : Slice) : Option (Nat × Nat) :=
  let control := match g.id with | .control d _ => some d | .compute _ _ => none
  let b := 4 * x.b.val
  if copyAllowed (copyOf sl reduce x.d.val x.a.val b) (sl.reg b) control x.d.val x.a.val then none else some (0x45, 0)

def copyRun (x : CopyForm) (reduce : Bool) (s : State) (g : Gang) (i : Nat) (sl : Slice) (words : List Word) : Issued :=
  let c := copyOf sl reduce x.d.val x.a.val (4 * x.b.val)
  match g.id with
  | .control d _ =>
    if c.dspace = 3 && s.dieBusy d then .wait s (.weightStore d) else s.joinBatch g i words (.copy c)
  | .compute _ _ => s.joinBatch g i words (.copy c)

def execCopy (x : CopyForm) (s : State) : Outcome :=
  engineInstr s x.g true false false (fun _ g _ sl => copyCheck x false g sl) (copyRun x false)
def execCopyr (x : CopyForm) (s : State) : Outcome :=
  engineInstr s x.g true false false (fun _ g _ sl => copyCheck x true g sl) (copyRun x true)

/-! ## A unit of a copy (R305 to R308) -/

/-- The unit that a copy performs next: the next of an open piece, else a free choice among those left (log 3); the units of a
COPYR's destination line are taken in ascending order (R306), and all those of a deterministic gang's copy, so that a copy onto its own source
repeats (R364). -/
def State.copyUnit (s : State) (g : GangId) (c : CopyOp) : Nat :=
  if c.piece ≠ 0 then c.last + 1
  else if s.determ g then ((List.range c.units).find? fun u => !c.landed.contains u).getD 0
  else
    let k := Config.pick s.clock % c.units
    let left (u : Nat) : Bool := !c.landed.contains u
    let u := (((List.range c.units).map fun i => (k + i) % c.units).find? left).getD 0
    if c.reduce then
      let line (v : Nat) := (c.dst + 16 * v) / 128
      ((List.range c.units).find? fun v => line v == line u && left v).getD u
    else u

/-- A unit has been performed: it is counted, and where its piece ends the tracked arrival is made (R307). -/
def State.copyLanded (s : State) (o : EngineOp) (c : CopyOp) (u : Nat) : State :=
  let n := c.piece + 1
  let closes := (c.dst + 16 * (u + 1)) % 64 = 0 || c.landed.contains (u + 1) || u + 1 = c.units ||
    (!s.determ o.gang && Config.pick s.clock / 2 % 2 = 0)
  let c := { c with landed := c.landed ++ [u], last := u, data := none, piece := if c.mark = 1 && !closes then n else 0 }
  let s := s.setOp { o with kind := .copy c, waiting := false }
  if c.mark = 1 && closes then
    let x : Arrival := ⟨none, c.dspace, c.markAddr, 16 * n, some o.gang, some o.id, 0, none, o.words, o.slice, 6, true⟩
    { s with arrivals := s.arrivals ++ [x] }
  else s

/-- The four words of a unit. -/
def unitWords (bs : List Byte) : List (Option Word) :=
  (List.range 4).map fun i => some (BitVec.ofNat 32 (ofLeBytes ((bs.drop (4 * i)).take 4)))
/-- The words of a line packet that one unit supplies (R306). -/
def unitLine (dst : Nat) (bs : List Byte) : List (Option Word) :=
  let k := dst % 128 / 4
  List.replicate k none ++ unitWords bs ++ List.replicate (28 - k) none

/-- Writes or adds a unit whose source bytes are known. What a remote GEN destination takes is a line packet; a polder export of another
package takes the unit alone, within its bounds (R64, R306). -/
def State.copyStore (s : State) (o : EngineOp) (c : CopyOp) (u : Nat) (bs : List Byte) : State :=
  let dst := c.dst + 16 * u
  if !c.reduce then
    match s.issuedLocate o.gang .store c.dspace dst 16 with
    | (s, .fault f) => s.failOp o 2 { f with addr := dst }
    | (s, .wait _) => s
    | (t, .ok p) =>
      if t.engineLeaves o.gang p then
        t.engineSend { o with kind := .copy { c with data := some (u, []) } } p dst c.dspace (.store bs) false
      else match s.engineWrite o .store c.dspace dst 16 (.store bs) false with
        | (s, .ok _) => s.copyLanded o c u
        | (s, .fault f) => s.failOp o 2 f
        | (s, _) => s
  else
    let fmt : BitVec 4 := if c.bf16 then 5 else 4
    match s.issuedLocate o.gang .reduce c.dspace dst 16 with
    | (s, .fault f) => s.failOp o 2 { f with addr := dst }
    | (s, .wait _) => s
    | (t, .ok p) =>
      if t.engineLeaves o.gang p then
        let o := { o with kind := .copy { c with data := some (u, []) } }
        match p with
        | .remote pkg off =>
          t.engineSend o (.remote pkg (off / 128 * 128)) (dst / 128 * 128) c.dspace (.line fmt (unitLine dst bs)) false
        | p => t.engineSend o p dst c.dspace (.line fmt (unitWords bs)) false
      else
        let r := (List.range 4).foldl (fun (st : State × Option AccFault) i => match st.2 with
          | some _ => st
          | none => match st.1.engineWrite o .reduce c.dspace (dst + 4 * i) 4 (.reduce 0 fmt false ((bs.drop (4 * i)).take 4)) false with
            | (s, .fault f) => (s, some f)
            | (s, _) => (s, none)) (s, none)
        match r.2 with
        | some f => r.1.failOp o 2 f
        | none => r.1.copyLanded o c u

/-- The read of a unit's source: one that leaves the die is sent. -/
def State.copyRead (s : State) (g : GangId) (space addr : Nat) : State × EngAcc :=
  match s.issuedLocate g .load space addr 16 with
  | (t, .ok p) => if t.engineLeaves g p then (t, .remote p) else s.engineRead g space addr 16
  | _ => s.engineRead g space addr 16
/-- COPY_PIECE_LANDED: one unit is read and written; an access that leaves the die is sent, and the unit ends with its reply. -/
def execCopyPieceLanded (op : Nat) (s : State) : Outcome :=
  match s.op? op with
  | some o => match o.kind with
    | .copy c =>
      if o.complete || o.waiting || c.landed.length ≥ c.units then .next s
      else
        let u := match c.data with | some p => p.1 | none => s.copyUnit o.gang c
        match c.data with
        | some p => .next (s.copyStore o c u p.2)
        | none => match s.copyRead o.gang c.sspace (c.src + 16 * u) with
          | (s, .ok bs) => .next (s.copyStore o c u bs)
          | (s, .fault f) => .next (s.failOp o 2 f)
          | (s, .wait) => .next s
          | (s, .remote p) =>
            .next (s.engineSend { o with kind := .copy { c with data := some (u, []) } } p (c.src + 16 * u) c.sspace (.load 16) false)
    | _ => .next s
  | none => .next s

/-- Whether two addresses of a gang's stamps name one word. -/
def State.sameStamp (s : State) (g : GangId) (sp a sp' a' : Nat) : Bool :=
  (sp == sp' && a == a') ||
  match (s.issuedLocate g .stamp sp a 8).2, (s.issuedLocate g .stamp sp' a' 8).2 with
  | .ok p, .ok q => p == q || p.meets 8 q 8
  | _, _ => false
/-- Whether an earlier operation of the gang still owes a stamp to the same word (R80). -/
def State.stampHeld (s : State) (o : EngineOp) (space addr : Nat) : Bool :=
  s.ops.any fun x => x.id < o.id && x.gang == o.gang && !x.complete && match x.kind with
    | .copy c => c.mark == 2 && s.sameStamp o.gang c.dspace c.markAddr space addr
    | .gather y => y.mark && s.sameStamp o.gang 1 y.stampAddr space addr
    | _ => false

/-- Whether requests of an engine operation are outstanding, or its tracked arrivals are in flight. -/
def State.opOutstanding (s : State) (id : Nat) : Bool :=
  (s.outstanding.any fun x => match x.owner with | .engine i => i == id | .sub i _ => i == id | _ => false) || s.arrivals.any fun a => a.op == some id

/-- Writes an operation's stamp, a release at every scope (R345), last of all. The answer says whether the operation is done. -/
def State.writeStamp (s : State) (o : EngineOp) (space addr : Nat) (v : DWord) : State × EngAcc :=
  match s.issuedLocate o.gang .stamp space addr 8 with
  | (s, .fault f) => (s, .fault { f with addr := addr })
  | (s, .wait _) => (s, .wait)
  | (t, .ok p) =>
    if t.engineLeaves o.gang p then (t, .remote p)
    else s.engineWrite o .stamp space addr 8 (.store (leBytes 8 v.toNat)) true

/-- Whether a copy may end: every unit performed, every arrival landed, no earlier stamp owed to its word. -/
def State.copyDone (s : State) (o : EngineOp) (c : CopyOp) : Bool :=
  !o.complete && !o.waiting && c.units ≤ c.landed.length && !s.opOutstanding o.id &&
    (c.mark != 2 || c.stamped || !s.stampHeld o c.dspace c.markAddr)

/-- COPY_COMPLETE: the stamp is written last (R307), and the batch records the copy as complete. -/
def execCopyComplete (op : Nat) (s : State) : Outcome :=
  match s.op? op with
  | some o => match o.kind with
    | .copy c =>
      if !s.copyDone o c then .next s
      else if c.mark = 2 && !c.stamped then
        match s.writeStamp o c.dspace c.markAddr c.stamp with
        | (s, .ok _) => .next (s.endOp { o with kind := .copy { c with stamped := true } })
        | (s, .fault f) => .next (s.failOp o 2 f)
        | (s, .wait) => .next s
        | (s, .remote p) => .next (s.engineSend { o with kind := .copy { c with stamped := true } } p c.markAddr c.dspace
            (.store (leBytes 8 c.stamp.toNat)) true)
      else .next (s.endOp o)
    | _ => .next s
  | none => .next s

/-- The reply to an engine's request outside the package: the source of a unit, a performed unit, or a stamp. -/
def State.engineReply (s : State) (x : Outgoing) (op : Nat) (r : Except AccFault (List Byte)) : State :=
  match s.op? op with
  | none => s
  | some o =>
    let o := match x.op with | .arrival _ => o | _ => { o with waiting := false }
    if o.complete then s
    else match r, o.kind with
      | .error f, .epld _ _ => s.setOp { o with fault := some ⟨f.cause, 3, o.slice, f.info, 0, some (f.space, f.addr), 0, o.words⟩ }
      | .ok bs, .epld a _ => s.setOp { o with kind := .epld a (some bs) }
      | .error f, _ => s.failOp o 2 f
      | .ok bs, .copy c =>
        match x.op, c.data with
        | .load _, some (u, _) => s.setOp { o with kind := .copy { c with data := some (u, bs) } }
        | .arrival _, _ => s
        | _, some (u, _) => s.copyLanded o c u
        | _, none => s.setOp o
      | .ok _, _ => s.setOp o

/-! ## Batches (R82, R308) -/

/-- An operation that has ended and whose traffic has sunk (R308). -/
def State.opEnded (s : State) (id : Nat) : Bool := match s.op? id with | some o => o.complete && !s.opOutstanding id | none => true
def State.opFault (s : State) (id : Nat) : Option TrapInfo := (s.op? id).bind (·.fault)
/-- Whether a batch is complete (R82). -/
def State.batchEnded (s : State) (b : Batch) : Bool := b.ops.all s.opEnded
/-- The fault of a complete sealed batch: the gang traps though an older one holds its count (R82, R308). -/
def State.batchFault (s : State) (g : Gang) : Option (Batch × TrapInfo) :=
  g.sealed.findSome? fun b => if s.batchEnded b then (b.ops.findSome? s.opFault).map fun t => (b, t) else none
/-- Whether the oldest sealed batch of a gang is complete, or the fault of a later one is to be told. -/
def State.batchDone (s : State) (g : Gang) : Bool :=
  match g.sealed with
  | b :: _ => s.batchEnded b || (s.batchFault g).isSome
  | [] => false

/-- BATCH_COMPLETE: c falls for the oldest sealed batch once it is complete; the faults of a complete batch's operations trap the gang. -/
def execBatchComplete (gid : GangId) (s : State) : Outcome :=
  match s.gang? gid with
  | none => .next s
  | some g =>
    match g.sealed with
    | [] => .next s
    | b :: rest =>
      if !s.batchDone g then .next s
      else
        let fault := s.batchFault g
        let done := (if s.batchEnded b then b.ops else []) ++ (match fault with | some f => f.1.ops | none => [])
        let g := if s.batchEnded b then { g with sealed := rest, c := g.c - 1 } else g
        let s := { s.setGang g with ops := s.ops.filter fun o => !done.contains o.id }
        match fault with
        | some f => .next (s.takeTrap gid f.2)
        | none => .next s

end Sys2Proof.Machine
end

