-- ==== Sys2Proof/Machine/Matrix.lean ====
section
/-! DEFINITION. The matrix engines: format blocks, operand words, crews, tile operations, MXZ and MXLD (R58, R121 to R124, R131,
R135 to R139, R315 to R326, R406, R407, R434, R464, R465). -/
namespace Sys2Proof.Machine

/-! ## The format block (R315 to R317) -/

/-- One operand's half of a format block. -/
structure TileHalf where
  fmt : Nat
  blk : Nat
  scale : Nat
  reserved : Bool
  scaleAddr : Nat
  band : Nat
  out : Nat
  cap : Nat
  deriving DecidableEq, Repr

/-- Half 0 describes A, half 1 describes B. -/
def tileHalf (fb : List Byte) (h : Nat) : TileHalf :=
  let f (off n : Nat) := ofLeBytes ((fb.drop (32 * h + off)).take n)
  ⟨f 0 1, f 1 1, f 2 1, f 3 1 ≠ 0 || f 0x14 12 ≠ 0, f 4 4, f 8 4, f 12 4, f 16 4⟩

/-- The banded FP4 form, the one with escapes (R122, R316). -/
def TileHalf.banded (h : TileHalf) : Bool := h.fmt == 9 && h.scale == 1
/-- R316: the accepted combinations. -/
def TileHalf.ok (h : TileHalf) : Bool :=
  let form := match h.fmt with
    | 2 | 5 | 6 => h.scale == 0 && h.blk == 0
    | 7 | 8 => (h.scale == 0 && h.blk == 0) || ((h.scale == 1 || h.scale == 2) && (h.blk == 8 || h.blk == 16 || h.blk == 32))
    | 9 => (h.scale == 1 && h.blk == 8) || (h.scale == 2 && h.blk == 32)
    | _ => false
  form && !h.reserved && (h.banded || (h.out == 0 && h.cap == 0))
/-- R321: the forms that a slot source refuses. -/
def TileHalf.fromSlot (h : TileHalf) : Bool := h.fmt != 2 && (h.fmt == 9 || h.scale == 0)

/-- Whether a format block is accepted for an A source. -/
def formatOk (fb : List Byte) (asrc : Nat) : Bool :=
  let a := tileHalf fb 0
  let b := tileHalf fb 1
  a.ok && b.ok && fmtWidth a.fmt == fmtWidth b.fmt && (a.fmt == 2) == (b.fmt == 2) && (asrc != 2 || a.fromSlot)
/-- K of a format: a row of A and a line of B are 128 bytes (R317). -/
def tileK (fmt : Nat) : Nat := 1024 / fmtWidth fmt

/-! ## Slots (R58) -/

/-- A slot named for writing: held by another block, or free to claim. -/
def State.slotForeign (s : State) (b : Block) (slot : Nat) : Option (Nat × Nat) :=
  match s.slotOwner b.die b.core slot with
  | some o => if o = b.id then none else some (0x1B, slot)
  | none => none
/-- A slot named as a source: it must be held by the block. -/
def State.slotSource (s : State) (b : Block) (slot : Nat) : Option (Nat × Nat) :=
  match s.slotOwner b.die b.core slot with
  | some o => if o = b.id then none else some (0x1B, slot)
  | none => some (0x09, 7)
/-- The block claims a slot that it does not hold; what the slot then holds is a free value (log 6). -/
def State.claimSlot (s : State) (bid : BlockId) (slot : Nat) : State :=
  match s.block? bid with
  | some b => if b.accs.any fun p => p.1 == slot then s
    else s.setBlock { b with accs := insertAt slot ⟨.slot (32 * s.clock + slot), []⟩ b.accs }
  | none => s
def State.slotMap (s : State) (bid : BlockId) (slot : Nat) : WordMap :=
  ((s.block? bid).bind fun b => lookupAt slot b.accs).getD WordMap.zero
def State.setSlot (s : State) (bid : BlockId) (slot : Nat) (w : WordMap) : State :=
  match s.block? bid with
  | some b => s.setBlock { b with accs := insertAt slot w b.accs }
  | none => s

/-! ## The operand words (R318 to R320, R405) -/

def asrcOf (w : Word) : Nat := fieldNat w 5 2
def dslotOf (w : Word) : Nat := fieldNat w 0 5
def sslotOf (w : Word) : Nat := fieldNat w 18 5
def vbaseOf (w : Word) : Nat := fieldNat w 8 10
def cblkOf (w : Word) : Nat := fieldNat w 23 2
/-- Whether a field that the source does not use, or a reserved one, is not zero. -/
def operandWordBad (w : Word) : Bool :=
  fieldNat w 25 7 != 0 || bit w 7 ||
  match asrcOf w with
  | 0 => sslotOf w != 0 || cblkOf w != 0
  | 1 => vbaseOf w != 0 || sslotOf w != 0 || cblkOf w != 0
  | 2 => vbaseOf w != 0
  | _ => true
/-- Whether a B address is malformed (R318). -/
def bAddressBad (w : Word) : Bool :=
  w.toNat % 128 != 0 || (if bit w 31 then fieldNat w 29 2 != 0 else fieldNat w 28 3 != 0)

/-- The 2,048 words of a register source: word W lies in lane W mod L, register va + W div L (R320). -/
def Gang.tileRegs (g : Gang) (va : Nat) : List Word :=
  let n := 4 * g.slices.length
  (List.range 2048).map fun i => g.vreg (va + i / n) (i % n)
/-- A register of a register source that holds an uncorrectable error (R440). -/
def Gang.badTile (g : Gang) (va : Nat) : Option Nat :=
  let n := 4 * g.slices.length
  (g.bad.find? fun k => k % 32 < n && va ≤ k / 32 && (k / 32 - va) * n + k % 32 < 2048).map (· / 32)

/-- The lane registers of a register source whose writes are pending: the scoreboard holds the instruction (R47). -/
def State.tilePending (s : State) (g : Gang) (w : Word) : List Nat :=
  if asrcOf w = 0 then s.pendingRegs g.id ((List.range (2047 / (4 * g.slices.length) + 1)).map (vbaseOf w + ·)) else []
/-- The checks of MXA and MXA.SOLO that need no memory; `crew` adds those of R323. DESIGN CHOICE (log 68): a malformed B address and an A
offset that is not 64-byte aligned, for which R405 names no case, take 0x09 INFO 6. -/
def mxaCheck (x : MxaForm) (crew : Bool) (s : State) (g : Gang) (_ : Nat) (sl : Slice) : Option (Nat × Nat) :=
  let w := sl.reg (2 * x.d.val)
  let last := vbaseOf w + 2047 / (4 * g.slices.length)
  match s.blockOf g.id, s.gridOf g.id with
  | some b, some gr =>
    if asrcOf w = 0 && last ≥ 32 * gr.record.regs then some (0x04, last)
    else if crew && !(2 ≤ popcount 32 g.crew.toNat && popcount 32 g.crew.toNat ≤ 6 && g.crew.toNat < 2 ^ gr.record.gangs &&
        bit g.crew g.id.num) then some (0x09, 5)
    else if operandWordBad w || bAddressBad (sl.reg x.b.val) then some (0x09, 6)
    else if asrcOf w = 1 && (sl.reg (2 * x.d.val + 1)).toNat % 64 ≠ 0 then some (0x09, 6)
    else if asrcOf w = 2 && sslotOf w = dslotOf w then some (0x09, 7)
    else if (sl.reg x.a.val).toNat % 64 ≠ 0 then some (0x09, 8)
    else match if asrcOf w = 0 then g.badTile (vbaseOf w) else none with
    | some n => some (0x62, n)
    | none => match s.slotForeign b (dslotOf w) with
      | some c => some c
      | none => if asrcOf w = 2 then s.slotSource b (sslotOf w) else none
  | _, _ => some (0x05, 1)

/-- What the instruction leaves issue with: its member record, or how it does not. -/
inductive Operands where
  | ok (s : State) (m : LatchMember)
  | out (x : Issued)

/-- Reads the format block (R315) and, for a register source, A, once, at issue. -/
def mxaOperands (x : MxaForm) (s : State) (g : Gang) (i : Nat) (sl : Slice) (words : List Word) : Operands :=
  let d0 := sl.reg (2 * x.d.val)
  let trap (s : State) (c i' : Nat) : Operands := .out (s.refuse g i c i' words)
  match s.engineReadAll g.id 1 (sl.reg x.a.val).toNat 64 with
  | (s, .fault f) => .out (s.refuseRead g i f words)
  | (s, .ok fb) =>
    if !formatOk fb (asrcOf d0) then trap s 0x41 0
    else if asrcOf d0 = 2 && cblkOf d0 ≥ 256 / tileK (tileHalf fb 0).fmt then trap s 0x09 6
    else .ok s ⟨g.id.num, d0, sl.reg (2 * x.d.val + 1), sl.reg x.a.val, sl.reg x.b.val, sl.pc, fb, words,
      if asrcOf d0 = 0 then g.tileRegs (vbaseOf d0) else []⟩
  | (s, _) => .out (.wait s .fetch)

/-- A member of a tile operation from its record. -/
def LatchMember.tile (m : LatchMember) : TileMember :=
  { gang := m.gang, slot := dslotOf m.d0, asrc := asrcOf m.d0, aAddr := m.d1.toNat, sslot := sslotOf m.d0, cblk := cblkOf m.d0,
    regA := m.slotA, fmtBlock := m.fmtBlock, words := m.words }

/-- Outstanding tile operations of a gang (R190). -/
def tileRoom : Nat := 63
/-- t rises for the next operation. -/
def State.raiseT (s : State) (gid : GangId) (id : Nat) : State :=
  match s.gang? gid with
  | some g => s.setGang { g with tq := g.tq.raise id }
  | none => s
/-- An operation is performed: t falls when it is the oldest, or when the older ones have been performed (R190). -/
def State.lowerT (s : State) (gid : GangId) (id : Nat) : State :=
  match s.gang? gid with
  | some g => s.setGang { g with tq := g.tq.finish id }
  | none => s
/-- A gang issues a tile operation of its own. -/
def State.addTile (s : State) (gid : GangId) (i : Nat) (words : List Word) (k : OpKind) : State :=
  (s.raiseT gid s.nextOp).addOp gid i words k

def mxaSoloRun (x : MxaForm) (s : State) (g : Gang) (i : Nat) (sl : Slice) (words : List Word) : Issued :=
  if g.t ≥ tileRoom then .wait s .counterSpace
  else if !(s.tilePending g (sl.reg (2 * x.d.val))).isEmpty then .wait s (.operands (s.tilePending g (sl.reg (2 * x.d.val))))
  else match mxaOperands x s g i sl words, g.id.block? with
    | .out r, _ => r
    | .ok s m, some b => .ok ((s.claimSlot b (dslotOf m.d0)).addTile g.id i words (.tile (.product true [m.tile] m.b)))
    | .ok s _, none => .ok s
def execMxaSolo (x : MxaForm) (s : State) : Outcome := engineInstr s x.g false true false (mxaCheck x false) (mxaSoloRun x)

/-! ## The rendezvous latch (R323, R407) -/

/-- Latch entries of a block (R323). -/
def latchRoom : Nat := 4
/-- The entry of a key once a record has entered it; it is opened where no entry has the key. -/
def latchWith (key : Word) (m : LatchMember) (l : List LatchEntry) : LatchEntry :=
  match l.find? fun e => e.key == key with
  | some e => { e with members := e.members ++ [m] }
  | none => ⟨key, [m]⟩
/-- Puts an entry in the place of the one with its key, or last. -/
def putLatch (e : LatchEntry) : List LatchEntry → List LatchEntry
  | [] => [e]
  | o :: l => if o.key = e.key then e :: l else o :: putLatch e l
/-- Why an entry fails: INFO of cause 0x0E. -/
def State.latchBad (s : State) (x : Block) (e : LatchEntry) : Option Nat :=
  let listed := setBits 32 e.key.toNat
  let gone (n : Nat) : Bool := match s.gang? (.compute x.id n) with | some g => g.exited | none => true
  match e.members with
  | [] => none
  | f :: ms =>
    if listed.any gone then some 1
    else if ms.any fun m => m.pc != f.pc || m.b != f.b || m.fmtBlock.drop 32 != f.fmtBlock.drop 32 then some 2
    else if x.latch.any fun o => o.key != e.key && o.members.any fun m => listed.contains m.gang then some 3
    else none
/-- The block's latch holds an entry. -/
def State.setLatch (s : State) (bid : BlockId) (e : LatchEntry) : State :=
  match s.block? bid with
  | some x => s.setBlock { x with latch := putLatch e x.latch }
  | none => s
/-- Frees an entry; members that wait for a free entry re-execute. -/
def State.freeLatch (s : State) (bid : BlockId) (key : Word) : State :=
  match s.block? bid with
  | some x =>
    let s := s.setBlock { x with latch := x.latch.filter fun e => e.key != key }
    (s.blockGangs bid).foldl (fun s g => s.setGang (g.mapPart 255 fun _ sl =>
      if sl.wait = some .latchEntry then { sl with wait := none } else sl)) s
  | none => s
/-- Every recorded member of an entry traps, before any slot changes. -/
def State.failLatch (s : State) (bid : BlockId) (e : LatchEntry) (info : Nat) : State :=
  e.members.foldl (fun s m => s.takeTrap (.compute bid m.gang) (TrapInfo.plain 0x0E info 4 0 m.words)) (s.freeLatch bid e.key)
/-- A member that waited in the latch goes on past its MXA. -/
def State.leaveLatch (s : State) (gid : GangId) : State :=
  match s.gang? gid with
  | some g => match g.partWait g.full with
    | some .latch => s.setGang ((g.setWait g.full none).runPart g.full fun _ sl => sl.advance 4)
    | _ => s
  | none => s
/-- The crew's one tile operation: t rises for every member, each of which goes on. -/
def State.crewIssue (s : State) (gid : GangId) (bid : BlockId) (i : Nat) (words : List Word) (e : LatchEntry) : State :=
  let ms := (setBits 32 e.key.toNat).filterMap fun n => (e.members.find? fun m => m.gang == n).map (·.tile)
  let id := s.nextOp
  let s := (s.freeLatch bid e.key).addOp gid i words (.tile (.product false ms ((e.members.headD ⟨0, 0, 0, 0, 0, 0, [], [], []⟩).b)))
  e.members.foldl (fun s m => (s.raiseT (.compute bid m.gang) id).leaveLatch (.compute bid m.gang)) s

/-- Whether a crew's operation issues now: every listed gang is recorded, and in deterministic operation the slot is that of the
highest-numbered member (R361). -/
def State.crewReady (s : State) (gid : GangId) (e : LatchEntry) : Bool :=
  ((setBits 32 e.key.toNat).all fun n => e.members.any fun m => m.gang == n) &&
    (!s.determ gid || (setBits 32 e.key.toNat).all (· ≤ gid.num))
/-- In a member's commit slot: the crew that waits for the slot issues (R361). -/
def State.crewSlot (s : State) (gid : GangId) : State :=
  match s.blockOf gid with
  | none => s
  | some b => match b.latch.find? fun e => s.crewReady gid e && e.members.any fun m => m.gang == gid.num with
    | some e => s.crewIssue gid b.id 0 ((e.members.headD ⟨0, 0, 0, 0, 0, 0, [], [], []⟩).words) e
    | none => s

/-- The member's record enters the latch once its checks are passed: a member that fails it changes no slot (R401, R407). -/
def mxaRun (x : MxaForm) (s : State) (g : Gang) (i : Nat) (sl : Slice) (words : List Word) : Issued :=
  if g.t ≥ tileRoom then .wait s .counterSpace
  else if !(s.tilePending g (sl.reg (2 * x.d.val))).isEmpty then .wait s (.operands (s.tilePending g (sl.reg (2 * x.d.val))))
  else match s.blockOf g.id with
    | none => .ok s
    | some b =>
      if b.latch.length ≥ latchRoom && !b.latch.any fun e => e.key == g.crew then .wait s .latchEntry
      else match mxaOperands x s g i sl words with
        | .out r => r
        | .ok s m =>
          let e := latchWith g.crew m b.latch
          match s.latchBad b e with
          | some info => .trapped (s.failLatch b.id e info)
          | none =>
            let s := (s.claimSlot b.id (dslotOf m.d0)).setLatch b.id e
            if s.crewReady g.id e then .ok (s.crewIssue g.id b.id i words e) else .wait s .latch
def execMxa (x : MxaForm) (s : State) : Outcome := engineInstr s x.g false true true (mxaCheck x true) (mxaRun x)

/-- R407: a listed gang is gone: every entry of its block that lists it fails. -/
def State.latchGone (s : State) (gid : GangId) : State :=
  match s.blockOf gid with
  | some b => (b.latch.filter fun e => bit e.key gid.num).foldl (fun s e => s.failLatch b.id e 1) s
  | none => s

/-! ## MXZ and MXLD (R326) -/

/-- The slot word of MXZ and MXLD, and MXLD's source offset. -/
def slotWordCheck (d : Nat) (src : Option Nat) (s : State) (g : Gang) (_ : Nat) (sl : Slice) : Option (Nat × Nat) :=
  if fieldNat (sl.reg d) 5 27 ≠ 0 then some (0x09, 6)
  else if (match src with | some a => (sl.reg a).toNat % 64 != 0 | none => false) then some (0x09, 8)
  else (s.blockOf g.id).bind fun b => s.slotForeign b (fieldNat (sl.reg d) 0 5)
/-- Issues a tile operation on one slot. -/
def slotRun (mk : Slice → TileOp) (d : Nat) (s : State) (g : Gang) (i : Nat) (sl : Slice) (words : List Word) : Issued :=
  if g.t ≥ tileRoom then .wait s .counterSpace
  else match g.id.block? with
    | some b => .ok ((s.claimSlot b (fieldNat (sl.reg d) 0 5)).addTile g.id i words (.tile (mk sl)))
    | none => .ok s
def mxzRun (d : Fin 31) : State → Gang → Nat → Slice → List Word → Issued := slotRun (fun sl => .zero (fieldNat (sl.reg d.val) 0 5)) d.val
def mxldRun (d a : Fin 31) : State → Gang → Nat → Slice → List Word → Issued :=
  slotRun (fun sl => .load (fieldNat (sl.reg d.val) 0 5) (sl.reg a.val).toNat) d.val
def execMxz (gd : Guard) (d : Fin 31) (s : State) : Outcome := engineInstr s gd false true false (slotWordCheck d.val none) (mxzRun d)
def execMxld (gd : Guard) (d a : Fin 31) (s : State) : Outcome :=
  engineInstr s gd false true false (slotWordCheck d.val (some a.val)) (mxldRun d a)

/-! ## Element values (R122 to R124, R131) -/

/-- The codes of one row or line: 32 words of packed elements (R114). -/
def rowCodes (fmt : Nat) (bs : List Byte) : List Nat := (wordsOfBytes 32 bs).flatMap (elems (fmtWidth fmt))
/-- An element before its scale. -/
def elemVal (fmt c : Nat) : FVal :=
  if fmt = 2 then let v := signedOf 8 c; .fin (v < 0) v.natAbs 0 else decodeF (floatFmt fmt) c
/-- R122, R124: an element under its block scale; a zero scale makes it zero. -/
def scaled (kind code : Nat) (v : FVal) : FVal :=
  if kind = 0 then v
  else match scaleVal kind code with
    | .nan => .nan
    | sc => if sc.isZero then .fin false 0 0 else sc.mul v
/-- One row: its values, and the outlier entries left after its escapes. -/
def rowVals (h : TileHalf) (codes : List Nat) (scales : List Byte) (outs : List Nat) : List FVal × List Nat :=
  (codes.zipIdx).foldl (fun (st : List FVal × List Nat) p =>
    if h.banded && p.1 = 8 then (st.1 ++ [decodeF (floatFmt 5) (st.2.headD 0)], st.2.drop 1)
    else (st.1 ++ [scaled h.scale (scales.getD (p.2 / h.blk) 0).toNat (elemVal h.fmt p.1)], st.2)) ([], outs)
/-- Every row in scan order: the escapes consume the list from entry 0 upward. -/
def tileVals (h : TileHalf) (rows : List (List Nat)) (per : Nat) (scales : List Byte) (outs : List Nat) : List (List FVal) :=
  ((rows.zipIdx).foldl (fun (st : List (List FVal) × List Nat) p =>
    let r := rowVals h p.1 ((scales.drop (per * p.2)).take per) st.2
    (st.1 ++ [r.1], r.2)) ([], outs)).1

/-- The values of an operand, or what stops it. -/
inductive TileVals where
  | ok (rows : List (List FVal))
  | fault (f : AccFault)
  | wait

/-- The values of an operand whose `n` rows are given as bytes: scales and outliers are read from LOC (R318); `side` is 0 for A
and 1 for B, `gid` the gang that an overrun names; the entries are consumed in order, so one that faults comes before the overrun
(R434). DESIGN CHOICE (log 68): an outlier list that is not 2-byte aligned faults with 0x15 when an entry of it is read. -/
def State.operandVals (s : State) (g : GangId) (h : TileHalf) (n : Nat) (bs : List Byte) (side gid : Nat) : State × TileVals :=
  let rows := (List.range n).map fun i => rowCodes h.fmt ((bs.drop (128 * i)).take 128)
  let per := if h.scale = 0 then 0 else tileK h.fmt / h.blk
  match if per = 0 then (s, EngAcc.ok []) else s.engineReadAll g 1 h.scaleAddr (n * per) with
  | (s, .fault f) => (s, .fault f)
  | (s, .ok scales) =>
    let esc := if h.banded then (rows.map fun r => (r.filter (· == 8)).length).sum else 0
    let r := (List.range (Nat.min esc h.cap)).foldl (fun (st : State × List Nat × Option EngAcc) k => match st.2.2 with
      | some _ => st
      | none => match st.1.engineRead g 1 (h.out + 2 * k) 2 with
        | (s, .ok x) => (s, st.2.1 ++ [ofLeBytes x], none)
        | (s, x) => (s, st.2.1, some x)) (s, [], none)
    match r.2.2 with
    | some (.fault f) => (r.1, .fault f)
    | some _ => (r.1, .wait)
    | none =>
      if h.cap < esc then (r.1, .fault ⟨0x42, side + 8 * gid, 1, h.out + 2 * h.cap⟩)
      else (r.1, .ok (tileVals h rows per scales r.2.1))
  | (s, _) => (s, .wait)

/-- R321, R131: A from columns cK to cK + K − 1 of a slot. -/
def State.slotVals (s : State) (g : GangId) (h : TileHalf) (w : WordMap) (c : Nat) : State × TileVals :=
  let k := tileK h.fmt
  let row (i : Nat) : List FVal := (List.range k).map fun j => decodeF (floatFmt 4) (w.get (256 * i + c * k + j)).toNat
  if h.fmt ≠ 9 then
    let f := floatFmt h.fmt
    (s, .ok ((List.range 64).map fun i => (row i).map fun x => decodeF f (encodeF f 0 true true 0 x)))
  else
    match if h.band = 0 then (s, EngAcc.ok [0x80, 0x3F]) else s.engineRead g 1 h.band 2 with
    | (s, .fault f) => (s, .fault f)
    | (s, .ok bs) =>
      let band := decodeF (floatFmt 5) (ofLeBytes bs)
      let blocks (r : List FVal) : List FVal :=
        (List.range (k / h.blk)).flatMap fun b => downBlock h.scale band ((r.drop (h.blk * b)).take h.blk)
      (s, .ok ((List.range 64).map fun i => blocks (row i)))
    | (s, _) => (s, .wait)

/-- The values of a member's A. -/
def State.memberVals (s : State) (bid : BlockId) (m : TileMember) : State × TileVals :=
  let g : GangId := .compute bid m.gang
  let h := tileHalf m.fmtBlock 0
  match m.asrc with
  | 2 => s.slotVals g h (s.slotMap bid m.sslot) m.cblk
  | 0 => s.operandVals g h 64 (bytesOfWords m.regA) 0 m.gang
  | _ => match s.engineReadAll g 1 m.aAddr 8192 with
    | (s, .fault f) => (s, .fault f)
    | (s, .ok bs) => s.operandVals g h 64 bs 0 m.gang
    | (s, _) => (s, .wait)

/-! ## Sums (R135 to R139) -/

/-- The exact products of K-group `n` of a row and a line. -/
def groupProducts (a b : List FVal) (n : Nat) : List FVal :=
  let q := a.length / 4
  List.zipWith FVal.mul ((a.drop (q * n)).take q) ((b.drop (q * n)).take q)
/-- The integer sum of exact integer products (R137). -/
def intSum (ps : List FVal) : Int := ps.foldl (fun acc p => match p with
  | .fin n m _ => if n then acc - m else acc + m
  | _ => acc) 0
/-- One element of D after the four groups of a row and a line. -/
def tileElem (int : Bool) (d : Word) (a b : List FVal) : Word :=
  (List.range 4).foldl (fun d n =>
    let ps := groupProducts a b n
    if int then BitVec.ofNat 32 (narrow 32 true true (signedOf 32 d.toNat + intSum ps)) else fadd32 d (groupSum ps)) d
/-- D + A · B as a whole slot. -/
def tileProduct (int : Bool) (d : WordMap) (a b : List (List FVal)) : WordMap :=
  { d with cells := (List.range 16384).map fun e => (e, tileElem int (d.get e) (a.getD (e / 256) []) (b.getD (e % 256) [])) }
/-- Whether a group is checked by residues: every product finite (R139). -/
def groupChecked (a b : List FVal) (n : Nat) : Bool := (groupProducts a b n).all fun p => match p with | .fin _ _ _ => true | _ => false

/-! ## Engines (R322, R324, R465, R471) -/

/-! ## A tile operation (R325) -/

/-- Whether an earlier operation of the block on one of the slots is still to be performed (R325). -/
def State.slotBusy (s : State) (o : EngineOp) : Bool :=
  s.ops.any fun x => x.id < o.id && !x.complete && x.gang.block? == o.gang.block? && x.kind.slots.any fun k => o.kind.slots.contains k
/-- The gangs whose t counts an operation, with the words and the slice that a trap of each names. -/
def EngineOp.members (o : EngineOp) : List (GangId × List Word × Nat) :=
  match o.kind, o.gang with
  | .tile (.product _ ms _), .compute b _ => ms.map fun m => (.compute b m.gang, m.words, o.slice)
  | _, g => [(g, o.words, o.slice)]
/-- Removes an operation that no batch holds; t falls for its members. -/
def State.endTile (s : State) (o : EngineOp) : State :=
  let s := { s.countSent o.gang 0 1 with ops := s.ops.filter fun x => x.id != o.id }
  o.members.foldl (fun s m => s.lowerT m.1 o.id) s
/-- The uncorrectable error that an operation meets in bytes of a slot (R440). -/
def State.slotError (s : State) (bid : BlockId) (slot off n : Nat) : Option AccFault :=
  match s.poisonHits (.acc bid slot off) n with
  | ([], _) => none
  | (q :: _, _) => some ⟨0x64, 0, 5, slot * 2 ^ 16 + 4 * q.2.2.1 % 2 ^ 16⟩
/-- A slot written whole holds no error any longer. -/
def State.fillSlot (s : State) (bid : BlockId) (slot : Nat) (w : WordMap) : State :=
  (s.poisonCheck (.acc bid slot 0) 65536 true).1.setSlot bid slot w
/-- An operation stops: every member traps (R325, R434, R464). -/
def State.trapMembers (s : State) (o : EngineOp) (src : Nat) (f : AccFault) : State :=
  o.members.foldl (fun s m => s.takeTrap m.1 ⟨f.cause, src, m.2.2, f.info, 0, some (f.space, f.addr), 0, m.2.1⟩) s
def State.failTile (s : State) (o : EngineOp) (src : Nat) (f : AccFault) : State := (s.endTile o).trapMembers o src f

/-- Whether a tile operation or drain may be performed: its block is dispatched, an operation that failed its residue check waits
until the block runs again (R464), and no earlier operation holds a slot. -/
def State.tileDue (s : State) (o : EngineOp) : Bool :=
  !o.complete && !s.slotBusy o &&
  match s.blockOf o.gang with
  | some b => o.fault.isNone || (b.state == .running && !b.integrity)
  | none => false

/-- A residue failure: the engine becomes suspect and a forced pass starts; no slot is written (R464, R465). -/
def State.residueFail (s : State) (o : EngineOp) (b : Block) (e grp slot row col : Nat) : State :=
  let u := 4 * b.core + e
  let s := ((s.count b.die 0x7070).trtSet b.die u fun fe _ fs f p => trtEntry fe true fs f p).startPass b.die u false false
  let f : AccFault := ⟨0x60, e + 4 * grp, 5, slot * 2 ^ 16 + 1024 * row + 4 * col⟩
  (s.setOp { o with fault := some ⟨f.cause, 2, o.slice, f.info, 0, some (f.space, f.addr), 0, o.words⟩ }).trapMembers o 2 f

/-- The failing element of a product that a free value names, where its group is checked: engine, group, slot, row, column
(log 23). -/
def State.residueHit (s : State) (blk : Block) (solo : Bool) (ms : List TileMember) (as : List (List (List FVal))) (b : List (List FVal)) :
    Option (Nat × Nat × Nat × Nat × Nat) :=
  match Config.upset s.clock with
  | none => none
  | some (k, grp, row, col) =>
    let k := k % ms.length
    let grp := grp % 4
    let row := row % 64
    let col := col % 256
    match ms[k]? with
    | none => none
    | some m =>
      if groupChecked ((as.getD k []).getD row []) (b.getD col []) grp then
        (s.engineFor blk solo m.slot k row).map fun e => (e, grp, m.slot, row, col)
      else none

/-- The product of every member: B is read once; an operand that faults or overruns leaves every slot unchanged. -/
def State.tileProductRun (s : State) (o : EngineOp) (blk : Block) (solo : Bool) (ms : List TileMember) (bw : Word) : State :=
  let g0 : GangId := .compute blk.id ((ms.map (·.gang)).foldl Nat.min 31)
  let hb := match ms with | m :: _ => tileHalf m.fmtBlock 1 | [] => tileHalf [] 1
  let rb := match if bit bw 31 then s.engineReadAll g0 3 (fieldNat bw 0 29) 32768 else s.engineReadAll g0 1 (fieldNat bw 0 28) 32768 with
    | (s, .ok bs) => s.operandVals g0 hb 256 bs 1 g0.num
    | (s, .fault f) => (s, .fault f)
    | (s, _) => (s, .wait)
  match rb with
  | (s, .fault f) => s.failTile o 2 f
  | (s, .wait) => s
  | (s, .ok b) =>
    let ra := ms.foldl (fun (st : State × List (List (List FVal)) × Option TileVals) m => match st.2.2 with
      | some _ => st
      | none => match st.1.memberVals blk.id m with
        | (s, .ok a) => (s, st.2.1 ++ [a], none)
        | (s, x) => (s, st.2.1, some x)) (s, [], none)
    match ra.2.2 with
    | some (.fault f) => ra.1.failTile o 2 f
    | some _ => ra.1
    | none =>
      let s := ra.1
      match s.residueHit blk solo ms ra.2.1 b with
      | some (e, grp, slot, row, col) => s.residueFail o blk e grp slot row col
      | none =>
        let new := (ms.zip ra.2.1).map fun p => (p.1.slot, tileProduct (hb.fmt == 2) (s.slotMap blk.id p.1.slot) p.2 b)
        (new.foldl (fun s p => s.setSlot blk.id p.1 p.2) s).endTile o

/-- TILE_OPERATION_COMPLETE: the whole effect of one operation on its slots; it waits while no engine takes work. -/
def execTileOperationComplete (op : Nat) (s : State) : Outcome :=
  match s.op? op with
  | none => .next s
  | some o => match o.kind, s.blockOf o.gang with
    | .tile t, some blk =>
      if !s.tileDue o || (s.engines blk.die blk.core).isEmpty then .next s
      else match t with
        | .zero k => .next ((s.fillSlot blk.id k WordMap.zero).endTile o)
        | .load k a => match s.engineReadAll o.gang 1 a 65536 with
          | (s, .ok bs) => .next ((s.fillSlot blk.id k ⟨.zero, (wordsOfBytes 16384 bs).zipIdx.map fun p => (p.2, p.1)⟩).endTile o)
          | (s, .fault f) => .next (s.failTile o 2 f)
          | (s, _) => .next s
        | .product solo ms b => match o.kind.slots.findSome? fun k => s.slotError blk.id k 0 65536 with
          | some f => .next (s.failTile o 2 f)
          | none => .next (s.tileProductRun o blk solo ms b)
    | _, _ => .next s

end Sys2Proof.Machine
end

