-- ==== Sys2Proof/Machine/Epilogue.lean ====
section
/-! DEFINITION. Draining: MXST, EPLD and the twelve epilogue words (R138, R191, R192, R327 to R335). -/
namespace Sys2Proof.Machine

/-! ## Programs (R192, R334) -/

/-- The words of a program up to its first EEND, or the index of the first refused word, 32 where no EEND is found. -/
def checkProgram : Nat → List Word → Except Nat (List Word)
  | _, [] => .error 32
  | k, w :: ws => match decodeEpi w with
    | none => .error k
    | some .eend => .ok [w]
    | some _ => match checkProgram (k + 1) ws with
      | .ok l => .ok (w :: l)
      | .error e => .error e
/-- Whether a program holds an ESCL word (R327). -/
def usesBands (ws : List Word) : Bool := ws.any fun w => match decodeEpi w with | some (.escl _ _) => true | _ => false

/-! ## MXST (R327) -/

def mxstCheck (d a : Pair) (s : State) (g : Gang) (_ : Nat) (sl : Slice) : Option (Nat × Nat) :=
  let w := sl.reg (2 * d.val)
  if fieldNat w 7 25 ≠ 0 then some (0x09, 6)
  else match (s.blockOf g.id).bind fun b => s.slotSource b (fieldNat w 0 5) with
    | some c => some c
    | none => if !bit w 6 && sl.pair a % 128 ≠ 0 then some (0x09, 8) else none

/-- The drain that an MXST hands over, its band addresses zero. -/
def drainOf (d : Pair) (b : Group) (sl : Slice) (prog : List Word) : DrainOp :=
  let w := sl.reg (2 * d.val)
  { slot := fieldNat w 0 5, raw := bit w 6, zero := bit w 5, prog := prog,
    params := (List.range 4).map fun i => sl.reg (4 * b.val + i), aband := 0, bband := 0, row := 0, word := 0,
    x := WordMap.zero, pend := [] }
def State.addDrain (s : State) (g : Gang) (i : Nat) (words : List Word) (x : DrainOp) : State :=
  s.addTile g.id i words (.drain x)

/-- ABANDADDR and BBANDADDR of a format block, and no other field of it (R327). -/
def State.bandFields (s : State) (g : GangId) (fb : Nat) : State × Nat × EngAcc :=
  match s.engineRead g 1 (fb + 8) 4 with
  | (s, .ok a) => let r := s.engineRead g 1 (fb + 0x28) 4; (r.1, ofLeBytes a, r.2)
  | (s, x) => (s, 0, x)
/-- At issue the program is read and checked, and the band addresses where it holds an ESCL word. -/
def mxstRun (d a : Pair) (b : Group) (s : State) (g : Gang) (i : Nat) (sl : Slice) (words : List Word) : Issued :=
  if g.t ≥ tileRoom then .wait s .counterSpace
  else if bit (sl.reg (2 * d.val)) 6 then .ok (s.addDrain g i words (drainOf d b sl []))
  else match s.issueRead g.id 0 (sl.pair a) 128 with
    | (s, .fault f) => s.refuseRead g i f words
    | (s, .ok bs) => match checkProgram 0 (wordsOfBytes 32 bs) with
      | .error k => s.refuse g i 0x43 k words
      | .ok prog =>
        let fb := (sl.reg (2 * d.val + 1)).toNat
        if !usesBands prog then .ok (s.addDrain g i words (drainOf d b sl prog))
        else if fb % 64 ≠ 0 then s.refuse g i 0x09 8 words
        else match s.bandFields g.id fb with
          | (s, _, .fault f) => s.refuseRead g i f words
          | (s, aband, .ok bband) =>
            .ok (s.addDrain g i words { drainOf d b sl prog with aband := aband, bband := ofLeBytes bband })
          | (s, _) => .wait s .fetch
    | (s, _) => .wait s .fetch
def execMxst (gd : Guard) (d a : Pair) (b : Group) (s : State) : Outcome :=
  engineInstr s gd false true false (mxstCheck d a) (mxstRun d a b)

/-! ## EPLD (R334): the epilogue cache holds no state a program can see, so EPLD checks its program and no more -/

def epldCheck (a : Pair) (_ : State) (_ : Gang) (_ : Nat) (sl : Slice) : Option (Nat × Nat) :=
  if sl.pair a % 128 ≠ 0 then some (0x09, 8) else none
def epldRun (a : Pair) (s : State) (g : Gang) (i : Nat) (sl : Slice) (words : List Word) : Issued :=
  if g.t ≥ tileRoom then .wait s .counterSpace
  else .ok (s.addTile g.id i words (.epld (sl.pair a) none))
def execEpld (gd : Guard) (a : Pair) (s : State) : Outcome := engineInstr s gd false true false (epldCheck a) (epldRun a)

/-- A trap of the gang of an operation with no address. -/
def State.trapPlain (s : State) (o : EngineOp) (cause info : Nat) : State :=
  (s.endTile o).takeTrap o.gang (TrapInfo.plain cause info 3 o.slice o.words)
/-- EPLD_CHECK_COMPLETE: the program is read and checked; t falls, and a refused program traps the gang. -/
def execEpldCheckComplete (op : Nat) (s : State) : Outcome :=
  match s.op? op with
  | none => .next s
  | some o => match o.kind with
    | .epld a data =>
      let check (s : State) (bs : List Byte) : Outcome := match checkProgram 0 (wordsOfBytes 32 bs) with
        | .ok _ => .next (s.endTile o)
        | .error k => .next (s.trapPlain o 0x43 k)
      if o.waiting then .next s
      else match o.fault, data with
        | some t, _ => .next ((s.endTile o).takeTrap o.gang t)
        | none, some bs => check s bs
        | none, none => match s.engineReadAll o.gang 0 a 128 with
          | (s, .ok bs) => check s bs
          | (s, .fault f) => .next (s.failTile o 3 f)
          | (s, .remote p) => .next (s.engineSend o p a 0 (.load 128) false)
          | (s, .wait) => .next s
    | _ => .next s

/-! ## A word of a drain (R328) -/

def DrainOp.reg (x : DrainOp) (r j : Nat) : Word := x.x.get (256 * r + j)
/-- x[r] as a function of the column. -/
def DrainOp.setRow (x : DrainOp) (r : Nat) (f : Nat → Word) : DrainOp :=
  { x with x := (List.range 256).foldl (fun (m : WordMap) j => m.set (256 * r + j) (f j)) x.x }
/-- P0 to P3 as LOC offsets. -/
def DrainOp.param (x : DrainOp) (n : Nat) : Nat := (x.params.getD n 0).toNat
/-- Before a row: x0 is the slot's row, x1 to x7 are +0 and nothing is stored yet. -/
def DrainOp.start (x : DrainOp) (slot : WordMap) : DrainOp :=
  if x.word = 0 then
    { x with x := ⟨.zero, (List.range 256).map fun j => (j, slot.get (256 * x.row + j))⟩, pend := [] }
  else x

/-- What a word of the program does to the drain, or the fault that stops it. -/
inductive DrainStep where
  | ok (x : DrainOp)
  | fault (f : AccFault)
  | wait

/-- A meaning that runs for the epilogue unit's drain in progress; a fault stops the drain and traps the gang (R335). -/
def withDrain (s : State) (f : State → EngineOp → DrainOp → State × DrainStep) : Outcome :=
  match s.issue.who with
  | .epilogue op => match s.op? op with
    | some o => match o.kind, o.gang.block? with
      | .drain x, some b => match if x.word = 0 then s.slotError b x.slot (1024 * x.row) 1024 else none with
       | some e => .next (s.failTile o 3 e)
       | none => match f s o (x.start (s.slotMap b x.slot)) with
        | (s, .ok x) => .next (s.setOp { o with kind := .drain { x with word := x.word + 1 } })
        | (s, .fault f) => .next (s.failTile o 3 f)
        | (s, .wait) => .next s
      | _, _ => .fault .noIssuer
    | none => .fault .noIssuer
  | _ => .fault .noIssuer
/-- A word that computes one register from the registers, column by column. -/
def drainMap (s : State) (d : BitVec 3) (f : DrainOp → Nat → Word) : Outcome :=
  withDrain s fun s _ x => (s, .ok (x.setRow d.toNat (f x)))

/-- A misaligned Pn, P3 or column vector (R333). -/
def drainMisaligned (addr : Nat) : AccFault := ⟨0x15, 7, 1, addr⟩
/-- FP32 or BF16 elements of a vector, BF16 widened exactly (R331). -/
def vecElem (bf16 : Bool) (bs : List Byte) (j : Nat) : Word :=
  if bf16 then BitVec.ofNat 32 (fcvtE (floatFmt 4) (floatFmt 5) 0 false 0 (ofLeBytes ((bs.drop (2 * j)).take 2)))
  else BitVec.ofNat 32 (ofLeBytes ((bs.drop (4 * j)).take 4))
/-- Reads `n` bytes of LOC for a drain and goes on with them. -/
def State.drainRead (s : State) (o : EngineOp) (addr n : Nat) (k : List Byte → DrainOp) : State × DrainStep :=
  match s.engineReadAll o.gang 1 addr n with
  | (s, .ok bs) => (s, .ok (k bs))
  | (s, .fault f) => (s, .fault f)
  | (s, _) => (s, .wait)

/-- ELDV (R331): kinds .COLF, .COLB, .ROWF, .ROWB. -/
def execEldv (d : BitVec 3) (n kind : BitVec 2) (off : BitVec 16) (s : State) : Outcome :=
  withDrain s fun s o x =>
    let bf16 := bit kind 0
    let w := if bf16 then 2 else 4
    let base := x.param n.toNat + off.toNat
    if bit kind 1 then
      if base % w ≠ 0 then (s, .fault ⟨0x15, Nat.log2 w, 1, base + w * x.row⟩)
      else s.drainRead o (base + w * x.row) w fun bs => x.setRow d.toNat fun _ => vecElem bf16 bs 0
    else if base % 16 ≠ 0 then (s, .fault (drainMisaligned base))
    else s.drainRead o base (256 * w) fun bs => x.setRow d.toNat fun j => vecElem bf16 bs j

/-- The BF16 band scale at an address; 1 where the address is 0 (R330). -/
def State.bandScale (s : State) (o : EngineOp) (addr k : Nat) : State × EngAcc :=
  if addr = 0 then (s, .ok [0x80, 0x3F]) else s.engineRead o.gang 1 (addr + 2 * k) 2
/-- R138: x × sA × sB exactly, rounded once. -/
def esclValue (x : Word) (sa sb : Nat) : Word :=
  BitVec.ofNat 32 (encodeF (floatFmt 4) 0 false false 0
    (((decodeF (floatFmt 4) x.toNat).mul (decodeF (floatFmt 5) sa)).mul (decodeF (floatFmt 5) sb)))
def execEscl (d a : BitVec 3) (s : State) : Outcome :=
  withDrain s fun s o x =>
    let rs := [(x.aband, 0), (x.bband, 0), (x.bband, 1), (x.bband, 2), (x.bband, 3)].foldl
      (fun (st : State × List Nat × Option EngAcc) p => match st.2.2 with
        | some _ => st
        | none => match st.1.bandScale o p.1 p.2 with
          | (s, .ok bs) => (s, st.2.1 ++ [ofLeBytes bs], none)
          | (s, r) => (s, st.2.1, some r)) (s, [], none)
    match rs.2.2 with
    | some (.fault f) => (rs.1, .fault f)
    | some _ => (rs.1, .wait)
    | none =>
      (rs.1, .ok (x.setRow d.toNat fun j => esclValue (x.reg a.toNat j) (rs.2.1.headD 0) (rs.2.1.getD (1 + j / 64) 0)))

/-- EBIA (R330). -/
def execEbia (d a : BitVec 3) (n : BitVec 2) (bf16 : Bool) (off : BitVec 16) (s : State) : Outcome :=
  withDrain s fun s o x =>
    let w := if bf16 then 2 else 4
    let base := x.param n.toNat + off.toNat
    if base % w ≠ 0 then (s, .fault ⟨0x15, Nat.log2 w, 1, base⟩)
    else s.drainRead o base (256 * w) fun bs => x.setRow d.toNat fun j => fadd32 (x.reg a.toNat j) (vecElem bf16 bs j)

/-- EACT (R332). -/
def execEact (d a : BitVec 3) (f : BitVec 4) (s : State) : Outcome := drainMap s d fun x j => eactE f.toNat (x.reg a.toNat j)
def execEmul (d a b : BitVec 3) (s : State) : Outcome := drainMap s d fun x j => fmul32 (x.reg a.toNat j) (x.reg b.toNat j)
def execEadd (d a b : BitVec 3) (s : State) : Outcome := drainMap s d fun x j => fadd32 (x.reg a.toNat j) (x.reg b.toNat j)
/-- EMAX: the rules of R253. -/
def execEmax (d a b : BitVec 3) (s : State) : Outcome :=
  drainMap s d fun x j => BitVec.ofNat 32 (minMaxF (floatFmt 4) true (x.reg a.toNat j).toNat (x.reg b.toNat j).toNat)

/-- The saturate control of ECVT's bit [4] (R127, R333): inverted for E4M3. -/
def satOf (fmt : Nat) (b : Bool) : Bool := if fmt = 7 then !b else b
/-- ECVT (R333): an element rounded to a format and held in FP32. -/
def ecvtValue (mode : Nat) (sat : Bool) (fmt : Nat) (x : Word) : Word :=
  BitVec.ofNat 32 (fcvtE (floatFmt 4) (floatFmt fmt) 0 false 0
    (fcvtE (floatFmt fmt) (floatFmt 4) mode (satOf fmt sat) 0 x.toNat))
def execEcvt (d a : BitVec 3) (m : BitVec 2) (sat : Bool) (f : BitVec 4) (s : State) : Outcome :=
  drainMap s d fun x j => ecvtValue m.toNat sat f.toNat (x.reg a.toNat j)

/-- Whether a format holds an FP32 element that is an infinity: every one of EST's but E4M3 (R333, R127). -/
def holdsInf (fmt : Nat) (x : Word) : Bool := fmt ≠ 7 && fieldNat x 0 31 == 0x7F800000
/-- Bytes of an element stored in a format: RNE with sat 1 where the format cannot hold it (R333). -/
def storedElem (fmt : Nat) (x : Word) : List Byte :=
  if fmt = 4 then leBytes 4 x.toNat
  else leBytes (fmtWidth fmt / 8) (fcvtE (floatFmt fmt) (floatFmt 4) 0 (!holdsInf fmt x) 0 x.toNat)
/-- EST (R333): the row's elements, dense or at stride P3. -/
def execEst (a : BitVec 3) (n : BitVec 2) (stride : Bool) (f : BitVec 4) (s : State) : Outcome :=
  withDrain s fun s _ x =>
    let w := fmtWidth f.toNat / 8
    let base := x.param n.toNat
    if base % 64 ≠ 0 then (s, .fault (drainMisaligned base))
    else if stride && x.param 3 % 64 ≠ 0 then (s, .fault (drainMisaligned (x.param 3)))
    else
      let at' := base + (if stride then x.param 3 else 256 * w) * x.row
      (s, .ok { x with pend := x.pend ++ [(at', (List.range 256).flatMap fun j => storedElem f.toNat (x.reg a.toNat j))] })
/-- ETRN (R333): the row's elements by columns. -/
def execEtrn (a : BitVec 3) (n : BitVec 2) (f : BitVec 4) (s : State) : Outcome :=
  withDrain s fun s _ x =>
    let w := fmtWidth f.toNat / 8
    let base := x.param n.toNat
    if base % 64 ≠ 0 then (s, .fault (drainMisaligned base))
    else
      let cell (j : Nat) : Nat × List Byte := (base + w * (64 * j + x.row), storedElem f.toNat (x.reg a.toNat j))
      (s, .ok { x with pend := x.pend ++ (List.range 256).map cell })
def execEnop (s : State) : Outcome := withDrain s fun s _ x => (s, .ok x)

/-! ## The stores of a row (R327, R333, R335) -/

/-- The pieces of a list of stores. -/
def storePieces (l : List (Nat × List Byte)) : List (Nat × List Byte) :=
  l.flatMap fun p => (pieces 16 p.2.length p.1 p.2.length).map fun q => (q.1, (p.2.drop (q.1 - p.1)).take q.2)
/-- The first fault among the stores of a row, found before any of them is performed (R335). -/
def State.storeFault (s : State) (g : GangId) (l : List (Nat × List Byte)) : Option AccFault :=
  l.findSome? fun p => match (s.issuedLocate g .store 1 p.1 p.2.length).2 with
    | .fault f => some { f with addr := p.1 }
    | .ok q => (s.poisonCheck q p.2.length true).2.map fun c => ⟨c.1, c.2, 1, p.1⟩
    | .wait _ => none
/-- Performs a row's stores, or stops. -/
def State.storeRow (s : State) (o : EngineOp) (l : List (Nat × List Byte)) : State × Option AccFault :=
  let l := storePieces l
  match s.storeFault o.gang l with
  | some f => (s, some f)
  | none => (l.foldl (fun s p => (s.engineWrite o .store 1 p.1 p.2.length (.store p.2) false).1) s, none)

/-- EEND: the row's stores are performed, and the next row begins. -/
def execEend (s : State) : Outcome :=
  match s.issue.who with
  | .epilogue op => match s.op? op with
    | some o => match o.kind, o.gang.block? with
      | .drain x, some b =>
        let x := x.start (s.slotMap b x.slot)
        match s.storeRow o x.pend with
        | (s, some f) => .next (s.failTile o 3 f)
        | (s, none) => match s.op? op with
          | some o => .next (s.setOp { o with kind := .drain { x with row := x.row + 1, word := 0, pend := [] } })
          | none => .next s
      | _, _ => .fault .noIssuer
    | none => .fault .noIssuer
  | _ => .fault .noIssuer

/-- The bytes of a row of a slot as FP32. -/
def slotRowBytes (w : WordMap) (i : Nat) : List Byte := accBytes w (1024 * i) 1024
/-- The rows of a RAW drain in ascending order, until one faults; they are FP32 elements, so P0 is 4-byte aligned (R56). -/
def State.rawRows (s : State) (o : EngineOp) (p0 : Nat) (w : WordMap) : State × Option AccFault :=
  if p0 % 4 ≠ 0 then (s, some ⟨0x15, 2, 1, p0⟩)
  else (List.range 64).foldl (fun (st : State × Option AccFault) i => match st.2 with
    | some _ => st
    | none => st.1.storeRow o [(p0 + 1024 * i, slotRowBytes w i)]) (s, none)

/-- Whether a drain has run its program on every row. -/
def DrainOp.done (x : DrainOp) : Bool := x.raw || x.row ≥ 64
/-- DRAIN_COMPLETE: a RAW drain's rows are stored; the slot is zeroed where ZERO is 1, and t falls. -/
def execDrainComplete (op : Nat) (s : State) : Outcome :=
  match s.op? op with
  | none => .next s
  | some o => match o.kind, o.gang.block? with
    | .drain x, some b =>
      if !x.done || !s.tileDue o then .next s
      else
        let r := if !x.raw then (s, none)
          else match s.slotError b x.slot 0 65536 with
            | some f => (s, some f)
            | none => s.rawRows o (x.param 0) (s.slotMap b x.slot)
        match r with
        | (s, some f) => .next (s.failTile o 3 f)
        | (s, none) => .next ((if x.zero then s.fillSlot b x.slot WordMap.zero else s).endTile o)
    | _, _ => .next s

end Sys2Proof.Machine
end

