-- ==== Sys2Proof/Machine/Gather.lean ====
section
/-! DEFINITION. The gather path: GATH and SCAD at issue, the sluice, the row engines and the merge of replies (R105 to R111, R310 to
R313, R374, R375, R456, R457). -/
namespace Sys2Proof.Machine

/-! ## Table descriptors (R105, R106) -/

/-- Bits [lo + n - 1 : lo] of a descriptor. -/
def descField (d : List Byte) (lo n : Nat) : Nat := ofLeBytes d / 2 ^ lo % 2 ^ n
def descFmt (d : List Byte) : Nat := descField d 320 4
def descRowBytes (d : List Byte) : Nat := descField d 288 16
def descRowCount (d : List Byte) : Nat := descField d 128 32
def descNp (d : List Byte) : Nat := descField d 336 9 + 1
def descTable (d : List Byte) : Nat := descField d 384 16
def descDies (d : List Byte) : List Nat := setBits 12 (descField d 352 12)

/-- R105: the fields of a descriptor are in their ranges and its reserved bits zero. DESIGN CHOICE (log 68): one whose DIES names no home die
is a bad descriptor too. -/
def descOk (d : List Byte) : Bool :=
  descField d 496 16 == 1 &&
  [(400, 96), (364, 20), (345, 7), (329, 7), (304, 16), (240, 16), (160, 32), (120, 8), (56, 8)].all (fun p => descField d p.1 p.2 == 0) &&
  descTable d < 1024 && !(descDies d).isEmpty && descField d 324 5 ≤ 16 &&
  (descFmt d == 0 || (4 ≤ descFmt d && descFmt d ≤ 8)) &&
  descRowBytes d % 16 == 0 && 16 ≤ descRowBytes d && descRowBytes d ≤ 4096 &&
  descField d 256 32 % 16 == 0 && descRowBytes d ≤ descField d 256 32 && descField d 192 48 % 0x10000 == 0 && 1 ≤ descRowCount d

/-- A registry entry: low word DESCPA, high word V and the context. -/
def State.tableReg (s : State) (i : Nat) : DWord × DWord := (s.devGet 12 (0x10000 + 16 * i), s.devGet 12 (0x10008 + 16 * i))
/-- Whether this package has registered a descriptor under its TABLEID (R106). -/
def State.registered (s : State) (d : List Byte) : Bool :=
  let e := s.tableReg (descTable d)
  bit e.2 63 && s.mem.read (fieldNat e.1 0 52) 64 == d
/-- The context of a registered table. -/
def State.tableCtx (s : State) (d : List Byte) : Nat × Nat :=
  let e := s.tableReg (descTable d)
  (fieldNat e.2 49 4, fieldNat e.2 48 1)

/-! ## The home of a row (R107) -/

/-- q of a row. -/
def rowQ (d : List Byte) (r : Nat) : Nat := r / 2 ^ descField d 324 5
/-- Its home package's place in the package list. -/
def rowPkg (d : List Byte) (r : Nat) : Nat := rowQ d r % descNp d
/-- Its home die and address. -/
def rowHome (d : List Byte) (r : Nat) : Nat × Nat :=
  let nd := (descDies d).length
  let j := rowQ d r / descNp d % nd
  let g := 2 ^ descField d 324 5
  let loc := rowQ d r / (descNp d * nd) * g + r % g
  ((descDies d).getD j 0, descField d 0 56 + j * descField d 192 48 + loc * descField d 256 32)

/-! ## Issue (R310, R311) -/

/-- A window address of a block's own partition at an offset (R61). -/
def ownAddr (rank off : Nat) : Nat := rank % 16 * 2 ^ 23 + off
/-- The control word of GATH and SCAD for `n` positions of a format (R109, R310). -/
def gatherControlOk (scad : Bool) (cw : Word) (fmt : Nat) : Bool :=
  let n := fieldNat cw 0 10 + 1
  let mode := fieldNat cw 10 2
  let g := 2 ^ fieldNat cw 12 4
  (fieldNat cw 30 2 == 0 || fieldNat cw 30 2 == 2) && fieldNat cw 16 14 == 0 && mode != 3 && n ≤ 512 &&
  (if scad then mode == 0 && g == 1 else if mode == 0 then g == 1 else 2 ≤ g && n % g == 0) &&
  (!(scad || mode != 0) || (4 ≤ fmt && fmt ≤ 8))

/-- GATH and SCAD at issue: the steps of R311 in order. -/
def gatherRun (x : GathForm) (scad : Bool) (s : State) (g : Gang) (i : Nat) (sl : Slice) (words : List Word) : Issued :=
  let b := 4 * x.b.val
  let handle := sl.pair x.a
  let cw := sl.reg b
  let fault (s : State) (f : AccFault) : Issued := s.refuseRead g i f words
  if handle % 64 ≠ 0 then s.refuse g i 0x40 0 words
  else match s.issueRead g.id 0 handle 64 with
    | (s, .fault f) => fault s f
    | (s, .ok d) =>
      if !descOk d || !s.registered d then s.refuse g i 0x40 0 words
      else match s.pageRead g.id (descField d 64 56) (2 * descNp d) with
        | (s, .fault f) => fault s f
        | (s, .ok l) =>
          let pkgs := (List.range (descNp d)).map fun k => ofLeBytes ((l.drop (2 * k)).take 2)
          let n := fieldNat cw 0 10 + 1
          let tile := (sl.reg (2 * x.d.val)).toNat
          let list := (sl.reg (2 * x.d.val + 1)).toNat
          let size := n / 2 ^ fieldNat cw 12 4 * descRowBytes d
          let mask := (tile + size + 63) / 64 * 64
          let stamped := fieldNat cw 30 2 = 2
          match g.id.block?, s.gridOf g.id, g.id.block?.bind s.cohort? with
          | some bid, some gr, some co =>
            let me := s.rank bid
            if pkgs.eraseDups.length ≠ pkgs.length then s.refuse g i 0x40 0 words
            else if !gatherControlOk scad cw (descFmt d) || tile % 64 ≠ 0 || list % 16 ≠ 0 || gr.record.lsSz * 4096 < mask + 64 ||
                (stamped && (sl.reg (b + 1)).toNat % 8 ≠ 0) then s.refuse g i 0x44 0 words
            else if gr.record.lsSz * 4096 < list + 4 * n then fault s ⟨0x16, 1, 1, ownAddr me list⟩
            else match [(tile, size), (list, 4 * n), (mask, 64)].findSome? fun p =>
                (handleInfo co.table me me p.1 p.2).map fun e => (⟨0x18, e, 1, ownAddr me p.1⟩ : AccFault) with
              | some f => fault s f
              | none => match s.engineReadAll g.id 1 (ownAddr me list) (4 * n) with
                | (s, .fault f) => fault s f
                | (s, .ok bs) =>
                  let op : GatherOp :=
                    { scad := scad, tile := ownAddr me tile, maskAddr := ownAddr me mask, desc := d, pkgs := pkgs,
                      mode := fieldNat cw 10 2, glog := fieldNat cw 12 4,
                      indices := (wordsOfBytes n bs).map fun w => w.toNat, mark := stamped,
                      stampAddr := (sl.reg (b + 1)).toNat, stamp := sl.reg (b + 3) ++ sl.reg (b + 2), unsent := none,
                      left := List.range n, failed := [], partials := [] }
                  s.joinBatch g i words (.gather op)
                | (s, _) => .wait s .fetch
          | _, _, _ => s.refuse g i 0x44 0 words
        | (s, _) => .wait s .fetch
    | (s, _) => .wait s .fetch

def execGath (x : GathForm) (s : State) : Outcome := engineInstr s x.g false false false (fun _ _ _ _ => none) (gatherRun x false)
def execScad (x : GathForm) (s : State) : Outcome := engineInstr s x.g false false false (fun _ _ _ _ => none) (gatherRun x true)

/-! ## The sluice: fold and partition by package (R108, R456, R471) -/

/-- Positions fail: each sets its bit and raises POSFAIL on die 12 of the issuing package. -/
def State.failPositions (s : State) (o : EngineOp) (x : GatherOp) (ps : List Nat) : State :=
  let ps := ps.filter fun p => x.left.contains p
  let x := { x with left := x.left.filter fun p => !ps.contains p, failed := x.failed ++ ps }
  (s.setOp { o with kind := .gather x }).countN 12 0x7038 ps.length
/-- The positions of a home package, and its distinct indices in the order of their first positions. -/
def GatherOp.positionsOf (x : GatherOp) (pkg : Nat) : List Nat :=
  (List.range x.indices.length).filter fun p => x.indices.getD p 0 < descRowCount x.desc &&
    x.pkgs.getD (rowPkg x.desc (x.indices.getD p 0)) 0 == pkg
def GatherOp.itemsOf (x : GatherOp) (pkg : Nat) (rows : Nat → List Byte) : List IndexItem :=
  let ps := x.positionsOf pkg
  ((ps.map fun p => x.indices.getD p 0).eraseDups).map fun r =>
    let qs := ps.filter fun p => x.indices.getD p 0 == r
    ⟨r, qs, if x.scad then qs.map rows else []⟩
/-- The sub-request of an operation to a home package, under the sluice's header (R98, R108). -/
def State.subReqOf (s : State) (q : Requester) (tsn : BitVec 16) (o : EngineOp) (x : GatherOp) (pkg : Nat) (rows : Nat → List Byte) : SubReq :=
  { src := q, tsn := tsn, acktsn := s.ackTsn q, inc := (s.die q.die).inc, op := o.id, scad := x.scad, mode := BitVec.ofNat 2 x.mode, glog := x.glog, desc := x.desc,
    tableId := descTable x.desc, items := x.itemsOf pkg rows }
/-- Reads the source rows of positions (R313), or the fault that stops the operation. -/
def State.sourceRows (s : State) (o : EngineOp) (x : GatherOp) (ps : List Nat) : State × List (Nat × List Byte) × Option AccFault :=
  let rb := descRowBytes x.desc
  if !x.scad then (s, [], none)
  else ps.foldl (fun (st : State × List (Nat × List Byte) × Option AccFault) p => match st.2.2 with
    | some _ => st
    | none => match st.1.engineReadAll o.gang 1 (x.tile + rb * p) rb with
      | (s, .ok bs) => (s, st.2.1 ++ [(p, bs)], none)
      | (s, .fault f) => (s, st.2.1, some f)
      | (s, _) => (s, st.2.1, none)) (s, [], none)

/-- The sluice's agent number on die 12 (R98; log 30). -/
def State.sluice (s : State) : Requester := ⟨s.pkgId, 12, 64⟩
/-- Sends one sub-request: to this package's own partition step (R374), or on a plane (R99). -/
def State.sendSub (s : State) (o : EngineOp) (x : GatherOp) (pkg seq : Nat) (rows : List (Nat × List Byte)) : State :=
  let q := s.sluice
  let r := s.subReqOf q (s.nextTsn q.die q.agent) o x pkg fun p => (lookupAt p rows).getD []
  let s := s.countSent o.gang 1 0
  let plane := if pkg = s.pkgId then 0 else (s.planeFor ((pkg + seq) % 32) pkg).getD 0
  let tsn := s.nextTsn q.die q.agent
  let out : Outgoing := ⟨q, tsn, pkg, plane, 0, 0, .load 0, .sub o.id (x.positionsOf pkg), .sub r⟩
  let s := { s.setTsn q.die q.agent (tsn + 1) with outstanding := s.outstanding ++ [out] }
  if pkg = s.pkgId then { s with subOwn := s.subOwn ++ [r] } else s.emit (.subRequest pkg r)

/-- Whether an earlier scatter-add of the gang still has additions to make (R111). -/
def State.scadBehind (s : State) (o : EngineOp) : Bool :=
  s.ops.any fun y => y.id < o.id && y.gang == o.gang && !y.complete && match y.kind with
    | .gather z => z.scad && (z.unsent != some [] || !z.left.isEmpty)
    | _ => false
/-- Whether a sluice lane of this package is left, its others carrying the share of those fenced (R471). -/
def State.sluiceLive (s : State) : Bool := (List.range 16).any fun u => !s.fenced 12 u
/-- Whether every lane that is left is in a forced pass, so that work waits (R469). -/
def State.sluiceHeld (s : State) : Bool := s.sluiceLive && !(List.range 16).any fun u => s.unitTakes 12 u

/-- SLUICE_FOLD: indices out of range fail; then the sub-requests go out, one package at a time while the sluice has room. DESIGN CHOICE
(log 63): the sub-request sequence that chooses a plane (R99) is the number of home packages still unsent. -/
def execSluiceFold (op : Nat) (s : State) : Outcome :=
  match s.op? op with
  | none => .next s
  | some o => match o.kind with
    | .gather x =>
      if o.complete || s.sluiceHeld || (x.scad && s.scadBehind o) then .next s
      else match x.unsent with
        | none =>
          let bad := (List.range x.indices.length).filter fun p => descRowCount x.desc ≤ x.indices.getD p 0
          let bad := if s.sluiceLive then bad else List.range x.indices.length
          let good := (List.range x.indices.length).filter fun p => !bad.contains p
          let homes := (good.map fun p => x.pkgs.getD (rowPkg x.desc (x.indices.getD p 0)) 0).eraseDups
          .next (s.failPositions o { x with unsent := some homes } bad)
        | some [] => .next s
        | some (pkg :: rest) =>
          let x := { x with unsent := some rest }
          if pkg ≠ s.pkgId && (s.planeFor 0 pkg).isNone then .next (s.failPositions o x (x.positionsOf pkg))
          else if !s.hasRoom s.sluice 1 then .next s
          else match s.sourceRows o x (x.positionsOf pkg) with
            | (s, _, some f) => .next (s.failOp o 2 f)
            | (s, rows, none) => .next ((s.setOp { o with kind := .gather x }).sendSub o x pkg rest.length rows)
    | _ => .next s

/-! ## The receiving package: partition by die, fetch and add (R106 to R109, R111) -/

/-- A reply: kept for the issuing package's merge, or sent and remembered. -/
def State.subReply (s : State) (r : SubReq) (body : SubBody) : State :=
  let y : SubReply := ⟨r.inc, body⟩
  if r.src.pkg = s.pkgId then { s with subReplies := s.subReplies ++ [(r.op, y)] }
  else { s.emit (.subReply r.src.pkg r.op y) with subSeen := s.subSeen.map fun e =>
    if e.src == r.src && e.tsn == r.tsn then { e with replies := e.replies ++ [y] } else e }
/-- Whether a die has a row engine left (R471), and whether each that is left is in a forced pass, so that work waits (R469). -/
def State.rowEngineLive (s : State) (die : Nat) : Bool :=
  (List.range (rowEngines die)).any fun k => !s.fenced die (rowEngineBase die + k)
def State.rowEngineHeld (s : State) (die : Nat) : Bool :=
  s.rowEngineLive die && !(List.range (rowEngines die)).any fun k => s.unitTakes die (rowEngineBase die + k)
/-- A sub-request's items pass over the links from die 12 to the row engines of their home dies: a pooled request one job a die, otherwise one a row. -/
def State.partition (s : State) (r : SubReq) : State :=
  if !s.registered r.desc then s.subReply r (.failed (r.items.flatMap (·.positions)))
  else
    let home (x : IndexItem) : Nat := (rowHome r.desc x.index).1
    (r.items.map home).eraseDups.foldl (fun (s : State) die =>
      let l := r.items.filter fun x => home x == die
      if !s.rowEngineLive die || (s.dieRefuses 12 die).isSome then s.subReply r (.failed (l.flatMap (·.positions)))
      else
        let jobs : List RowJob := if !r.scad && r.mode != 0 then [RowJob.mk die { r with items := l }]
          else l.map fun x => RowJob.mk die { r with items := [x] }
        let s := s.sendOver s.sluice die (match l with | x :: _ => (rowHome r.desc x.index).2 | [] => 0)
        { s with rowJobs := s.rowJobs ++ jobs }) s
/-- The filter and reply cache of another package's sub-requests after one under a header: acknowledged entries are free (R98). -/
def State.subAck (s : State) (f : Filter) (r : SubReq) : State :=
  let fresh := f.inc != (match s.filters.find? fun x => x.die == 12 && x.src == r.src with | some x => x.inc | none => f.inc)
  { s.setFilter (f.ack r.acktsn) with
    subSeen := s.subSeen.filter fun e => e.src != r.src || (!fresh && (e.tsn - r.acktsn).toNat < 256) }
/-- SUB_REQUEST_PARTITION: a repeated sub-request performs nothing and its replies are sent again, one of an old incarnation or older
than every reply owed is dropped (R98, R447, R451). -/
def execSubRequestPartition (r : SubReq) (s : State) : Outcome :=
  if r.src.pkg = s.pkgId then
    if s.subOwn.contains r then .next ({ s with subOwn := s.subOwn.erase r }.partition r) else .next s
  else if !s.anyKey then .next s
  else match s.filterOf 12 r.src r.acktsn r.inc with
    | none => .next (s.count 12 0x7060)
    | some f =>
      let t := s.subAck f r
      if f.past r.tsn then .next (t.count 12 0x7060)
      else match t.subSeen.find? fun e => e.src == r.src && e.tsn == r.tsn with
        | some e => .next (e.replies.foldl (fun s y => s.emit (.subReply r.src.pkg r.op y)) (t.count 12 0x7058))
        | none => .next ({ t with subSeen := t.subSeen ++ [SubSeen.mk r.src r.tsn []] }.partition r)

/-- A row's units, located in the home package's context: places of memory, none where the row fails, or a page that migrates. -/
def State.locateRow (s : State) (die : Nat) (d : List Byte) (r need : Nat) : State × Option (List Place) × Bool :=
  let a := (rowHome d r).2
  (List.range (descRowBytes d / 16)).foldl (fun (st : State × Option (List Place) × Bool) k =>
    match st.2.1 with
    | none => st
    | some l =>
      let va := a + 16 * k
      if 2 ^ 56 ≤ va then (st.1, none, st.2.2)
      else match st.1.translate (st.1.dieAgent die (s.tableCtx d)) va need with
        | (s, .wait _) => (s, some l, true)
        | (s, .fault _) => (s, none, st.2.2)
        | (s, .ok leaf) =>
          let pa := leaf.pa va
          if pteClass leaf.pte ≠ 0 || paKind pa != .mem || s.cxlDown pa || (s.dieRefuses die (leaf.home va)).isSome then (s, none, st.2.2)
          else match s.poisonCheck (.mem pa (leaf.home va)) 16 false with
            | (s, some _) => (s, none, st.2.2)
            | (s, none) => (s, some (l ++ [.mem pa (leaf.home va)]), st.2.2)) (s, some [], false)
/-- Whether a row lies elsewhere than on its home die. -/
def isAway (die : Nat) (l : List Place) : Bool := l.any fun p => p.die die ≠ die
/-- A row read elsewhere than on its home die raises ROWAWAY once (R107). -/
def State.rowAway (s : State) (die : Nat) (away : Bool) : State := if away then s.count die 0x7018 else s
/-- What a row engine's accesses to a row do beside the data: they cross the links to where it lies, and may meet a granule that is
corrected (R400, R442, R475). -/
def State.rowTouch (s : State) (die : Nat) (l : List Place) : State :=
  l.foldl (fun s p => ((s.sendOver ⟨s.pkgId, die, 70⟩ (p.die die) p.addr).farFill p).corrected p die) s
/-- The bytes of a row by units, and whether it lies away from its home; or that it fails, or waits. -/
inductive RowRead where
  | ok (bs : List Byte) (away : Bool)
  | fail
  | wait
def State.readRow (s : State) (die : Nat) (d : List Byte) (r : Nat) : State × RowRead :=
  match s.locateRow die d r 4 with
  | (s, _, true) => (s, .wait)
  | (s, none, false) => (s, .fail)
  | (s, some l, false) => (s.rowTouch die l, .ok (l.flatMap fun p => s.readPlace p 16) (isAway die l))

/-- Elements of a row, each widened to FP32 exactly (R109). -/
def rowElems (fmt : Nat) (bs : List Byte) : List Word :=
  (wordsOfBytes (bs.length / 4) bs).flatMap fun w => (elems (fmtWidth fmt) w).map fun e =>
    BitVec.ofNat 32 (fcvtE (floatFmt 4) (floatFmt fmt) 0 false 0 e)
/-- One step of a pool: the FP32 sum, or the larger with any NaN winning and +0 above −0. -/
def poolStep (max : Bool) (a b : Word) : Word :=
  if !max then fadd32 a b
  else if (decodeF (floatFmt 4) a.toNat).isNan || (decodeF (floatFmt 4) b.toNat).isNan then f32Nan
  else BitVec.ofNat 32 (minMaxF (floatFmt 4) true a.toNat b.toNat)
/-- A row joins the partial of its group, which begins as its first row. -/
def addPartial (max : Bool) (group p : Nat) (row : List Word) : List Partial → List Partial
  | [] => [⟨group, [p], row⟩]
  | x :: l => if x.group = group then { x with positions := x.positions ++ [p], vals := List.zipWith (poolStep max) x.vals row } :: l
    else x :: addPartial max group p row l

/-- What a pooled job has read: positions with their rows, the failed positions, rows read away from their home, and whether a page
migrates. -/
structure Pool where
  rows : List (Nat × List Word)
  bad : List Nat
  away : Nat
  waits : Bool
/-- The rows of a pooled job, in ascending order of position. -/
def State.poolRows (s : State) (j : RowJob) : State × Pool :=
  let r := j.r.items.foldl (fun (st : State × Pool) x =>
    match st.1.readRow j.die j.r.desc x.index with
    | (s, .ok bs away) => (s, { st.2 with rows := st.2.rows ++ x.positions.map (fun p => (p, rowElems (descFmt j.r.desc) bs))
                                          away := st.2.away + if away then 1 else 0 })
    | (s, .fail) => (s, { st.2 with bad := st.2.bad ++ x.positions })
    | (s, .wait) => (s, { st.2 with waits := true })) (s, ⟨[], [], 0, false⟩)
  (r.1, { r.2 with rows := r.2.rows.mergeSort (fun a b => a.1 ≤ b.1) })

/-- The positions of job `n` fail where no row engine of the die is left (R456, R471). -/
def State.failJob (s : State) (n : Nat) (j : RowJob) : State :=
  let t : State := { s with rowJobs := s.rowJobs.eraseIdx n }
  t.subReply j.r (.failed (j.r.items.flatMap (·.positions)))
/-- ROW_FETCH: a row engine takes job `n`. -/
def execRowFetch (n : Nat) (s : State) : Outcome :=
  match s.rowJobs[n]? with
  | none => .next s
  | some j =>
    let done (s : State) : State := { s with rowJobs := s.rowJobs.eraseIdx n }
    if j.r.scad || s.rowEngineHeld j.die then .next s
    else if !s.rowEngineLive j.die then .next (s.failJob n j)
    else if j.r.mode = 0 then
      match j.r.items with
      | x :: _ => match s.readRow j.die j.r.desc x.index with
        | (s, .ok bs away) => .next (((done s).rowAway j.die away).subReply j.r (.row x.positions bs))
        | (s, .fail) => .next ((done s).subReply j.r (.failed x.positions))
        | (s, .wait) => .next s
      | [] => .next (done s)
    else
      match s.poolRows j with
      | (s, p) =>
        if p.waits then .next s
        else
          let ps := p.rows.foldl (fun (l : List Partial) p => addPartial (j.r.mode == 2) (p.1 / 2 ^ j.r.glog) p.1 p.2 l) []
          let s := (done s).countN j.die 0x7018 p.away
          let s := if p.bad.isEmpty then s else s.subReply j.r (.failed p.bad)
          .next (ps.foldl (fun (s : State) (p : Partial) => s.subReply j.r (.partialSum p.positions p.vals)) s)

/-- One addition of R111: the exact sum rounded once to the format. -/
def scadElems (fmt : Nat) (row add : List Byte) : List Byte :=
  let f := floatFmt fmt
  let w := fmtWidth fmt
  let one (x y : Word) : Word := packElems w (List.zipWith (fun a b => faddE f 0 (fmt == 7) 0 a b) (elems w x) (elems w y))
  bytesOfWords (List.zipWith one (wordsOfBytes (row.length / 4) row) (wordsOfBytes (row.length / 4) add))
/-- SCAD_ROW_ADD: the source rows of job `n` are added in ascending position order. DESIGN CHOICE (log 64): the row's page needs R and W. -/
def execScadRowAdd (n : Nat) (s : State) : Outcome :=
  match s.rowJobs[n]? with
  | none => .next s
  | some j => match j.r.scad, j.r.items with
    | true, x :: _ =>
      let done (s : State) : State := { s with rowJobs := s.rowJobs.eraseIdx n }
      if s.rowEngineHeld j.die then .next s
      else if !s.rowEngineLive j.die then .next (s.failJob n j)
      else match s.locateRow j.die j.r.desc x.index 6 with
      | (s, _, true) => .next s
      | (s, none, false) => .next ((done s).subReply j.r (.failed x.positions))
      | (s, some l, false) =>
        let s := (s.rowTouch j.die l).rowAway j.die (isAway j.die l)
        let row := l.flatMap fun p => s.readPlace p 16
        let row := x.rows.foldl (scadElems (descFmt j.r.desc)) row
        let s := l.zipIdx.foldl (fun s p => s.writePlace p.1 ((row.drop (16 * p.2)).take 16) false) s
        .next ((done s).subReply j.r (.added x.positions))
    | _, _ => .next s

/-! ## The merge and the end (R109, R110, R312, R313, R375) -/

/-- The positions that a reply answers. -/
def answered : SubBody → List Nat
  | .row ps _ => ps
  | .added ps => ps
  | .failed ps => ps
  | .partialSum ps _ => ps
/-- Writes bytes of the tile or the mask by 16-byte units, or the fault that stops the operation. -/
def State.gatherWrite (s : State) (o : EngineOp) (addr : Nat) (bs : List Byte) : State × Option AccFault :=
  (List.range (bs.length / 16)).foldl (fun (st : State × Option AccFault) k => match st.2 with
    | some _ => st
    | none => match st.1.engineWrite o .store 1 (addr + 16 * k) 16 (.store ((bs.drop (16 * k)).take 16)) false with
      | (s, .fault f) => (s, some f)
      | (s, _) => (s, none)) (s, none)
/-- Sub-requests all of whose positions are answered are no longer outstanding. -/
def State.retireSubs (s : State) (op : Nat) : State :=
  match s.op? op with
  | some o => match o.kind with
    | .gather x =>
      let gone := s.outstanding.filter fun y => match y.owner with | .sub i ps => i == op && !ps.any (x.left.contains ·) | _ => false
      { s.countSent o.gang 0 gone.length with outstanding := s.outstanding.filter fun y => !gone.contains y }
    | _ => s
  | none => s
/-- What a reply does to the positions `ps` that it answers and that are still owed. -/
def State.mergeReply (s : State) (o : EngineOp) (x : GatherOp) (ps : List Nat) (r : SubBody) : State :=
  let ok (s : State) (x : GatherOp) : State :=
    s.setOp { o with kind := .gather { x with left := x.left.filter fun p => !ps.contains p } }
  match r with
  | .failed _ => s.failPositions o x ps
  | .added _ => ok s x
  | .partialSum _ vals => ok s { x with partials := x.partials ++ [⟨ps.headD 0 / 2 ^ x.glog, ps, vals⟩] }
  | .row _ bs =>
    match ps.foldl (fun (st : State × Option AccFault) p => match st.2 with
      | some _ => st
      | none => st.1.gatherWrite o (x.tile + descRowBytes x.desc * p) bs) (s, none) with
    | (s, some f) => s.failOp o 2 f
    | (s, none) => ok s x
/-- A reply that answers nothing owed: late where a sub-request for its positions was given up (R446, R449), else one more copy. -/
def State.lateSub (s : State) (op : Nat) (r : SubBody) : State :=
  if (answered r).any fun p => s.retiredSubs.contains (op, p) then s.count 12 0x7050 else s
/-- GATHER_REPLY_MERGE: a row is written to every listed position that is still owed; a partial is kept; one of a stale incarnation is
dropped (R451). -/
def execGatherReplyMerge (op : Nat) (rep : SubReply) (s : State) : Outcome :=
  let s := if s.subReplies.contains (op, rep) then { s with subReplies := s.subReplies.erase (op, rep) } else s
  let r := rep.body
  if rep.inc ≠ (s.die 12).inc then .next (s.count 12 0x7030)
  else match s.op? op with
  | none => .next (s.lateSub op r)
  | some o => match o.kind with
    | .gather x =>
      let ps := (answered r).filter fun p => x.left.contains p
      if ps.isEmpty then .next (s.lateSub op r)
      else if o.complete then
        .next ((s.setOp { o with kind := .gather { x with left := x.left.filter fun p => !ps.contains p } }).retireSubs op)
      else .next ((s.mergeReply o x ps r).retireSubs op)
    | _ => .next s

/-- Elements of a pooled result, converted once to the format (R109). -/
def packRow (fmt : Nat) (l : List Word) : List Byte :=
  l.flatMap fun x => leBytes (fmtWidth fmt / 8) (encodeF (floatFmt fmt) 0 (fmt == 7) true 0 (decodeF (floatFmt 4) x.toNat))
/-- Partials in ascending order of their lowest position. -/
def insertPartial (p : Partial) : List Partial → List Partial
  | [] => [p]
  | q :: l => if p.positions.headD 0 < q.positions.headD 0 then p :: q :: l else q :: insertPartial p l
/-- A group's bytes: its partials combined, or zeros where no position survives (R109, R110). -/
def GatherOp.groupBytes (x : GatherOp) (k : Nat) : List Byte :=
  match (x.partials.filter fun p => p.group == k).foldl (fun l p => insertPartial p l) [] with
  | [] => List.replicate (descRowBytes x.desc) 0
  | p :: ps => packRow (descFmt x.desc) (ps.foldl (fun v q => List.zipWith (poolStep (x.mode == 2)) v q.vals) p.vals)
/-- What is still to be written before the mask: the pooled groups, or zeros for the failed positions. -/
def GatherOp.lastRows (x : GatherOp) : List (Nat × List Byte) :=
  let rb := descRowBytes x.desc
  if x.scad then []
  else if x.mode = 0 then x.failed.map fun p => (x.tile + rb * p, List.replicate rb 0)
  else (List.range (x.indices.length / 2 ^ x.glog)).map fun k => (x.tile + rb * k, x.groupBytes k)
/-- The position mask's 64 bytes (R110, R375). -/
def GatherOp.maskBytes (x : GatherOp) : List Byte := leBytes 64 (x.failed.foldl (fun m p => m + 2 ^ p) 0)
/-- Whether every position is answered and no earlier stamp is owed to the word. -/
def State.gatherDone (s : State) (o : EngineOp) (x : GatherOp) : Bool :=
  !o.complete && x.unsent == some [] && x.left.isEmpty && !(x.mark && s.stampHeld o 1 x.stampAddr)
/-- The shadow of a scatter-add writes its position mask and stamp in its own partition, and adds nothing (R369). -/
def State.shadowMask (s : State) (o : EngineOp) (x : GatherOp) : State :=
  match if x.scad then s.shadowOf o.gang else none with
  | none => s
  | some q =>
    if o.gang = q then s
    else
      let o := { o with gang := q }
      let s := (s.gatherWrite o x.maskAddr x.maskBytes).1
      if x.mark then (s.writeStamp o 1 x.stampAddr x.stamp).1 else s
/-- GATHER_COMPLETE: the last rows, the position mask, then the stamp. -/
def execGatherComplete (op : Nat) (s : State) : Outcome :=
  match s.op? op with
  | none => .next s
  | some o => match o.kind with
    | .gather x =>
      if !s.gatherDone o x then .next s
      else match (x.lastRows ++ [(x.maskAddr, x.maskBytes)]).foldl (fun (st : State × Option AccFault) p => match st.2 with
        | some _ => st
        | none => st.1.gatherWrite o p.1 p.2) (s, none) with
      | (s, some f) => .next (s.failOp o 2 f)
      | (s, none) =>
        if x.mark then
          match s.writeStamp o 1 x.stampAddr x.stamp with
          | (s, .fault f) => .next (s.failOp o 2 f)
          | (s, _) => .next ((s.endOp o).shadowMask o x)
        else .next ((s.endOp o).shadowMask o x)
    | _ => .next s

end Sys2Proof.Machine
end

