-- ==== Sys2Proof/Machine/Launch.lean ====
section
/-! DEFINITION. Launch records, placement and dispatch (R23 to R25, R36 to R45, R223 to R225, R415). -/
namespace Sys2Proof.Machine

/-! ## The launch record (R36) -/

/-- Bits [lo + n - 1 : lo] of a record. -/
def recField (bs : List Byte) (lo n : Nat) : Nat := ofLeBytes bs / 2 ^ lo % 2 ^ n
/-- The fields of a record, without its package list. -/
def parseRecord (bs : List Byte) : LaunchRec :=
  let f := recField bs
  let b (i : Nat) : Bool := f i 1 = 1
  { dieMask := f 992 16, evStamp := f 896 56, expLen := f 864 24, expOff := f 832 23, csVal := BitVec.ofNat 64 (f 768 64),
    csAddr := f 704 56, sigWord := f 640 56, sliceLen := f 608 32, depGen := BitVec.ofNat 32 (f 576 32), depWord := f 512 56,
    pkgList := [], spanSize := f 416 10, spanId := f 400 16, gaugeSz := f 368 16, lsSz := f 352 16, qlog := f 340 5,
    esQuota := f 336 4, wload := b 325, early := b 324, raceAct := b 323, race := b 322, redun := b 321, determ := b 320,
    regs := f 292 5, cls := f 290 2, cohort := f 285 5 + 1, slices := f 282 3 + 1, gangs := f 277 5 + 1,
    gridX := f 192 16, gridY := f 208 16, gridZ := f 224 16, laneBase := f 64 56, entry := BitVec.ofNat 56 (f 0 56) }
/-- Addresses of the package list and the parameter block, and the block's size. -/
def recPkgAddr (bs : List Byte) : Nat := recField bs 448 56
def recParams (bs : List Byte) : Nat × Nat := (recField bs 128 56, recField bs 304 16)

/-- Reserved fields: low bit and width. -/
def recReserved : List (Nat × Nat) :=
  [(960, 32), (952, 8), (888, 8), (855, 9), (760, 8), (696, 8), (568, 8), (504, 8), (426, 22), (384, 16), (345, 7), (326, 10),
   (297, 7), (256, 21), (240, 16), (184, 8), (120, 8), (56, 8)]

def LaunchRec.blockCount (r : LaunchRec) : Nat := r.gridX * r.gridY * r.gridZ
def LaunchRec.dies (r : LaunchRec) : List Nat := setBits 8 r.dieMask
/-- Partner pairs whose dies are both in DIEMASK, by number. -/
def LaunchRec.pairs (r : LaunchRec) : List Nat := (List.range 4).filter fun p => r.dies.contains (2 * p) && r.dies.contains (2 * p + 1)

/-- Granules that a block takes: its partition, and in a debug launch the detector's shadow of it (R436). -/
def LaunchRec.granules (r : LaunchRec) : Nat := r.lsSz + if r.race then ceilDiv r.lsSz 4 else 0
/-- Every field in its range (rule 4 of R415). -/
def LaunchRec.inRange (r : LaunchRec) (params : Nat) : Bool :=
  r.dieMask < 256 && r.dieMask != 0 && r.evStamp % 8 == 0 && r.expLen % 64 == 0 && (r.spanSize != 0 || r.expLen == 0) &&
  r.expOff % 64 == 0 && r.csAddr % 8 == 0 && r.sigWord % 16 == 0 && r.depWord % 16 == 0 && r.spanSize != 1 && r.spanSize ≤ 512 &&
  1 ≤ r.lsSz && r.granules ≤ 2048 && r.gaugeSz ≤ r.lsSz && r.esQuota ≤ 7 && params % 16 == 0 && 1 ≤ r.regs && r.regs ≤ 24 && r.cls < 2 &&
  1 ≤ r.gridX && 1 ≤ r.gridY && 1 ≤ r.gridZ && r.laneBase % 64 == 0 && r.entry.toNat % 4 == 0

/-- Rules 2 to 6 of R415. -/
def recordBad (bs : List Byte) : Option Nat :=
  let r := parseRecord bs
  if recField bs 1008 16 ≠ 1 then some 2
  else if recReserved.any fun p => recField bs p.1 p.2 != 0 then some 3
  else if !r.inRange (recParams bs).2 then some 4
  else if r.blockCount % r.cohort ≠ 0 then some 5
  else if r.cohort > 16 && r.pairs.isEmpty then some 6
  else none
/-- Rules 7 to 10, with the package list read. -/
def LaunchRec.bad (r : LaunchRec) (pkg : Nat) : Option Nat :=
  if r.spanSize ≠ 0 && (r.blockCount ≠ r.cohort || r.pkgList.eraseDups.length ≠ r.pkgList.length || !r.pkgList.contains pkg) then some 7
  else if r.redun && (!r.determ || r.dies.length < 2 || (r.cohort > 16 && r.pairs.length < 2)) then some 8
  else if r.determ && (r.qlog < 8 || 16 < r.qlog) then some 9
  else if r.lsSz * 4096 < r.expOff + r.expLen then some 10
  else none

/-! ## Room on a core (R24, R25, R39, R471) -/

/-- What a resident block holds on its core: slot, granules, registers per lane, and each gang's quadrant and column group. -/
structure Held where
  slot : Nat
  granule : Nat
  granules : Nat
  words : Nat
  gangs : List (Nat × Nat)
  deriving DecidableEq, Repr

/-- Room that a spot gives to a block of a record. -/
def Spot.held (p : Spot) (r : LaunchRec) : Held :=
  ⟨p.slot, p.granule, r.granules, 32 * r.regs, p.groups.zipIdx.map fun x => (x.2 % 4, x.1)⟩
/-- Everything held on a core: by resident blocks, and by the reservation. -/
def State.heldOn (s : State) (die core : Nat) : List Held :=
  ((s.blocks.filter fun b => b.resident && b.die == die && b.core == core).filterMap fun b => (s.grid? b.id.handle).map fun g =>
    (⟨b.slot, b.granule, g.record.granules, 32 * g.record.regs, (s.blockGangs b.id).map fun x => (x.id.num % 4, x.group)⟩ : Held)) ++
  match s.reservation with
  | some v => match s.grid? v.handle with
    | some g => ((v.places.flatMap (·.2)).filter fun p => p.die == die && p.core == core).map fun p => p.held g.record
    | none => []
  | none => []

/-- Block slots of a core. -/
def blockSlots : Nat := 8
def freeSlot (l : List Held) : Option Nat := (List.range blockSlots).find? fun k => !l.any fun h => h.slot == k
/-- The lowest granule at which `n` granules are free: 0, or the end of what some block holds. -/
def freeGranule (l : List Held) (n : Nat) : Option Nat :=
  let fits (a : Nat) : Bool := a + n ≤ 2048 && l.all fun h => a + n ≤ h.granule || h.granule + h.granules ≤ a
  ((0 :: l.map fun h => h.granule + h.granules).filter fits).foldl (fun m a => match m with | some b => some (Nat.min a b) | none => some a) none

/-- Whether a gang of `n` slices may use a column group: none of its columns is fenced (R471). -/
def State.groupLive (s : State) (die core q j n : Nat) : Bool :=
  (List.range n).all fun c => !s.fenced die (64 + 128 * core + 32 * q + 8 * j + c)
/-- The column group for one more gang in a quadrant (R25): fewest resident gangs, then the lower number. -/
def State.pickGroup (s : State) (die core q n words : Nat) (l : List Held) : Option Nat :=
  let count (j : Nat) : Nat := (l.map fun h => (h.gangs.filter fun x => x == (q, j)).length).sum
  let load (j : Nat) : Nat := (l.map fun h => h.words * (h.gangs.filter fun x => x == (q, j)).length).sum
  let ok := (List.range 4).filter fun j => s.groupLive die core q j n && load j + words ≤ 1536
  if (l.map fun h => (h.gangs.filter fun x => x.1 == q).length).sum ≥ 16 then none
  else ok.foldl (fun (m : Option Nat) j => match m with
    | some k => if count j < count k then some j else some k
    | none => some j) none
/-- Groups for every gang of a block, in ascending GANGID. -/
def State.pickGroups (s : State) (die core slices words : Nat) (l : List Held) : List Nat → Option (List Nat)
  | [] => some []
  | n :: ns =>
    match s.pickGroup die core (n % 4) slices words l with
    | none => none
    | some j => (s.pickGroups die core slices words (⟨99, 0, 0, words, [(n % 4, j)]⟩ :: l) ns).map (j :: ·)
/-- Whether a core takes blocks at all: an engine and every bank unfenced. -/
def State.coreLive (s : State) (die core : Nat) : Bool :=
  ((List.range 4).any fun e => !s.fenced die (4 * core + e)) && (List.range 32).all fun b => !s.fenced die (2112 + 32 * core + b)

/-- Room for one block of a record on a core that holds `l`. -/
def State.fitCore (s : State) (r : LaunchRec) (die core : Nat) (l : List Held) : Option Spot :=
  if !s.coreLive die core then none
  else match freeSlot l, freeGranule l r.granules, s.pickGroups die core r.slices (32 * r.regs) l (List.range r.gangs) with
    | some k, some a, some gs => some ⟨die, core, k, a, gs⟩
    | _, _, _ => none
/-- Rule 11 of R415: some core of DIEMASK holds one block when it is empty. -/
def State.everFits (s : State) (r : LaunchRec) : Bool :=
  r.dies.any fun d => (List.range 16).any fun c => (s.fitCore r d c []).isSome

/-! ## Which cores a grid may take (R43, R44, R309) -/

def Grid.isEarly (g : Grid) : Bool := g.producer.isSome
/-- Block slots that a grid holds on a core. -/
def State.slotsOf (s : State) (g : Grid) (die core : Nat) : Nat :=
  (s.blocks.filter fun b => b.resident && b.die == die && b.core == core && b.id.handle == g.handle).length
/-- Whether a producer still has blocks to dispatch; a killed or ended one has none (R417). -/
def State.stillDispatching (s : State) (h : Word) : Bool :=
  match s.grid? h with
  | some p => !(s.undispatched p).isEmpty
  | none => false
/-- An early-started grid's two limits on a core. -/
def State.earlyOk (s : State) (g : Grid) (die core : Nat) : Bool :=
  match g.producer with
  | none => true
  | some p =>
    s.slotsOf g die core < g.quota && (!s.stillDispatching p || (s.heldOn die core).length + 1 < blockSlots)
/-- Whether an operation belongs to a batch that is not complete. -/
def State.inBatch (s : State) (o : EngineOp) : Bool :=
  match s.gang? o.gang with
  | some g => g.openOps.contains o.id || g.sealed.any fun b => b.ops.contains o.id
  | none => false
/-- Whether a grid's blocks may be dispatched on a die now: a supervisor's copy to the weight store closes it until its batch completes
(R309). -/
def State.dieOpen (s : State) (g : Grid) (die : Nat) : Bool :=
  (s.die die).powered && !(s.die die).inReset &&
  (!g.record.wload || g.record.dies.all fun d => !s.blocks.any fun b => b.resident && b.die == d && b.id.handle != g.handle) &&
  !(s.grids.any fun x => x.record.wload && x.order < g.order && x.record.dies.contains die) &&
  !(s.ops.any fun o => (!o.complete || s.inBatch o) && s.gangDie o.gang == die && o.gang.isControl && match o.kind with
    | .copy c => c.dspace == 3
    | _ => false)

/-- The accumulator slots that a block held at CTXSV; none for a block that is new. -/
def State.wants (s : State) (b : BlockId) : List Nat := match s.block? b with | some x => x.want | none => []
/-- Spots for blocks in rank order, each with the slots that it wants, on ascending cores, one a core (R41, R58). -/
def State.fitCores (s : State) (g : Grid) (die : Nat) : List Nat → List (List Nat) → Option (List Spot)
  | _, [] => some []
  | [], _ :: _ => none
  | c :: cs, w :: ws =>
    let free := s.earlyOk g die c && w.all fun k => (s.slotOwner die c k).isNone
    match if free then s.fitCore g.record die c (s.heldOn die c) else none with
    | some p => (s.fitCores g die cs ws).map (p :: ·)
    | none => s.fitCores g die cs (w :: ws)
/-- Spots for blocks on one die. -/
def State.fitDie (s : State) (g : Grid) (die : Nat) (l : List BlockId) : Option (List Spot) :=
  if s.dieOpen g die then s.fitCores g die (List.range 16) (l.map s.wants) else none
/-- Spots for a cohort with blocks `a` in its first half and `b` in its second, with the die of its first half. -/
def State.fitHalves (s : State) (g : Grid) (die : Nat) (a b : List BlockId) : Option (List Spot) :=
  if b.isEmpty then s.fitDie g die a
  else match s.fitDie g die a, s.fitDie g (die ^^^ 1) b with
    | some x, some y => some (x ++ y)
    | _, _ => none
/-- The die of the shadow's first half (R40): the next die, or the next pair with the same parity. -/
def LaunchRec.shadowDie (r : LaunchRec) (die : Nat) : Nat :=
  if r.cohort ≤ 16 then ((r.dies.filter (die < ·)) ++ r.dies).headD die
  else 2 * ((r.pairs.filter (die / 2 < ·)) ++ r.pairs).headD 0 + die % 2
/-- Places for both copies of the blocks `a` and `b` of a cohort's halves, its first half on a die: each copy with its spots. -/
def State.fitCopies (s : State) (g : Grid) (die : Nat) (a b : List Nat) : Option (List (Bool × List Spot)) :=
  let copy (sh : Bool) (die : Nat) : Option (List Spot) := s.fitHalves g die (a.map (⟨g.handle, ·, sh⟩)) (b.map (⟨g.handle, ·, sh⟩))
  match copy false die with
  | none => none
  | some l =>
    if !g.record.redun then some [(false, l)]
    else (copy true (g.record.shadowDie die)).map fun m => [(false, l), (true, m)]
/-- Dies on which a cohort's first half may go (R41). -/
def LaunchRec.firstDies (r : LaunchRec) : List Nat := if r.cohort ≤ 16 then r.dies else r.pairs.flatMap fun p => [2 * p, 2 * p + 1]

/-! ## Whose turn it is (R39, R42, R43) -/

/-- Undispatched blocks that no PREEMPT and no kill holds back, as the cohorts that may be dispatched. -/
def State.readyCohorts (s : State) (g : Grid) : List Nat :=
  let n := g.record.cohort
  let l := s.undispatched g
  (l.map (· / n)).eraseDups.filter fun c => !g.held.any fun i => i / n == c
/-- Cohorts whose blocks all await placement after RESUME (R53): no block is resident or still saved. -/
def State.pendingCohorts (s : State) (g : Grid) : List Nat :=
  let n := g.record.cohort
  let mine := s.blocks.filter fun b => b.id.handle == g.handle && b.state != .exited && b.state != .killed
  ((mine.map fun b => b.id.index / n).eraseDups).filter fun c => mine.all fun b => b.id.index / n != c || b.state == .pending
/-- The grids that a die's distributor has to serve, with cohorts to dispatch or to place again, in the order P2, P3, then LAUNCH.
DESIGN CHOICE (log 31): a span is no part of this order; its coordinator reserves its room as soon as it is found. -/
def State.queue (s : State) (die : Nat) : List Grid :=
  let l := s.grids.filter fun g => g.record.spanSize == 0 && g.record.dies.contains die &&
    !((s.readyCohorts g).isEmpty && (s.pendingCohorts g).isEmpty)
  (l.filter (·.record.cls == 0)).mergeSort (fun a b => a.order ≤ b.order) ++ (l.filter (·.record.cls == 1)).mergeSort (fun a b => a.order ≤ b.order)
/-- Whether a grid waits on its dependency. -/
def Grid.waitsDep (g : Grid) : Bool := !g.isEarly && !g.depMet
/-- The grids that a die's distributor serves: the head, and early-started grids whose producer it serves. -/
def State.served (s : State) (die : Nat) : List Word :=
  let q := (s.queue die).filter fun g => !g.waitsDep
  match q with
  | [] => []
  | h :: rest => rest.foldl (fun l g => match g.producer with
    | some p => if l.contains p then l ++ [g.handle] else l
    | none => l) [h.handle]

/-! ## Dispatch -/

/-- A new block at a spot with its gangs (R23): seeds differ for every gang of a step (log 5). -/
def State.placeBlock (s : State) (g : Grid) (i : Nat) (shadow : Bool) (p : Spot) : State :=
  let id : BlockId := ⟨g.handle, i, shadow⟩
  let b : Block :=
    { id := id, state := .running, integrity := false, killing := false, die := p.die, core := p.core, slot := p.slot, granule := p.granule,
      barriers := List.replicate 16 Barrier.empty, accs := [], latch := [], race := [], signalled := false, issued := false, freed := false,
      saver := none, want := [] }
  let seed (n : Nat) : Nat := s.clock * 4096 + 1 + 32 * (i % g.record.cohort) + n + (if shadow then 1024 else 0)
  let gangs := (List.range g.record.gangs).map fun n =>
    newGang (.compute id n) p.die (seed n) g.record.slices (p.groups.getD n 0) g.record.entry
  { s with
    blocks := s.blocks ++ [b], gangs := s.gangs ++ gangs, ls := s.ls.clear b.base (g.record.lsSz * 4096),
    roCache := s.roCache.filter fun x => x.1.1 != 16 * p.die + p.core }
/-- A saved block at its new spot: it awaits its image (R53, R227). -/
def State.replaceBlock (s : State) (b : Block) (p : Spot) : State :=
  let s := s.setBlock { b with state := .placed, die := p.die, core := p.core, slot := p.slot, granule := p.granule }
  let s := (s.blockGangs b.id).foldl (fun s g => s.setGang { g with group := p.groups.getD g.id.num 0 }) s
  { s with roCache := s.roCache.filter fun x => x.1.1 != 16 * p.die + p.core }

/-- Places new blocks `is` of a cohort, in one copy. -/
def State.placeCopy (s : State) (g : Grid) (c : Nat) (is : List Nat) (shadow : Bool) (l : List Spot) : State :=
  let s := { s with cohorts := s.cohorts ++ [Cohort.mk g.handle c shadow [] 0 0 0] }
  (is.zip l).foldl (fun s x => s.placeBlock g x.1 shadow x.2) s
/-- The two halves of a cohort's blocks: ranks 0 to 15, and 16 upward. -/
def halves (n : Nat) (is : List Nat) : List Nat × List Nat := (is.filter (· % n < 16), is.filter (16 ≤ · % n))

/-- Whether a grid may dispatch between its rounds (R353). -/
def Grid.admits (g : Grid) : Bool := !g.record.determ || g.phase == .notStarted || g.phase == .between
/-- A free choice among the first dies that have room (log 31). -/
def State.choosePlaces (s : State) (g : Grid) (is : List Nat) (dies : List Nat) : Option (List (Bool × List Spot)) :=
  let h := halves g.record.cohort is
  let l := dies.filterMap fun d => s.fitCopies g d h.1 h.2
  l[Config.pick s.clock % l.length]?
/-- Dispatches cohort `c`. -/
def State.dispatchCohort (s : State) (g : Grid) (c : Nat) (places : List (Bool × List Spot)) : State :=
  let n := g.record.cohort
  let is := (s.undispatched g).filter fun i => i / n == c
  let s := places.foldl (fun s p => s.placeCopy g c is p.1 p.2) s
  match s.grid? g.handle with
  | some g => s.setGrid { g with next := g.next + is.length, timerOn := g.timerOn || g.record.sliceLen != 0 }
  | none => s

/-- Places a cohort again, both copies of it. -/
def State.placeAgain (s : State) (g : Grid) (c : Nat) (places : List (Bool × List Spot)) : State :=
  places.foldl (fun s p =>
    let bs := s.blocks.filter fun b => b.id.handle == g.handle && b.id.shadow == p.1 && b.state == .pending && b.id.index / g.record.cohort == c
    (bs.zip p.2).foldl (fun s x => s.replaceBlock x.1 x.2) s) s
/-- Live indices of a cohort that awaits placement. -/
def State.pendingOf (s : State) (g : Grid) (c : Nat) : List Nat :=
  (s.blocks.filter fun b => b.id.handle == g.handle && !b.id.shadow && b.state == .pending && b.id.index / g.record.cohort == c).map (·.id.index)

/-- Whether a die's distributor serves a grid now. -/
def State.serves (s : State) (g : Grid) (die : Nat) : Bool := (s.served die).contains g.handle
/-- Whether the distributors of a cohort whose first half goes on a die, and of its shadow, all serve the grid. -/
def State.servesCohort (s : State) (g : Grid) (die : Nat) : Bool :=
  let both (d : Nat) : Bool := s.serves g d && (g.record.cohort ≤ 16 || s.serves g (d ^^^ 1))
  both die && (!g.record.redun || both (g.record.shadowDie die))
/-- Whether a deterministic grid's first dispatches may begin: it is served on every die of DIEMASK (R355). -/
def State.servedAll (s : State) (g : Grid) : Bool := !g.record.determ || g.phase != .notStarted || g.record.dies.all (s.serves g)
/-- What a grid's distributors can do now: place a resumed cohort, or dispatch the next one, on dies that serve the grid. -/
def State.dispatchPlan (s : State) (g : Grid) : Option State :=
  let dies := g.record.firstDies.filter (s.servesCohort g)
  if g.record.spanSize ≠ 0 then none
  else match (s.pendingCohorts g).findSome? fun c => (s.choosePlaces g (s.pendingOf g c) dies).map fun p => (c, p) with
    | some (c, p) => some (s.placeAgain g c p)
    | none =>
      if !g.admits || !s.servedAll g then none
      else match s.readyCohorts g with
        | [] => none
        | c :: _ =>
          let is := (s.undispatched g).filter fun i => i / g.record.cohort == c
          (s.choosePlaces g is dies).map fun p => s.dispatchCohort g c p

/-- BLOCK_DISPATCH: one cohort of a grid is placed where room exists. -/
def execBlockDispatch (h : Word) (s : State) : Outcome :=
  match s.grid? h with
  | some g => match s.dispatchPlan g with
    | some s => .next s
    | none => .next s
  | none => .next s

/-- A read or write that the device makes on a grid's behalf, in the context of the core that launched it, from that core's die. -/
def State.deviceLocate (s : State) (g : Grid) (k : AccKind) (addr n : Nat) : State × Located :=
  s.locateGen (s.dieAgent g.ctxDie (g.ctxDie, g.ctxCore)) k addr n
/-- R416: a fault of such an access is an event, and nothing more. -/
def State.deviceEvent (s : State) (g : Grid) (f : AccFault) : State :=
  s.event g.ctxDie f.cause 10 0 g.handle.toNat (some (f.space, f.addr)) []

/-- DEPENDENCY_REREAD (R42, R416): the word's generation against DEPGEN; the first failed read of a grid writes one event. In another
package the read is a request of the device. -/
def execDependencyReread (h : Word) (s : State) : Outcome :=
  match s.grid? h with
  | none => .next s
  | some g =>
    if g.depMet || g.isEarly || s.outstanding.any fun o => o.owner == .device h then .next s
    else
      let fail (s : State) (f : AccFault) : State :=
        if g.depReported then s else (s.setGrid { g with depReported := true }).deviceEvent g f
      match s.deviceLocate g (.word false) g.record.depWord 16 with
      | (s, .wait _) => .next s
      | (s, .fault f) => .next (fail s { f with addr := g.record.depWord })
      | (s, .ok p) =>
        let q : Requester := ⟨s.pkgId, g.ctxDie, 65⟩
        if p.isRemote then
          if !s.hasRoom q 1 then .next s
          else .next (s.sendFrom q (.control g.ctxDie g.ctxCore) p g.record.depWord 0 (.load 16) (.device h) SyncUse.unchecked 0)
        else match s.poisonCheck p 16 false with
          | (s, some (c, i)) => .next (fail s ⟨c, i, 0, g.record.depWord⟩)
          | (s, none) =>
            if syncHolds false g.record.depGen.toNat (s.readPlace p 16) then .next (s.setGrid { g with depMet := true }) else .next s

end Sys2Proof.Machine
end

