-- ==== Sys2Proof/Machine/Life.lean ====
section
/-! DEFINITION. The life of gangs, blocks and grids: exit, halting and killing to their ends, completion, time slices, arrivals at sync
words (R35, R38, R42, R49 to R51, R79, R227, R228, R410, R416, R418). -/
namespace Sys2Proof.Machine

/-! ## Completion of a grid (R38) -/

/-- Whether an access of the device itself for a grid awaits its reply. -/
def State.devicePending (s : State) (h : Word) : Bool := s.outstanding.any fun o => o.owner == .device h
/-- Whether every block of a grid has exited or been killed, is free, and has made its arrival on SIGWORD. -/
def State.gridDone (s : State) (g : Grid) : Bool :=
  (s.undispatched g).isEmpty &&
  (s.blocks.all fun b => b.id.handle != g.handle || ((b.state == .exited || b.state == .killed) && b.freed && b.saver.isNone)) &&
  !(s.arrivals.any fun a => a.handle == g.handle && a.src.isNone && a.op.isNone) && !s.devicePending g.handle &&
  !(s.heldWrites.any fun w => w.handle == g.handle)
/-- Everything that a grid held on the package is dropped; its handle becomes invalid. -/
def State.dropGrid (s : State) (h : Word) : State :=
  { s with
    grids := s.grids.filter (fun g => g.handle != h)
    blocks := s.blocks.filter (fun b => b.id.handle != h)
    cohorts := s.cohorts.filter (fun c => c.handle != h)
    gangs := s.gangs.filter (fun g => !g.id.ofGrid h)
    ops := s.ops.filter (fun o => !o.gang.ofGrid h) }
/-- The requester of the device's own accesses: the distributor of the launching core's die (log 30). -/
def State.distributor (s : State) (g : Grid) : Requester := ⟨s.pkgId, g.ctxDie, 65⟩
/-- A write of the device on a grid's behalf: a fault is an event (R416). The answer says that it need not wait for a migrating page;
a migration that it starts goes on. -/
def State.deviceTry (s : State) (g : Grid) (addr : Nat) (op : ReqOp) : State × Bool :=
  match s.deviceLocate g (match op with | .store _ => .stamp | _ => .word true) addr op.size with
  | (s, .fault f) => (s.deviceEvent g { f with addr := addr }, true)
  | (s, .wait _) => (s, false)
  | (s, .ok p) =>
    if p.isRemote then
      if !s.hasRoom (s.distributor g) 1 then (s, false)
      else (s.sendFrom (s.distributor g) (.control g.ctxDie g.ctxCore) p addr 0 op (.device g.handle) SyncUse.unchecked 0, true)
    else match s.poisonCheck p op.size true with
      | (s, some (c, i)) => (s.deviceEvent g ⟨c, i, 0, addr⟩, true)
      | (s, none) => match s.apply p op false with
        | (s, .error (c, i)) => (s.deviceEvent g ⟨c, i, 0, addr⟩, true)
        | (s, .ok _) => (s, true)
/-- The same, held where it must wait. -/
def State.deviceWrite (s : State) (g : Grid) (addr : Nat) (op : ReqOp) : State :=
  match s.deviceTry g addr op with
  | (s, true) => s
  | (s, false) => { s with heldWrites := s.heldWrites ++ [⟨g.handle, addr, op⟩] }
/-- Completes a grid whose blocks have all ended: CSVAL to CSADDR, after everything else. -/
def State.tryComplete (s : State) (h : Word) : State :=
  match s.grid? h with
  | none => s
  | some g =>
    if !s.gridDone g then s
    else if g.record.csAddr = 0 then s.dropGrid h
    else match s.deviceTry g g.record.csAddr (.store (leBytes 8 g.record.csVal.toNat)) with
      | (s, true) => s.dropGrid h
      | (s, false) => s

/-! ## Exit (R35) -/

/-- A block's arrival on SIGWORD, once; a shadow block makes none. -/
def State.signalBlock (s : State) (b : Block) : State :=
  if b.signalled || b.id.shadow then s
  else match s.grid? b.id.handle with
    | some g => (s.setBlock { b with signalled := true }).signal g
    | none => s
/-- A block whose gangs have all exited is exited; it holds its accumulator slots no longer (R58). -/
def State.exitBlock (s : State) (b : BlockId) : State :=
  match s.block? b with
  | none => s
  | some x =>
    if (x.state == .running || x.state == .halting) && (s.blockGangs b).all (·.exited) then
      let x := { x with state := .exited, accs := [] }
      (s.setBlock x).signalBlock x
    else s
/-- A gang has exited: latches that list it fail (R407), phases that it alone held back complete (R286), and its block may exit. -/
def State.exitGang (s : State) (gid : GangId) : State :=
  match s.gang? gid with
  | none => s
  | some g =>
    match gid with
    | .control d i =>
      let s := s.setGang { g with exited := true }
      match s.control? d i with
      | some c => s.setControl { c with running := false }
      | none => s
    | .compute b _ =>
      let was := s.spanFull b
      let s := (s.setGang { g with exited := true }).latchGone gid
      let now := s.spanFull b
      let s := (s.spanTell b was).barrierSweep b
      let s := match s.grid? b.handle with | some gr => s.spanLeave gr now | none => s
      s.exitBlock b

/-- Whether a gang has executed EXIT everywhere and nothing that it issued is incomplete. -/
def State.exitReady (s : State) (g : Gang) : Bool :=
  !g.exited && !g.halted && g.slices.all (·.exited) && g.l == 0 && g.s == 0 && g.c == 0 && g.t == 0 && g.openOps.all s.opEnded &&
    !s.gangOutstanding g.id
/-- Whether GANG_EXIT may happen: the block runs or is halting; a deterministic gang exits in its commit slot. -/
def State.exitDue (s : State) (g : Gang) : Bool :=
  s.exitReady g && match s.blockOf g.id with
  | some b => (b.state == .running || b.state == .halting) && !s.determ g.id
  | none => g.id.isControl
/-- A fault of an operation whose batch was never sealed traps the gang at its EXIT (R392); else the atomic buffer is flushed, and the
gang exits once every flushed entry is performed. -/
def State.exitStep (s : State) (g : Gang) : State :=
  match g.openOps.findSome? s.opFault with
  | some t => (s.setGang { g with openOps := [] }).takeTrap g.id t
  | none => match s.flushPoint g.id with
    | (s, .done) => s.exitGang g.id
    | (s, _) => s
def execGangExit (gid : GangId) (s : State) : Outcome :=
  match s.gang? gid with
  | some g => if s.exitDue g then .next (s.exitStep g) else .next s
  | none => .next s

/-- Whether a block's requests have all sunk and its operations ended. -/
def State.blockQuiet (s : State) (b : BlockId) : Bool :=
  ((s.blockGangs b).all fun g => !s.gangOutstanding g.id && !s.remote.any fun r => r.gang == g.id) &&
  !(s.ops.any fun o => o.gang.block? == some b && o.fault.isNone && !s.tileHeld o && !s.opEnded o.id) &&
  !(s.arrivals.any fun a => match a.src with | some g => g.block? == some b | none => false)
/-- Frees what a block holds, and drops its operations. -/
def State.freeBlock (s : State) (b : BlockId) : State :=
  match s.block? b with
  | some x => { s.setBlock { x with freed := true, accs := [], latch := [], race := [] } with
      ops := s.ops.filter fun o => o.gang.block? != some b }
  | none => s
/-- BLOCK_RESOURCES_FREE: every reply of an exited block has sunk. For a span member it also says that every other member has detached
from this one (R66; log 32). -/
def execBlockResourcesFree (b : BlockId) (s : State) : Outcome :=
  match s.block? b with
  | some x => if x.state == .exited && !x.freed && s.blockQuiet b then .next ((s.freeBlock b).tryComplete b.handle) else .next s
  | none => .next s

/-! ## Halting and killing (R50, R51, R227, R228) -/

/-- A wait that survives a halt: a barrier's, whose arrival is already counted, and a watched word's, whose entry is saved with the block
(R52). Every other waiting instruction re-executes. -/
def Wait.staysHalted : Wait → Bool
  | .barrier _ _ | .barrierDone _ _ | .sync _ _ _ | .stamp _ _ _ => true
  | _ => false
def Slice.atHalt (sl : Slice) : Slice :=
  { sl with wait := match sl.wait with | some w => if w.staysHalted then some w else none | none => none, lwait := none }

/-- Whether a block's halt can end: what its gangs issued is complete, their requests have sunk and their traps are recorded, and where it is to be killed its operations too. -/
def State.haltDue (s : State) (b : Block) : Bool :=
  match b.state with
  | .exited | .killed => false
  | .halting => (s.blockGangs b.id).all (fun g => !s.gangOutstanding g.id && !s.issuing g.id && g.trapping.isNone) &&
      (!b.killing || s.blockQuiet b.id)
  | .running => false
  | _ => b.killing && s.blockQuiet b.id
/-- In a commit phase no block of the grid halts (R367). -/
def State.committing (s : State) (b : BlockId) : Bool :=
  match s.grid? b.handle with | some g => g.record.determ && g.phase == .committing | none => false
/-- The gangs of a block that still hold atomic-buffer entries to be flushed. -/
def State.toFlush (s : State) (b : Block) : List Gang :=
  if s.determ (.compute b.id 0) then [] else (s.flushOrder [b]).filter fun g => !g.abuf.isEmpty

/-- The end of a block's killing: its arrival, and all that it held is free. -/
def State.finishKill (s : State) (b : Block) : State :=
  let s := (s.setBlock { b with state := .killed }).signalBlock { b with state := .killed }
  let s := (s.blockGangs b.id).foldl (fun s g => s.setGang { g with exited := true, abuf := [], qbuf := [], ended := none }) s
  ((s.freeBlock b.id).barrierSweep b.id).tryComplete b.id.handle
/-- The end of a block's halt. -/
def State.finishHalt (s : State) (b : Block) : State :=
  let s := s.setBlock { b with state := .halted, latch := [] }
  (s.blockGangs b.id).foldl (fun s g => (s.setGang { g with slices := g.slices.map Slice.atHalt }).dropFetched g.id) s

/-- HALT_COMPLETE: the atomic buffers are flushed in the order of R279; then the block is killed, exited or halted. -/
def execHaltComplete (b : BlockId) (s : State) : Outcome :=
  match s.block? b with
  | none => .next s
  | some x =>
    if !s.haltDue x || s.committing b then .next s
    else
      let l := s.toFlush x
      if x.state == .halting && !l.isEmpty then .next (State.flushAll (l.map (·.id)) s).1
      else if x.killing then .next (s.finishKill x)
      else if (s.blockGangs b).all (·.exited) then .next (s.exitBlock b)
      else .next (s.finishHalt x)

/-- A loaded block runs (R227). -/
def State.runLoaded (s : State) (b : Block) : State :=
  (s.blockGangs b.id).foldl (fun s g => s.setGang g.runAgain) (s.setBlock { b with state := .running })

/-! ## Time slices (R49, R418) -/

/-- SLICE_TIMER_EXPIRY: 1 is added to the stamp at EVSTAMP, while some block of the grid runs. -/
def execSliceTimerExpiry (h : Word) (s : State) : Outcome :=
  match s.grid? h with
  | none => .next s
  | some g =>
    let runs := s.blocks.any fun b => b.id.handle == h && b.state == .running
    if !g.timerOn || g.record.sliceLen = 0 || g.record.evStamp = 0 || !runs then .next s
    else .next (s.deviceWrite g g.record.evStamp (.atomic 0 0 false (leBytes 8 1) []))

/-! ## Arrivals (R42, R79, R288, R410) -/

/-- An arrival of a gang, or of a copy's landed piece, is performed. A release raises the interval counter once its write is recorded
(R437). -/
def State.gangArrival (s : State) (a : Arrival) (gid : GangId) : State :=
  match a.op.bind s.op? with
  | some o =>
    if o.fault.isSome then s
    else match s.engineWrite o (.word true) a.space a.addr 16 (.arrival a.n) true with
      | (s, .fault f) => s.failOp o 2 f
      | (s, .remote p) => match s.gang? gid with
        | some g => s.sendFrom (s.engineRequester gid) gid p a.addr a.space (.arrival a.n) (.engine o.id)
            (engineUse g a.space (.arrival a.n) true) 0
        | none => s
      | (s, _) => s
  | none => match a.place, s.gang? gid with
    | some p, some g =>
      let u : SyncUse := ⟨some a.scope, a.scope, a.space == 1, g.dmask⟩
      let rel := a.rel && a.scope != 0
      if p.isRemote || p.die (s.gangDie gid) != s.gangDie gid then
        (s.sendAccess gid p a.addr a.space (.arrival a.n) (.arrival gid a.slice a.words rel) u 0).countSent gid 0 1
      else if s.reachesKilled gid a.space then
        (s.trapAccess gid 0 a.slice 0 (killedFault a.addr) a.words).countSent gid 0 1
      else match s.performAt g 0 0 a.addr p (.arrival a.n) u with
      | (s, ⟨.error (c, i), _⟩) => (s.trapAccess gid 0 a.slice 0 ⟨c, i, a.space, a.addr⟩ a.words).countSent gid 0 1
      | (s, ⟨.ok _, race⟩) =>
        let s := (if rel then s.bumpInterval gid else s).countSent gid 0 1
        match race with
        | some r => s.trapRace gid 0 a.slice 0 r a.words
        | none => s
    | _, _ => s
/-- Whether a gang has scalar accesses in flight to other packages. -/
def State.scalarSent (s : State) (g : GangId) : Bool := s.outstanding.any fun o => match o.owner with
  | .scalar _ x _ _ _ | .arrival x _ _ _ | .reread x _ _ _ _ => x == g
  | _ => false
/-- Whether an arrival in flight may be performed next, among those before it in issue order: .REL after every earlier scalar access of
its gang (R288), arrivals of a gang at one word in their order (R338). -/
def State.arrivalTurn (s : State) (a : Arrival) (before : List Arrival) : Bool :=
  match a.src, a.op, a.place with
  | some g, none, some p =>
    let mine := before.filter fun x => x.ofGang g
    (!a.rel || (mine.isEmpty && !s.scalarSent g)) &&
      !(mine.any fun x => match x.place with | some q => p == q || p.meets 16 q 16 | none => false) &&
      !s.flightMeets g false p 16 && s.hasRoom (s.requester g) 1
  | some g, some _, _ => s.hasRoom (s.engineRequester g) 1
  | _, _, _ => true
/-- Whether trying to perform an arrival changes anything: it does not wait for a migrating page, or its wait starts the migration. -/
def State.arrivalMoves (s : State) (a : Arrival) : Bool :=
  let moves (r : State × Located) : Bool := match r with
    | (t, .wait _) => t.migrations.length != s.migrations.length
    | _ => true
  match a.src, a.op with
  | some _, none => true
  | some g, some _ => moves (s.locate g (.word true) a.space a.addr 16)
  | none, _ => match s.grid? a.handle with
    | some g => moves (s.deviceLocate g (.word true) a.addr 16)
    | none => true
/-- SYNC_WORD_ARRIVAL: arrival `n` in flight reaches its word. One that finds its page migrating stays in flight. -/
def execSyncWordArrival (n : Nat) (s : State) : Outcome :=
  match s.arrivals[n]? with
  | none => .next s
  | some a =>
    if !s.arrivalTurn a (s.arrivals.take n) then .next s
    else
      let gone : State := { s with arrivals := s.arrivals.eraseIdx n }
      match a.src, a.op with
      | some g, none => .next (gone.gangArrival a g)
      | some g, some _ => match s.locate g (.word true) a.space a.addr 16 with
        | (t, .wait _) => .next t
        | _ => .next (gone.gangArrival a g)
      | none, _ => match s.grid? a.handle with
        | some g => match gone.deviceTry g a.addr (.arrival a.n) with
          | (t, true) => .next (t.tryComplete a.handle)
          | (t, false) => .next { t with arrivals := s.arrivals }
        | none => .next gone

end Sys2Proof.Machine
end

