-- ==== Sys2Proof/Machine/Span.lean ====
section
/-! DEFINITION. Spans: the rounds of the coordinator, reservations, stop-issue, kills and span barriers (R45, R65, R112, R226, R286, R431,
R458). -/
namespace Sys2Proof.Machine

/-- The order of reservation keys (R45). -/
def keyLt (a b : SpanKey) : Bool := a.coord < b.coord || (a.coord == b.coord && a.spanId < b.spanId)
def State.span? (s : State) (k : SpanKey) : Option Span := s.spans.find? fun x => x.key == k
def State.setSpan (s : State) (x : Span) : State := { s with spans := s.spans.filter (·.key != x.key) ++ [x] }
/-- Whether a message to a member can leave: the member is this package, or some usable plane reaches it (R458). -/
def State.memberReach (s : State) (x : Span) (m : Nat) : Bool :=
  x.members.getD m 0 == s.pkgId || (s.planeFor (x.members.getD m 0 % 32) (x.members.getD m 0)).isSome
/-- A message of the coordinator to a member (R99). -/
def State.tellMember (s : State) (x : Span) (m : Nat) (msg : ControlMsg) : State := s.tell (x.members.getD m 0) msg
/-- Members other than this package, by index. -/
def State.otherMembers (s : State) (x : Span) : List Nat := (List.range x.members.length).filter fun m => x.members.getD m 0 != s.pkgId

/-! ## Reservations (R45, R226) -/

/-- Whether a span grid of this package waits for placement: nothing of it is dispatched, or its whole cohort is placement pending. -/
def State.spanWaiting (s : State) (g : Grid) : Bool :=
  !g.spanKilled && !(g.waitsDep) && (!(s.readyCohorts g).isEmpty || !(s.pendingCohorts g).isEmpty)
/-- The blocks of a span's cohort that are to be placed. -/
def State.spanBlocks (s : State) (g : Grid) : List Nat := if (s.pendingCohorts g).isEmpty then s.undispatched g else s.pendingOf g 0
/-- The answer of this package to a reserve request, with its effect; none while the request waits on a reservation of higher key. -/
def State.tryReserve (s : State) (k : SpanKey) : State × Option Bool :=
  match s.spanGrid? k with
  | none => (s, some false)
  | some g =>
    if !s.spanWaiting g then (s, some false)
    else match s.reservation with
      | some v => if v.key = k then (s, some true) else if keyLt k v.key then (s, none) else (s, some false)
      | none => match s.choosePlaces g (s.spanBlocks g) g.record.firstDies with
        | some p => ({ s with reservation := some (Reservation.mk k g.handle p) }, some true)
        | none => (s, some false)
/-- A commit places the cohort in its reserved room; without a reservation of its key it does nothing. A die that a supervisor's COPY to its
weight store holds closed is none of the cohort's, since the copy waits for the reservation (R309; log 68). -/
def State.commitLocal (s : State) (k : SpanKey) : State :=
  match s.reservation, s.spanGrid? k with
  | some v, some g =>
    if v.key ≠ k then s
    else
      let s := { s with reservation := none }
      let fresh := (s.pendingCohorts g).isEmpty
      let s := if fresh then s.dispatchCohort g 0 v.places else s.placeAgain g 0 v.places
      match s.grid? g.handle with
      | some g => s.setGrid { g with windowOpen := fresh, stopIssued := false, spanPlaced := false }
      | none => s
  | _, _ => s
/-- A release frees the reservation of its key; without one it does nothing (R112). -/
def State.releaseLocal (s : State) (k : SpanKey) : State := { s with reservation := s.reservation.filter (·.key != k) }

/-- Every member is placed, and what was saved is loaded: this member's gangs issue, and its window is open (R45, R53, R227). -/
def State.spanGo (s : State) (g : Grid) : State :=
  let s := s.setGrid { g with spanPlaced := true, windowOpen := true }
  (s.blocks.filter fun b => b.id.handle == g.handle && b.state == .loaded).foldl State.runLoaded s
/-- The coordinator tells every other member, and goes on itself (log 33). -/
def State.spanGoAll (s : State) (x : Span) (g : Grid) : State :=
  ((List.range x.members.length).filter fun m => x.members.getD m 0 != s.pkgId).foldl (fun s m => s.tellMember x m (.spanReady x.key m))
    ((s.setSpan { x with round := .placed, loaded := [] }).spanGo g)
/-- Whether a grid's blocks await images, or are loaded and wait for the span. -/
def State.spanReloads (s : State) (h : Word) : Bool := s.blocks.any fun b => b.id.handle == h && (b.state == .placed || b.state == .loaded)
/-- The coordinator has learnt that a member is loaded, or is loaded itself: the span runs once all are. -/
def State.spanLoaded (s : State) (x : Span) : State :=
  match s.grid? x.handle with
  | none => s
  | some g =>
    let mine := (s.blocks.filter fun b => b.id.handle == g.handle && b.state != .exited && b.state != .killed).all fun b => b.state == .loaded
    let others := ((List.range x.members.length).filter fun m => x.members.getD m 0 != s.pkgId).all fun m => x.loaded.contains m
    if x.round == .placed && mine && others then s.spanGoAll x g else s

/-! ## The coordinator -/

/-- Every member has acknowledged the round's message. -/
def State.allAcked (s : State) (x : Span) : Bool := (s.otherMembers x).all fun m => x.acked.contains m
/-- A commit or release round: the message to every other member, and its effect here. -/
def State.startCommit (s : State) (x : Span) : State :=
  let s := (s.commitLocal x.key).setSpan { x with round := .commit, acked := [], attempts := [] }
  (s.otherMembers x).foldl (fun s m => s.tellMember x m (.spanCommit x.key m)) s
def State.startRelease (s : State) (x : Span) : State :=
  let s := (s.releaseLocal x.key).setSpan { x with round := .release, acked := [], attempts := [] }
  (s.otherMembers x).foldl (fun s m => s.tellMember x m (.spanRelease x.key m)) s
/-- Ends the reserve round once every member has answered. -/
def State.judge (s : State) (x : Span) : State :=
  if (List.range x.members.length).all fun m => x.answers.any fun a => a.1 == m then
    (if x.answers.all (·.2) then s.startCommit x else s.startRelease x)
  else s
def State.answer (s : State) (k : SpanKey) (m : Nat) (yes : Bool) : State :=
  match s.span? k with
  | some x =>
    if x.round != .reserve || x.answers.any fun a => a.1 == m then s
    else
      let x := { x with answers := x.answers ++ [(m, yes)] }
      (s.setSpan x).judge x
  | none => s
/-- This package's answer, to its own coordinator or by message; a request that must wait joins the queue. -/
def State.reserveLocal (s : State) (k : SpanKey) : State :=
  match s.tryReserve k with
  | (s, none) => if s.reserveQueue.contains k then s else { s with reserveQueue := s.reserveQueue ++ [k] }
  | (s, some yes) =>
    let s := { s with reserveQueue := s.reserveQueue.filter (· != k) }
    if k.coord = s.pkgId then s.answer k 0 yes else s.tell k.coord (.spanAnswer k yes)
/-- The reserve round. A member that no plane reaches counts as no at once (R458). -/
def State.startReserve (s : State) (g : Grid) : State :=
  let far := fun (s : State) (x : Span) => (s.otherMembers x).filter fun m => !s.memberReach x m
  let x : Span :=
    { key := g.spanKey, handle := g.handle, members := g.record.pkgList, round := .reserve, answers := [], acked := [], loaded := [],
      attempts := [] }
  let x := { x with answers := (far s x).map fun m => (m, false) }
  let s := s.setSpan x
  let s := ((s.otherMembers x).filter (s.memberReach x)).foldl (fun s m => s.tellMember x m (.spanReserve x.key m)) s
  s.reserveLocal x.key
/-- The coordinator of a span starts its rounds when its own member is queued or resumed. -/
def State.askPlacement (s : State) (g : Grid) : State :=
  if g.record.spanSize ≠ 0 && g.member s.pkgId = 0 then
    match s.span? g.spanKey with
    | some x => if x.round == .placed || x.round == .stop then s.startReserve g else s
    | none => s.startReserve g
  else s

/-! ## Stop-issue (R51, R431) -/

/-- A member stops issue for its gangs, and its blocks begin to halt. -/
def State.stopLocal (s : State) (g : Grid) : State :=
  let mine := s.blocks.filter fun b => b.id.handle == g.handle
  let s := mine.foldl (fun s b => (s.blockGangs b.id).foldl (fun s x => s.setGang { x with stopped := true }) s) s
  mine.foldl (fun s b => s.haltBlock b.id) s
/-- The window counts as closed once every member has acknowledged. -/
def State.closeWindow (s : State) (x : Span) : State :=
  if s.allAcked x then
    let s := s.setSpan { x with round := .placed }
    match s.grid? x.handle with
    | some g => s.setGrid { g with windowOpen := false }
    | none => s
  else s
/-- The coordinator sends stop-issue to every member. -/
def State.issueStop (s : State) (g : Grid) : State :=
  match s.span? g.spanKey with
  | none => s
  | some x =>
    if g.stopIssued then s
    else
      let x := { x with round := .stop, acked := [], attempts := [] }
      let s := ((s.setGrid { g with stopIssued := true }).setSpan x).stopLocal g
      ((s.otherMembers x).foldl (fun s m => s.tellMember x m (.spanStop x.key m)) s).closeWindow x
/-- PREEMPT of a span: its coordinator stops every member; another member stops its own gangs at once (R50) and asks it to. -/
def State.stopSpan (s : State) (g : Grid) : State :=
  if g.member s.pkgId = 0 then s.issueStop g else (s.stopLocal g).tell g.spanKey.coord (.spanStop g.spanKey 0)

/-! ## The steps -/

/-- SPAN_RESERVE_REQUEST. -/
def execSpanReserveRequest (k : SpanKey) (s : State) : Outcome := .next (s.reserveLocal k)
/-- SPAN_RESERVE_ANSWER. -/
def execSpanReserveAnswer (k : SpanKey) (member : Nat) (yes : Bool) (s : State) : Outcome := .next (s.answer k member yes)
/-- SPAN_COMMIT: answered yes always (R112). -/
def execSpanCommit (k : SpanKey) (s : State) : Outcome := .next ((s.commitLocal k).tell k.coord (.spanCommitAck k .commit))
/-- SPAN_RELEASE. -/
def execSpanRelease (k : SpanKey) (s : State) : Outcome := .next ((s.releaseLocal k).tell k.coord (.spanCommitAck k .release))
/-- A member's acknowledgement of the round in progress: a commit or release is no longer resent. Once every commit is acknowledged the
span is placed; it runs at once, or when every member has loaded what was saved. -/
def State.commitAck (s : State) (x : Span) (member : Nat) : State :=
  let x := { x with acked := (x.acked.filter (· != member)) ++ [member] }
  if !s.allAcked x then s.setSpan x
  else if x.round == .release then s.setSpan { x with round := .retry }
  else
    let x := { x with round := .placed }
    let s := s.setSpan x
    match s.grid? x.handle with
    | some g => if s.spanReloads x.handle then s.spanLoaded x else s.spanGoAll x g
    | none => s
/-- COMMIT_ACKNOWLEDGED: a member has acknowledged a round, or has loaded its cohort; or the coordinator says that every member is ready
(R45, R112; log 33). -/
def execCommitAcknowledged (k : SpanKey) (a : MemberAck) (s : State) : Outcome :=
  match a.what with
  | .ready => match s.spanGrid? k with
    | some g => .next (s.spanGo g)
    | none => .next s
  | .loaded => match s.span? k with
    | some x =>
      let x := { x with loaded := (x.loaded.filter (· != a.member)) ++ [a.member] }
      .next ((s.setSpan x).spanLoaded x)
    | none => .next s
  | .commit => match s.span? k with
    | some x => if x.round == .commit then .next (s.commitAck x a.member) else .next s
    | none => .next s
  | .release => match s.span? k with
    | some x => if x.round == .release then .next (s.commitAck x a.member) else .next s
    | none => .next s
/-- SPAN_RETRY_TIMER: 100 µs after a release round the coordinator asks again. -/
def execSpanRetryTimer (k : SpanKey) (s : State) : Outcome :=
  match s.span? k with
  | some x => match s.grid? x.handle with
    | some g => if x.round == .retry then .next (s.startReserve g) else .next s
    | none => .next s
  | none => .next s

/-- The message of a round, sent again. -/
def Span.message (x : Span) (m : Nat) : Option ControlMsg :=
  match x.round with
  | .commit => some (.spanCommit x.key m)
  | .release => some (.spanRelease x.key m)
  | .stop => some (.spanStop x.key m)
  | _ => none
/-- SPAN_MESSAGE_TIMEOUT (R458): a missing reserve answer counts as no; other messages are sent again, and after eight attempts the
coordinator gives up and kills the span. -/
def execSpanMessageTimeout (k : SpanKey) (member : Nat) (s : State) : Outcome :=
  match s.span? k with
  | none => .next s
  | some x =>
    if x.round == .reserve then .next (s.answer k member false)
    else match x.message member with
      | none => .next s
      | some msg =>
        if x.acked.contains member then .next s
        else
          let n := (lookupAt member x.attempts).getD 1
          if n ≥ 8 then
            let s := s.event 12 0x58 10 0 (x.members.getD member 0) none []
            match s.grid? x.handle with
            | some g => .next (s.killSpan g true)
            | none => .next s
          else
            let s := s.setSpan { x with attempts := insertAt member (n + 1) x.attempts }
            .next (s.tellMember x member msg)

/-- SPAN_STOP_ISSUE: a member stops and acknowledges; the coordinator that is asked to stop its span stops every member. -/
def execSpanStopIssue (k : SpanKey) (s : State) : Outcome :=
  match s.spanGrid? k with
  | some g =>
    if g.member s.pkgId = 0 then .next (s.issueStop g)
    else .next (((s.setGrid { g with stopIssued := true }).stopLocal g).tell k.coord (.spanStopAck k))
  | none => .next (s.tell k.coord (.spanStopAck k))
/-- STOP_ISSUE_ACK. -/
def execStopIssueAck (k : SpanKey) (member : Nat) (s : State) : Outcome :=
  match s.span? k with
  | some x =>
    if x.round != .stop then .next s
    else
      let x := { x with acked := (x.acked.filter (· != member)) ++ [member] }
      .next ((s.setSpan x).closeWindow x)
  | none => .next s

/-- SPAN_KILL_MESSAGE: another member was killed, or the coordinator gave up. -/
def execSpanKillMessage (k : SpanKey) (s : State) : Outcome :=
  match s.spanGrid? k with
  | some g => if g.spanKilled then .next s else .next ((s.killSpan g false).tryComplete g.handle)
  | none => .next s

/-- What a message of a span barrier says is noted. -/
def State.noteBarrier (s : State) (k : SpanKey) (b : Nat) : SpanBarrierMsg → State
  | .othersArrived | .complete =>
    if s.spanArrived.contains (k, b) then s else { s with spanArrived := s.spanArrived ++ [(k, b)] }
  | .flush => if (s.spanFlushed k b).isSome then s else s.setSpanFlush k b false
  | .flushed => if (s.spanFlushed k b).isSome then s.setSpanFlush k b true else s
/-- A member with no gang left answers for itself: nothing is to be flushed, and it has arrived in the next phase too (R286). -/
def State.absentBarrier (s : State) (k : SpanKey) (b : Nat) : SpanBarrierMsg → State
  | .complete => (s.clearSpanBarrier k b).tell k.coord (.spanBarrier k b .othersArrived)
  | .flush => s.tell k.coord (.spanBarrier k b .flushed)
  | .othersArrived | .flushed => s
/-- SPAN_BARRIER_COMBINE: the other members' gangs have all arrived, or the phase is complete everywhere (R286); between the two the
coordinator has every member perform its flushes (log 33). A coordinator whose own gangs have all exited ends the phase for the others. In
an execution phase of a deterministic grid the message is noted, and acts at the next round's start (R362). -/
def execSpanBarrierCombine (k : SpanKey) (b : BitVec 4) (m : SpanBarrierMsg) (s : State) : Outcome :=
  match s.spanGrid? k with
  | none => .next (s.absentBarrier k b.toNat m)
  | some g =>
    if s.spanExited g then
      .next (if g.member s.pkgId = 0 then (s.noteBarrier k b.toNat m).spanOnly g b.toNat else s.absentBarrier k b.toNat m)
    else
      let s := s.noteBarrier k b.toNat m
      if g.record.determ && g.phase == .executing then .next s
      else match s.blocks.find? fun x => x.id.handle == g.handle && !x.freed && (x.barrier b.toNat).scope == 5 with
        | some x => .next (s.barrierCheck x.id b.toNat)
        | none => .next s

end Sys2Proof.Machine
end

