-- ==== Sys2Proof/Machine/Supervisor.lean ====
section
/-! DEFINITION. The supervisor group but for context images: LAUNCH, PREEMPT, RESUME, KILL, QUOTA (R223 to R228, R234, R235, R415, R419). -/
namespace Sys2Proof.Machine

/-- An instruction of the supervisor group: on a compute core it is of the wrong kind (R178); a false guard passes it. -/
def supervisor (s : State) (gd : Guard) (k : Gang → BitVec 8 → Nat → Slice → State) : Outcome :=
  withScalar s fun g m =>
    if !g.id.isControl then s.trapScalar g m 0x05 1
    else match g.leader m gd with
      | some (i, sl) => k g m i sl
      | none => s.passPart g m
/-- The issuing part goes on, whatever has happened to its gang's record meanwhile. -/
def State.passIssuer (s : State) (g : GangId) (m : BitVec 8) : State :=
  match s.gang? g with
  | some g => (s.passPart g m).dropFetched g.id
  | none => s

/-! ## LAUNCH (R225) -/

/-- Grid entries of a distributor. -/
def gridEntries : Nat := 64
/-- Whether a die's distributor has a free grid entry (R224). -/
def State.entryFree (s : State) (die : Nat) : Bool := (s.grids.filter fun g => g.record.dies.contains die).length < gridEntries
/-- The producer of an early-started grid (R43): same class, launched most recently, signalling the word, not fully dispatched.
DESIGN CHOICE (log 61): a grid with DEPWORD 0 has none, though an earlier grid's SIGWORD may be 0 as well. -/
def State.producerOf (s : State) (r : LaunchRec) : Option Word :=
  if !r.early || r.depWord = 0 then none
  else
    let l := s.grids.filter fun g => g.record.cls == r.cls && g.record.sigWord == r.depWord && !(s.undispatched g).isEmpty
    (l.foldl (fun (m : Option Grid) g => match m with
      | some x => if x.order < g.order then some g else some x
      | none => some g) none).map (·.handle)
/-- A queued grid. -/
def newGrid (h : Word) (r : LaunchRec) (params : List Byte) (die core order : Nat) (producer : Option Word) : Grid :=
  { handle := h, record := r, params := params, ctxDie := die, ctxCore := core, order := order, next := 0,
    quota := if r.esQuota = 0 then 4 else r.esQuota, producer := producer, held := [], killedBlocks := [], depMet := r.depWord == 0,
    depReported := false, timerOn := false, round := 0, phase := .notStarted, image := none, committed := [], windowOpen := false,
    spanKilled := false, detached := [], stopIssued := false, spanPlaced := false }
/-- Queues a grid for a control core: its handle, and the state. DESIGN CHOICE (log 67): the count of a core's LAUNCHes in a handle is 0 for the
first, and a LAUNCH that traps or finds no free entry is not counted. -/
def State.enqueue (s : State) (die core : Nat) (r : LaunchRec) (params : List Byte) : State × Word :=
  match s.control? die core with
  | none => (s, 0)
  | some c =>
    let h : Word := BitVec.ofNat 32 (die * 2 ^ 28 + core * 2 ^ 27 + c.launches % 2 ^ 27)
    let g := newGrid h r params die core s.clock (s.producerOf r)
    let s := { s.setControl { c with launches := c.launches + 1 } with grids := s.grids ++ [g] }
    (s.askPlacement g, h)

/-- LAUNCH: the record, its package list and its parameters are read once; every rule of R415 in order; then a free entry on each die. -/
def execLaunch (gd : Guard) (d : Dst) (a : Pair) (s : State) : Outcome :=
  supervisor s gd fun g m i sl =>
    let x := sl.pair a
    let refuse (s : State) (n : Nat) : State := (s.trapSlice g i 0x0C n).dropFetched g.id
    let fault (s : State) (f : AccFault) : State := (s.trapAccess g.id 0 i 0 f s.issue.words).dropFetched g.id
    if 2 ^ 56 ≤ x || x % 128 ≠ 0 then refuse s 1
    else match s.pageRead g.id x 128 with
      | (s, .fault f) => fault s f
      | (s, .ok bs) =>
        match recordBad bs with
        | some n => refuse s n
        | none =>
          let r := parseRecord bs
          match s.pageRead g.id (recPkgAddr bs) (2 * r.spanSize) with
          | (s, .fault _) => refuse s 7
          | (s, .ok l) =>
            let r := { r with pkgList := (List.range r.spanSize).map fun k => ofLeBytes ((l.drop (2 * k)).take 2) }
            match r.bad s.pkgId with
            | some n => refuse s n
            | none =>
              if !s.everFits r then refuse s 11
              else match s.pageRead g.id (recParams bs).1 (recParams bs).2 with
                | (s, .fault f) => fault s f
                | (s, .ok params) =>
                  if r.dies.all s.entryFree then
                    let q := s.enqueue g.id.context.1 g.id.context.2 r params
                    match q.1.gang? g.id with
                    | some g => (q.1.passPart (g.mapPart m fun j sl => if j = i then sl.setDst d q.2 else sl) m).dropFetched g.id
                    | none => q.1
                  else
                    let s := ((s.keepRead g.id x bs).keepRead g.id (recPkgAddr bs) l).keepRead g.id (recParams bs).1 params
                    s.waitPart g m (.gridEntry r.dies)
                | (s, _) => s.waitPart g m .fetch
          | (s, _) => s.waitPart g m .fetch
      | (s, _) => s.waitPart g m .fetch

/-! ## Targets (R223, R224, R227, R419) -/

/-- Linear indices of a cohort of a grid. -/
def Grid.cohortOf (g : Grid) (i : Nat) : List Nat := (List.range g.record.cohort).map (i / g.record.cohort * g.record.cohort + ·)
/-- The grid and the block indices that a target names, or the INFO of its refusal. -/
def State.target (s : State) (sl : Slice) (k : Target) (h : Word) : Except Nat (Grid × List Nat) :=
  match s.grid? h with
  | none => .error 1
  | some g =>
    let n := g.blockCount
    match k with
    | .grid => .ok (g, List.range n)
    | .span => if g.record.spanSize = 0 then .error 10 else .ok (g, List.range n)
    | .block b => if n ≤ (sl.src b).toNat then .error 2 else .ok (g, [(sl.src b).toNat])
    | .cohort b => if n ≤ (sl.src b).toNat then .error 2 else .ok (g, g.cohortOf (sl.src b).toNat)
/-- On a span member PREEMPT and RESUME act on the whole span (R227). -/
def Grid.widen (g : Grid) (l : List Nat) : List Nat := if g.record.spanSize = 0 then l else List.range g.blockCount
/-- Dispatched blocks of a grid among indices, both copies. -/
def State.targetBlocks (s : State) (g : Grid) (l : List Nat) : List Block :=
  s.blocks.filter fun b => b.id.handle == g.handle && l.contains b.id.index

/-- A supervisor instruction on a target. -/
def onTarget (s : State) (gd : Guard) (k : Target) (a : Src) (f : Gang → BitVec 8 → Nat → Grid → List Nat → State) : Outcome :=
  supervisor s gd fun g m i sl =>
    match s.target sl k (sl.src a) with
    | .error e => s.trapSlice g i 0x0D e
    | .ok t => f g m i t.1 t.2

/-! ## PREEMPT (R51, R227, R228) -/

/-- The action of R227's table: undispatched cohorts are held, running cohorts halt, a block at or before placement is saved. -/
def State.preempt (s : State) (g : Grid) (l : List Nat) : State :=
  let cohorts := (l.flatMap g.cohortOf).eraseDups
  let hold := (s.undispatched g).filter fun i => cohorts.contains i && !g.held.contains i
  let s := s.setGrid { g with held := g.held ++ hold }
  let s := (s.targetBlocks g l).foldl (fun s b =>
    if b.state == .pending || b.state == .placed then s.setBlock { b with state := .saved } else s) s
  if g.record.spanSize ≠ 0 then
    if (s.targetBlocks g l).any fun b => b.state == .running then s.stopSpan { g with held := g.held ++ hold } else s
  else (s.targetBlocks g cohorts).foldl (fun s b => s.haltBlock b.id) s
def execPreempt (gd : Guard) (k : Target) (a : Src) (s : State) : Outcome :=
  onTarget s gd k a fun g m _ gr l => (s.preempt gr (gr.widen l)).passIssuer g.id m

/-! ## RESUME (R227, R234) -/

/-- Held cohorts go back to the queue, halted blocks run in place, saved blocks await placement. -/
def State.resume (s : State) (g : Grid) (l : List Nat) : State :=
  let cohorts := (l.flatMap g.cohortOf).eraseDups
  let bs := (s.targetBlocks g l).filter fun b => !b.killing
  let inPlace := bs.filter fun b => b.state == .halted
  let saved := bs.filter fun b => b.state == .saved
  let g := { g with held := g.held.filter fun i => !cohorts.contains i }
  let g := if inPlace.isEmpty then g else { g with windowOpen := true, stopIssued := false }
  let s := s.setGrid g
  let s := inPlace.foldl (fun s b => s.resumeInPlace b.id) s
  let s := saved.foldl (fun s b => s.setBlock { b with state := .pending }) s
  if saved.isEmpty then s else s.askPlacement g
/-- RESUME waits for a halting block; a block halted by disposition P may not run on in place (R389), and one being killed is to it as
killed (R421). -/
def execResume (gd : Guard) (k : Target) (a : Src) (s : State) : Outcome :=
  onTarget s gd k a fun g m i gr l =>
    let l := gr.widen l
    let bs := (s.targetBlocks gr l).filter fun b => !b.killing
    let halting := (bs.filter fun b => b.state == .halting).map (·.id)
    if bs.any fun b => b.state == .halted && b.integrity then s.trapSlice g i 0x0D 9
    else if !halting.isEmpty then s.waitPart g m (.halting halting)
    else (s.resume gr l).passIssuer g.id m

/-! ## KILL (R228) -/

/-- KILL halts as PREEMPT does, which halts every block of a cohort, and kills its target. -/
def State.killTarget (s : State) (g : Grid) (l : List Nat) : State :=
  if g.record.spanSize ≠ 0 then (if g.spanKilled then s else s.killSpan g true)
  else
    let s := (s.targetBlocks g l).foldl (fun s b => s.markKill b.id) (s.killQueued g.handle ((s.undispatched g).filter l.contains))
    (s.targetBlocks g (l.flatMap g.cohortOf).eraseDups).foldl (fun s b => s.haltBlock b.id) s
/-- Whether every block of a target has ended and is free. -/
def State.targetDead (s : State) (h : Word) (l : List Nat) : Bool :=
  s.blocks.all fun b => b.id.handle != h || !l.contains b.id.index || ((b.state == .exited || b.state == .killed) && b.freed)
/-- KILL marks its target and completes once every block of it has ended. -/
def execKill (gd : Guard) (k : Target) (a : Src) (s : State) : Outcome :=
  onTarget s gd k a fun g m _ gr l =>
    let s := (s.killTarget gr (gr.widen l)).tryComplete gr.handle
    if s.targetDead gr.handle (gr.widen l) then s.passIssuer g.id m else s.waitPart g m (.killed gr.handle (gr.widen l) s.issueSize)

/-! ## QUOTA (R235) -/

def execQuota (gd : Guard) (a b : Src) (s : State) : Outcome :=
  supervisor s gd fun g m i sl =>
    match s.grid? (sl.src a) with
    | none => s.trapSlice g i 0x0D 1
    | some gr =>
      let v := (sl.src b).toNat
      if 7 < v then s.trapSlice g i 0x0D 4
      else (s.setGrid { gr with quota := if v = 0 then 4 else v }).passPart g m

end Sys2Proof.Machine
end

