-- ==== Sys2Proof/Machine/Remote.lean ====
section
/-! DEFINITION. Requests and replies: a reply at its requester, timeouts, a request at its target, and host RMAs (R88 to R92, R98, R101 to
R103, R446 to R451, R455, R459). -/
namespace Sys2Proof

/-- What an operation needs of an entry or a page (R84). -/
def ReqOp.kind : ReqOp → Machine.AccKind
  | .load _ => .load
  | .store _ => .store
  | .atomic _ _ _ _ _ => .atomic
  | .reduce _ _ _ _ => .reduce
  | .line _ _ => .reduce
  | .gauge k _ _ _ => .gauge (if k ≥ 3 then 4 else 2)
  | .arrival _ => .word true
/-- The line address on which a request's plane is chosen, modulo the planes (R99). -/
def ReqAddr.plane : ReqAddr → Nat
  | .aperture off => off / 128 % 32
  | .polder _ _ _ _ off => off / 128 % 32
  | .pa a => a / 128 % 32
/-- A waiting request that an arriving one must follow: requests of one die to one line are performed in the order sent (R99). -/
def Request.mustFollow (r : Request) : Instr → Bool
  | .requestAtTarget q => q.src.pkg == r.src.pkg && q.src.die == r.src.die && q.addr.plane == r.addr.plane
  | _ => false
end Sys2Proof

namespace Sys2Proof.Machine

/-! ## Ends of accesses of a commit slot (R361, R369, R392) -/

/-- A fault or a mismatch in a commit slot traps the slot's gang with SRC 5; an entry is not a lane instruction to be replayed. -/
def State.slotFault (s : State) (gid : GangId) (f : AccFault) (lanes : BitVec 32) : State :=
  s.takeTrap gid ⟨f.cause, 5, 0, f.info, lanes, some (f.space, f.addr), 0, []⟩
/-- A race that an entry completes traps as soon as it is found (R439). -/
def State.slotRace (s : State) (gid : GangId) (r : Option (Nat × RaceEntry)) : State :=
  match r with
  | some r => s.trapRace gid 5 0 0 r []
  | none => s

/-- The results of a VATM of the primary go to the shadow (R369). -/
def State.copyLanes (s : State) (p sh : GangId) (w : LaneWord) (m : BitVec 8) : State :=
  match s.gang? p, s.gang? sh with
  | some a, some b =>
    let l := (a.issueLanes m w true).flatMap fun x => (List.range (Nat.max 1 (w.bytes / 4))).map fun k => (w.d.toNat + k, x)
    s.setGang { l.foldl (fun (b : Gang) p => b.setVreg p.1 p.2 (a.vreg p.1 p.2)) (b.replayed m 0) with ended := some .plain }
  | _, _ => s
/-- The end of a slot's VATM: it has written its registers, or some lanes fault, which a replay performs (R424). -/
def State.endAtomic (s : State) (gid : GangId) (faults : List (Nat × AccFault)) (race : Option (Nat × RaceEntry)) : State :=
  match s.gang? gid with
  | none => s
  | some g => match g.ended with
    | some (.atomic w m idx words) =>
      let g := g.replayed m (laneMask (faults.map (·.1)))
      let copy (s : State) : State := match s.shadowOf gid with
        | some q => if w.space = 1 then s else s.copyLanes gid q w m
        | none => s
      if faults.isEmpty then
        (((copy s).setGang { g with ended := some .plain }).orderDone gid w.order w.scope).slotRace gid race
      else
        let s := (s.setGang g).trapLanesFrom 5 gid m idx faults words
        match s.gang? gid, (s.shadowOf gid).bind s.gang? with
        | some g, some q => s.setGang { q with replay := g.replay, replaySeq := g.replaySeq }
        | _, _ => s
    | _ => s.slotRace gid race

/-! ## At the requester (R98, R449, R455) -/

/-- What a reply says of its access: the answer's bytes, or the fault. -/
def replyOf (o : Outgoing) : ReplyBody → Except AccFault (List Byte)
  | .data bs => .ok bs
  | .done => .ok []
  | .notSupported => .error ⟨0x50, refusedInfo o.op, o.space, o.addr⟩
  | .error c i => .error ⟨c.toNat, i.toNat, o.space, o.addr⟩

/-- Whether a request belongs to a waiting instruction. -/
def Owner.inWait (r : RemoteWait) : Owner → Bool
  | .lane n g l _ _ _ => r.laneStream && n == r.n && g == r.gang && bit r.mask (l / 4)
  | .merge n g l _ _ _ => r.laneStream && n == r.n && g == r.gang && bit r.mask (l / 4)
  | .scalar n g i _ _ => !r.laneStream && n == r.n && g == r.gang && bit r.mask i
  | _ => false
/-- Records the fault of one lane or slice with its instruction. -/
def State.remoteFault (s : State) (o : Outgoing) (lane : Nat) (f : AccFault) : State :=
  { s with remote := s.remote.map fun r => if o.owner.inWait r then { r with faults := r.faults ++ [(lane, f)] } else r }
/-- The end of an instruction that its stream has gone on past: a release or atomic operation raises the race detector's counter, a race or a
fault traps the gang, with the instruction's words and lane index in the record (R393, R449). -/
def State.endAhead (s : State) (g : Gang) (r : RemoteWait) : State :=
  if r.faults.isEmpty then
    let s := s.setGang g
    let s := if r.laneStream then s.orderDone g.id (wordsOrder r.words).1 (wordsOrder r.words).2 else s
    match r.race with
    | some x => s.trapRace g.id (if r.laneStream then 1 else 0) (lowestSlice r.mask) r.laneIdx x r.words
    | none => s
  else if r.laneStream then
    let faults := g.lineFaults r.mask r.words r.faults
    (s.setGang (g.replayed r.mask (laneMask (faults.map (·.1))))).trapLanes g.id r.mask r.laneIdx faults r.words
  else (s.setGang g).trapSlices g.id r.faults r.words
/-- An instruction whose last reply has come: its count falls, then it ends or traps. The accesses of a commit slot have no count:
a record of size 1 stands for entries of the buffers, of size 2 for a VATM. -/
def State.endRemote (s : State) (r : RemoteWait) : State :=
  let s := { s with remote := s.remote.erase r }
  match s.gang? r.gang with
  | none => s
  | some g =>
    if r.laneStream && r.size = 1 then match r.faults with
      | [] => s
      | f :: _ => s.slotFault r.gang f.2 (BitVec.ofNat 32 (2 ^ f.1))
    else if r.laneStream && r.size = 2 then s.endAtomic r.gang r.faults r.race
    else
      let g := g.setAccesses r.clsL ((g.accesses r.clsL).finish r.tok)
      if r.ahead then s.endAhead g r
      else if r.laneStream then s.endLane g r.mask r.faults r.race r.words else s.endScalar g r.mask r.faults r.race r.size r.words
/-- Ends the instructions whose requests have all been answered. -/
def State.sweepRemote (s : State) (o : Owner) : State :=
  (s.remote.filter fun r => o.inWait r && !(s.outstanding.any fun x => x.owner.inWait r) &&
    !s.heldMerges.any fun h => h.out.owner.inWait r).foldl (fun s r => s.endRemote r) s

/-- A word of another package that a WAIT or MWAIT has read: the part goes on with an acquire, or waits (R289). -/
def State.rereadDone (s : State) (o : Outgoing) (gid : GangId) (m : BitVec 8) (stamp : Bool) (v scope : Nat)
    (r : Except AccFault (List Byte)) : State :=
  let mine (w : RemoteWait) : Bool := w.gang == gid && !w.laneStream && w.mask == m
  match s.remote.find? mine, s.gang? gid with
  | some w, some g =>
    let s := { s with remote := s.remote.erase w }
    match r with
    | .error f => s.trapAccess gid 0 (lowestSlice m) 0 f w.words
    | .ok bs =>
      if waitHolds stamp v bs then (s.setGang ((g.setWait m none).runPart m fun _ sl => sl.advance w.size)).orderDone gid 1 scope
      else s.watch g m o.space o.addr (if stamp then .stamp o.space o.addr (BitVec.ofNat 64 v) else .sync o.space o.addr (BitVec.ofNat 32 v))
  | _, _ => s

/-- The second half of a GMRG whose source was sent for, in a lane: the source level is known, and the destination is merged (R282). Both
lie in GEN, which the race detector does not check (R436). -/
def State.mergeNext (s : State) (o : Outgoing) (n : Nat) (gid : GangId) (lane addr sc : Nat) (draws : List Nat) (level : Nat) : State :=
  match s.locateGauge gid 0 addr 2, s.gang? gid with
  | (s, .fault f), _ => s.remoteFault o lane { f with addr := addr }
  | (s, .ok p), some g =>
    if s.departs gid true p 1 then s.sendAccess gid p addr 0 (.gauge 1 sc level draws) (.lane n gid lane none 4 false) SyncUse.unchecked 0
    else match s.gaugeAt g lane 0 0 addr p 1 level draws SyncUse.unchecked with
      | (s, ⟨.error (c, i), _⟩) => s.remoteFault o lane ⟨c, i, 0, addr⟩
      | (s, _) => s
  | (s, .wait _), _ => { s with heldMerges := s.heldMerges ++ [⟨o, level⟩] }
  | (s, _), _ => s

/-- The end of an access that the device made on a grid's behalf in another package (R42, R416). -/
def State.deviceDone (s : State) (o : Outgoing) (h : Word) (r : Except AccFault (List Byte)) : State :=
  let s := match r, o.op, s.grid? h with
    | .ok bs, .load _, some g => if syncHolds false g.record.depGen.toNat bs then s.setGrid { g with depMet := true } else s
    | .error f, .load _, some g => if g.depReported then s else (s.setGrid { g with depReported := true }).deviceEvent g f
    | .error f, _, _ => s.event (fieldNat h 28 4) f.cause 10 0 h.toNat (some (f.space, f.addr)) []
    | _, _, _ => s
  s.tryComplete h

/-- The bytes of a load from another package with a deterministic gang's own stores over them (R360). -/
def State.ownStores (s : State) (g : GangId) (o : Outgoing) (bs : List Byte) : List Byte :=
  match o.op, s.gang? g with
  | .load _, some x => detFix (s.determ g) x o.space o.addr bs
  | _, _ => bs
/-- The first reply to a request, or the fault that ends it, does what its owner needs. -/
def State.settle (s : State) (o : Outgoing) (r : Except AccFault (List Byte)) : State :=
  match o.owner, r with
  | .lane _ g lane dst _ sext, .ok bs =>
    let bs := s.ownStores g o bs
    let s := s.countSent g 0 1
    let s := match s.gang? g, dst with | some x, some d => s.setGang (x.land d lane bs sext) | _, _ => s
    let s := match o.op, bs with | .gauge k _ _ _, [1] => if k ≤ 1 then s.setSat g else s | _, _ => s
    s.sweepRemote o.owner
  | .lane _ g lane _ _ _, .error f => ((s.countSent g 0 1).remoteFault o lane f).sweepRemote o.owner
  | .scalar _ g i dst _, .ok bs =>
    let bs := s.ownStores g o bs
    let s := s.countSent g 0 1
    let s := match s.gang? g, dst with | some x, some d => (if d = 31 then s else s.setGang (x.landSlice i d bs)) | _, _ => s
    s.sweepRemote o.owner
  | .scalar _ g i _ _, .error f => ((s.countSent g 0 1).remoteFault o i f).sweepRemote o.owner
  | .merge n g lane addr sc draws, .ok bs => ((s.countSent g 0 1).mergeNext o n g lane addr sc draws (ofLeBytes bs)).sweepRemote o.owner
  | .merge _ g lane _ _ _, .error f => ((s.countSent g 0 1).remoteFault o lane f).sweepRemote o.owner
  | .flush g, .ok _ =>
    let s := s.countSent g 0 1
    match g.block? with
    | some b => s.barrierSweep b
    | none => s
  | .flush g, .error f => (s.countSent g 0 1).trapAccess g (if s.determ g then 5 else 1) 0 0 f []
  | .reread g m stamp v scope, r => (s.countSent g 0 1).rereadDone o g m stamp v scope r
  | .arrival g _ _ rel, .ok _ => (if rel && o.target != s.pkgId then s.bumpInterval g else s).countSent g 0 1
  | .arrival g i words _, .error f => (s.countSent g 0 1).trapAccess g 0 i 0 f words
  | .engine op, r => match s.op? op with
    | some x => (s.countSent x.gang 0 1).engineReply o op r
    | none => s
  | .sub op ps, .error _ =>
    let s := { s with retiredSubs := s.retiredSubs ++ ps.map fun p => (op, p) }
    match s.op? op with
    | some x => match x.kind with
      | .gather y => ((s.countSent x.gang 0 1).failPositions x y ps).retireSubs op
      | _ => s
    | none => s
  | .sub _ _, .ok _ => s
  | .fetch g code, .ok bs => { s.countSent g 0 1 with fetched := s.fetched ++ [Fetched.mk g o.addr code.isSome bs none] }
  | .fetch g code, .error f => { s.countSent g 0 1 with fetched := s.fetched ++ [Fetched.mk g o.addr code.isSome [] (some f)] }
  | .device h, r => s.deviceDone o h r

/-- The request is no longer outstanding, and what its owner needs happens. -/
def State.finish (s : State) (o : Outgoing) (r : Except AccFault (List Byte)) : State :=
  let t : State := { s with outstanding := s.outstanding.erase o }
  let t := t.settle o r
  if s.hasRoom o.src 1 then t
  else (t.blocks.filter fun b => b.resident && b.die == o.src.die && b.core == o.src.agent).foldl (fun s b => s.barrierSweep b.id) t
/-- An access to another package samples its latency when its answer comes (R476). -/
def State.sampleReply (s : State) (o : Outgoing) : State :=
  if o.target = s.pkgId || o.target = hostTarget then s else s.sampleAll o.src.die 4 (Config.latency s.clock)
/-- A request is given up: a reply that comes later is late, and it is not sent any more (R449). -/
def State.giveUp (s : State) (o : Outgoing) (cause info : Nat) : State :=
  { s with retired := s.retired ++ [(o.src, o.tsn)]
           flights := s.flights.filter fun f => f.sent || f.reply.isSome || f.out != o }.finish o (.error ⟨cause, info, o.space, o.addr⟩)

/-! ## What is on its way within the package (R98, R443, R446, R462, R463; log 66) -/

/-- Whether a flit is the one that carries a request or reply on its way. -/
def Flit.carries (x : Flit) (f : Flight) : Bool := x.src == f.out.src && x.tsn == f.out.tsn && x.reply == f.reply.isSome
/-- Whether what a flit carries has not arrived. -/
def State.onWay (s : State) (x : Flit) : Bool := s.flights.any fun f => f.sent && x.carries f
/-- Whether what is on its way can arrive now: its flit has left, no end that carries it discards or trains, what left there before it has
arrived, and an earlier access of its sub-order to its location has been performed (R338, R462, R463). -/
def State.flightDue (s : State) (f : Flight) : Bool :=
  f.sent &&
  (s.modules.all fun x => match x.flits.findIdx? (·.carries f) with
    | none => true
    | some k => s.moduleCarries x.die x.m && !(x.flits.take k).any s.onWay) &&
  (f.reply.isSome || !(s.flights.takeWhile (· != f)).any fun e => e.reply.isNone && e.gang == f.gang &&
    (e.out.owner.onStream f.gang true == f.out.owner.onStream f.gang true) &&
    match e.out.msg, f.out.msg with | .here p, .here q => p.meets e.out.op.size q f.out.op.size | _, _ => false)
/-- The event by which it arrives. -/
def Flight.event (f : Flight) : Instr :=
  match f.reply with
  | none => .requestAtTarget ⟨f.out.src, f.out.tsn, f.acktsn, f.inc, .pa f.out.line, f.out.op⟩
  | some b => .replyAtRequester ⟨f.out.src, f.out.tsn, f.inc, b⟩
/-- An intact flit arrives: the ends on its path take what follows it, and their senders' failed replays were of another flit (R463). -/
def State.flitArrived (s : State) (f : Flight) : State :=
  s.modules.foldl (fun s x =>
    if x.flits.any (·.carries f) then
      let p := modulePeer x.die x.m
      (s.setModule { s.module x.die x.m with replays := 0 }).setModule { s.module p.1 p.2 with discarding := false }
    else s) s
/-- Takes a request or reply off its way. -/
def State.dropFlight (s : State) (f : Flight) : State := { s with flights := s.flights.erase f }

/-- A refusal with its cause and INFO. -/
def refuseReply (c i : Nat) : ReplyBody := .error (BitVec.ofNat 8 c) (BitVec.ofNat 16 i)
/-- What a performed operation answers. -/
def dataReply (op : ReqOp) (bs : List Byte) : ReplyBody :=
  match op with
  | .load _ | .atomic _ _ _ _ _ | .gauge _ _ _ _ => .data bs
  | _ => .done
/-- A race found as a request is performed: its instruction traps when it ends, an engine's or arrival's gang at once (R439). -/
def State.flightRace (s : State) (f : Flight) (r : Option (Nat × RaceEntry)) : State :=
  match r, f.out.owner with
  | none, _ => s
  | some x, .engine op => match s.op? op with
    | some o => s.engineRace o (some x)
    | none => s
  | some x, .arrival g i words _ => s.trapRace g 0 i 0 x words
  | some x, .flush g => s.trapRace g 1 0 0 x []
  | some x, o => { s with remote := s.remote.map fun w => if o.inWait w then { w with race := w.race.orElse fun _ => some x } else w }
/-- Performs a request at its place; a release that an engine or an ARRIVE makes raises the interval counter once its write is recorded
(R437). -/
def State.performFlight (s : State) (f : Flight) (p : Place) : State × ReplyBody :=
  let lane := match f.out.owner with | .lane _ _ l _ _ _ | .merge _ _ l _ _ _ => l | _ => 0
  let answer (op : ReqOp) : Except (Nat × Nat) (List Byte) → ReplyBody
    | .ok bs => dataReply op bs
    | .error (c, i) => refuseReply c i
  match s.gang? f.gang with
  | some g =>
    let r := s.performHere g lane f.laneIdx f.out.addr p f.out.op f.sync
    let bumps : Bool := match f.out.owner with | .engine _ => f.sync.rel == 6 | .arrival _ _ _ rel => rel | _ => false
    if s.reachesKilled f.gang f.out.space then (s, refuseReply 0x33 (killedFault f.out.addr).info)
    else ((if bumps then r.1.bumpInterval f.gang else r.1).flightRace f r.2.race, answer f.out.op r.2.data)
  | none => match s.poisonCheck p f.out.op.size f.out.op.covers with
    | (s, some (c, i)) => (s, refuseReply c i)
    | (s, none) => let r := s.apply p f.out.op f.gang.isControl; (r.1, answer f.out.op r.2)
/-- The reply sets out. -/
def State.answerFlight (s : State) (f : Flight) (b : ReplyBody) : State :=
  { s with flights := (s.flights.erase f) ++ [{ f with sent := false, reply := some b }] }.launchFlights
/-- A request reaches its place in this package. A die that is held in reset or has no power gets the crossbar's answer (R451); another die
executes it once, answers it from its reply cache, or drops it (R98, R446); on its own die it has no header. -/
def State.requestHere (s : State) (f : Flight) (p : Place) : State :=
  let b := f.out.dest
  let s := s.flitArrived f
  if b = f.out.src.die then let r := s.performFlight f p; r.1.answerFlight f r.2
  else if !(s.die b).powered || (s.die b).inReset then s.answerFlight f (refuseReply 0x51 2)
  else match s.filterOf b f.out.src f.acktsn f.inc with
    | none => (s.count b 0x7060).dropFlight f
    | some x =>
      if x.past f.out.tsn then ((s.count b 0x7060).setFilter (x.ack f.acktsn)).dropFlight f
      else match x.done.find? fun p => p.1 == f.out.tsn with
        | some y => ((s.count b 0x7058).setFilter (x.ack f.acktsn)).answerFlight f y.2
        | none =>
          let r := s.performFlight f p
          (r.1.setFilter ({ x with done := x.done ++ [(f.out.tsn, r.2)] }.ack f.acktsn)).answerFlight f r.2

/-- A reply at its requester: one of a stale incarnation is dropped (R451), a late one is counted (R449), a later copy discarded (R98). -/
def State.takeReply (s : State) (r : Reply) : State :=
  if r.inc ≠ (s.die r.dst.die).inc then s.count r.dst.die 0x7030
  else match s.outstanding.find? fun o => o.src == r.dst && o.tsn == r.tsn with
    | some o => (s.sampleReply o).finish o (replyOf o r.body)
    | none => if s.retired.contains (r.dst, r.tsn) then s.count r.dst.die 0x7050 else s
/-- The reply from this package that a reply is, once it can arrive. -/
def State.replyFlight? (s : State) (r : Reply) : Option Flight :=
  s.flights.find? fun f => f.reply == some r.body && f.out.src == r.dst && f.out.tsn == r.tsn && f.inc == r.inc && s.flightDue f
/-- REPLY_AT_REQUESTER: the reply has crossed the links of this package; one from outside comes over the link from die 12, behind what waits
there while that link trains (R443). -/
def execReplyAtRequester (r : Reply) (s : State) : Outcome :=
  if !(s.die r.dst.die).powered then .next s
  else match s.replyFlight? r with
    | some f => .next (((s.flitArrived f).dropFlight f).takeReply r)
    | none =>
      let line := match s.outstanding.find? fun o => o.src == r.dst && o.tsn == r.tsn with | some o => o.line | none => 0
      if !s.linkActive 12 r.dst.die line then .next { s with parked := s.parked ++ [.replyAtRequester r] }
      else .next ((s.sendFlit 12 r.dst.die line ⟨r.dst, r.tsn, 0, r.inc, true, none⟩).takeReply r)
/-- REQUEST_TIMEOUT (R448, R449), at a die whose timebase runs (R450). -/
def execRequestTimeout (q : Requester) (tsn : BitVec 16) (s : State) : Outcome :=
  if !(s.die q.die).powered then .next s
  else match s.outstanding.find? fun o => o.src == q && o.tsn == tsn with
    | some o => .next (s.giveUp o 0x51 1)
    | none => .next s

/-! ## At the target (R98, R101 to R103, R446, R447, R451) -/

/-- An inbound region entry: low and high halves (R91). -/
def State.region (s : State) (i : Nat) : DWord × DWord := (s.devGet 12 (0x2000 + 16 * i), s.devGet 12 (0x2008 + 16 * i))
/-- Whether PKGCAPS shows that this package performs an operation (R103). A unit of a COPYR to a polder export is no line operation
(R306). -/
def State.supports (s : State) (op : ReqOp) : Bool :=
  let caps := s.devGet 12 0x1000
  match op with
  | .atomic _ f _ _ _ | .reduce _ f _ _ => if f = 0 then bit caps 4 else if f = 4 then bit caps 2 else if f = 5 then bit caps 3 else false
  | .line f ws => if ws.length = 4 then true else if f = 4 then bit caps 0 else if f = 5 then bit caps 1 else false
  | .gauge _ _ _ _ => bit caps 5
  | _ => true

/-- What a target answers, or that a migrating page makes the request wait. -/
inductive Answer where
  | reply (b : ReplyBody)
  | wait
  deriving DecidableEq, Repr

/-- Die 12's agent for what comes from other packages and hosts (R90, R336; log 30). -/
def State.inbound (s : State) : Requester := ⟨s.pkgId, 12, 66⟩
/-- Performs an operation at a place of this package, over the links from die 12, while they carry it (R443). DESIGN CHOICE (log 65): a page
of the target that maps a host window or another remote aperture is refused with 0x1E. -/
def State.performRemote (s : State) (p : Place) (op : ReqOp) : State × Answer :=
  if p.isRemote then (s, .reply (refuseReply 0x1E s.pkgId))
  else match s.dieRefuses 12 (p.die 12) with
  | some (c, i) => (s, .reply (refuseReply c i))
  | none =>
    if !s.linkActive 12 (p.die 12) p.addr then (s, .wait)
    else match s.poisonCheck p op.size op.covers with
      | (s, some (c, i)) => (s, .reply (refuseReply c i))
      | (s, none) => match ((s.sendOver s.inbound (p.die 12) p.addr).corrected p 12).apply p op false with
        | (s, .error (c, i)) => (s, .reply (refuseReply c i))
        | (s, .ok bs) => (s, .reply (dataReply op bs))
/-- An access through the exported aperture (R101). DESIGN CHOICE (log 65): a fault of the target's own translation is reported with its own
cause and INFO. -/
def State.apertureRequest (s : State) (off : Nat) (op : ReqOp) : State × Answer :=
  let e := s.region (off / 2 ^ 33)
  let rel := off % 2 ^ 33
  let src := fieldNat e.2 61 2
  let need := op.kind.need
  let bad := !bit e.2 63 || !(src = 1 || src = 2) || (need / 4 % 2 = 1 && !bit e.2 60) || (need / 2 % 2 = 1 && !bit e.2 59) ||
    fieldNat e.2 32 18 * 2 ^ 16 < rel + op.size
  if bad then (s, .reply (refuseReply 0x1E s.pkgId))
  else
    let va := (fieldNat e.1 0 56 + rel) % 2 ^ 56
    match s.translate (s.dieAgent 12 (fieldNat e.2 55 4, fieldNat e.2 54 1)) va need with
    | (s, .wait _) => (s, .wait)
    | (s, .fault f) => (s, .reply (refuseReply f.cause f.info))
    | (s, .ok l) => match s.genPlace 12 l op.kind va op.size with
      | .fault f => (s, .reply (refuseReply f.cause f.info))
      | .wait _ => (s, .wait)
      | .ok p => s.performRemote p op
/-- An access through a span's polder window (R64, R65, R431): an access issued before its gang's stop is performed. -/
def State.polderRequest (s : State) (k : SpanKey) (m die slot off : Nat) (op : ReqOp) : State × Answer :=
  match s.spanGrid? k with
  | none => (s, .reply (refuseReply 0x33 (m + 2 ^ 15)))
  | some g =>
    if g.spanKilled then (s, .reply (refuseReply 0x33 (m + 2 ^ 15)))
    else match s.polderPlace g die slot off op.size with
      | .error c => (s, .reply (refuseReply 0x19 (m + c * 2 ^ 9)))
      | .ok p => s.performRemote p op
/-- Executes a request. -/
def State.executeRequest (s : State) (r : Request) : State × Answer :=
  if !s.supports r.op then (s, .reply .notSupported)
  else match r.addr with
    | .aperture off => s.apertureRequest off r.op
    | .polder k m die slot off => s.polderRequest k m die slot off r.op
    | .pa a => match paKind a with
      | .mem => s.performRemote (.mem a (a / 2 ^ 48)) r.op
      | .reg d off => s.performRemote (.reg d off) r.op
      | _ => (s, .reply (refuseReply 0x13 0))

/-- The request within this package that a request is, once it can arrive, and its place. -/
def State.requestFlight? (s : State) (r : Request) : Option (Flight × Place) :=
  (s.flights.find? fun f => f.reply.isNone && f.out.src == r.src && f.out.tsn == r.tsn && f.inc == r.inc && s.flightDue f).bind fun f =>
    match f.out.msg with | .here p => some (f, p) | _ => none
/-- REQUEST_AT_TARGET: one of this package reaches its place. Another package's is executed once, answered from the reply cache, or dropped;
before any plane has a session key it cannot be authentic (R100). A request for a migrating page waits, and those that must follow it wait
behind it. -/
def execRequestAtTarget (r : Request) (s : State) : Outcome :=
  let send (s : State) (b : ReplyBody) : State := s.emit (.reply ⟨r.src, r.tsn, r.inc, b⟩)
  if r.src.pkg = s.pkgId then match s.requestFlight? r with
    | some x => .next (s.requestHere x.1 x.2)
    | none => .next s
  else if !s.anyKey then .next s
  else match s.filterOf 12 r.src r.acktsn r.inc with
  | none => .next (s.count 12 0x7060)
  | some f =>
    if f.past r.tsn then .next ((s.count 12 0x7060).setFilter (f.ack r.acktsn))
    else match f.done.find? fun p => p.1 == r.tsn with
      | some p => .next (send ((s.count 12 0x7058).setFilter (f.ack r.acktsn)) p.2)
      | none => if s.parked.any r.mustFollow then .next { s with parked := s.parked ++ [.requestAtTarget r] } else match s.executeRequest r with
        | (s, .wait) => .next { s with parked := s.parked ++ [.requestAtTarget r] }
        | (s, .reply b) => .next (send (s.setFilter ({ f with done := f.done ++ [(r.tsn, b)] }.ack r.acktsn)) b)

/-! ## The host (R88 to R92, R380, R459) -/

/-- A checked RMA: the place of each page piece, or an error class of R89, or a migrating page. -/
inductive RmaPlan where
  | ok (l : List (Place × Nat))
  | bad (cls : Nat)
  | wait

/-- Places of the page pieces of a range in a context. -/
def State.rmaPieces (s : State) (ctx : Nat × Nat) (k : AccKind) (l : List (Nat × Nat)) : State × RmaPlan :=
  l.foldl (fun (st : State × RmaPlan) p => match st.2 with
    | .ok places => match st.1.translate (st.1.dieAgent 12 ctx) p.1 k.need with
      | (s, .wait _) => (s, .wait)
      | (s, .fault _) => (s, .bad 3)
      | (s, .ok leaf) => match s.genPlace 12 leaf k p.1 p.2 with
        | .ok q => if q.isRemote then (s, .bad 3)
          else match s.poisonCheck q p.2 (k.need = 2) with
            | (_, some _) => (s, .bad 3)
            | (_, none) => (s, .ok (places ++ [(q, p.2)]))
        | .fault _ => (s, .bad 3)
        | .wait _ => (s, .wait)
    | _ => st) (s, .ok [])
/-- The checks of R89, in the order of its error classes. -/
def State.rmaCheck (s : State) (key : DWord) (off n : Nat) (write : Bool) : State × RmaPlan :=
  let i := fieldNat key 0 6
  let e := s.region i
  let src := fieldNat e.2 61 2
  if !bit e.2 63 || !(src = 0 || src = 2) || fieldNat e.2 0 32 ≠ fieldNat key 32 32 then (s, .bad 1)
  else if fieldNat e.2 32 18 * 2 ^ 16 < off + n then (s, .bad 2)
  else if !bit e.2 (if write then 59 else 60) || 2 ^ 56 < fieldNat e.1 0 56 + off + n then (s, .bad 3)
  else s.rmaPieces (fieldNat e.2 55 4, fieldNat e.2 54 1) (if write then .store else .load) (pagePieces (n / 0x10000 + 2) (fieldNat e.1 0 56 + off) n)
/-- Performs a checked write, piece by piece; a granule that it writes whole holds no poison any longer (R475). -/
def State.rmaWrite (s : State) (l : List (Place × Nat)) (bs : List Byte) : State :=
  (l.foldl (fun (st : State × Nat) p =>
    ((st.1.poisonCheck p.1 p.2 true).1.writePlace p.1 ((bs.drop st.2).take p.2) false, st.2 + p.2)) (s, 0)).1

/-- Whether an RMA goes through a region that the boot ROM opened (R380; log 11): 63 the staging area, 62 die 12's registers. -/
def State.romRegion (s : State) (key : DWord) : Bool := s.boot.romRegions.contains (fieldNat key 0 6)
/-- Whether the boot ROM runs, and refuses every region but its own: it waits for BOOTCMD, or has failed. -/
def State.romRuns (s : State) : Bool := s.stage == 1 || s.stage == 15
/-- The error class of an RMA through the ROM's regions. -/
def State.romCheck (s : State) (key : DWord) (off n : Nat) : Option Nat :=
  let e := s.region (fieldNat key 0 6)
  if fieldNat key 32 32 ≠ fieldNat e.2 0 32 then some 1
  else if fieldNat e.2 32 18 * 2 ^ 16 < off + n then some 2
  else none
/-- A write through the ROM's regions: into the staging area; of die 12's registers BOOTCMD alone. -/
def State.romWrite (s : State) (key : DWord) (off : Nat) (data : List Byte) : State :=
  if fieldNat key 0 6 = 63 then { s with mem := s.mem.write off data }
  else
    let first := Nat.max off 0x4008
    let cmd := ((data.drop (first - off)).take (0x4010 - first))
    if off < 0x4010 && !cmd.isEmpty then s.regStore 12 first cmd false else s
/-- A read through the ROM's regions. -/
def State.romRead (s : State) (key : DWord) (off n : Nat) : List Byte :=
  let byte (a : Nat) : Byte := if 0x4000 ≤ a && a < 0x6000 then (s.regBytes 12 a 1).headD 0 else 0
  if fieldNat key 0 6 = 63 then s.mem.read off n else (List.range n).map fun i => byte (off + i)

/-- A waiting write that a write of the same ROD context must follow (R90). -/
def rmaMustFollow (rod : Option Nat) : Instr → Bool
  | .inboundRmaWrite w _ _ => rod.isSome && w.rod == rod
  | _ => false
/-- INBOUND_RMA_WRITE: checked whole, performed, acknowledged. It waits for a migrating page, and behind an earlier write of its ROD
context that waits. -/
def execInboundRmaWrite (w : RmaFrom) (off : Nat) (data : List Byte) (s : State) : Outcome :=
  let key := w.key
  let hold (s : State) : Outcome := .next { s with parked := s.parked ++ [.inboundRmaWrite w off data] }
  if s.parked.any (rmaMustFollow w.rod) then hold s
  else if s.romRegion key then
    match s.romCheck key off data.length with
    | some c => .next (s.emit (.rmaError c))
    | none => .next ((s.romWrite key off data).emit (.rmaDone []))
  else if s.romRuns then .next (s.emit (.rmaError 1))
  else match s.rmaCheck key off data.length true with
    | (s, .bad c) => .next (s.emit (.rmaError c))
    | (s, .wait) => hold s
    | (s, .ok l) => .next ((s.rmaWrite l data).emit (.rmaDone []))
/-- INBOUND_RMA_READ. -/
def execInboundRmaRead (key : DWord) (off len : Nat) (s : State) : Outcome :=
  if s.romRegion key then
    match s.romCheck key off len with
    | some c => .next (s.emit (.rmaError c))
    | none => .next (s.emit (.rmaDone (s.romRead key off len)))
  else if s.romRuns then .next (s.emit (.rmaError 1))
  else match s.rmaCheck key off len false with
    | (s, .bad c) => .next (s.emit (.rmaError c))
    | (s, .wait) => .next { s with parked := s.parked ++ [.inboundRmaRead key off len] }
    | (s, .ok l) => .next (s.emit (.rmaDone (l.flatMap fun p => s.readPlace p.1 p.2)))
/-- UE_UNSUPPORTED_REQUEST: the not-supported response, and no change. -/
def execUeUnsupportedRequest (s : State) : Outcome := .next (s.emit .notSupported)

/-- UE_CONTEXT_ABANDONED: an event; the window's accesses fault, those in flight too (R459). -/
def execUeContextAbandoned (port window code : Nat) (s : State) : Outcome :=
  let s := s.event 12 0x59 8 port code none []
  let s := if s.abandoned.contains window then s else { s with abandoned := s.abandoned ++ [window] }
  .next ((s.outstanding.filter fun o => o.target == hostTarget && o.plane == window).foldl (fun s o => s.giveUp o 0x51 5) s)
/-- HOST_WINDOW_RMA_RESPONSE: the acknowledgement or the data of an access to a host window; one that comes after its request was given up
is late (R449). -/
def execHostWindowRmaResponse (tag : Nat) (body : ReplyBody) (s : State) : Outcome :=
  match s.outstanding.find? fun o => o.target == hostTarget && o.tag == tag with
  | some o => .next (s.finish o (replyOf o body))
  | none => match s.retired.find? fun p => p.2.toNat + 2 ^ 16 * (p.1.agent + 2 ^ 8 * p.1.die) == tag with
    | some p => .next (s.count p.1.die 0x7050)
    | none => .next s

end Sys2Proof.Machine
end

