-- ==== Sys2Proof/Machine/LinkSteps.lean ====
section
/-! DEFINITION. Failures of links: UCIe retry and retraining (R442 to R445, R463), Grender ports and planes (R99, R100, R452 to R454),
CXL ports (R460). -/
namespace Sys2Proof.Machine

/-! ## UCIe modules (log 20) -/

/-- The end on the lower-numbered die, by which events name a module. -/
def moduleName (die m : Nat) : Nat × Nat := if (modulePeer die m).1 < die then modulePeer die m else (die, m)
def ulstatOff (m : Nat) : Nat := 0x8000 + 0x40 * m
def ulstat (state width lane : Nat) : DWord := BitVec.ofNat 64 (state + 2 ^ 8 * width + 2 ^ 16 * lane)
/-- Lanes in use, and the lowest lane marked faulty. -/
def State.moduleWidth (s : State) (die m : Nat) : Nat := fieldNat (s.devGet die (ulstatOff m)) 8 8
def State.faultLane (s : State) (die m : Nat) : Nat := fieldNat (s.devGet die (ulstatOff m)) 16 8
/-- ULSTAT of both ends. -/
def State.setUlstat (s : State) (die m : Nat) (v : DWord) : State :=
  let p := modulePeer die m
  (s.devSet die (ulstatOff m) v).devSet p.1 (ulstatOff p.2) v

/-- What flits sent again bring a second time: each that had arrived arrives again, as a duplicate (R446). -/
def State.duplicates (s : State) (l : List Flit) : State :=
  l.foldl (fun s x => match x.load with
    | some f => if s.onWay x then s else { s with flights := s.flights ++ [f] }
    | none => s) s
/-- The sender sends every flit of its retry buffer again, in order, and the receiver takes them from the first intact copy on (R463). -/
def State.resendFlits (s : State) (die m : Nat) : State :=
  let x := s.module die m
  let s := (s.setModule { x with again := true }).countN die (ulstatOff m + 8) x.flits.length
  if x.flits.isEmpty then s else (s.emit (.flits die m x.flits)).duplicates x.flits

/-- The modules of a link, at an end. -/
def linkOf (die m : Nat) : Nat × Nat := linkModules die (modulePeer die m).1
/-- A request that was on its way, or whose reply has been lost, is sent by its requester again (R444, R446). -/
def State.sendAgain (s : State) (f : Flight) : State :=
  { s with flights := s.flights.map fun y =>
      if y.sent && y.out.src == f.out.src && y.out.tsn == f.out.tsn && y.reply.isSome == f.reply.isSome then
        { y with sent := false, reply := none }
      else y }
/-- A failed module's flits: those that carry requests go to the module that takes over its share, or wait for one at their requesters; a
reply is dropped, and its requester's request comes again (R444). -/
def State.moveFlits (s : State) (die m : Nat) : State :=
  let l := linkOf die m
  let x := s.module die m
  let s := s.setModule { x with flits := [], again := false, replays := 0, discarding := false }
  let next := (List.range l.2).find? fun i => s.moduleActive die (l.1 + (m - l.1 + i) % l.2)
  x.flits.foldl (fun s y =>
    match next, y.reply, y.load with
    | some i, false, _ => s.setModule ((s.module die (l.1 + (m - l.1 + i) % l.2)).send y)
    | none, false, some f | _, true, some f => s.sendAgain f
    | _, _, none => s) s
/-- Whether the path of a request, to its place or to die 12 on its way out, crosses the link of a module. -/
def Outgoing.crosses (o : Outgoing) (a b : Nat) : Bool := (linkPath o.src.die o.dest).any fun l => l == (a, b) || l == (b, a)
/-- The requests that would cross a link that has wholly failed complete at their requesters with 0x53, and nothing of them stays on its
way (R444). -/
def State.cutLink (s : State) (a b : Nat) : State :=
  (s.outstanding.filter (·.crosses a b)).foldl (fun s o => s.giveUp o 0x53 0)
    { s with flights := s.flights.filter fun f => !f.out.crosses a b }
/-- A module fails (R443, R444). -/
def State.failModule (s : State) (die m lane : Nat) : State :=
  let p := modulePeer die m
  let name := moduleName die m
  let s := s.setUlstat die m (ulstat 7 0 lane)
  if s.linkFailed die p.1 then
    (((s.moveFlits die m).moveFlits p.1 p.2).event 12 0x53 6 (name.1 * 256 + 0xFF) 0 none []).cutLink die p.1
  else ((s.moveFlits die m).moveFlits p.1 p.2).event 12 0x54 6 (name.1 * 256 + name.2) 2 none []
/-- Three replays of one flit have failed: the module retrains, or fails where it runs at 32 lanes already (R443). -/
def State.retrain (s : State) (die m : Nat) : State :=
  let p := modulePeer die m
  if s.moduleWidth die m = 32 then s.failModule die m (s.faultLane die m)
  else
    ((s.setUlstat die m (ulstat 1 (s.moduleWidth die m) (s.faultLane die m))).count die (ulstatOff m + 0x18)).count p.1 (ulstatOff p.2 + 0x18)

/-- FLIT_CRC_FAIL at the receiver: CRCERR rises. The first flit to fail, and each failed replay of it, makes the receiver discard what
follows and ask for a retry; a third failed replay retrains. What else fails meanwhile is only counted (R443, R463). -/
def execFlitCrcFail (die m : Nat) (s : State) : Outcome :=
  let s := s.count die (ulstatOff m + 0x10)
  let p := modulePeer die m
  let me := s.module die m
  let x := s.module p.1 p.2
  if !s.moduleActive die m || (me.discarding && !x.again) then .next s
  else
    let fails := if x.again then x.replays + 1 else 0
    if fails ≥ 3 then .next ((s.setModule { x with replays := 0, again := false }).retrain die m)
    else .next (((s.setModule { x with replays := fails, again := false }).setModule { me with discarding := true }).emit (.retry die m))
/-- Whether an end hears what flits of the opposite direction bring it, an acknowledgement or a retry request: its module is active, and it
does not discard them (R463). -/
def State.hears (s : State) (die m : Nat) : Bool := s.moduleCarries (modulePeer die m).1 (modulePeer die m).2
/-- RETRY_REQUEST at the sender. -/
def execRetryRequest (die m : Nat) (s : State) : Outcome :=
  if s.moduleActive die m && s.hears die m then .next (s.resendFlits die m) else .next s
/-- FLIT_ACK at the sender: `n` flits leave the retry buffer. -/
def execFlitAck (die m n : Nat) (s : State) : Outcome :=
  let x := s.module die m
  if n = 0 || !s.moduleActive die m || !s.hears die m then .next s
  else .next (s.setModule { x with flits := x.flits.drop n, again := x.again && n < x.flits.length, replays := 0 })
/-- REPLAY_TIMER_EXPIRY: the oldest unacknowledged flit and every later one are sent again; the timer stops while the module retrains. -/
def execReplayTimerExpiry (die m : Nat) (s : State) : Outcome :=
  if s.moduleActive die m then .next (s.resendFlits die m) else .next s
/-- RETRAIN_COMPLETE: the lane tests of both ends marked `bad`. -/
def execRetrainComplete (die m : Nat) (bad : BitVec 64) (s : State) : Outcome :=
  if s.moduleState die m ≠ 1 then .next s
  else
    let p := modulePeer die m
    let name := moduleName die m
    let lane := (setBits 64 bad.toNat).headD 0xFF
    let run (state : Nat) : State :=
      let s := (s.setUlstat die m (ulstat state 32 lane)).event 12 0x54 6 (name.1 * 256 + name.2) 1 none []
      ((s.resendFlits die m).resendFlits p.1 p.2)
    if fieldNat bad 32 32 = 0 then .next (run 4)
    else if fieldNat bad 0 32 = 0 then .next (run 3)
    else .next (s.failModule die m lane)

/-! ## Grender ports (R452 to R454) -/

def gpOff (n : Nat) : Nat := 0xB000 + 0x20 * n
def State.portState (s : State) (n : Nat) : Nat := fieldNat (s.devGet 12 (gpOff n)) 0 3
def State.setPortState (s : State) (n st : Nat) : State :=
  s.devSet 12 (gpOff n) ((s.devGet 12 (gpOff n) &&& 0xFFFFFFFFFFFFFFF8) ||| BitVec.ofNat 64 st)

/-- A request whose plane has become unusable goes again on the substitute, or ends where no plane is left. -/
def State.resend (s : State) (o : Outgoing) : State :=
  match s.planeFor o.plane o.target with
  | none => s.giveUp o 0x51 3
  | some p =>
    let n : Outgoing := { o with plane := p }
    let waits := s.flights.any fun f => f.out == o
    { s with
      outstanding := s.outstanding.map fun x => if x == o then n else x
      flights := s.flights.map fun f => if f.out == o then { f with out := n } else f
      outputs := s.outputs ++ if waits then [] else n.output }
/-- Every request to the packages `hit` on a plane, in its order. -/
def State.resendPlane (s : State) (plane : Nat) (hit : Nat → Bool) : State :=
  (s.outstanding.filter fun o =>
    o.target != hostTarget && o.target != s.pkgId && o.plane == plane && hit o.target).foldl (fun s o => s.resend o) s

/-- The next state of a port on three failed replays. -/
def nextPortState (st : Nat) : Nat := if st = 2 then 3 else if st = 3 then 4 else 7
def State.port (s : State) (n : Nat) : Port := (s.ports.find? fun p => p.n == n).getD ⟨n, 0⟩
def State.setPort (s : State) (p : Port) : State := { s with ports := s.ports.filter (fun x => x.n != p.n) ++ [p] }
/-- A flit of a port has failed: the fourth failure of one flit is its third failed replay. -/
def State.portFail (s : State) (n : Nat) (same : Bool) : State :=
  let fails := if same then (s.port n).fails + 1 else 1
  if fails < 4 then s.setPort ⟨n, fails⟩
  else
    let st := nextPortState (s.portState n)
    let s := ((s.setPort ⟨n, 0⟩).setPortState n st).event 12 0x55 7 n st none []
    if st = 7 then s.resendPlane n fun _ => true else s
/-- GRENDER_FLIT_FAIL: the flit was received here (GPERR) or at the far end, which has it sent again (GPREPLAYS). -/
def execGrenderFlitFail (port : Nat) (s : State) : Outcome :=
  if 32 ≤ port || s.portState port = 7 then .next s
  else
    let s := s.count 12 (gpOff port + (if Config.farEnd s.clock then 8 else 0x10))
    .next (s.portFail port (Config.sameFlit s.clock))
/-- GRENDER_AUTH_FAIL (R453): discarded, and counted as a failed flit. -/
def execGrenderAuthFail (port : Nat) (s : State) : Outcome :=
  if 32 ≤ port || s.portState port = 7 then .next s
  else .next (((s.count 12 0x7068).count 12 (gpOff port + 0x10)).portFail port (Config.sameFlit s.clock))
/-- SWITCH_PORT_FAILED: package `pkg`'s port on a plane has failed (R454). -/
def execSwitchPortFailed (plane pkg : Nat) (s : State) : Outcome :=
  if s.badPlanes.contains (plane, pkg) then .next s
  else .next ({ s with badPlanes := s.badPlanes ++ [(plane, pkg)] }.resendPlane plane (· == pkg))
/-- KEY_ROTATION (R100): the first keys, then the next generation, 1 to 15, once a single one is live; while the port is failed no rotation completes (R453). -/
def execKeyRotation (port : Nat) (s : State) : Outcome :=
  if 32 ≤ port || s.portState port = 7 || bit (s.devGet 12 (gpOff port)) 12 then .next s
  else
    let old := fieldNat (s.devGet 12 (gpOff port)) 8 4
    let new := if old = 15 then 1 else old + 1
    .next (s.devSet 12 (gpOff port)
      (BitVec.ofNat 64 (s.portState port + 2 ^ 8 * new + if old = 0 then 0 else 2 ^ 12)))
/-- A port discards its previous key, for good, once every flit sent under it is acknowledged: PREVLIVE falls at a free time (R100, R454;
log 20). -/
def State.dropKeys (s : State) : State :=
  ((List.range 32).filter fun n => bit (s.devGet 12 (gpOff n)) 12).foldl (fun s n =>
    let v := s.devGet 12 (gpOff n)
    s.devSet 12 (gpOff n) (if Config.prevLive s.clock n then v else v &&& 0xFFFFFFFFFFFFEFFF)) s

/-! ## CXL ports (R460) -/

/-- CXSTAT after a step: a port that is not enumerated becomes active at a free time while the firmware runs, and by the time it has started
the supervisors (R113, R379); log 20. -/
def cxlStat (stage clock n v : Nat) : Nat := if v = 0 && (stage == 3 || Config.enumerated clock n) then 1 else v
/-- What CXL.io and the firmware do to a port of a far die that is powered: it is enumerated, and each retraining of its link is counted. -/
def State.cxlPort (s : State) (n : Nat) : State :=
  let die := n / 4
  let off := 0xC000 + 0x20 * (n % 4)
  let st := fieldNat (s.devGet die off) 0 2
  if !(s.die die).powered || st = 3 then s
  else if st = 0 then s.devSet die off (BitVec.ofNat 64 (cxlStat s.stage s.clock n st))
  else s.devSet die (off + 0x10) (s.devGet die (off + 0x10) + (if Config.cxlRetrain s.clock n then 1 else 0))
def State.cxlPorts (s : State) : State :=
  if s.stage = 2 || s.stage = 3 then (List.range 16).foldl (fun s k => s.cxlPort (32 + k)) s else s

/-- Whether an address lies in the range of a far die's port. -/
def inPort (die port pa : Nat) : Bool := pa / 2 ^ 48 == die && pa / 2 ^ 39 % 4 == port
/-- CXL_PORT_FAIL: the port's state and one event; migrations that use its range are abandoned at their next step. -/
def execCxlPortFail (die port : Nat) (s : State) : Outcome :=
  let off := 0xC000 + 0x20 * port
  if die < 8 || 12 ≤ die || 4 ≤ port || fieldNat (s.devGet die off) 0 2 = 3 then .next s
  else
    let s := (s.devSet die off 3).event die 0x5A 9 (die * 4 + port) 2 none []
    let hit (m : Migration) : Bool := inPort die port (if m.demote then m.frame else m.oldFrame)
    .next { s with migrations := s.migrations.map fun m => if hit m then { m with failed := some (m.failed.getD 0x5A) } else m }

end Sys2Proof.Machine
end

