-- ==== Sys2Proof/Machine/Power.lean ====
section
/-! DEFINITION. Bring-up, register writes, power, resets and temperatures (R6, R75, R87, R378 to R388, R450, R451, R472, R473, R476). -/
namespace Sys2Proof.Machine

/-! ## Bring-up and register writes -/

def execPowerOn (s : State) : Outcome := .next s.powerOn
def execBootcmdWrite (v : DWord) (s : State) : Outcome := .next (s.regWrite 12 0x4008 v true)
def execSbverifyWrite (v : DWord) (s : State) : Outcome := .next (s.regWrite 12 0x4010 v true)
def execSbverifyDone (s : State) : Outcome := .next s.sbverifyDone
def execAttreqWrite (v : DWord) (s : State) : Outcome := .next (s.regWrite 12 0x4060 v true)
def execAttestationReportDone (s : State) : Outcome := .next s.reportDone
def execCcstartWrite (v : DWord) (s : State) : Outcome := .next (s.regWrite 12 0x4400 v true)
def execTlbinvWrite (die : Nat) (v : DWord) (s : State) : Outcome := .next (s.regWrite die 0 v true)
def execTlbInvalidationComplete (die : Nat) (s : State) : Outcome := .next (s.tlbinvDone die)
def execTestreqWrite (die : Nat) (v : DWord) (s : State) : Outcome := .next (s.regWrite die 0xE008 v true)
/-- UNITFENCE_FENCE: a fence is asked for, or one asked for earlier falls once the unit's work has ended (R472). -/
def execUnitfenceFence (die u : Nat) (s : State) : Outcome :=
  if s.fences.contains (die, u) && !s.unitBusy die u then .next (s.fenceUnit die u).1 else .next (s.fenceReq die u)
def execUnitfenceLift (die u : Nat) (s : State) : Outcome := .next (s.liftReq die u)
/-- MONCTL_CLEAR: a write of CLR that leaves EN and SRC as they are. -/
def execMonctlClear (die n : Nat) (s : State) : Outcome :=
  if 16 ≤ n then .next s else .next (s.regWrite die (0xE100 + 8 * n) (s.devGet die (0xE100 + 8 * n) ||| 0x200) true)
def execRegisterWrite (die off : Nat) (v : DWord) (s : State) : Outcome := .next (s.regWrite die off v true)
def execRetconsWrite (die : Nat) (v : DWord) (s : State) : Outcome := .next (s.regWrite die 0x158 v true)

/-! ## A die that loses its state (R450, R451; log 22) -/

/-- Whether a block's gangs have state on a die. -/
def Block.lostWith (b : Block) (die : Nat) : Bool := b.die == die && b.resident && b.state != .killed && b.state != .exited
/-- A block whose state is lost: it is killed at once, and its cohort or span with it. -/
def State.loseBlock (s : State) (b : BlockId) : State :=
  let s := (s.blockGangs b).foldl (fun s g => s.dropGang g.id) (s.killCohort b)
  match s.block? b with
  | some x => s.finishKill x
  | none => s
/-- The control cores of a die stop; their gangs are gone, and no CTXSV waits any longer. -/
def State.loseControls (s : State) (die : Nat) : State :=
  let mine (g : GangId) : Bool := match g with | .control d _ => d == die | .compute _ _ => false
  let s := (s.gangs.filter fun g => mine g.id).foldl (fun s g => s.dropGang g.id) s
  { s with
    gangs := s.gangs.filter (fun g => !mine g.id)
    controls := s.controls.map (fun c => if c.die == die then { c with running := false } else c)
    blocks := s.blocks.map (fun b => match b.saver with
      | some g => if mine g then { b with saver := none } else b
      | none => b) }
/-- Work of the die's row engines is answered as failed. -/
def State.loseRows (s : State) (die : Nat) : State :=
  let l := s.rowJobs.filter fun j => j.die == die
  l.foldl (fun s j => s.subReply j.r (.failed (j.r.items.flatMap (·.positions)))) { s with rowJobs := s.rowJobs.filter fun j => j.die != die }
/-- Grids that have state on a die. -/
def State.gridsOn (s : State) (die : Nat) : List Word := ((s.blocks.filter fun b => b.lostWith die).map (·.id.handle)).eraseDups
/-- Everything that a die's cores and engines held is lost, and the requests that it has outstanding end with `cause` and `info`. -/
def State.loseDie (s : State) (die cause info : Nat) : State :=
  let blocks := (s.blocks.filter fun b => b.lostWith die).map (·.id)
  let s := (s.loseControls die).loseRows die
  let s := blocks.foldl (fun s b => s.loseBlock b) s
  let s := (s.outstanding.filter fun o => o.src.die == die).foldl (fun s o => s.giveUp o cause info) s
  { s with
    flights := s.flights.filter (fun f => f.out.src.die != die)
    filters := s.filters.filter (fun f => f.die != die)
    tlb := s.tlb.filter (fun e => e.die != die)
    roCache := s.roCache.filter (fun x => x.1.1 / 16 != die)
    heldCode := s.heldCode.filter (fun e => e.die != die)
    passes := s.passes.filter (fun p => p.die != die)
    fences := s.fences.filter (fun f => f.1 != die) }

/-! ## Power (R378, R450) -/

/-- DIE_POWER_LOSS: the die's copy of the timebase stops, and its control cores run no longer (R385, R450). -/
def execDiePowerLoss (die : Nat) (s : State) : Outcome :=
  .next { s.setDie die (fun d => { d with powered := false, timebaseOn := false }) with
    controls := s.controls.map fun c => if c.die == die then { c with running := false } else c }
/-- DIE_WAKE: a new incarnation, the copy of the timebase set from die 12's (R378); what the die had outstanding ends with 0x52; one event for each grid that lost a block. -/
def execDieWake (die : Nat) (s : State) : Outcome :=
  if (s.die die).powered || 13 ≤ die then .next s
  else
    let grids := s.gridsOn die
    let s := s.setDie die fun d => { d with powered := true, inReset := false, inc := d.inc + 1, timebaseOn := true, ticks := s.ticks }
    let s := grids.foldl (fun s h => s.event 12 0x52 10 die h.toNat none []) s
    .next ((s.loseDie die 0x52 0).emit (.incarnation die (s.die die).inc))

/-! ## Reset of a die (R451) -/

/-- The device registers of a die at their reset values. A failed CXL port stays failed until die 12 is reset (R460); a link's modules
come up again at both ends. -/
def State.resetRegs (s : State) (die : Nat) : State :=
  let failed (k : Nat) : Bool := 8 ≤ die && die < 12 && 0xC000 ≤ k % 2 ^ 48 && k % 2 ^ 48 < 0xC080 && k % 0x20 == 0
  let far (k : Nat) : Bool := die == 12 && 8 ≤ k / 2 ^ 48 && k / 2 ^ 48 < 12 && 0xC000 ≤ k % 2 ^ 48 && k % 2 ^ 48 < 0xC080 && k % 0x20 == 0
  let peer (k : Nat) : Bool := 0x8000 ≤ k % 2 ^ 48 && k % 2 ^ 48 < 0xA000 && k % 64 == 0 &&
    (modulePeer (k / 2 ^ 48) ((k % 2 ^ 48 - 0x8000) / 64)).1 == die
  { s with dev := s.dev.filter fun p =>
    if p.1 / 2 ^ 48 == die then failed p.1 && fieldNat p.2 0 2 == 3 else !(far p.1 && fieldNat p.2 0 2 == 3) && !peer p.1 }
/-- Requests that others hold to a die that is reset are retired with 0x51 INFO 4, and are not sent again (R451). -/
def State.retireTo (s : State) (die : Nat) : State :=
  let here (o : Outgoing) : Bool := o.dest == die && o.src.die != die && match o.msg with | .here _ => true | _ => false
  let s := (s.outstanding.filter here).foldl (fun s o => s.giveUp o 0x51 4) s
  { s with flights := s.flights.filter fun f => !here f.out }
/-- DIE_RESET: the die's state and registers are lost, its incarnation rises and die 12 announces it. Replies to its older requests are
stale; what others asked of it ends. -/
def execDieReset (die : Nat) (s : State) : Outcome :=
  if !(s.die die).powered || 13 ≤ die then .next s
  else
    let s := (((s.setDie die fun d => { d with inc := d.inc + 1, stretched := false, refresh := none, p4 := 0 }).loseDie die 0x51 4).retireTo die).resetRegs die
    let s := { s with
      modules := s.modules.filter (fun x => x.die != die && (modulePeer x.die x.m).1 != die)
      monitors := s.monitors.filter (fun m => m.die != die)
      invalidations := s.invalidations.filter (fun p => p.1 != die) }
    let s := if die = 12 then
        { s with
          ports := [], badPlanes := [], subSeen := []
          boot := { s.boot with romRegions := [], verifying := none, attesting := none } }
      else s
    .next (s.emit (.incarnation die (s.die die).inc))

/-! ## Temperature (R387) and MGMT (R388) -/

/-- JUNCTION_OVER_100C: the core clock is stretched; results do not change. -/
def execJunctionOver100c (die : Nat) (s : State) : Outcome :=
  if (s.die die).stretched then .next s
  else .next { s.setDie die (fun d => { d with stretched := true }) with boot := { s.boot with stretches := s.boot.stretches + 1 } }
/-- JUNCTION_BELOW_95C. -/
def execJunctionBelow95c (die : Nat) (s : State) : Outcome := .next (s.setDie die fun d => { d with stretched := false })
/-- JUNCTION_OVER_115C: all power but the always-on rail is removed, and STAGE becomes 0. What the dies held is lost; the contents of
memories stay (log 22). -/
def execJunctionOver115c (s : State) : Outcome :=
  let off (d : Die) (timebase : Bool) : Die :=
    { d with powered := false, inReset := true, timebaseOn := timebase, inc := d.inc + 1, stretched := false, refresh := none, p4 := 0 }
  let z := State.reset
  .next ({ z with
    clock := s.clock, inputs := s.inputs, outputs := s.outputs, issue := s.issue, pkgId := s.pkgId, mem := s.mem, ls := s.ls,
    wgt := s.wgt, poison := s.poison, nextOp := s.nextOp, ticks := s.ticks, dies := s.dies.mapIdx fun i d => off d (i == 12) }.setStage 0 0)
def execMgmtRefresh (s : State) : Outcome := .next s.mgmtRefresh

end Sys2Proof.Machine
end

