-- ==== Sys2Proof/Machine/Units.lean ====
section
/-! DEFINITION. Scheduling steps and background units: run starts, wakes, re-tests, drains' sweeps (R29, R48, R289, R294, R298), refresh
windows (R68), structural tests, scrubbing and monitors (R467 to R476), page walks and the ends of migrations (R73, R85, R427). -/
namespace Sys2Proof.Machine

/-! ## Runs (R29) -/

/-- Whether a slice may start its next run. -/
def Slice.canStart (sl : Slice) : Bool := sl.cur.isNone && !sl.queue.isEmpty && waitReady sl.lwait
/-- Starts the next run, with the mask of an LMASK before it (R30). -/
def Slice.startRun (sl : Slice) : Slice :=
  match sl.queue with
  | [] => sl
  | r :: rest => { sl with queue := rest, cur := some ⟨r, r.index⟩, active := r.mask.getD sl.active }
/-- The slices of a part that start one run together: those whose next runs have the same instructions. -/
def Gang.startGroups (g : Gang) (m : BitVec 8) : List (BitVec 8) :=
  let l := (setBits 8 m.toNat).filterMap fun i => match g.slice? i with
    | some sl => if sl.canStart then sl.queue.head?.map fun r => (i, (r.index, r.count)) else none
    | none => none
  (l.map (·.2)).eraseDups.map fun k => maskOf 8 ((l.filter fun p => p.2 == k).map (·.1))
/-- RUN_START. -/
def execRunStart (gid : GangId) (m : BitVec 8) (s : State) : Outcome :=
  match s.gang? gid with
  | some g =>
    if s.gangLive g then .next (s.setGang (g.mapPart m fun _ sl => if sl.canStart then sl.startRun else sl)) else .next s
  | none => .next s

/-! ## Wakes (R48) -/

/-- Whether a word of this package satisfies a wait, or its access would fault, which re-execution reports. -/
def State.wordReady (s : State) (g : GangId) (space addr : Nat) (stamp : Bool) (v : Nat) : Bool :=
  let n := if stamp then 8 else 16
  match (s.locate g (.word false) space addr n).2 with
  | .fault _ => true
  | .wait _ => false
  | .ok p => !p.isRemote && ((s.poisonCheck p n false).2.isSome || waitHolds stamp v ((s.roundView g).readPlace p n))

/-- Whether what a part of a gang waits for holds. -/
def State.waitOver (s : State) (g : Gang) (m : BitVec 8) (w : Wait) : Bool :=
  match w with
  | .laneQueue => g.laneIdle m
  | .queueSpace => (g.partSlices m).all fun sl => sl.queue.length < queueRoom
  | .sync sp a v => s.wordReady g.id sp a false v.toNat
  | .stamp sp a v => s.wordReady g.id sp a true v.toNat
  | .take h => s.holds g.id h
  | .counters l st c t => g.within m l st c t
  | .batches => g.sealed.length < batchRoom
  | .outstanding => !s.gangOutstanding g.id
  | .latchEntry => match s.blockOf g.id with
    | some b => b.latch.length < latchRoom || b.latch.any fun e => e.key == g.crew
    | none => true
  | .yield l => l.isEmpty
  | .gridEntry dies => dies.all s.entryFree
  | .halting bs => bs.all fun b => match s.block? b with | some x => x.state != .halting | none => true
  | .placed b => match s.block? b with | some x => x.state != .pending | none => true
  | .killed h l _ => s.targetDead h l
  | .weightStore die => !s.dieBusy die
  | .member k => match s.gridOf g.id with | some gr => !s.usesMember g.id gr k | none => true
  | .counterSpace => g.l < 63 && g.s < 63 && g.t < tileRoom && s.hasRoom (s.requester g.id) 1
  | .migration pte => !s.migrations.any fun x => x.ptes.contains pte
  | .refresh die bank => (s.die die).refresh != some bank
  | .unit die u => !s.unitForced die u
  | .fetch => !s.fetching g.id
  | .operands regs => (s.pendingRegs g.id regs).isEmpty
  | .barrierDone _ _ | .drainDone => true
  | .barrier _ _ | .regang | .latch | .drain _ _ | .inPlace _ | .rewatch | .held => false

/-- A part past an instruction of `n` bytes that its wake completes. -/
def State.wakePast (s : State) (g : Gang) (m : BitVec 8) (n : Nat) : State :=
  s.setGang ((g.setWait m none).runPart m fun _ sl => sl.advance n)
/-- The wake of a part: some waits complete their instruction, after the others it re-executes. -/
def State.wakePart (s : State) (g : Gang) (m : BitVec 8) (w : Wait) : State :=
  match w with
  | .barrierDone b n => (s.wakePast { g with arrived := g.arrived &&& ~~~(BitVec.ofNat 16 (2 ^ b)) } m n).acquire g.id
  | .drainDone => (s.wakePast g m 4).acquire g.id
  | .killed _ _ n => (s.wakePast g m n).dropFetched g.id
  | .yield _ => s.wakePast g m 4
  | _ => s.setGang (g.setWait m none)

/-- Whether the waits of two gangs' parts are for one condition, whose coming readies both at once (R48, R286): the end of a barrier's phase in
a cohort, a word that one watch entry of their core names, a handle of their cohort. -/
def State.sameCause (s : State) (g : GangId) (w : Wait) (h : GangId) (v : Wait) : Bool :=
  let cohort : Bool := match g.block?, h.block? with
    | some a, some b => a.handle == b.handle && a.shadow == b.shadow && a.index / s.cohortSize a.handle == b.index / s.cohortSize b.handle
    | _, _ => false
  let core : Bool := match s.blockOf g, s.blockOf h with
    | some a, some b => a.die == b.die && a.core == b.core
    | _, _ => false
  let word (sp a sp' a' n : Nat) : Bool := core && match (s.locate g (.word false) sp a n).2, (s.locate h (.word false) sp' a' n).2 with
    | .ok p, .ok q => p == q
    | _, _ => false
  match w, v with
  | .barrierDone b _, .barrierDone c _ => b == c && cohort
  | .take a, .take b => a == b && cohort
  | .sync sp a _, .sync sp' a' _ => word sp a sp' a' 16
  | .stamp sp a _, .stamp sp' a' _ => word sp a sp' a' 8
  | _, _ => false

/-- Whether a gang's parts wake at all: halted gangs' do not. -/
def State.canWake (s : State) (g : Gang) : Bool :=
  !g.halted && g.trapping.isNone && !g.exited && !g.stopped && match s.blockOf g.id with | some b => b.state == .running | none => g.id.isControl
/-- Whether a part's wait ends outside the start of a round (R362). -/
def State.wakeDue (s : State) (g : Gang) (m : BitVec 8) : Bool :=
  match g.partWait m with
  | some w => !(s.determ g.id && w.givesTurn) && s.waitOver g m w
  | none => false
/-- Whether some lane stream of a part may go on. -/
def State.laneWakeDue (s : State) (g : Gang) (m : BitVec 8) : Bool :=
  (g.partSlices m).any fun sl => match sl.lwait with | some w => s.waitOver g m w | none => false
/-- Every satisfied wait of a part ends. -/
def State.wake (s : State) (gid : GangId) (m : BitVec 8) : State :=
  match s.gang? gid with
  | none => s
  | some g =>
    if !s.canWake g then s
    else
      let g' := g.mapPart m fun _ sl => match sl.lwait with
        | some w => if s.waitOver g m w then { sl with lwait := none } else sl
        | none => sl
      match g.partWait m with
      | some w => if s.wakeDue g m then (s.wakePart g' m w).markWoken gid m else (s.setGang g').markWoken gid m
      | none => (s.setGang g').markWoken gid m
/-- The other parts that the condition for which a part waits readies with it. -/
def State.wokenWith (s : State) (gid : GangId) (m : BitVec 8) : List (GangId × BitVec 8) :=
  match s.gang? gid with
  | none => []
  | some g => match if s.canWake g && s.wakeDue g m then g.partWait m else none with
    | none => []
    | some w => s.gangs.flatMap fun x => (x.parts.filter fun p => !(x.id == gid && p == m) && s.canWake x && s.wakeDue x p &&
        match x.partWait p with | some v => s.sameCause gid w x.id v | none => false).map fun p => (x.id, p)
/-- PART_WAKE: every satisfied wait of a part ends, and with it those of the parts that wait for the same condition (R48). -/
def execPartWake (gid : GangId) (m : BitVec 8) (s : State) : Outcome :=
  .next ((s.wokenWith gid m).foldl (fun s p => s.wake p.1 p.2) (s.wake gid m))

/-- A part waiting on a word tests it again, by re-execution. -/
def State.retest (s : State) (gid : GangId) (m : BitVec 8) : State :=
  match s.gang? gid with
  | some g => match g.partWait m with
    | some (.sync _ _ _) | some (.stamp _ _ _) => if s.canWake g && !s.determ gid then s.setGang (g.setWait m (some .rewatch)) else s
    | _ => s
  | none => s
/-- WATCH_RETEST and STAMP_REREAD. -/
def execWatchRetest (gid : GangId) (m : BitVec 8) (s : State) : Outcome := .next (s.retest gid m)
def execStampReread (gid : GangId) (m : BitVec 8) (s : State) : Outcome := .next (s.retest gid m)
/-- YIELD_TIMEOUT: 16 cycles have passed (R298). -/
def execYieldTimeout (gid : GangId) (m : BitVec 8) (s : State) : Outcome :=
  match s.gang? gid with
  | some g => match g.partWait m with
    | some (.yield l) => if s.canWake g then .next (s.wakePart g m (.yield l)) else .next s
    | _ => .next s
  | none => .next s
/-- A gang has issued: parts that yield to it wait for one fewer (R298). -/
def State.issuedOnce (s : State) (gid : GangId) : State :=
  { s with gangs := s.gangs.map fun g => { g with slices := g.slices.map fun sl => match sl.wait with
    | some (.yield l) => { sl with wait := some (.yield (l.filter (· != gid))) }
    | _ => sl } }

/-- DRAIN_SWEEP_COMPLETE: the sums of this package, and those of the other members of a span. -/
def execDrainSweepComplete (gid : GangId) (otherSent otherDone : Nat) (s : State) : Outcome :=
  match s.gang? gid with
  | none => .next s
  | some g => match g.partWait g.full with
    | some (.drain sc prev) =>
      if !s.canWake g then .next s
      else
        let p := s.drainSums gid sc
        let p := if sc = .span then (p.1 + otherSent, p.2 + otherDone) else p
        .next (s.setGang (g.setWait g.full (some (if prev = some p && p.1 = p.2 then .drainDone else .drain sc (some p)))))
    | _ => .next s

/-! ## Refresh windows (R68) -/

def execWgtRefreshWindowStart (die bank : Nat) (s : State) : Outcome := .next (s.setDie die fun d => { d with refresh := some bank })
def execWgtRefreshWindowEnd (die bank : Nat) (s : State) : Outcome :=
  if (s.die die).refresh = some bank then .next (s.setDie die fun d => { d with refresh := none }) else .next s

/-! ## Structural tests (R467 to R471) -/

def State.pass? (s : State) (die u : Nat) : Option TestPass := s.passes.find? fun p => p.die == die && p.u == u
/-- The P3 streams of a die that are ready wait behind a test step there, and each wait is a sample (R468, R476). -/
def State.sampleWaits (s : State) (die : Nat) : State :=
  (s.ready.filter fun r => s.gangDie r.gang == die && s.gangClass r.gang == 1).foldl (fun s _ => s.sampleAll die 5 (Config.latency s.clock)) s
/-- IDLE_TEST_STEP: an idle unit's next step, where TESTCTL enables its kind. -/
def execIdleTestStep (die u : Nat) (r : StepResult) (s : State) : Outcome :=
  match testUnit die u with
  | none => .next s
  | some (kind, num, steps) =>
    let p := { (s.pass? die u).getD ⟨die, u, 0, false, false, false, false, s.clock⟩ with granted := false }
    if !bit (s.devGet die 0xE000) (kind - 1) || p.forced || s.fenced die u || s.unitBusy die u then .next s
    else .next (((s.setDie die fun d => { d with p4 := 0 }).sampleWaits die).passStep p kind num steps r)
/-- FORCED_PASS_STEP. -/
def execForcedPassStep (die u : Nat) (r : StepResult) (s : State) : Outcome :=
  match testUnit die u, s.pass? die u with
  | some (kind, num, steps), some p =>
    if p.forced then .next (((s.setDie die fun d => { d with p4 := 0 }).sampleWaits die).passStep { p with granted := false } kind num steps r) else .next s
  | _, _ => .next s

/-! ## Scrubbing (R440, R475) -/

/-- Bytes of a scrubbed granule; none for an array that is not scrubbed. -/
def scrubGranule : EccArray → Option Nat
  | .localStore => some 8
  | .l2 => some 32
  | .wgtStore => some 16
  | .hbm => some 64
  | _ => none
/-- An uncorrectable error in an array that is not scrubbed: a lane register of a gang of the die, an element of an accumulator slot, or
a buffer of an operation, which stops (R440; log 23). -/
def State.unscrubbed (s : State) (arr : EccArray) (die granule : Nat) : State :=
  match arr with
  | .regFile => match (s.gangs.filter fun g => s.gangDie g.id == die)[granule / 24576]? with
    | some g => s.setGang { g with bad := g.bad.filter (· != granule % 24576) ++ [granule % 24576] }
    | none => s
  | .buffer => match (s.ops.filter fun o => s.gangDie o.gang == die && !o.complete)[granule]? with
    | some o => match o.kind with
      | .copy _ | .gather _ => s.failOp o 2 ⟨0x68, 0, 1, 0⟩
      | .drain _ | .epld _ _ => s.failTile o 3 ⟨0x68, 0, 1, 0⟩
      | .tile _ => s.failTile o 2 ⟨0x68, 0, 1, 0⟩
    | none => s
  | _ => if s.poison.contains (arr, die, granule) then s else { s with poison := s.poison ++ [(arr, die, granule)] }
/-- SCRUB_READ: ADDR is the physical address where the array has one. In an array that is not scrubbed the step stands for the error that a
read meets; a correction there is one on access (R400, R475, R477; log 23). -/
def execScrubRead (arr : EccArray) (die granule : Nat) (r : ScrubResult) (s : State) : Outcome :=
  match scrubGranule arr, r with
  | _, .clean => .next s
  | none, .corrected => .next (s.count die 0x7040)
  | none, .uncorrectable => .next (s.unscrubbed arr die granule)
  | some _, .corrected => .next (s.count die 0x7098)
  | some n, .uncorrectable =>
    let addr := if arr == .hbm || arr == .l2 then some (7, die * 2 ^ 48 + n * granule) else none
    let s := s.event die (eccCause arr die).1 10 0 (eccCause arr die).2 addr []
    if s.poison.contains (arr, die, granule) then .next s else .next { s with poison := s.poison ++ [(arr, die, granule)] }

/-! ## Monitors (R476) -/

/-- MONITOR_INTERVAL: a monitor of a count samples its rise over the last 10 µs. -/
def execMonitorInterval (die n : Nat) (s : State) : Outcome :=
  let c := s.devGet die (0xE100 + 8 * n)
  let src := fieldNat c 0 8
  if 16 ≤ n || !bit c 8 || src < 16 then .next s
  else
    let now := (s.devGet die (0x7000 + 8 * (src - 16))).toNat
    let m := s.monitor die n
    .next (s.setMonitor { m.sample (now - m.last) with last := now })

/-! ## Walks and migrations (R73, R85, R427) -/

/-- WALK_COMPLETE: the TLB of the die is filled, or nothing is kept of a walk that faults. -/
def execWalkComplete (die ctxDie ctxCore : Nat) (va : VAddr) (s : State) : Outcome :=
  .next (s.translate (s.dieAgent die (ctxDie, ctxCore)) va.toNat 0).1
/-- Why a migration's copy cannot complete: a failed CXL port, or poison in the old or the new frame. -/
def State.migrationBad (s : State) (m : Migration) : Option Nat :=
  if s.cxlDown m.oldFrame || s.cxlDown m.frame then some 0x5A
  else match (s.poisonCheck (.mem m.oldFrame 0) m.size false).2 with
    | some c => some c.1
    | none => (s.poisonCheck (.mem m.frame 0) m.size false).2.map (·.1)
/-- Grids whose completion waited for a migrating page complete (R38). -/
def State.completeGrids (s : State) : State := (s.grids.map (·.handle)).foldl (fun s h => s.tryComplete h) s
/-- The device's writes that waited for a migrating page, in order. -/
def State.writeHeld (s : State) : State :=
  s.heldWrites.foldl (fun s w => match s.grid? w.handle with
    | some g => s.deviceWrite g w.addr w.op
    | none => s) { s with heldWrites := [] }
/-- The merges that waited for one. -/
def State.mergeHeld (s : State) : State :=
  s.heldMerges.foldl (fun s h => match h.out.owner with
    | .merge n g lane addr sc draws => (s.mergeNext h.out n g lane addr sc draws h.level).sweepRemote h.out.owner
    | _ => s) { s with heldMerges := [] }
/-- What waits outside the gangs for the end of a migration goes on: writes of the device, merges, barrier phases whose flushes it held
back, completions. -/
def State.resumeHeld (s : State) : State :=
  let s := s.writeHeld.mergeHeld
  ((s.blocks.map (·.id)).foldl (fun s b => s.barrierSweep b) s).completeGrids
/-- Whether an arrival or a request translated before the migration is still to land in the frame that it leaves (R73). -/
def State.landsIn (s : State) (m : Migration) : Bool :=
  let leaves (p : Place) : Bool := match p with
    | .mem pa _ => m.oldFrame ≤ pa && pa < m.oldFrame + m.size
    | _ => false
  (s.arrivals.any fun a => match a.place with | some p => leaves p | none => false) ||
    s.flights.any fun f => f.reply.isNone && match f.out.msg with | .here p => leaves p | _ => false
/-- A migration's next step: it waits for accesses already translated, and for room on the retire ring (R428). -/
def State.migrationStep (s : State) (m : Migration) : State :=
  match m.failed.orElse fun _ => s.migrationBad m with
  | some c => (s.migrationFail m c).resumeHeld
  | none => if s.landsIn m || s.retireFull m.retireDie then s else (s.migrationDone m).resumeHeld
/-- Whether a migration uses the memory of a die. -/
def Migration.uses (m : Migration) (die : Nat) : Bool := m.oldFrame / 2 ^ 48 == die || m.frame / 2 ^ 48 == die
/-- MIGRATION_COMPLETE: a P4 request of its dies has been granted (R21). -/
def execMigrationComplete (n : Nat) (s : State) : Outcome :=
  match s.migrations[n]? with
  | none => .next s
  | some m =>
    let t : State := { s with dies := s.dies.mapIdx fun i d => if m.uses i then { d with p4 := 0 } else d }
    .next (t.migrationStep m)
/-- MIGRATION_ABANDON. -/
def execMigrationAbandon (n : Nat) (cause : BitVec 8) (s : State) : Outcome :=
  match s.migrations[n]? with
  | none => .next s
  | some m => .next (s.migrationFail m cause.toNat).resumeHeld

/-! ## Background work (R20, R21) -/

/-- Whether a pass asks for its next step: a forced one always, another while TESTCTL enables its kind and the unit takes work and has none
(R468, R469). -/
def State.passAsks (s : State) (p : TestPass) : Bool :=
  p.forced || match testUnit p.die p.u with
    | some (kind, _, _) => bit (s.devGet p.die 0xE000) (kind - 1) && !s.fenced p.die p.u && !s.unitBusy p.die p.u
    | none => false
/-- The oldest P4 requests of a die: a test step, and a migration (R20). -/
def State.passWaits (s : State) (die : Nat) : Option TestPass :=
  (s.passes.filter fun p => p.die == die && s.passAsks p).foldl (fun (m : Option TestPass) p => match m with
    | some x => if p.since < x.since then some p else some x
    | none => some p) none
def State.moveWaits (s : State) (die : Nat) : Option Migration := s.migrations.find? fun m => m.uses die
/-- Whether a P4 request of a die waits. -/
def State.p4Waits (s : State) (die : Nat) : Bool := (s.passWaits die).isSome || (s.moveWaits die).isSome
/-- An issue on a die passes over a P4 request that waits there (log 69). -/
def State.passOver (s : State) (die : Nat) : State :=
  if s.p4Waits die then s.setDie die fun d => { d with p4 := d.p4 + 1 }
  else if (s.die die).p4 = 0 then s
  else s.setDie die fun d => { d with p4 := 0 }
/-- Grants before a P4 request must be served. -/
def p4Bound : Nat := 4096
/-- Whether a P4 request of a die is granted next. -/
def State.p4Due (s : State) (die : Nat) : Bool := p4Bound ≤ (s.die die).p4 && s.p4Waits die
/-- Whether a test step has been granted on a die, so that nothing else issues there before it. -/
def State.p4Granted (s : State) (die : Nat) : Bool := s.passes.any fun p => p.die == die && p.granted && s.passAsks p
/-- P4_STARVATION_GRANT: the oldest request passed over 4,096 times is granted next, and the count starts again. A migration makes its step. A
test's step runs before anything else issues on the die; its result is an input (log 9). -/
def execP4StarvationGrant (die : Nat) (s : State) : Outcome :=
  if !s.p4Due die then .next s
  else
    let s := s.setDie die fun d => { d with p4 := 0 }
    let grant (p : TestPass) : State := { s with passes := s.passes.map fun x => if x == p then { p with granted := true } else x }
    match s.passWaits die, s.moveWaits die with
    | some p, some m => .next (if m.since < p.since then s.migrationStep m else grant p)
    | some p, none => .next (grant p)
    | none, some m => .next (s.migrationStep m)
    | none, none => .next s

end Sys2Proof.Machine
end

