-- ==== Sys2Proof/Machine/Determ.lean ====
section
/-! DEFINITION. Deterministic operation and redundant execution (R302, R353 to R371, R413, R414, R466): rounds, the ends of quanta,
commit phases and commit slots. -/
namespace Sys2Proof.Machine

/-! ## The gangs of a grid in a round -/

/-- Whether a gang takes part in the rounds: it has not exited, and its block is neither killed nor being killed. -/
def State.inRounds (s : State) (g : Gang) : Bool :=
  !g.exited && match s.blockOf g.id with | some b => !b.killing && b.state != .exited && b.state != .killed | none => false
/-- The gangs of a grid in the order of their commit slots; one copy of each pair. -/
def State.slotOrder (s : State) (h : Word) : List Gang :=
  (s.gangs.filter fun g => (match g.id with | .compute b _ => b.handle == h && !b.shadow | .control _ _ => false) &&
    s.inRounds g).mergeSort fun a b => a.id.index ≤ b.id.index
/-- Whether a block of a grid keeps its commit phases from beginning (R367). -/
def State.heldBack (s : State) (h : Word) : Bool :=
  s.blocks.any fun b => b.id.handle == h && match b.state with
    | .halting | .halted | .saved | .pending | .placed | .loaded => true
    | _ => false
/-- Whether everything that a gang's slot performed is complete (R361). -/
def State.slotQuiet (s : State) (g : GangId) : Bool :=
  !s.gangOutstanding g && !(s.remote.any fun r => r.gang == g) && (s.ops.all fun o => o.gang != g || s.opEnded o.id) &&
    !s.arrivals.any fun a => a.src == some g

/-! ## Execution phases (R355 to R357, R362) -/

/-- What a test of a watched word gives as a round starts: `held` where its condition holds; `rewatch` where only the instruction can tell,
by a fault or by a read in another package. -/
def State.wordTest (s : State) (g : GangId) (space addr : Nat) (stamp : Bool) (v : Nat) : Option Wait :=
  let n := if stamp then 8 else 16
  match (s.locate g (.word false) space addr n).2 with
  | .fault _ => some .rewatch
  | .wait _ => none
  | .ok p =>
    if p.isRemote || (s.poisonCheck p n false).2.isSome then some .rewatch
    else if waitHolds stamp v (s.readPlace p n) then some .held else none
/-- The test of a wait of R357 as a round starts (R362): what the part then has; none where its condition does not hold. -/
def State.roundTest (s : State) (g : Gang) (m : BitVec 8) (w : Wait) : Option Wait :=
  match w with
  | .sync sp a v => s.wordTest g.id sp a false v.toNat
  | .stamp sp a v => s.wordTest g.id sp a true v.toNat
  | .take h => if s.holds g.id h then some .held else none
  | .counters l st c t => if g.within m l st c t then some .held else none
  | .latchEntry => some .rewatch
  | _ => none
/-- A gang's waits as a round starts: a phase that has ended completes, other conditions are tested; REGANG and the latch go on
waiting. -/
def State.retestPart (s : State) (gid : GangId) (m : BitVec 8) : State :=
  match s.gang? gid with
  | none => s
  | some g => match g.partWait m with
    | some (.barrierDone b n) => s.wakePart g m (.barrierDone b n)
    | some .drainDone => s.wakePart g m .drainDone
    | some w => match s.roundTest g m w with
      | some x => s.setGang (g.setWait m (some x))
      | none => s
    | none => s
/-- A gang at the start of round `n`: an empty quantum so far. A gang whose slot stopped on a fault keeps what is left of it. -/
def State.joinRound (s : State) (gid : GangId) (n : Nat) : State :=
  match s.gang? gid with
  | none => s
  | some g =>
    if g.ended.isSome then s
    else
      let s := s.setGang { g with quant := n, qcount := 0, turn := none }
      g.parts.foldl (fun s m => s.retestPart gid m) s
/-- Whether every slot of a commit phase has been performed and is complete. -/
def State.slotsDone (s : State) (g : Grid) : Bool :=
  let all := s.gangs.filter fun x => x.id.ofGrid g.handle
  (s.slotOrder g.handle).all (fun x => g.committed.contains x.id.index) && all.all fun x => s.slotQuiet x.id
/-- Whether the room of an exited block is still to be freed; a span's is freed by a message (log 32). -/
def State.roomLeft (s : State) (g : Grid) : Bool :=
  g.record.spanSize = 0 && s.blocks.any fun b => b.id.handle == g.handle && b.state == .exited && !b.freed
/-- Whether a round may start: the room that exits have freed is used, and the dispatches for which there is room are done (R355). -/
def State.roundDue (s : State) (g : Grid) : Bool :=
  g.record.determ &&
  match g.phase with
  | .committing => s.slotsDone g
  | .executing | .stopped => false
  | _ => !(s.slotOrder g.handle).isEmpty && (s.dispatchPlan g).isNone && !s.roomLeft g
/-- ROUND_START: first the commit phase ends, so that dispatches follow; then, once they are done, the next round starts. -/
def execRoundStart (h : Word) (s : State) : Outcome :=
  match s.grid? h with
  | none => .next s
  | some g =>
    if !s.roundDue g then .next s
    else if g.phase = .committing then
      let s := s.setGrid { g with phase := .between, committed := [] }
      .next ((s.blocks.filter fun b => b.id.handle == h && !b.freed).foldl (fun s b => s.barrierSweep b.id) s)
    else
      let n := if g.phase = .notStarted then 0 else g.round + 1
      let s := s.setGrid { g with phase := .executing, round := n, image := some (s.mem, s.ls, s.wgt), committed := [] }
      .next ((s.gangs.filter fun x => x.id.ofGrid h && s.inRounds x).foldl (fun s x => s.joinRound x.id n) s)

/-- Whether a gang's quantum ends without an instruction of its own ending it: Q lane instructions, or no part can take the turn. -/
def State.quantumDue (s : State) (g : Gang) : Bool :=
  match s.gridOf g.id with
  | some gr => gr.record.determ && gr.phase == .executing && g.ended.isNone && s.canWake g &&
      (2 ^ gr.record.qlog ≤ g.qcount || (g.turnPart.isNone && g.laneIdle g.full))
  | none => false
/-- QUANTUM_COUNT_EXPIRY. -/
def execQuantumCountExpiry (gid : GangId) (s : State) : Outcome :=
  match s.gang? gid with
  | some g => if s.quantumDue g then .next (s.endQuantum gid .plain) else .next s
  | none => .next s

/-! ## The commit phase (R353, R361, R367) -/

/-- Whether the commit phase may begin: every gang, of both copies, has ended its quantum. One that a mismatch stopped goes on once no
block of the grid keeps it, with the slot that differed (R371, R466). -/
def State.commitDue (s : State) (g : Grid) : Bool :=
  g.record.determ && !s.heldBack g.handle &&
    (g.phase == .stopped || (g.phase == .executing &&
      (s.gangs.filter fun x => x.id.ofGrid g.handle && s.inRounds x).all fun x => x.ended.isSome))
/-- COMMIT_PHASE_START. -/
def execCommitPhaseStart (h : Word) (s : State) : Outcome :=
  match s.grid? h with
  | some g =>
    if s.commitDue g then
      .next (s.setGrid { g with phase := .committing, image := none, committed := if g.phase = .stopped then g.committed else [] })
    else .next s
  | none => .next s

/-! ### One entry of a quantum buffer (R359, R361, R369) -/

/-- What became of an entry. -/
inductive SlotRes where
  | ok
  | sent
  | wait
  | fault (f : AccFault) (lanes : BitVec 32)
  | plain (cause info : Nat)

/-- One access of a slot: here, or to another package, whose reply the slot awaits. -/
def State.slotAccess (s : State) (gid : GangId) (k : AccKind) (space addr n lane : Nat) (lanes : BitVec 32) (op : ReqOp) (u : SyncUse) :
    State × SlotRes :=
  match s.issuedLocate gid k space addr n, s.gang? gid with
  | (s, .fault f), _ => (s, .fault { f with addr := addr } lanes)
  | (s, .wait _), _ => (s, .wait)
  | (s, .ok p), some g =>
    if p.isRemote then (s.sendAccess gid p addr space op (.lane s.clock gid lane none n false) u 0, .sent)
    else match s.performAt g lane 0 addr p op u with
      | (s, ⟨.error (c, i), race⟩) => (s.slotRace gid race, .fault ⟨c, i, space, addr⟩ lanes)
      | (s, ⟨.ok _, race⟩) => (s.slotRace gid race, .ok)
  | (s, _), none => (s, .ok)
/-- Accesses in order; the first that does not succeed here decides. -/
def slotAll (s : State) (l : List (State → State × SlotRes)) : State × SlotRes :=
  l.foldl (fun (st : State × SlotRes) f => match st.2 with
    | .ok => f st.1
    | .sent => match f st.1 with
      | (s, .ok) => (s, .sent)
      | r => r
    | _ => st) (s, .ok)

/-- Runs of consecutive bytes in a store entry's mask: offset and length, on fuel. -/
def maskRuns (m : BitVec 16) : Nat → Nat → List (Nat × Nat)
  | 0, _ => []
  | f + 1, i =>
    if i ≥ 16 then []
    else if !bit m i then maskRuns m f (i + 1)
    else
      let n := ((List.range 16).find? fun k => !bit m (i + k) || i + k ≥ 16).getD 16
      (i, n) :: maskRuns m f (i + n)
/-- The elements of a reduction or atomic entry: the address of each, and the number of its data. -/
def QEntry.elements (e : QEntry) : List (Nat × Nat) :=
  let on := setBits 16 e.mask.toNat
  (List.range (on.length / e.width)).map fun k => (e.addr + on.getD (k * e.width) 0, k)
/-- An order and scope as the race detector takes them. -/
def State.slotSync (s : State) (gid : GangId) (e : QEntry) (rmw : Bool) : SyncUse :=
  let dmask : Word := match s.gang? gid with | some g => g.dmask | none => 0
  ⟨if rmw || e.order % 2 = 1 then some e.scope else none, if rmw || e.order ≥ 2 then e.scope else 7, e.space == 1, dmask⟩
/-- A gauge entry: kind, amount, draws of its issue, and the source of a merge. -/
def State.slotGauge (s : State) (gid : GangId) (e : QEntry) : State × SlotRes :=
  let addr := if e.space = 0 then e.addr + (setBits 16 e.mask.toNat).headD 0 else e.addr
  let seq := ofLeBytes ((e.bytes.drop 4).take 4)
  let src := ofLeBytes (e.bytes.drop 8)
  let draws := s.gaugeDraws gid e.op e.space addr seq e.lane
  let sc := fieldNat (s.gbase gid) 0 3
  let lanes := BitVec.ofNat 32 (2 ^ e.lane)
  match s.locateGauge gid e.space addr 2, s.gang? gid with
  | (s, .fault f), _ => (s, .fault { f with addr := addr } lanes)
  | (s, .wait _), _ => (s, .wait)
  | (s, .ok q), some g =>
    let add (s : State) (n : Nat) : State × SlotRes :=
      if q.isRemote then
        (s.sendAccess gid q addr e.space (.gauge e.op sc n draws) (.lane s.clock gid e.lane none 4 false) (s.slotSync gid e true) 0, .sent)
      else match s.gaugeAt g e.lane 0 e.space addr q e.op n draws (s.slotSync gid e true) with
        | (s, ⟨.error (c, i), race⟩) => (s.slotRace gid race, .fault ⟨c, i, e.space, addr⟩ lanes)
        | (s, ⟨.ok _, race⟩) => (s.slotRace gid race, .ok)
    if e.op ≠ 1 then add s (ofLeBytes (e.bytes.take 4))
    else match s.locateGauge gid e.space src 4 with
      | (s, .fault f) => (s, .fault { f with addr := src } lanes)
      | (s, .wait _) => (s, .wait)
      | (s, .ok sq) =>
        if sq.isRemote then
          (s.sendAccess gid sq src e.space (.gauge 4 0 0 []) (.merge s.clock gid e.lane addr sc draws) (s.slotSync gid e true) 0, .sent)
        else match s.gaugeSource g e.lane 0 e.space src sq (s.slotSync gid e true) with
          | (s, ⟨.error (c, i), race⟩) => (s.slotRace gid race, .fault ⟨c, i, e.space, src⟩ lanes)
          | (s, ⟨.ok _, race⟩) => add (s.slotRace gid race) (s.gaugeLevel gid e.space src sq)
  | (s, _), none => (s, .ok)

/-- Performs one entry for a gang; a store's bytes in naturally aligned pieces. -/
def State.slotEntry (s : State) (gid : GangId) (e : QEntry) : State × SlotRes :=
  let lanes := BitVec.ofNat 32 (2 ^ e.lane)
  match e.kind with
  | 1 => slotAll s (((maskRuns e.mask 16 0).flatMap fun r => pieces 16 16 (e.addr + r.1) r.2).map fun r s =>
      s.slotAccess gid .store e.space r.1 r.2 0 0 (.store ((e.bytes.drop (r.1 - e.addr)).take r.2)) (s.slotSync gid e false))
  | 2 | 3 =>
    let k : AccKind := if e.kind = 2 then .reduce else .atomic
    let expected := if e.op = 7 then (e.bytes.drop e.width).take e.width else []
    slotAll s (e.elements.map fun x s =>
      s.slotAccess gid k e.space x.1 e.width e.lane lanes
        (let d := (e.bytes.drop (e.width * x.2)).take e.width
         if e.kind = 2 then .reduce (BitVec.ofNat 3 e.op) (BitVec.ofNat 4 e.fmt) e.signed d
         else .atomic (BitVec.ofNat 3 e.op) (BitVec.ofNat 4 e.fmt) e.signed d expected) (s.slotSync gid e true))
  | 4 => s.slotGauge gid e
  | 5 => s.slotAccess gid (.word true) e.space e.addr 16 0 0 (.arrival (ofLeBytes (e.bytes.take 4)))
      { s.slotSync gid e true with acq := some e.scope, rel := e.scope }
  | 9 => match s.arriveBarrier gid e.op e.fmt (ofLeBytes (e.bytes.take 4)) with
    | (s, none) => (s, .ok)
    | (s, some info) => (s, .plain 0x30 info)
  | _ => (s, .ok)
/-- What a performed entry's order and scope do to a copy's race counters (R437): each entry that releases raises the interval counter (log 68). -/
def State.entryOrder (s : State) (gid : GangId) (e : QEntry) (r : SlotRes) : State :=
  match r with
  | .ok | .sent => if e.kind = 9 then s else s.orderDone gid e.order e.scope
  | _ => s
/-- Whether an entry is performed by each copy of a pair for itself (R369). -/
def QEntry.ownCopy (e : QEntry) : Bool := e.space == 1 || e.kind == 9

/-- Whether a gang has trapped. -/
def State.trapped (s : State) (gid : GangId) : Bool := match s.gang? gid with | some g => g.halted | none => true
/-- What a result that stops a slot does to its gang. -/
def State.slotTrap (s : State) (gid : GangId) (e : Option QEntry) : SlotRes → State
  | .fault f lanes => s.slotFault gid f lanes
  | .plain c i =>
    let s := s.takeTrap gid (TrapInfo.plain c i 5 0 [])
    match s.gang? gid, e with
    | some g, some e => s.setGang { g with arrived := g.arrived &&& ~~~(BitVec.ofNat 16 (2 ^ e.op)) }
    | _, _ => s
  | _ => s
def SlotRes.stops : SlotRes → Bool
  | .fault _ _ | .plain _ _ => true
  | _ => false

/-- How far a slot has come: on with it, not yet (a reply or a page is awaited), or ended by a trap. -/
inductive SlotFlow where
  | on | later | trapped
  deriving DecidableEq, Repr

/-- The rest of a gang's buffers, kept in both copies. -/
def State.setQbuf (s : State) (gid : GangId) (l : List QEntry) : State :=
  match s.gang? gid with | some g => s.setGang { g with qbuf := l } | none => s
/-- A wait for the replies of a slot's accesses (log 15): a lane-stream record of size 1. -/
def State.slotRemote (s : State) (gid : GangId) : State :=
  { s with remote := s.remote ++ [⟨s.clock, gid, true, 255, [], 0, false, [], false, 1, none, 0⟩] }

/-- Whether a gang's core has room for the requests of any one entry, of which there are at most 16 (R98). -/
def State.entryRoom (s : State) (gid : GangId) : Bool := s.hasRoom (s.requester gid) 16
/-- Step 1 of a slot: the quantum-buffer entries in the order of their creation. -/
def State.slotEntries (p : GangId) (sh : Option GangId) : List QEntry → State → State × SlotFlow
  | [], s => (s, .on)
  | e :: l, s =>
    if !s.entryRoom p then (s, .later) else
    match s.slotEntry p e with
    | (s, .wait) => (s, .later)
    | (s, r) =>
      if r.stops then (s.slotTrap p (some e) r, .trapped)
      else
        let q := match sh with
          | some q => if e.ownCopy then s.slotEntry q e else (s, .ok)
          | none => (s, .ok)
        let s := (q.1.setQbuf p l).entryOrder p e r
        let s := match sh with | some x => (s.setQbuf x l).entryOrder x e q.2 | none => s
        let s := match sh with | some x => s.slotTrap x (some e) q.2 | none => s
        if q.2.stops || s.trapped p || (match sh with | some x => s.trapped x | none => false) then (s, .trapped)
        else match r with
          | .sent => (s.slotRemote p, .later)
          | _ => State.slotEntries p sh l s

/-- Step 2: the atomic-buffer entries in entry order. -/
def State.slotAtomics (p : GangId) (sh : Option GangId) : List AEntry → State → State × SlotFlow
  | [], s => (s, .on)
  | e :: l, s =>
    let one (s : State) (gid : GangId) : State × SlotRes :=
      s.slotAccess gid .reduce e.space e.addr e.width 0 0 e.req ⟨some 0, 0, e.space == 1, 0⟩
    if !s.entryRoom p then (s, .later) else
    match one s p with
    | (s, .wait) => (s, .later)
    | (s, r) =>
      if r.stops then (s.slotTrap p none r, .trapped)
      else
        let q := match sh with
          | some q => if e.space = 1 then one s q else (s, .ok)
          | none => (s, .ok)
        let s := q.1.setAbuf p l
        let s := match sh with | some x => (s.setAbuf x l).slotTrap x none q.2 | none => s
        if q.2.stops || s.trapped p || (match sh with | some x => s.trapped x | none => false) then (s, .trapped)
        else match r with
          | .sent => (s.slotRemote p, .later)
          | _ => State.slotAtomics p sh l s

/-! ### The operation that ended the quantum -/

/-- The end of a quantum is dealt with. -/
def State.clearEnded (s : State) (gid : GangId) : State :=
  match s.gang? gid with | some g => s.setGang { g with ended := none } | none => s
/-- The lanes' accesses of a slot's VATM, for one copy. -/
def State.slotAtomic (s : State) (gid : GangId) (w : LaneWord) (m : BitVec 8) (idx : Nat) : State × SlotFlow :=
  match s.gang? gid with
  | none => (s, .trapped)
  | some g =>
    let las := (g.issueLanes m w true).map fun l => (l, g.laneAddr w.a w.space l)
    let op : LaneOp := ⟨.atomic, w.bytes, some w.d.toNat, false, syncUse g m w true, true, true⟩
    let r := s.locateLanes g .atomic w.space w.bytes las
    match firstWait r.2 with
    | some _ => (r.1, .later)
    | none =>
      if !r.1.hasRoom (r.1.requester gid) (r.1.departCount gid true w.bytes r.2) then (r.1, .later) else
      let q := r.2.foldl (fun (acc : LaneRun) p => acc.step op w.space idx (atomicReq g w) (fun _ bs => bs) p) ⟨r.1, g, [], none, 0, false⟩
      let s := q.s.setGang q.g
      if q.sent = 0 then
        let s := s.endAtomic gid q.faults q.race
        (s, if s.trapped gid then .trapped else .on)
      else ({ s with remote := s.remote ++ [⟨s.clock, gid, true, m, [], idx, false, q.faults, false, 2, q.race, 0⟩] }, .later)

/-- What an engine instruction hands to its engine. -/
def engineRun (i : Instr) : Option (State → Gang → Nat → Slice → List Word → Issued) :=
  match i with
  | .copy x => some (copyRun x false)
  | .copyr x => some (copyRun x true)
  | .gath x => some (gatherRun x false)
  | .scad x => some (gatherRun x true)
  | .mxa x => some (mxaRun x)
  | .mxaSolo x => some (mxaSoloRun x)
  | .mxz _ d => some (mxzRun d)
  | .mxld _ d a => some (mxldRun d a)
  | .mxst _ d a b => some (mxstRun d a b)
  | .epld _ a => some (epldRun a)
  | _ => none
/-- Whether an engine operation writes outside local store: the shadow does not perform it (R369). -/
def primaryOnly (i : Instr) (sl : Slice) : Bool :=
  match i with
  | .copy x => (copyOf sl false x.d.val x.a.val (4 * x.b.val)).dspace != 1
  | .copyr x => (copyOf sl true x.d.val x.a.val (4 * x.b.val)).dspace != 1
  | .scad _ => true
  | _ => false
def isMxa : Instr → Bool
  | .mxa _ => true
  | _ => false
/-- An engine instruction of a slot, for one copy; `shadow` says which. -/
def State.slotEngine (s : State) (gid : GangId) (words : List Word) (m : BitVec 8) (shadow : Bool) : State × SlotFlow :=
  match decodeScalar (words.headD 0) (words.getD 1 0), s.gang? gid with
  | .ok i, some g => match engineRun i, g.operandSlice with
    | some run, some (k, sl) =>
      if shadow && primaryOnly i sl then (s, .on)
      else match run s g k sl words with
        | .ok s =>
          let s := s.dropFetched gid
          match s.gang? gid with
          | some g => (if isMxa i && (g.partWait m).isNone && (g.partSlices m).all (fun x => x.pc == sl.pc) then
              s.setGang (g.runPart m fun _ x => x.advance 4) else s, .on)
          | none => (s, .on)
        | .trapped s => (s, .trapped)
        | .wait s .latch => (s.waitPart ((s.gang? gid).getD g) m .latch, .on)
        | .wait s .latchEntry => (s.waitPart ((s.gang? gid).getD g) m .latchEntry, .on)
        | .wait s _ => (s, .later)
    | _, _ => (s, .on)
  | _, _ => (s, .on)

/-- A GIVE or DETACH of a slot: a change of the cohort's handles holds for both copies. -/
def State.slotHandle (s : State) (gid : GangId) (sh : Option GangId) (words : List Word) (m : BitVec 8) : State × SlotFlow :=
  match decodeScalar (words.headD 0) (words.getD 1 0), s.gang? gid with
  | .ok (.give gd d a b), some g => match g.leader m gd with
    | some (i, sl) =>
      match s.give gid (sl.reg d.val) (sl.src a).toNat (sl.src b).toNat with
      | .error e => (s.takeTrap gid (TrapInfo.plain 0x34 e 5 i words), .trapped)
      | .ok s => match sh with
        | some q => match s.give q (sl.reg d.val) (sl.src a).toNat (sl.src b).toNat with
          | .ok s => (s, .on)
          | .error _ => (s, .on)
        | none => (s, .on)
    | none => (s, .on)
  | .ok (.detach gd a), some g => match g.leader m gd, s.gridOf gid with
    | some (_, sl), some gr =>
      if s.usesMember gid gr (sl.src a).toNat then (s, .later) else (s.detach gr (sl.src a).toNat, .on)
    | _, _ => (s, .on)
  | _, _ => (s, .on)

/-- Step 3: what ended the quantum. -/
def State.slotEnd (s : State) (p : GangId) (sh : Option GangId) (q : QuantumEnd) : State × SlotFlow :=
  match q with
  | .plain => (s, .on)
  | .atomic w m idx _ => match s.slotAtomic p w m idx with
    | (s, .on) => match sh with
      | some x => if w.space = 1 then s.slotAtomic x w m idx else (s, .on)
      | none => (s, .on)
    | r => r
  | .engine words m => match sh with
    | none => s.slotEngine p words m false
    | some x => match s.slotEngine x words m true with
      | (s, .later) => (s, .later)
      | (_, .trapped) | (_, .on) => match s.slotEngine p words m false with
        | (s, .on) => s.slotEngine x words m true
        | r => r
  | .handle words m => s.slotHandle p sh words m
  | .exit =>
    let ready (s : State) (gid : GangId) : Bool := match s.gang? gid with | some g => g.exited || s.exitReady g | none => true
    let go (s : State) (gid : GangId) : State := match s.gang? gid with | some g => if g.exited then s else s.exitStep g | none => s
    if !ready s p || (match sh with | some x => !ready s x | none => false) then (s, .later)
    else
      let s := go s p
      let s := match sh with | some x => go s x | none => s
      (s, if s.trapped p then .trapped else .on)

/-! ### Signatures (R370, R371, R466) -/

/-- A 32-byte record of the commit stream. -/
def sigRecord (space addr kind code mask : Nat) (data : List Byte) : List Byte :=
  leBytes 8 (space * 2 ^ 61 + addr) ++ leBytes 1 kind ++ leBytes 1 code ++ leBytes 2 mask ++ leBytes 4 0 ++
    (data ++ List.replicate 16 0).take 16
/-- Operation, format and width code as one byte (log 34). -/
def sigCode (op fmt width : Nat) : Nat := op % 8 + 8 * (fmt % 8) + 64 * (Nat.log2 width % 4)
def QEntry.sig (e : QEntry) : List Byte :=
  sigRecord e.space e.addr (if e.kind = 9 then 5 else e.kind) (sigCode e.op e.fmt (if e.kind ≤ 3 then e.width else 1)) e.mask.toNat e.bytes
def AEntry.sig (e : AEntry) : List Byte :=
  sigRecord e.space (e.addr / 16 * 16) 2 (sigCode e.op e.fmt e.width) (unitMask e.addr e.width).toNat (leBytes e.width e.value)
/-- The operand words that an instruction reads, in the order d, a, b (log 34). -/
def operandWords (i : Instr) (sl : Slice) : List Word :=
  let regs (n k : Nat) : List Word := (List.range k).map fun j => sl.reg (n + j)
  let copy (x : CopyForm) (c : CopyOp) : List Word :=
    let wide (sp : Nat) : Nat := if sp = 0 || sp = 2 then 2 else 1
    regs x.d.val (wide c.dspace) ++ regs x.a.val (wide c.sspace) ++ regs (4 * x.b.val) 4
  match i with
  | .copy x => copy x (copyOf sl false x.d.val x.a.val (4 * x.b.val))
  | .copyr x => copy x (copyOf sl true x.d.val x.a.val (4 * x.b.val))
  | .gath x | .scad x => regs (2 * x.d.val) 2 ++ regs (2 * x.a.val) 2
  | .mxa x | .mxaSolo x =>
    if asrcOf (sl.reg (2 * x.d.val)) = 1 then regs (2 * x.d.val) 2 ++ [sl.reg x.a.val] else [sl.reg (2 * x.d.val), sl.reg x.a.val, sl.reg x.b.val]
  | .mxz _ d => [sl.reg d.val]
  | .mxld _ d a => [sl.reg d.val, sl.reg a.val]
  | .mxst _ d a b => if bit (sl.reg (2 * d.val)) 6 then sl.reg (2 * d.val) :: regs (4 * b.val) 2 else sl.reg (2 * d.val) :: regs (2 * a.val) 2
  | .epld _ a => regs (2 * a.val) 2
  | .give _ d a b => [sl.reg d.val, sl.src a, sl.src b]
  | .detach _ a => [sl.src a]
  | _ => []
/-- The record of an instruction that ended the quantum: its word and the first three operand words that it reads. -/
def Gang.wordSig (g : Gang) (kind : Nat) (words : List Word) (m : BitVec 8) : List Byte :=
  let reads := match decodeScalar (words.headD 0) (words.getD 1 0) with
    | .ok i =>
      let sl := match i with
        | .give gd _ _ _ | .detach gd _ => g.leader m gd
        | _ => g.operandSlice
      (match sl with | some x => operandWords i x.2 | none => [])
    | .error _ => []
  sigRecord 0 0 kind 0 0 (bytesOfWords (words.headD 0 :: (reads ++ [0, 0, 0]).take 3))
def Gang.endSig (g : Gang) : List (List Byte) :=
  match g.ended with
  | some (.atomic w m _ _) => (g.issueLanes m w true).map fun l => (atomicEntry g w 3 l (g.laneAddr w.a w.space l)).sig
  | some (.engine ws m) => [g.wordSig 6 ws m]
  | some (.handle ws m) => [g.wordSig 7 ws m]
  | some .exit => [sigRecord 0 0 8 0 0 []]
  | _ => []
/-- The commit stream of a gang's slot. -/
def Gang.stream (g : Gang) : List (List Byte) := g.qbuf.map QEntry.sig ++ g.abuf.map AEntry.sig ++ g.endSig
def Gang.signature (g : Gang) : DWord := crc64 g.stream.flatten

/-- The signatures of a pair differ: both copies trap, the primary's die records one event, and the grid's rounds stop with this slot
not performed. -/
def State.mismatch (s : State) (p q : Gang) : State :=
  let words (g : Gang) : List Word := match g.ended with | some (.engine w _) => w | some (.handle w _) => w | _ => []
  let sp := p.signature
  let sq := q.signature
  let dp := s.gangDie p.id
  let dq := s.gangDie q.id
  let core := match s.blockOf p.id with | some b => 16 * b.die + b.core | none => 0
  let s := (s.takeTrap p.id (TrapInfo.plain 0x61 0 5 0 (words p))).takeTrap q.id (TrapInfo.plain 0x61 0 5 0 (words q))
  let s := match s.gridOf p.id with | some gr => s.setGrid { gr with phase := .stopped } | none => s
  (s.count dp 0x7078).event dp 0x61 10 core p.id.index none
    (leBytes 8 sp.toNat ++ leBytes 8 sq.toNat ++ leBytes 4 p.stream.length ++ leBytes 4 q.stream.length ++ leBytes 1 dp ++ leBytes 1 dq)

/-! ### The slot -/

/-- Marks a gang's slot as performed in this phase. -/
def State.markSlot (s : State) (gid : GangId) : State :=
  match s.gridOf gid with
  | some gr => s.setGrid { gr with committed := gr.committed ++ [gid.index] }
  | none => s
/-- The gang whose slot is next: the first not yet performed, once every slot before it is complete. -/
def State.nextSlot (s : State) (g : Grid) : Option Gang :=
  if !g.record.determ || g.phase != .committing then none
  else match (s.slotOrder g.handle).find? fun x => !g.committed.contains x.id.index with
    | none => none
    | some x => if (s.gangs.filter fun y => y.id.ofGrid g.handle).all fun y => s.slotQuiet y.id then some x else none
/-- Steps 1 to 3 of a slot. -/
def State.slotSteps (s : State) (p : GangId) (sh : Option GangId) : State × SlotFlow :=
  match s.gang? p with
  | none => (s, .trapped)
  | some g => match State.slotEntries p sh g.qbuf s with
    | (s, .on) => match State.slotAtomics p sh (match s.gang? p with | some g => g.abuf | none => []) s with
      | (s, .on) => match (s.gang? p).bind (·.ended) with
        | some q => s.slotEnd p sh q
        | none => (s, .on)
      | r => r
    | r => r
/-- A slot that is performed: the ends of both copies' quanta are dealt with, and a crew that waited for the slot issues (R361). -/
def State.closeSlot (s : State) (p : GangId) (sh : Option GangId) : State :=
  let s := (s.clearEnded p).crewSlot p
  let s := match sh with | some q => (s.clearEnded q).crewSlot q | none => s
  s.markSlot p
/-- COMMIT_SLOT. -/
def execCommitSlot (gid : GangId) (s : State) : Outcome :=
  match s.gridOf gid with
  | none => .next s
  | some gr => match s.nextSlot gr with
    | none => .next s
    | some g =>
      if g.id ≠ gid then .next s
      else
        let sh := s.shadowOf gid
        let pair := sh.bind s.gang?
        if s.trapped gid || (match sh with | some q => s.trapped q | none => false) then .next (s.markSlot gid)
        else
          let s := if pair.isSome then s.sampleAll (s.gangDie gid) 6 (Config.latency s.clock) else s
          match pair with
          | some q =>
            if g.signature != q.signature then .next (s.mismatch g q)
            else match s.slotSteps gid sh with
              | (s, .on) => .next (s.closeSlot gid sh)
              | (s, .later) => .next s
              | (s, .trapped) => .next (s.markSlot gid)
          | none => match s.slotSteps gid none with
            | (s, .on) => .next (s.closeSlot gid none)
            | (s, .later) => .next s
            | (s, .trapped) => .next (s.markSlot gid)

end Sys2Proof.Machine
end

