-- ==== Sys2Proof/Machine/Image.lean ====
section
/-! DEFINITION. Context images: their layout, CTXSV and CTXLD (R52, R53, R227, R229 to R233, R372, R419 to R421). -/
namespace Sys2Proof.Machine

/-! ## Sizes and fields of the header (R229, R230) -/

/-- Bytes of one gang's record. -/
def gangBytes (r : LaunchRec) : Nat := 0x8000 + 0x1000 * r.regs
def imageSize (r : LaunchRec) (slots : Nat) : Nat := 0x2000 + r.gangs * gangBytes r + 0x10000 * slots + 0x1000 * r.lsSz
/-- SHAPE and SIZES of a grid's blocks. -/
def shapeOf (r : LaunchRec) : Nat :=
  (r.gangs - 1) + 2 ^ 8 * (r.slices - 1) + 2 ^ 16 * r.regs + (if r.determ then 2 ^ 24 else 0) + (if r.race then 2 ^ 25 else 0)
def sizesOf (r : LaunchRec) : Nat := r.lsSz + 2 ^ 16 * r.gaugeSz
/-- ROLE. -/
def roleOf (r : LaunchRec) (shadow : Bool) : Nat := if !r.redun then 0 else if shadow then 2 else 1

/-- Bytes placed at offsets of an image; the rest are zero. -/
abbrev Segs := List (Nat × List Byte)
/-- The `n` bytes of an image given by its segments. -/
def segBytes (l : Segs) (n : Nat) : List Byte := (l.foldl (fun (m : Memory) p => m.write p.1 p.2) []).read 0 n

/-! ## Encoding (R230 to R232) -/

def Barrier.bytes (b : Barrier) : List Byte :=
  leBytes 4 b.arrivals ++ leBytes 4 (b.fixed % 2 ^ 16 + (if b.phase then 2 ^ 16 else 0) + 2 ^ 17 * b.scope)
/-- A handle-table entry. -/
def HandleEntry.bytes (e : HandleEntry) : List Byte := leBytes 16 (2 ^ 127 + e.owner * 2 ^ 96 + e.holder * 2 ^ 88 + e.len * 2 ^ 64 + e.off)
/-- The model's encoding of a waiting part (log 26): gang, slices, 1 a barrier's phase or 2 its end with the barrier, or 3 a sync word
or 4 a stamp with its address and the low word of the value, which the instruction names again when it re-executes (R50). -/
def watchEntry (g : Gang) (m : BitVec 8) : Option (List Byte) :=
  match g.partWait m with
  | some (.barrier b n) => some ([BitVec.ofNat 8 g.id.num, m, 1, BitVec.ofNat 8 b, BitVec.ofNat 8 n] ++ List.replicate 11 0)
  | some (.barrierDone b n) => some ([BitVec.ofNat 8 g.id.num, m, 2, BitVec.ofNat 8 b, BitVec.ofNat 8 n] ++ List.replicate 11 0)
  | some (.sync sp a v) => some ([BitVec.ofNat 8 g.id.num, m, 3, BitVec.ofNat 8 sp] ++ leBytes 8 a ++ leBytes 4 v.toNat)
  | some (.stamp sp a v) => some ([BitVec.ofNat 8 g.id.num, m, 4, BitVec.ofNat 8 sp] ++ leBytes 8 a ++ leBytes 4 v.toNat)
  | _ => none
/-- The watch entries of a block, at most 64 (R48, R230): barriers first, at most one for each gang. A part that waits on a word has no need of
one, since it names the word again. -/
def State.watchEntries (s : State) (b : BlockId) : List (List Byte) :=
  let l := (s.blockGangs b).flatMap fun x => x.parts.filterMap (watchEntry x)
  let words (e : List Byte) : Bool := (e.getD 2 0).toNat ≥ 3
  ((l.filter fun e => !words e) ++ l.filter words).take 64
/-- The block header; `state` is 1 saved or 2 exited. -/
def State.headerSegs (s : State) (g : Grid) (b : Block) (state size : Nat) : Segs :=
  let r := g.record
  let table := if s.rank b.id = 0 then (match s.cohort? b.id with | some c => c.table | none => []) else []
  [(0, leBytes 2 1 ++ leBytes 1 state ++ leBytes 1 (roleOf r b.id.shadow)), (8, leBytes 4 b.id.handle.toNat),
   (0x10, leBytes 4 b.id.index), (0x18, leBytes 4 (shapeOf r)), (0x1C, leBytes 4 (sizesOf r)),
   (0x20, leBytes 4 (b.accs.foldl (fun n p => n + 2 ^ p.1) 0)), (0x28, leBytes 8 size)] ++
  b.barriers.zipIdx.map (fun p => (0x100 + 8 * p.2, p.1.bytes)) ++
  (s.watchEntries b.id).zipIdx.map (fun p => (0x180 + 16 * p.2, p.1)) ++
  table.map fun p => (0x1000 + 16 * p.1, p.2.bytes)

def AEntry.bytes (e : AEntry) : List Byte :=
  leBytes 8 (e.space * 2 ^ 61 + e.addr) ++ leBytes 1 e.op ++ leBytes 1 e.fmt ++
    leBytes 1 (Nat.log2 e.width) ++ leBytes 1 1 ++ leBytes 4 0 ++ leBytes 8 e.value ++ leBytes 8 0
def QEntry.encode (e : QEntry) : List Byte :=
  leBytes 8 (e.space * 2 ^ 61 + e.addr) ++ leBytes 2 e.mask.toNat ++ leBytes 1 e.kind ++ leBytes 1 e.op ++
    leBytes 1 e.fmt ++ leBytes 1 (if e.kind ≤ 3 then Nat.log2 e.width else 0) ++
    leBytes 1 (e.order + 4 * e.scope) ++ leBytes 1 (1 + 2 * e.lane) ++ (e.bytes ++ List.replicate 16 0).take 16
def Run.bytes (r : Run) : List Byte :=
  leBytes 4 r.index ++ leBytes 2 r.count ++ leBytes 2 0 ++ (List.range 31).flatMap (fun k => leBytes 4 (r.regs.get k).toNat) ++
    leBytes 4 r.dmask.toNat
/-- A pending LMASK beside its run (log 13). -/
def maskByte (m : Option (BitVec 4)) : List Byte := match m with | some x => leBytes 1 (128 + x.toNat) | none => [0]
/-- A slice record. -/
def Slice.segs (sl : Slice) (o : Nat) : Segs :=
  let runs := (match sl.cur with | some c => [c.run] | none => []) ++ sl.queue
  let next := match sl.cur with | some c => c.next | none => 0
  [(o, leBytes 8 sl.pc.toNat), (o + 8, (List.range 31).flatMap fun k => leBytes 4 (sl.regs.get k).toNat),
   (o + 0x84, leBytes 1 sl.q.toNat), (o + 0x85, leBytes 1 (sl.active.toNat + if sl.exited then 128 else 0)),
   (o + 0x88, (List.range 8).flatMap fun j => leBytes 1 (fieldNat sl.k (4 * j) 4)), (o + 0x90, leBytes 1 sl.loops.length),
   (o + 0xE0, leBytes 8 (next + 2 ^ 32 * runs.length + if sl.cur.isSome then 2 ^ 36 else 0)), (o + 0x3AD, maskByte sl.nextMask)] ++
  sl.loops.reverse.zipIdx.map (fun p => (o + 0x98 + 16 * p.2,
    leBytes 4 p.1.start.toNat ++ leBytes 4 p.1.stop.toNat ++ leBytes 4 p.1.count.toNat ++ leBytes 4 0)) ++
  runs.zipIdx.flatMap fun p => [(o + 0x100 + 136 * p.2, p.1.bytes), (o + 0x3A8 + p.2, maskByte p.1.mask)]
/-- Which of `n` entries are signed: R231 gives their bytes the format code alone, so they stand after slice 0's runs, where R232 names
nothing (log 46). -/
def signBytes (n : Nat) (l : List Bool) : List Byte := leBytes n ((l.zipIdx.filter (·.1)).foldl (fun x p => x + 2 ^ p.2) 0)
/-- A gang's record at an offset. -/
def Gang.segs (g : Gang) (r : LaunchRec) (o : Nat) : Segs :=
  let w (x : Nat) : List Byte := leBytes 4 x
  [(o, g.parts.flatMap fun m => leBytes 1 m.toNat), (o + 8, g.slices.flatMap fun sl => leBytes 1 sl.pending.toNat),
   (o + 0x10, w (g.l + 2 ^ 8 * g.s + 2 ^ 16 * g.t + 2 ^ 24 * g.c) ++ w g.batch.toNat ++ w g.rsSeq ++ w g.gaugeSeq ++ w g.dmask.toNat ++
      w g.crew.toNat ++ w g.moncfg.toNat ++ w g.quant ++ w g.qcount ++ w g.replay.toNat ++ w (g.arrived.toNat + 2 ^ 16 * g.arrPhase.toNat)),
   (o + 0x100, if r.determ then g.abuf.flatMap AEntry.bytes else []), (o + 0x4000, if r.determ then g.qbuf.flatMap QEntry.encode else []),
   (o + 0x7B0, if r.determ then signBytes 2 (g.abuf.map (·.signed)) else []),
   (o + 0x7C0, if r.determ then signBytes 64 (g.qbuf.map (·.signed)) else []),
   (o + 0x8000, (List.range (32 * r.regs)).flatMap fun v => (List.range 32).flatMap fun l =>
      w (if l < 4 * r.slices then (g.vreg v l).toNat else 0))] ++
  g.slices.zipIdx.flatMap fun p => p.1.segs (o + 0x400 + 0x400 * p.2)
/-- An image with its CHECK field filled in. -/
def sealImage (l : Segs) (size : Nat) : List Byte := segBytes (l ++ [(0x30, leBytes 8 (crc64 (segBytes l size)).toNat)]) size
/-- The image of a halted block. -/
def State.imageOf (s : State) (g : Grid) (b : Block) : List Byte :=
  let r := g.record
  let size := imageSize r b.accs.length
  let slots := 0x2000 + r.gangs * gangBytes r
  sealImage (s.headerSegs g b 1 size ++ ((s.blockGangs b.id).flatMap fun x => x.segs r (0x2000 + x.id.num * gangBytes r)) ++
    b.accs.zipIdx.map (fun p => (slots + 0x10000 * p.2, accBytes p.1.2 0 0x10000)) ++
    [(slots + 0x10000 * b.accs.length, s.ls.read b.base (0x1000 * r.lsSz))]) size
/-- The header written for an exited block, alone. -/
def State.exitedImage (s : State) (g : Grid) (b : Block) : List Byte := sealImage (s.headerSegs g b 2 0x2000) 0x2000

/-! ## Decoding -/

def imgField (img : List Byte) (o n : Nat) : Nat := ofLeBytes ((img.drop o).take n)
def imgWord (img : List Byte) (o : Nat) : Word := BitVec.ofNat 32 (imgField img o 4)
def barrierAt (img : List Byte) (b : Nat) : Barrier :=
  let x := imgField img (0x100 + 8 * b) 8
  ⟨x / 2 ^ 48 % 2 = 1, x % 2 ^ 32, x / 2 ^ 32 % 2 ^ 16, x / 2 ^ 49 % 8⟩
def handleAt (img : List Byte) (h : Nat) : Option HandleEntry :=
  let x := imgField img (0x1000 + 16 * h) 16
  if x / 2 ^ 127 = 1 then some ⟨x / 2 ^ 96 % 32, x / 2 ^ 88 % 32, x % 2 ^ 23, x / 2 ^ 64 % 2 ^ 24⟩ else none
def aentryAt (img : List Byte) (o : Nat) (signed : Bool) : Option AEntry :=
  let x := imgField img o 8
  if imgField img (o + 11) 1 = 0 then none
  else some ⟨x / 2 ^ 61, x % 2 ^ 56, imgField img (o + 8) 1, imgField img (o + 9) 1, 2 ^ imgField img (o + 10) 1, signed,
    imgField img (o + 16) 8⟩
def qentryAt (img : List Byte) (o : Nat) (signed : Bool) : Option QEntry :=
  let x := imgField img o 8
  let b (i : Nat) : Nat := imgField img (o + i) 1
  if b 15 % 2 = 0 then none
  else some { kind := b 10, space := x / 2 ^ 61, addr := x % 2 ^ 56, mask := BitVec.ofNat 16 (imgField img (o + 8) 2), op := b 11,
              fmt := b 12, width := if b 10 ≤ 3 then 2 ^ b 13 else 0, order := b 14 % 4, scope := b 14 / 4 % 8,
              lane := b 15 / 2 % 32, signed := signed, bytes := (img.drop (o + 16)).take 16 }
/-- The entries of a list that its first invalid entry ends. -/
def untilNone {α : Type} : List (Option α) → List α
  | some x :: l => x :: untilNone l
  | _ => []
def maskAt (img : List Byte) (o : Nat) : Option (BitVec 4) :=
  let x := imgField img o 1
  if x ≥ 128 then some (BitVec.ofNat 4 x) else none
def wordsAt (img : List Byte) (o n : Nat) : WordMap := ⟨.zero, (List.range n).map fun k => (k, imgWord img (o + 4 * k))⟩
/-- A run record; bits [15:13] of a die mask read as zero (R8). -/
def runAt (img : List Byte) (o k : Nat) : Run :=
  let a := o + 0x100 + 136 * k
  ⟨imgField img a 4, imgField img (a + 4) 2, wordsAt img (a + 8) 31, imgWord img (a + 132) &&& 0xFFFF1FFF, maskAt img (o + 0x3A8 + k)⟩
/-- The wait of a slice of a gang from the watch entries. -/
def waitAt (img : List Byte) (gang slice : Nat) : Option Wait :=
  (List.range 64).findSome? fun k =>
    let o := 0x180 + 16 * k
    let b (i : Nat) : Nat := imgField img (o + i) 1
    if b 0 = gang && (b 1).testBit slice && b 2 = 1 then some (.barrier (b 3) (b 4))
    else if b 0 = gang && (b 1).testBit slice && b 2 = 2 then some (.barrierDone (b 3) (b 4))
    else if b 0 = gang && (b 1).testBit slice && b 2 = 3 then some (.sync (b 3) (imgField img (o + 4) 8) (imgWord img (o + 12)))
    else if b 0 = gang && (b 1).testBit slice && b 2 = 4 then
      some (.stamp (b 3) (imgField img (o + 4) 8) (BitVec.ofNat 64 (imgField img (o + 12) 4)))
    else none
def sliceAt (img : List Byte) (o gang k pending : Nat) : Slice :=
  let pc : VAddr := BitVec.ofNat 56 (imgField img o 8)
  let lane := imgField img (o + 0xE0) 8
  let runs := (List.range (lane / 2 ^ 32 % 16)).map (runAt img o)
  let running := lane / 2 ^ 36 % 2 = 1
  let level (i : Nat) : LoopLevel := ⟨imgWord img (o + 0x98 + 16 * i), imgWord img (o + 0x9C + 16 * i), imgWord img (o + 0xA0 + 16 * i)⟩
  { pc := pc, regs := wordsAt img (o + 8) 31, q := BitVec.ofNat 8 (imgField img (o + 0x84) 1) ||| 0x80,
    active := BitVec.ofNat 4 (imgField img (o + 0x85) 1),
    k := BitVec.ofNat 32 ((List.range 8).foldl (fun n j => n + imgField img (o + 0x88 + j) 1 % 16 * 2 ^ (4 * j)) 0) ||| 0xF0000000,
    loops := ((List.range (imgField img (o + 0x90) 1)).map level).reverse, exited := imgField img (o + 0x85) 1 ≥ 128,
    queue := if running then runs.drop 1 else runs,
    cur := if running then runs.head?.map fun r => ⟨r, lane % 2 ^ 24⟩ else none,
    nextMask := maskAt img (o + 0x3AD), pending := BitVec.ofNat 8 pending, pendingPc := if pending = 0 then 0 else pc,
    wait := waitAt img gang k, lwait := none }
/-- The slices whose lane instruction is to be performed again, as REPLAY shows them: those of each lane group with a lane in the mask (R424;
log 68). -/
def Gang.marked (g : Gang) : Gang :=
  let l := List.range g.slices.length
  let run (i : Nat) : Option CurRun := (g.slice? i).bind (·.cur)
  let together (i j : Nat) : Bool := i == j || (run i == run j && g.parts.any fun p => bit p i && bit p j)
  let faulted := l.filter fun j => (run j).isSome && g.replay &&& lanesOf (BitVec.ofNat 8 (2 ^ j)) != 0
  { g with replaySeq := (l.filter fun i => faulted.any (together i)).map fun i => (i, (g.gaugeSeq + 2 ^ 32 - 1) % 2 ^ 32) }
/-- A gang with the state of its record in an image. -/
def Gang.load (g : Gang) (r : LaunchRec) (img : List Byte) : Gang :=
  let o := 0x2000 + g.id.num * gangBytes r
  let c := imgField img (o + 0x10) 4
  let n (i : Nat) : Nat := imgField img (o + i) 4
  let count (k : Nat) : Counter := List.replicate (c / 2 ^ k % 64) (0, false)
  let asign := imgField img (o + 0x7B0) 2
  let qsign := imgField img (o + 0x7C0) 64
  { g with
    parts := ((List.range 8).map fun i => BitVec.ofNat 8 (imgField img (o + i) 1)).filter (· != 0)
    slices := (List.range r.slices).map fun k => sliceAt img (o + 0x400 + 0x400 * k) g.id.num k (imgField img (o + 8 + k) 1)
    v := ⟨.zero, (List.range (32 * r.regs * 32)).map fun i => (i, imgWord img (o + 0x8000 + 4 * i))⟩
    lq := count 0, sq := count 8, tq := count 16, c := c / 2 ^ 24 % 16, batch := imgWord img (o + 0x14)
    rsSeq := n 0x18, gaugeSeq := n 0x1C, dmask := imgWord img (o + 0x20), crew := imgWord img (o + 0x24), moncfg := imgWord img (o + 0x28)
    quant := n 0x2C, qcount := n 0x30, replay := imgWord img (o + 0x34)
    arrived := BitVec.ofNat 16 (n 0x38), arrPhase := BitVec.ofNat 16 (n 0x38 / 2 ^ 16)
    abuf := if r.determ then untilNone ((List.range 16).map fun i => aentryAt img (o + 0x100 + 32 * i) (asign.testBit i)) else []
    qbuf := if r.determ then untilNone ((List.range 512).map fun i => qentryAt img (o + 0x4000 + 32 * i) (qsign.testBit i)) else []
    halted := false, stopped := false }

/-! ## Writing through the supervisor's context -/

/-- A write of a range, page by page; a page of another package is a request, after whose reply the instruction re-executes (log 15). -/
def State.pageWrite (s : State) (g : GangId) (addr : Nat) (bs : List Byte) : State × EngAcc :=
  (pagePieces (bs.length / 0x10000 + 2) addr bs.length).foldl (fun (st : State × EngAcc) p => match st.2 with
    | .ok _ =>
      let s := st.1
      let data := (bs.drop (p.1 - addr)).take p.2
      match s.fetched.find? fun f => f.gang == g && f.addr == p.1 && !f.code with
      | some f => match f.fault with
        | some x => (s, .fault x)
        | none => (s, .ok [])
      | none => match s.locate g .store 0 p.1 16 with
        | (s, .fault f) => (s, .fault f)
        | (s, .wait _) => (s, .wait)
        | (s, .ok q) =>
          if q.isRemote then
            (if s.fetching g || !s.hasRoom (s.requester g) 1 then s else s.sendAccess g q p.1 0 (.store data) (.fetch g none) SyncUse.unchecked 0, .wait)
          else match s.poisonCheck q p.2 true with
            | (s, some (c, i)) => (s, .fault ⟨c, i, 0, p.1⟩)
            | (s, none) => (s.writePlace q data true, .ok [])
    | _ => st) (s, .ok [])

/-! ## CTXSV (R229, R420, R421) -/

/-- The grid and index that CTXSV and CTXLD name, or the INFO of the refusal. -/
def State.ctxTarget (s : State) (sl : Slice) (x : CtxForm) : Except Nat (Grid × Nat) :=
  match s.grid? (sl.src x.b) with
  | none => .error 1
  | some g => if g.blockCount ≤ (sl.reg x.i.val).toNat then .error 2 else .ok (g, (sl.reg x.i.val).toNat)
/-- The copies of a block, each with its distance from the image address (R372). -/
def State.copies (s : State) (g : Grid) (i : Nat) : List (Block × Nat) :=
  ([false, true].filterMap fun sh => s.block? ⟨g.handle, i, sh⟩).map fun b =>
    (b, if b.id.shadow then ceilDiv (imageSize g.record b.accs.length) 4096 * 4096 else 0)
/-- Whether an access of another member of a span is on its way to this one: its message has arrived, or waits here (R431). -/
def State.polderComing (s : State) (k : SpanKey) : Bool :=
  (s.inputs ++ s.parked).any fun i => match i with
    | .requestAtTarget r => (match r.addr with | .polder q _ _ _ _ => q == k | _ => false)
    | _ => false
/-- Whether every access aimed at a span's member has been performed (R431): those of its own blocks, and those of the others. -/
def State.memberQuiet (s : State) (b : BlockId) : Bool :=
  match s.grid? b.handle with
  | some g => g.record.spanSize = 0 || ((s.cohortBlocks b).all (fun x => s.blockQuiet x.id) && !s.polderComing g.spanKey)
  | none => true
/-- Whether a halted block's engine work and batches are done, so that it can be saved (R51). -/
def State.saveReady (s : State) (b : Block) : Bool :=
  b.state != .halting && !b.killing && s.blockQuiet b.id && ((s.blockGangs b.id).all fun g => g.sealed.isEmpty) && s.memberQuiet b.id
def State.setSaver (s : State) (l : List (Block × Nat)) (g : Option GangId) : State :=
  l.foldl (fun s p => match s.block? p.1.id with | some b => s.setBlock { b with saver := g } | none => s) s
/-- A saved block holds nothing of its core. -/
def State.saveBlock (s : State) (b : Block) : State :=
  s.setBlock { b with state := .saved, integrity := false, accs := [], latch := [], race := [], saver := none, want := b.accs.map (·.1) }

def execCtxsv (x : CtxForm) (s : State) : Outcome :=
  supervisor s x.g fun g m i sl =>
    match s.ctxTarget sl x with
    | .error e => s.trapSlice g i 0x0D e
    | .ok (gr, idx) =>
      let l := s.copies gr idx
      let addr := sl.pair x.a
      let mine := l.any fun p => p.1.saver == some g.id
      let all (p : BlockState → Bool) : Bool := !l.isEmpty && l.all fun q => p q.1.state
      let ended := all fun t => t == .exited || (t == .killed && mine)
      if !ended && (!(all fun t => t == .halting || t == .halted || (t == .killed && mine)) || l.any fun q => q.1.killing && q.1.saver != some g.id) then (s.setSaver l none).trapSlice g i 0x0D 3
      else if addr % 4096 ≠ 0 then s.trapSlice g i 0x0D 5
      else if !ended && !(l.all fun q => s.saveReady q.1) then (s.setSaver l (some g.id)).waitPart g m (.halting (l.map (·.1.id)))
      else
        let r := l.foldl (fun (st : State × EngAcc) q => match st.2 with
          | .ok _ => st.1.pageWrite g.id (addr + q.2) (if ended then s.exitedImage gr q.1 else s.imageOf gr q.1)
          | _ => st) (s, .ok [])
        match r with
        | (s, .fault f) => ((s.setSaver l none).trapAccess g.id 0 i 0 f s.issue.words).dropFetched g.id
        | (s, .ok _) =>
          let s := if ended then (s.setSaver l none).tryComplete gr.handle else l.foldl (fun s q => s.saveBlock q.1) s
          s.passIssuer g.id m
        | (s, _) => s.waitPart g m .fetch

/-! ## CTXLD (R233, R420) -/

/-- The refusals of R233 that an image's header shows. -/
def headerDiffers (g : Grid) (b : Block) (img : List Byte) : Bool :=
  imgField img 0 2 != 1 || imgField img 8 4 != b.id.handle.toNat || imgField img 0x10 4 != b.id.index ||
    imgField img 0x18 4 != shapeOf g.record || imgField img 0x1C 4 != sizesOf g.record
/-- Whether the bytes of a reserved range of an image are zero. -/
def zeroRange (img : List Byte) (o n : Nat) : Bool := (img.drop o).take n |>.all (· == 0)
/-- Whether a field of an image has bits outside a mask. -/
def strayBits (img : List Byte) (o n mask : Nat) : Bool := Nat.land (imgField img o n) mask != imgField img o n
/-- The entries of a list of `n` slots, of which the first invalid one and all after it are zero; `bad` looks at a valid one. -/
def entriesOk (img : List Byte) (o n valid : Nat) (bad : Nat → Bool) : Bool :=
  let live := (List.range n).takeWhile fun i => imgField img (o + 32 * i + valid) 1 % 2 = 1
  !(live.any fun i => bad (o + 32 * i)) && zeroRange img (o + 32 * live.length) (32 * (n - live.length))
/-- A reserved or unassigned value in an ABUF or a QBUF entry (R231). -/
def aentryBad (img : List Byte) (o : Nat) : Bool :=
  strayBits img o 8 0xE0FFFFFFFFFFFFFF || imgField img (o + 8) 1 > 7 || imgField img (o + 9) 1 > 9 || imgField img (o + 10) 1 > 4 ||
    imgField img (o + 11) 1 > 1 || !zeroRange img (o + 12) 4 || !zeroRange img (o + 24) 8
def qentryBad (img : List Byte) (o : Nat) : Bool :=
  let b (i : Nat) : Nat := imgField img (o + i) 1
  let kind := b 10
  strayBits img o 8 0xE0FFFFFFFFFFFFFF || !([1, 2, 3, 4, 5, 9].contains kind) ||
    b 11 > (if kind = 2 || kind = 3 then 7 else if kind = 4 then 2 else if kind = 9 then 15 else 0) ||
    b 12 > (if kind = 9 then 6 else 9) || b 13 > (if 3 < kind then 0 else 4) || b 14 > 31 || b 15 > 63 ||
    (4 < kind && !zeroRange img (o + 20) 12)
/-- A reserved or unassigned value in a slice record (R232): in its masks, its loop levels, its lane program counter or its runs. -/
def sliceBad (img : List Byte) (o : Nat) : Bool :=
  let b (i : Nat) : Nat := imgField img (o + i) 1
  let held := imgField img (o + 0xE0) 8 / 2 ^ 32 % 16
  let run (k : Nat) : Bool :=
    let a := o + 0x100 + 136 * k
    if k < held then !zeroRange img (a + 6) 2 || strayBits img (a + 132) 4 0x1FFF else !zeroRange img a 136
  b 7 != 0 || Nat.land (b 0x85) 0x70 != 0 || ((List.range 8).any fun j => b (0x88 + j) > 15) || b 0x90 > 4 ||
    ((List.range 4).any fun i => !zeroRange img (o + 0xA4 + 16 * i) 4) || strayBits img (o + 0xE0) 8 0x1F00FFFFFF || held > 5 ||
    (List.range 5).any run
/-- A reserved or unassigned value in a gang's record (R231); its MONCFG and DMASK are those of R196 and R197. -/
def gangBad (r : LaunchRec) (img : List Byte) (o : Nat) : Bool :=
  !zeroRange img (o + 0x3C) 0xC4 || !zeroRange img (o + 0x300) 0x100 || !zeroRange img (o + 0x2400) 0x1C00 ||
    strayBits img (o + 0x10) 4 0x0F3F3F3F || strayBits img (o + 0x20) 4 0x1FFF || strayBits img (o + 0x28) 4 0x0F00001F ||
    (if r.determ then !entriesOk img (o + 0x100) 16 11 (aentryBad img) || !entriesOk img (o + 0x4000) 512 15 (qentryBad img)
     else !zeroRange img (o + 0x100) 0x200 || !zeroRange img (o + 0x4000) 0x4000) ||
    (List.range r.slices).any fun k => sliceBad img (o + 0x400 + 0x400 * k)
/-- DEDUCED (log 58): R404 refuses an image with a reserved or unassigned value in its header or a gang's record; R419 has no INFO for
it, and it is refused as a header that differs. -/
def imageReserved (g : Grid) (b : Block) (img : List Byte) : Bool :=
  let handle (h : Nat) : Bool := strayBits img (0x1000 + 16 * h) 16 (2 ^ 127 + 31 * 2 ^ 96 + 31 * 2 ^ 88 + 0xFFFFFF * 2 ^ 64 + 0x7FFFFF)
  !([(4, 4), (0xC, 4), (0x14, 4), (0x24, 4), (0x38, 0xC8), (0x580, 0xA80)].all fun p => zeroRange img p.1 p.2) ||
    !(imgField img 2 1 == 1 || imgField img 2 1 == 2) || imgField img 3 1 != roleOf g.record b.id.shadow ||
    strayBits img 0x18 4 0x031F071F || ((List.range 16).any fun k => strayBits img (0x100 + 8 * k) 8 (2 ^ 52 - 1)) ||
    ((List.range 256).any handle) ||
    imgField img 2 1 == 1 && (List.range g.record.gangs).any fun k => gangBad g.record img (0x2000 + k * gangBytes g.record)
def imageSlots (img : List Byte) : List Nat := setBits 32 (imgField img 0x20 4)
/-- CHECK against the image with that field taken as zero. -/
def checkOk (img : List Byte) : Bool := crc64 (img.take 0x30 ++ List.replicate 8 0 ++ img.drop 0x38) == BitVec.ofNat 64 (imgField img 0x30 8)
/-- The INFO of the refusal of one image, if any. -/
def State.imageBad (s : State) (g : Grid) (b : Block) (img : List Byte) : Option Nat :=
  if headerDiffers g b img then some 6
  else if !checkOk img then some 7
  else if imageReserved g b img then some 6
  else if (imageSlots img).any fun k => match s.slotOwner b.die b.core k with | some o => o != b.id | none => false then some 8
  else none
/-- The tile operations that a saved gang's t counts are those held for it (R464): they fall again as they are performed. -/
def Gang.retile (g : Gang) (s : State) : Gang :=
  let ids := (s.ops.filter fun o => !o.complete && o.members.any fun m => m.1 == g.id).map (·.id)
  { g with tq := ((ids ++ List.replicate g.t 0).take g.t).map fun n => (n, false) }
/-- Restores a placed block from its image; in a round its partition, which no commit has changed since the round started, is also what
the round reads there (R367). -/
def State.loadBlock (s : State) (g : Grid) (b : Block) (img : List Byte) : State :=
  let r := g.record
  let slots := imageSlots img
  let at0 := 0x2000 + r.gangs * gangBytes r
  let accs := slots.zipIdx.map fun p => (p.1, wordsAt img (at0 + 0x10000 * p.2) 16384)
  let s := s.setBlock { b with state := .loaded, integrity := false, want := [], accs := accs, barriers := (List.range 16).map (barrierAt img) }
  let s := (s.blockGangs b.id).foldl (fun s x => s.setGang ((x.load r img).marked.retile s)) s
  let part := (img.drop (at0 + 0x10000 * slots.length)).take (0x1000 * r.lsSz)
  let s := { s with ls := s.ls.write b.base part }
  let s := match s.grid? b.id.handle with
    | some gr =>
      let put (m : Memory × Memory × Memory) : Memory × Memory × Memory := (m.1, m.2.1.write b.base part, m.2.2)
      s.setGrid { gr with image := gr.image.map put }
    | none => s
  match s.cohort? b.id with
  | some c =>
    if s.rank b.id = 0 then
      s.setCohort { c with table := (List.range 256).filterMap fun h => (handleAt img h).map fun e => (h, e) }
    else s
  | none => s
/-- Blocks run once every live block of their cohort, in both copies, is loaded, and for a span every member (R227). A member tells the
coordinator that its cohort is loaded (log 33). -/
def State.startLoaded (s : State) (g : Grid) (i : Nat) : State :=
  let l := (s.targetBlocks g (g.cohortOf i)).filter fun b => b.state != .exited && b.state != .killed
  if !l.all fun b => b.state == .loaded then s
  else if g.record.spanSize = 0 then l.foldl State.runLoaded s
  else if g.member s.pkgId = 0 then (match s.span? g.spanKey with | some x => s.spanLoaded x | none => s)
  else s.tell g.spanKey.coord (.spanCommitAck g.spanKey .loaded)
/-- The whole image at an address, its size given by its header. -/
def State.readImage (s : State) (g : GangId) (r : LaunchRec) (addr : Nat) : State × EngAcc :=
  match s.pageRead g addr 0x2000 with
  | (s, .ok h) => s.pageRead g addr (imageSize r (imageSlots h).length)
  | x => x
/-- The images of every copy of a block, read in order: the shadow's follows the primary's (R372). -/
def State.readImages (s : State) (g : GangId) (gr : Grid) (addr : Nat) : List Block → State × EngAcc × List (Block × List Byte)
  | [] => (s, .ok [], [])
  | b :: bs => match s.readImage g gr.record addr with
    | (s, .ok img) =>
      let r := s.readImages g gr (addr + ceilDiv img.length 4096 * 4096) bs
      (r.1, r.2.1, (b, img) :: r.2.2)
    | (s, x) => (s, x, [])

def execCtxld (x : CtxForm) (s : State) : Outcome :=
  supervisor s x.g fun g m i sl =>
    match s.ctxTarget sl x with
    | .error e => s.trapSlice g i 0x0D e
    | .ok (gr, idx) =>
      let l := (s.copies gr idx).map (·.1)
      let addr := sl.pair x.a
      let all (p : BlockState → Bool) : Bool := !l.isEmpty && l.all fun b => p b.state
      if !(all fun t => t == .pending || t == .placed) || l.any (·.killing) then s.trapSlice g i 0x0D 3
      else if addr % 4096 ≠ 0 then s.trapSlice g i 0x0D 5
      else match l.find? fun b => b.state == .pending with
        | some b => s.waitPart g m (.placed b.id)
        | none => match s.readImages g.id gr addr l with
          | (s, .fault f, _) => (s.trapAccess g.id 0 i 0 f s.issue.words).dropFetched g.id
          | (s, .ok _, imgs) => match imgs.findSome? fun p => s.imageBad gr p.1 p.2 with
            | some e => (s.trapSlice g i 0x0D e).dropFetched g.id
            | none => ((imgs.foldl (fun s p => s.loadBlock gr p.1 p.2) s).startLoaded gr idx).passIssuer g.id m
          | (s, _, _) => s.waitPart g m .fetch

end Sys2Proof.Machine
end

