-- ==== Sys2Proof/Machine/LaneCross.lean ====
section
/-! DEFINITION. The cross-lane instructions (R262 to R266) and the predicate instructions (R267). -/
namespace Sys2Proof.Machine

/-- Whether lane `l` is a source lane: a lane of a slice of the part to which the issuing slices belong (R262). -/
def Gang.sourceLane (g : Gang) (m : BitVec 8) (l : Int) : Bool :=
  0 ≤ l && l < 4 * g.slices.length && bit (g.partOf m) (l.toNat / 4)

/-- An instruction that writes each participant from the registers of the whole part (R262); `reads` gives the registers that it reads
beside those whose half it keeps. -/
def laneCross (s : State) (w : LaneWord) (names : List Nat) (reads : Gang → BitVec 8 → List Nat → List (Nat × Nat))
    (f : Gang → BitVec 8 → List Nat → List (Nat × Word)) : Outcome :=
  laneChecked s names (fun g m => reads g m (g.execLanes m w) ++ keptReads w (g.execLanes m w)) fun g m => s.laneDone (g.writeLanes w (f g m (g.execLanes m w))) m

/-- The source lane of VSHF for participant `l` and count `n` (R263), without wrapping. -/
def shuffleLane (mode l n : Nat) : Int :=
  match mode with
  | 0 => n
  | 1 => (l : Int) - n
  | 2 => l + n
  | _ => (Nat.xor l n : Nat)

/-- The lane from which participant `l` of a VSHF takes its value. -/
def State.shuffleFrom (s : State) (w : LaneWord) (g : Gang) (m : BitVec 8) (l : Nat) : Nat :=
  let src := shuffleLane (fieldNat w.c 0 2) l (s.opB g w w.ew l).toNat
  if g.sourceLane m src then src.toNat else l
/-- VSHF. DESIGN CHOICE (log 67): the a register of a participant counts as read (R242) only in the lane from which a value is taken. -/
def execVshf (w : LaneWord) (s : State) : Outcome :=
  laneCross s w (aluNames w 2)
    (fun g m ps => fieldReads [(w.b, 1)] ps ++ fieldReads [(w.a, 1)] (ps.map (s.shuffleFrom w g m)))
    fun g m ps => ps.map fun l => (l, s.opA g w w.ew (s.shuffleFrom w g m l))

def execVbal (w : LaneWord) (s : State) : Outcome :=
  laneCross s w (aluNames w 0) (fun _ _ _ => []) fun g _ ps =>
    let v := maskOf 32 (ps.filter fun l => g.pred w.ctl l)
    ps.map fun l => (l, v)

/-- One step of VRED and VSCN on an element (R265). -/
def reduceStep (w : LaneWord) (op x y : Nat) : Nat :=
  if w.fmt ≥ 4 then
    match op with
    | 0 => faddE (floatFmt w.fmt) 0 false 0 x y
    | 1 => minMaxF (floatFmt w.fmt) false x y
    | _ => minMaxF (floatFmt w.fmt) true x y
  else
    match op with
    | 0 => narrow w.ew w.sg w.sat (intOf w.ew w.sg x + intOf w.ew w.sg y)
    | 1 => if intOf w.ew w.sg y < intOf w.ew w.sg x then y else x
    | 2 => if intOf w.ew w.sg x < intOf w.ew w.sg y then y else x
    | 3 => x &&& y
    | 4 => x ||| y
    | _ => x ^^^ y
/-- The identity element of VSCN.EXCL (R265). -/
def scanIdentity (w : LaneWord) (op : Nat) : Nat :=
  match op with
  | 1 => if w.fmt ≥ 4 then (floatFmt w.fmt).top + 1
         else if w.sg then 2 ^ (w.ew - 1) - 1 else 2 ^ w.ew - 1
  | 2 => if w.fmt ≥ 4 then (floatFmt w.fmt).signBit + (floatFmt w.fmt).top + 1
         else if w.sg then 2 ^ (w.ew - 1) else 0
  | 3 => 2 ^ w.ew - 1
  | _ => 0
/-- The inclusive prefixes of the participants' values in ascending LANEID. -/
def prefixes (f : Word → Word → Word) : List Word → List Word
  | [] => []
  | x :: xs => xs.scanl f x
def stepWord (w : LaneWord) (op : Nat) (x y : Word) : Word :=
  packElems w.ew (List.zipWith (reduceStep w op) (elems w.ew x) (elems w.ew y))
def identityWord (w : LaneWord) (op : Nat) : Word := packElems w.ew (List.replicate (32 / w.ew) (scanIdentity w op))

def execVred (w : LaneWord) (s : State) : Outcome :=
  laneCross s w (aluNames w 1) (fun _ _ ps => fieldReads [(w.a, 1)] ps) fun g _ ps =>
    let t := prefixes (stepWord w w.ctl) (ps.map fun l => s.opA g w w.ew l)
    ps.map fun l => (l, t.getLastD 0)
def execVscn (w : LaneWord) (s : State) : Outcome :=
  laneCross s w (aluNames w 1) (fun _ _ ps => fieldReads [(w.a, 1)] ps) fun g _ ps =>
    let t := prefixes (stepWord w w.ctl) (ps.map fun l => s.opA g w w.ew l)
    ps.zip (if w.v86 then identityWord w w.ctl :: t else t)
def execVbcs (w : LaneWord) (s : State) : Outcome :=
  let from' (g : Gang) (m : BitVec 8) (p l : Nat) : Nat :=
    let src : Int := if bit w.c 0 then p else (s.opB g w w.ew p).toNat
    if g.sourceLane m src then src.toNat else l
  laneCross s w (aluNames w (if bit w.c 0 then 1 else 2))
    (fun g m ps => match ps with
      | [] => []
      | p :: _ => (if bit w.c 0 then [] else fieldReads [(w.b, 1)] [p]) ++ fieldReads [(w.a, 1)] (ps.map (from' g m p)))
    fun g m ps => match ps with
      | [] => []
      | p :: _ => ps.map fun l => (l, s.opA g w w.ew (from' g m p l))

def execKand (w : LaneWord) (s : State) : Outcome :=
  lanePred s w 0 fun g l => g.pred (fieldNat w.a 0 3) l && g.pred (fieldNat w.b 0 3) l
def execKor (w : LaneWord) (s : State) : Outcome :=
  lanePred s w 0 fun g l => g.pred (fieldNat w.a 0 3) l || g.pred (fieldNat w.b 0 3) l
def execKxor (w : LaneWord) (s : State) : Outcome :=
  lanePred s w 0 fun g l => g.pred (fieldNat w.a 0 3) l != g.pred (fieldNat w.b 0 3) l
def execKnot (w : LaneWord) (s : State) : Outcome :=
  lanePred s w 0 fun g l => !(g.pred (fieldNat w.a 0 3) l)

end Sys2Proof.Machine
end

