-- ==== Sys2Proof/Machine/LaneInt.lean ====
section
/-! DEFINITION. The integer lane instructions (R243 to R251). -/
namespace Sys2Proof.Machine

/-- Element-wise with one source: `f` gets the element as a number. -/
def intMap1 (s : State) (w : LaneWord) (f : Nat → Nat) : Outcome :=
  laneAlu s w 1 fun g l => packElems w.ew ((elems w.ew (s.opA g w w.ew l)).map f)
/-- Element-wise with two sources. -/
def intMap2 (s : State) (w : LaneWord) (f : Nat → Nat → Nat) : Outcome :=
  laneAlu s w 2 fun g l =>
    packElems w.ew (List.zipWith f (elems w.ew (s.opA g w w.ew l)) (elems w.ew (s.opB g w w.ew l)))
/-- An exact integer result of two elements, reduced under R115. -/
def intExact2 (s : State) (w : LaneWord) (f : Int → Int → Int) : Outcome :=
  intMap2 s w fun x y => narrow w.ew w.sg w.sat (f (intOf w.ew w.sg x) (intOf w.ew w.sg y))
/-- A 32-bit bitwise operation of two sources. -/
def bitMap2 (s : State) (w : LaneWord) (f : Word → Word → Word) : Outcome :=
  laneAlu s w 2 fun g l => f (s.opA g w w.ew l) (s.opB g w w.ew l)
/-- A 32-bit operation of three sources and, where `old`, the old destination. -/
def bitMap3 (s : State) (w : LaneWord) (f : Word → Word → Word → Word → Word) (old : Bool := false) : Outcome :=
  laneAlu s w 3 (fun g l => f (s.opA g w w.ew l) (s.opB g w w.ew l) (s.opC g w w.ew l) (g.vreg w.d.toNat l)) old

def execVadd (w : LaneWord) (s : State) : Outcome := intExact2 s w (· + ·)
def execVsub (w : LaneWord) (s : State) : Outcome := intExact2 s w (· - ·)
def execVmul (w : LaneWord) (s : State) : Outcome := intExact2 s w (· * ·)
/-- Bits [2w − 1 : w] of the exact product. -/
def execVmulh (w : LaneWord) (s : State) : Outcome :=
  intMap2 s w fun x y => (wrapInt (2 * w.ew) (intOf w.ew w.sg x * intOf w.ew w.sg y)).toNat / 2 ^ w.ew
def execVmad (w : LaneWord) (s : State) : Outcome :=
  laneAlu s w 3 fun g l =>
    let iv := intOf w.ew w.sg
    packElems w.ew (List.zipWith (fun (p : Nat × Nat) z => narrow w.ew w.sg w.sat (iv p.1 * iv p.2 + iv z))
      ((elems w.ew (s.opA g w w.ew l)).zip (elems w.ew (s.opB g w w.ew l))) (elems w.ew (s.opC g w w.ew l)))
def execVabs (w : LaneWord) (s : State) : Outcome :=
  intMap1 s w fun x => narrow w.ew w.sg w.sat (intOf w.ew w.sg x).natAbs
def execVneg (w : LaneWord) (s : State) : Outcome :=
  intMap1 s w fun x => narrow w.ew w.sg w.sat (-(intOf w.ew w.sg x))
def execVmin (w : LaneWord) (s : State) : Outcome :=
  intMap2 s w fun x y => if intOf w.ew w.sg y < intOf w.ew w.sg x then y else x
def execVmax (w : LaneWord) (s : State) : Outcome :=
  intMap2 s w fun x y => if intOf w.ew w.sg x < intOf w.ew w.sg y then y else x
def execVand (w : LaneWord) (s : State) : Outcome := bitMap2 s w (· &&& ·)
def execVor (w : LaneWord) (s : State) : Outcome := bitMap2 s w (· ||| ·)
def execVxor (w : LaneWord) (s : State) : Outcome := bitMap2 s w (· ^^^ ·)
def execVnot (w : LaneWord) (s : State) : Outcome := laneAlu s w 1 fun g l => ~~~(s.opA g w w.ew l)

/-- VSHL (R244): x × 2^c reduced by R115. A count past 2w leaves the wrapped and the clamped result unchanged. -/
def execVshl (w : LaneWord) (s : State) : Outcome :=
  intMap2 s w fun x c => narrow w.ew w.sg w.sat (intOf w.ew w.sg x * (2 ^ (Nat.min c 64) : Nat))
def execVshr (w : LaneWord) (s : State) : Outcome := intMap2 s w fun x c => if c ≥ w.ew then 0 else x / 2 ^ c
def execVsra (w : LaneWord) (s : State) : Outcome :=
  intMap2 s w fun x c => (wrapInt w.ew (signedOf w.ew x / (2 ^ (Nat.min c w.ew) : Nat))).toNat
def execVrot (w : LaneWord) (s : State) : Outcome :=
  intMap2 s w fun x c =>
    let k := c % w.ew
    (x * 2 ^ k + x / 2 ^ (w.ew - k)) % 2 ^ w.ew
def execVclz (w : LaneWord) (s : State) : Outcome :=
  intMap1 s w fun x => if x = 0 then w.ew else w.ew - 1 - Nat.log2 x
def execVpopc (w : LaneWord) (s : State) : Outcome := intMap1 s w (popcount w.ew)

/-- VBFX (R245). -/
def bitFieldExtract (sg : Bool) (x y z : Word) : Word :=
  let p := Nat.min y.toNat 32
  let n := Nat.min z.toNat 32
  let ext : Int := if sg then x.toInt else x.toNat
  let t := (wrapInt 64 ext).toNat / 2 ^ p % 2 ^ n
  if n = 0 then 0
  else if sg then BitVec.ofInt 32 (signedOf n t) else BitVec.ofNat 32 t
def execVbfx (w : LaneWord) (s : State) : Outcome := bitMap3 s w fun x y z _ => bitFieldExtract w.sg x y z
/-- VBFI (R245). -/
def bitFieldInsert (x y z old : Word) : Word :=
  let p := Nat.min y.toNat 32
  let n := Nat.min z.toNat 32
  let mask : Word := BitVec.ofNat 32 ((2 ^ n - 1) * 2 ^ p)
  (old &&& ~~~mask) ||| (BitVec.ofNat 32 (x.toNat * 2 ^ p) &&& mask)
def execVbfi (w : LaneWord) (s : State) : Outcome :=
  bitMap3 s w (fun x y z old => bitFieldInsert x y z old) true
/-- VPRM (R246). -/
def permuteBytes (x y z : Word) : Word :=
  packElems 8 ((List.range 4).map fun i =>
    let n := elem 4 z i
    if n ≥ 8 then 0 else if n < 4 then elem 8 x n else elem 8 y (n - 4))
def execVprm (w : LaneWord) (s : State) : Outcome := bitMap3 s w fun x y z _ => permuteBytes x y z
/-- VDOT4 (R247): the sum is reduced at 32 bits. -/
def execVdot4 (w : LaneWord) (s : State) : Outcome :=
  bitMap3 s w fun x y z _ =>
    let iv := intOf 8 w.sg
    BitVec.ofNat 32 (narrow 32 w.sg w.sat
      ((List.zipWith (fun a b => iv a * iv b) (elems 8 x) (elems 8 y)).foldl (· + ·) (intOf 32 w.sg z.toNat)))
def execVcmp (w : LaneWord) (s : State) : Outcome :=
  lanePred s w 2 fun g l =>
    combine w.v86 (List.zipWith (fun x y => vcmpHolds w.ctl (intOf w.ew w.sg x) (intOf w.ew w.sg y))
      (elems w.ew (s.opA g w w.ew l)) (elems w.ew (s.opB g w w.ew l)))
def execVsel (w : LaneWord) (s : State) : Outcome :=
  laneAlu s w 2 fun g l => if g.pred w.ctl l then s.opA g w w.ew l else s.opB g w w.ew l
def execVmov (w : LaneWord) (s : State) : Outcome := laneAlu s w 1 fun g l => s.opA g w w.ew l
/-- VLI (R251): imm16 zero-extended. -/
def execVli (w : LaneWord) (s : State) : Outcome := laneAlu s w 0 fun _ _ => w.imm.zeroExtend 32

end Sys2Proof.Machine
end

