-- ==== Sys2Proof/Machine/Pft.lean ====
section
/-! DEFINITION. PFT (R314): hints that change no value a program can read. It executes once per part. -/
namespace Sys2Proof.Machine

/-- The leaf of an address in a gang's context whose page a hint may move: normal class, policy MIGRATE, not 1 GiB, not moving. -/
def State.hintLeaf (s : State) (g : GangId) (va : Nat) (far : Bool) : Option Leaf :=
  match if va < 2 ^ 56 then (s.walk (s.gangDie g) g.context.1 g.context.2 va).2 else .fault (genFault 0x16 0 va) with
  | .fault _ => none
  | .wait _ => none
  | .leaf l =>
    if pteClass l.pte = 0 && pteMigrate l.pte && pteFar l.pte == far && !pteMig l.pte && l.size ≠ 0x40000000 &&
        paKind (l.pa va) = .mem then some l else none

/-- A hint of a part; a control core refuses every engine instruction but COPY and COPYR (R405). -/
def hint (s : State) (gd : Guard) (k : State → Gang → Slice → State) : Outcome :=
  withScalar s fun g m =>
    if g.id.isControl then s.trapScalar g m 0x05 1
    else match g.leader m gd with
      | some (_, sl) => k (s.passPart g m) g sl
      | none => s.passPart g m

/-- PFT.L2: the lines are brought into their home L2s, which holds no state of the model (log 19). -/
def execPftL2 (gd : Guard) (_a : Pair) (_b : Fin 31) (s : State) : Outcome := hint s gd fun s _ _ => s
def execPftPromote (gd : Guard) (a : Pair) (s : State) : Outcome :=
  hint s gd fun s g sl => match s.hintLeaf g.id (sl.pair a) true with
    | some l => (s.promote l).1
    | none => s
def execPftDemote (gd : Guard) (a : Pair) (s : State) : Outcome :=
  hint s gd fun s g sl => match s.hintLeaf g.id (sl.pair a) false with
    | some l => s.demote l
    | none => s

end Sys2Proof.Machine
end

