-- ==== Sys2Proof/Machine/ScalarAlu.lean ====
section
/-! DEFINITION. Scalar arithmetic, predicates and moves (R198 to R203). -/
namespace Sys2Proof.Machine

/-- A scalar instruction that only writes registers of a slice: in each slice whose guard is true (R198). -/
def scalarAlu (s : State) (gd : Guard) (f : Slice → Slice) : Outcome :=
  withScalar s fun g m => s.setGang (g.runPart m fun _ sl => (if guardTrue gd sl then f sl else sl).advance s.issueSize)

/-- Register form (R200). -/
def aluReg (s : State) (x : AluReg) (f : Word → Word → Word) : Outcome :=
  scalarAlu s x.g fun sl => sl.setDst x.d (f (sl.src x.a) (sl.src x.b))
/-- One-source form. -/
def aluUn (s : State) (x : AluUn) (f : Word → Word) : Outcome := scalarAlu s x.g fun sl => sl.setDst x.d (f (sl.src x.a))
/-- Immediate form; the immediate has been extended as R176 gives for the operation. -/
def aluImm (s : State) (x : AluImm) (y : Word) (f : Word → Word → Word) : Outcome :=
  scalarAlu s x.g fun sl => sl.setDst x.d (f (sl.src x.a) y)
/-- Predicate form (R202). -/
def qBin (s : State) (x : QBin) (f : Bool → Bool → Bool) : Outcome :=
  scalarAlu s x.g fun sl => sl.setQ x.q (f (sl.getQ x.x) (sl.getQ x.y))

/-! ## The operations of R200 -/

def opMulh (x y : Word) : Word := BitVec.ofInt 32 (x.toInt * y.toInt / 2 ^ 32)
def opMulhn (x y : Word) : Word := BitVec.ofNat 32 (x.toNat * y.toNat / 2 ^ 32)
def opShl (x c : Word) : Word := x <<< c.toNat
def opShr (x c : Word) : Word := x >>> c.toNat
def opSra (x c : Word) : Word := x.sshiftRight c.toNat
def opMin (x y : Word) : Word := if y.slt x then y else x
def opMax (x y : Word) : Word := if x.slt y then y else x
def opMinn (x y : Word) : Word := if y.ult x then y else x
def opMaxn (x y : Word) : Word := if x.ult y then y else x
/-- Leading zero bits, 32 for 0. -/
def opClz (x : Word) : Word := if x = 0 then 32 else BitVec.ofNat 32 (31 - Nat.log2 x.toNat)
def opPopc (x : Word) : Word := BitVec.ofNat 32 (popcount 32 x.toNat)

/-! ## Register forms -/

def execAdd (x : AluReg) (s : State) : Outcome := aluReg s x (· + ·)
def execSub (x : AluReg) (s : State) : Outcome := aluReg s x (· - ·)
def execMul (x : AluReg) (s : State) : Outcome := aluReg s x (· * ·)
def execMulh (x : AluReg) (s : State) : Outcome := aluReg s x opMulh
def execMulhn (x : AluReg) (s : State) : Outcome := aluReg s x opMulhn
def execAnd (x : AluReg) (s : State) : Outcome := aluReg s x (· &&& ·)
def execOr (x : AluReg) (s : State) : Outcome := aluReg s x (· ||| ·)
def execXor (x : AluReg) (s : State) : Outcome := aluReg s x (· ^^^ ·)
def execAndn (x : AluReg) (s : State) : Outcome := aluReg s x fun a b => a &&& ~~~b
def execShl (x : AluReg) (s : State) : Outcome := aluReg s x opShl
def execShr (x : AluReg) (s : State) : Outcome := aluReg s x opShr
def execSra (x : AluReg) (s : State) : Outcome := aluReg s x opSra
def execMin (x : AluReg) (s : State) : Outcome := aluReg s x opMin
def execMax (x : AluReg) (s : State) : Outcome := aluReg s x opMax
def execMinn (x : AluReg) (s : State) : Outcome := aluReg s x opMinn
def execMaxn (x : AluReg) (s : State) : Outcome := aluReg s x opMaxn
def execClz (x : AluUn) (s : State) : Outcome := aluUn s x opClz
def execPopc (x : AluUn) (s : State) : Outcome := aluUn s x opPopc
def execMov (x : AluUn) (s : State) : Outcome := aluUn s x id

/-! ## Immediate forms (R176) -/

def execAddImm (x : AluImm) (s : State) : Outcome := aluImm s x (immS x.i) (· + ·)
def execSubImm (x : AluImm) (s : State) : Outcome := aluImm s x (immS x.i) (· - ·)
def execMulImm (x : AluImm) (s : State) : Outcome := aluImm s x (immS x.i) (· * ·)
def execAndImm (x : AluImm) (s : State) : Outcome := aluImm s x (immS x.i) (· &&& ·)
def execOrImm (x : AluImm) (s : State) : Outcome := aluImm s x (immS x.i) (· ||| ·)
def execXorImm (x : AluImm) (s : State) : Outcome := aluImm s x (immS x.i) (· ^^^ ·)
def execShlImm (x : AluImm) (s : State) : Outcome := aluImm s x (immZ x.i) opShl
def execShrImm (x : AluImm) (s : State) : Outcome := aluImm s x (immZ x.i) opShr
def execSraImm (x : AluImm) (s : State) : Outcome := aluImm s x (immZ x.i) opSra
def execMinImm (x : AluImm) (s : State) : Outcome := aluImm s x (immS x.i) opMin
def execMaxImm (x : AluImm) (s : State) : Outcome := aluImm s x (immS x.i) opMax
def execMinnImm (x : AluImm) (s : State) : Outcome := aluImm s x (immZ x.i) opMinn
def execMaxnImm (x : AluImm) (s : State) : Outcome := aluImm s x (immZ x.i) opMaxn

/-! ## Predicates and moves (R201 to R203) -/

def execCmpReg (gd : Guard) (q : BitVec 3) (a b : Src) (c : Cond) (s : State) : Outcome :=
  scalarAlu s gd fun sl => sl.setQ q (cmpHolds c (sl.src a) (sl.src b))
/-- The immediate is zero-extended for .LTN and .LEN, sign-extended otherwise (R176). -/
def cmpImmValue (c : Cond) (i : BitVec 7) : Word :=
  match c with
  | .ltn | .len => immZ i
  | _ => immS i
def execCmpImm (gd : Guard) (q : BitVec 3) (a : Src) (c : Cond) (i : BitVec 7) (s : State) : Outcome :=
  scalarAlu s gd fun sl => sl.setQ q (cmpHolds c (sl.src a) (cmpImmValue c i))
def execQand (x : QBin) (s : State) : Outcome := qBin s x (· && ·)
def execQor (x : QBin) (s : State) : Outcome := qBin s x (· || ·)
def execQxor (x : QBin) (s : State) : Outcome := qBin s x (· != ·)
def execQnot (gd : Guard) (q x : BitVec 3) (s : State) : Outcome := scalarAlu s gd fun sl => sl.setQ q (!sl.getQ x)
def execSel (gd : Guard) (d : Dst) (a b : Src) (q : BitVec 3) (s : State) : Outcome :=
  scalarAlu s gd fun sl => sl.setDst d (if sl.getQ q then sl.src a else sl.src b)
def execLiImm (gd : Guard) (d : Dst) (i : BitVec 7) (s : State) : Outcome := scalarAlu s gd fun sl => sl.setDst d (immS i)
def execLiLiteral (gd : Guard) (d : Dst) (w : Word) (s : State) : Outcome := scalarAlu s gd fun sl => sl.setDst d w

end Sys2Proof.Machine
end

