-- ==== Sys2Proof/Machine/ScalarFlow.lean ====
section
/-! DEFINITION. Control flow of the scalar stream (R208 to R215, R408). -/
namespace Sys2Proof.Machine

/-- The target of a branch: the next address and a signed word offset (R171, R209). -/
def Slice.target (sl : Slice) (size : Nat) {n : Nat} (off : BitVec n) : VAddr := sl.nextPc size + off.signExtend 56 * 4

/-- BR: a slice whose guard is true branches, popping the loop levels it leaves (R213). -/
def execBr (gd : Guard) (off : BitVec 22) (s : State) : Outcome :=
  withScalar s fun g m => s.setGang (g.runPart m fun _ sl =>
    if guardTrue gd sl then sl.branchTo (sl.target s.issueSize off) else sl.advance s.issueSize)

/-- CALL: s30 takes the low word of the next address; no loop level is popped. -/
def execCall (gd : Guard) (off : BitVec 22) (s : State) : Outcome :=
  withScalar s fun g m => s.setGang (g.runPart m fun _ sl =>
    if guardTrue gd sl then { sl.setReg 30 (bits (sl.nextPc s.issueSize) 0 32) with pc := sl.target s.issueSize off }
    else sl.advance s.issueSize)

/-- Whether BRQ is taken, on the predicates of the slices whose guard is true (R210). -/
def brqTaken (mode : BrqMode) (v : List Bool) : Bool :=
  match mode with
  | .any => v.any id
  | .all => !v.isEmpty && v.all id
  | .none => v.all (!·)

def execBrq (gd : Guard) (mode : BrqMode) (q : BitVec 3) (off : BitVec 17) (s : State) : Outcome :=
  withScalar s fun g m =>
    let v := (g.guarded m gd).filterMap fun i => (g.slice? i).map (·.getQ q)
    s.setGang (g.runPart m fun _ sl =>
      if guardTrue gd sl && brqTaken mode v then sl.branchTo (sl.target s.issueSize off) else sl.advance s.issueSize)

/-- RET: bits [31:0] of the program counter come from the source; a misaligned target traps at fetch (R211). -/
def execRet (gd : Guard) (a : Src) (s : State) : Outcome :=
  withScalar s fun g m => s.setGang (g.runPart m fun _ sl =>
    if guardTrue gd sl then { sl with pc := withLow sl.pc (sl.src a).toNat } else sl.advance s.issueSize)

/-- Levels of the loop stack (R212). -/
def loopDepth : Nat := 4

/-- LOOP in one slice (R212): the body is run once, skipped, or repeated under a new level. -/
def Slice.loop (sl : Slice) (guarded : Bool) (c : Word) (n : BitVec 12) (size : Nat) : Slice :=
  let start := bits (sl.nextPc size) 0 32
  if !guarded then sl.advance size
  else if c = 0 then sl.advance (size + 4 * n.toNat)
  else { sl with pc := sl.nextPc size, loops := ⟨start, start + BitVec.ofNat 32 (4 * n.toNat), c⟩ :: sl.loops }

def execLoop (gd : Guard) (a : Src) (n : BitVec 12) (s : State) : Outcome :=
  withScalar s fun g m =>
    let full (i : Nat) : Bool := match g.slice? i with
      | some sl => sl.src a != 0 && sl.loops.length ≥ loopDepth
      | none => false
    match (g.guarded m gd).find? full with
    | some i => s.trapSlice g i 0x08 0
    | none => s.setGang (g.runPart m fun _ sl => sl.loop (guardTrue gd sl) (sl.src a) n s.issueSize)

/-- Whether slices wait at a REGANG that names a slice. -/
def Gang.regangNames (g : Gang) (i : Nat) : Bool := g.slices.any fun x => x.pending != 0 && bit x.pending i
/-- EXIT (R35, R214): a slice whose lane queue is empty exits, another waits for that. An exited slice counts as arrived at a
REGANG (R33), whose following accesses come after its own (R340): where slices wait at one that names it, its accesses are performed
first. In deterministic operation the exit of the last slice ends the quantum. -/
def execExit (gd : Guard) (s : State) : Outcome :=
  withScalar s fun g m =>
    if s.gangOutstanding g.id && (g.guarded m gd).any g.regangNames then s.waitPart g m .outstanding
    else
    let g := (g.runPart m fun _ sl =>
      if !guardTrue gd sl then sl.advance s.issueSize
      else if sl.laneIdle then { sl with exited := true, wait := none } else { sl with wait := some .laneQueue }).joinAll
    let g := if s.determ g.id && g.slices.all (·.exited) then { g with ended := some .exit } else g
    s.setGang g

def execNop (_gd : Guard) (s : State) : Outcome :=
  withScalar s fun g m => s.setGang (g.runPart m fun _ sl => sl.advance s.issueSize)

/-- The case of R408 that REGANG's mask meets in a slice, if any. -/
def Gang.regangCase (g : Gang) (i : Nat) (sl : Slice) (mask : BitVec 8) : Option Nat :=
  let waits (p : Slice → Bool) : Bool := g.slices.any fun x => x.pending != 0 && bit x.pending i && p x
  if mask = 0 || !bit mask i || 2 ^ g.slices.length ≤ mask.toNat then some 1
  else if waits (fun x => x.pendingPc != sl.pc) then some 2
  else if waits (fun x => x.pending != mask) then some 3
  else none

/-- REGANG (R33, R215): a slice whose guard is true waits on its mask, once the accesses made before are performed, which come before those
that follow (R340); the named slices join when all have arrived. -/
def execRegang (gd : Guard) (mask : BitVec 8) (s : State) : Outcome :=
  withScalar s fun g m =>
    let failing := (g.guarded m gd).filterMap fun i => (g.slice? i).bind fun sl => (g.regangCase i sl mask).map fun c => (i, c)
    match failing with
    | (i, c) :: _ => s.trapSlice g i 0x07 c
    | [] => if !(g.guarded m gd).isEmpty && s.gangOutstanding g.id then s.waitPart g m .outstanding else s.setGang (g.runPart m fun _ sl =>
        if guardTrue gd sl then { sl with pending := mask, pendingPc := sl.pc, wait := some .regang }
        else sl.advance s.issueSize).joinAll

end Sys2Proof.Machine
end

