-- ==== Sys2Proof/Machine/Special.lean ====
section
/-! DEFINITION. SRD and SWR (R193 to R197, R206, R207). -/
namespace Sys2Proof.Machine

/-- Whether an SRD of a number writes a pair: the even number of a 64-bit register (R194). -/
def isWide (n : Nat) : Bool := n == 0x10 || n == 0x12 || n == 0x14

/-- SRD: each executing slice reads its own identifiers; both words of a 64-bit register come from one sample. -/
def execSrd (gd : Guard) (d : Dst) (r : Fin 27) (s : State) : Outcome :=
  withScalar s fun g m => s.setGang (g.runPart m fun i sl =>
    (if !guardTrue gd sl then sl
     else match d with
       | .discard => sl
       | .reg n =>
         let lo := sl.setReg n.val (s.special g i r.val)
         if isWide r.val then lo.setReg (n.val + 1) (s.special g i (r.val + 1)) else lo).advance s.issueSize)

/-- The bits of a special register that an SWR may not set (R77, R196, R197). -/
def swrReserved (n : Nat) : Word :=
  match n with
  | 0x16 => 0x7FFFFFF0
  | 0x17 => 0xFFFFE000
  | 0x19 => 0xF0FFFFE0
  | _ => 0
/-- Whether a number can be written at all. -/
def swrWritable (n : Nat) : Bool := 0x14 ≤ n && n ≤ 0x19

/-- Writes special register `n` of a gang: `v` the word, `hi` the second word of a pair. GBASE and GSEED lie in the gauge header
(R76); SAT falls where the written bit is 1 (R77, R207). -/
def State.writeSpecial (s : State) (g : Gang) (n : Nat) (v hi : Word) : State × Gang :=
  let header (off : Nat) (bs : List Byte) : State :=
    match s.gridOf g.id, s.blockOf g.id with
    | some gr, some b => { s with ls := s.ls.write (b.gaugeBase gr.record + off) bs }
    | _, _ => s
  match n with
  | 0x14 => (header 8 (leBytes 4 v.toNat ++ leBytes 4 hi.toNat), g)
  | 0x15 => (header 12 (leBytes 4 v.toNat), g)
  | 0x16 =>
    let sat := s.special g 0 0x16 &&& 0x80000000 &&& ~~~v
    (header 0 (leBytes 4 (sat ||| (v &&& 0xF)).toNat), g)
  | 0x17 => (s, { g with dmask := v })
  | 0x18 => (s, { g with crew := v })
  | 0x19 => (s, { g with moncfg := v })
  | _ => (s, g)

/-- SWR: it traps before any change on a read-only register, a reserved bit, or GBASE and GSEED without a gauge partition; the
value of the highest slice stands (R194). -/
def execSwr (gd : Guard) (a : Src) (r : Fin 27) (s : State) : Outcome :=
  withScalar s fun g m =>
    let slices := (g.guarded m gd).filterMap fun i => (g.slice? i).map fun sl => (i, sl)
    let noGauge := match s.gridOf g.id with | some gr => gr.record.gaugeSz = 0 | none => true
    let bad (p : Nat × Slice) : Bool :=
      !swrWritable r.val || p.2.src a &&& swrReserved r.val != 0 || (0x14 ≤ r.val && r.val ≤ 0x16 && noGauge)
    match slices.find? bad with
    | some p => s.trapSlice g p.1 0x0B r.val
    | none =>
      let q := match slices.getLast? with
        | some p => s.writeSpecial g r.val (p.2.src a) (match a with | .reg n => p.2.reg (n.val + 1) | .lit _ => 0)
        | none => (s, g)
      q.1.setGang (q.2.runPart m fun _ sl => sl.advance s.issueSize)

end Sys2Proof.Machine
end

