-- ==== Sys2Proof/Machine/Dispatch.lean ====
section
/-! DEFINITION. The dispatch: one arm per instruction, each one call of its meaning. -/
namespace Sys2Proof.Machine

def exec (i : Instr) (s : State) : Host.Outcome State Fault Refusal :=
  match i with
  | .add x => Sys2Proof.Machine.execAdd x s
  | .sub x => Sys2Proof.Machine.execSub x s
  | .mul x => Sys2Proof.Machine.execMul x s
  | .mulh x => Sys2Proof.Machine.execMulh x s
  | .mulhn x => Sys2Proof.Machine.execMulhn x s
  | .and x => Sys2Proof.Machine.execAnd x s
  | .or x => Sys2Proof.Machine.execOr x s
  | .xor x => Sys2Proof.Machine.execXor x s
  | .andn x => Sys2Proof.Machine.execAndn x s
  | .shl x => Sys2Proof.Machine.execShl x s
  | .shr x => Sys2Proof.Machine.execShr x s
  | .sra x => Sys2Proof.Machine.execSra x s
  | .min x => Sys2Proof.Machine.execMin x s
  | .max x => Sys2Proof.Machine.execMax x s
  | .minn x => Sys2Proof.Machine.execMinn x s
  | .maxn x => Sys2Proof.Machine.execMaxn x s
  | .clz x => Sys2Proof.Machine.execClz x s
  | .popc x => Sys2Proof.Machine.execPopc x s
  | .mov x => Sys2Proof.Machine.execMov x s
  | .addImm x => Sys2Proof.Machine.execAddImm x s
  | .subImm x => Sys2Proof.Machine.execSubImm x s
  | .mulImm x => Sys2Proof.Machine.execMulImm x s
  | .andImm x => Sys2Proof.Machine.execAndImm x s
  | .orImm x => Sys2Proof.Machine.execOrImm x s
  | .xorImm x => Sys2Proof.Machine.execXorImm x s
  | .shlImm x => Sys2Proof.Machine.execShlImm x s
  | .shrImm x => Sys2Proof.Machine.execShrImm x s
  | .sraImm x => Sys2Proof.Machine.execSraImm x s
  | .minImm x => Sys2Proof.Machine.execMinImm x s
  | .maxImm x => Sys2Proof.Machine.execMaxImm x s
  | .minnImm x => Sys2Proof.Machine.execMinnImm x s
  | .maxnImm x => Sys2Proof.Machine.execMaxnImm x s
  | .cmpReg g q a b c => Sys2Proof.Machine.execCmpReg g q a b c s
  | .cmpImm g q a c v => Sys2Proof.Machine.execCmpImm g q a c v s
  | .qand x => Sys2Proof.Machine.execQand x s
  | .qor x => Sys2Proof.Machine.execQor x s
  | .qxor x => Sys2Proof.Machine.execQxor x s
  | .qnot g q x => Sys2Proof.Machine.execQnot g q x s
  | .sel g d a b q => Sys2Proof.Machine.execSel g d a b q s
  | .liImm g d v => Sys2Proof.Machine.execLiImm g d v s
  | .liLiteral g d w => Sys2Proof.Machine.execLiLiteral g d w s
  | .lds g d base off => Sys2Proof.Machine.execLds g d base off s
  | .sts g d base off => Sys2Proof.Machine.execSts g d base off s
  | .ldp g d base off => Sys2Proof.Machine.execLdp g d base off s
  | .srd g d r => Sys2Proof.Machine.execSrd g d r s
  | .swr g a r => Sys2Proof.Machine.execSwr g a r s
  | .br g off => Sys2Proof.Machine.execBr g off s
  | .call g off => Sys2Proof.Machine.execCall g off s
  | .brq g m q off => Sys2Proof.Machine.execBrq g m q off s
  | .ret g a => Sys2Proof.Machine.execRet g a s
  | .loop g a n => Sys2Proof.Machine.execLoop g a n s
  | .exit g => Sys2Proof.Machine.execExit g s
  | .nop g => Sys2Proof.Machine.execNop g s
  | .regang g m => Sys2Proof.Machine.execRegang g m s
  | .lrun g a cm1 => Sys2Proof.Machine.execLrun g a cm1 s
  | .lmaskReg g a => Sys2Proof.Machine.execLmaskReg g a s
  | .lmaskImm g m => Sys2Proof.Machine.execLmaskImm g m s
  | .bar g p count b => Sys2Proof.Machine.execBar g p count b s
  | .barc g p b => Sys2Proof.Machine.execBarc g p b s
  | .bars g p b => Sys2Proof.Machine.execBars g p b s
  | .arrive g sc rel a n => Sys2Proof.Machine.execArrive g sc rel a n s
  | .wait g sc a gen => Sys2Proof.Machine.execWait g sc a gen s
  | .mwait g sc a v => Sys2Proof.Machine.execMwait g sc a v s
  | .waitc g l sc c t => Sys2Proof.Machine.execWaitc g l sc c t s
  | .seal g => Sys2Proof.Machine.execSeal g s
  | .fence g sc o => Sys2Proof.Machine.execFence g sc o s
  | .fencem g o a => Sys2Proof.Machine.execFencem g o a s
  | .drain g sc => Sys2Proof.Machine.execDrain g sc s
  | .give g d a b => Sys2Proof.Machine.execGive g d a b s
  | .take g a => Sys2Proof.Machine.execTake g a s
  | .detach g a => Sys2Proof.Machine.execDetach g a s
  | .qend g => Sys2Proof.Machine.execQend g s
  | .yield g => Sys2Proof.Machine.execYield g s
  | .copy x => Sys2Proof.Machine.execCopy x s
  | .copyr x => Sys2Proof.Machine.execCopyr x s
  | .gath x => Sys2Proof.Machine.execGath x s
  | .scad x => Sys2Proof.Machine.execScad x s
  | .pftL2 g a b => Sys2Proof.Machine.execPftL2 g a b s
  | .pftPromote g a => Sys2Proof.Machine.execPftPromote g a s
  | .pftDemote g a => Sys2Proof.Machine.execPftDemote g a s
  | .mxa x => Sys2Proof.Machine.execMxa x s
  | .mxaSolo x => Sys2Proof.Machine.execMxaSolo x s
  | .mxz g d => Sys2Proof.Machine.execMxz g d s
  | .mxld g d a => Sys2Proof.Machine.execMxld g d a s
  | .mxst g d a b => Sys2Proof.Machine.execMxst g d a b s
  | .epld g a => Sys2Proof.Machine.execEpld g a s
  | .trap g code => Sys2Proof.Machine.execTrap g code s
  | .bkpt g => Sys2Proof.Machine.execBkpt g s
  | .invi g sc sec => Sys2Proof.Machine.execInvi g sc sec s
  | .launch g d a => Sys2Proof.Machine.execLaunch g d a s
  | .preempt g k a => Sys2Proof.Machine.execPreempt g k a s
  | .resume g k a => Sys2Proof.Machine.execResume g k a s
  | .kill g k a => Sys2Proof.Machine.execKill g k a s
  | .ctxsv x => Sys2Proof.Machine.execCtxsv x s
  | .ctxld x => Sys2Proof.Machine.execCtxld x s
  | .quota g a b => Sys2Proof.Machine.execQuota g a b s
  | .vadd w => Sys2Proof.Machine.execVadd w s
  | .vsub w => Sys2Proof.Machine.execVsub w s
  | .vmul w => Sys2Proof.Machine.execVmul w s
  | .vmulh w => Sys2Proof.Machine.execVmulh w s
  | .vmad w => Sys2Proof.Machine.execVmad w s
  | .vabs w => Sys2Proof.Machine.execVabs w s
  | .vneg w => Sys2Proof.Machine.execVneg w s
  | .vmin w => Sys2Proof.Machine.execVmin w s
  | .vmax w => Sys2Proof.Machine.execVmax w s
  | .vand w => Sys2Proof.Machine.execVand w s
  | .vor w => Sys2Proof.Machine.execVor w s
  | .vxor w => Sys2Proof.Machine.execVxor w s
  | .vnot w => Sys2Proof.Machine.execVnot w s
  | .vshl w => Sys2Proof.Machine.execVshl w s
  | .vshr w => Sys2Proof.Machine.execVshr w s
  | .vsra w => Sys2Proof.Machine.execVsra w s
  | .vrot w => Sys2Proof.Machine.execVrot w s
  | .vclz w => Sys2Proof.Machine.execVclz w s
  | .vpopc w => Sys2Proof.Machine.execVpopc w s
  | .vbfx w => Sys2Proof.Machine.execVbfx w s
  | .vbfi w => Sys2Proof.Machine.execVbfi w s
  | .vprm w => Sys2Proof.Machine.execVprm w s
  | .vdot4 w => Sys2Proof.Machine.execVdot4 w s
  | .vcmp w => Sys2Proof.Machine.execVcmp w s
  | .vsel w => Sys2Proof.Machine.execVsel w s
  | .vmov w => Sys2Proof.Machine.execVmov w s
  | .vli w => Sys2Proof.Machine.execVli w s
  | .fadd w => Sys2Proof.Machine.execFadd w s
  | .fsub w => Sys2Proof.Machine.execFsub w s
  | .fmul w => Sys2Proof.Machine.execFmul w s
  | .ffma w => Sys2Proof.Machine.execFfma w s
  | .fmin w => Sys2Proof.Machine.execFmin w s
  | .fmax w => Sys2Proof.Machine.execFmax w s
  | .frcp w => Sys2Proof.Machine.execFrcp w s
  | .frsq w => Sys2Proof.Machine.execFrsq w s
  | .fsqrt w => Sys2Proof.Machine.execFsqrt w s
  | .fex2 w => Sys2Proof.Machine.execFex2 w s
  | .flg2 w => Sys2Proof.Machine.execFlg2 w s
  | .fsin w => Sys2Proof.Machine.execFsin w s
  | .fcos w => Sys2Proof.Machine.execFcos w s
  | .fcmp w => Sys2Proof.Machine.execFcmp w s
  | .fcls w => Sys2Proof.Machine.execFcls w s
  | .fcvt w => Sys2Proof.Machine.execFcvt w s
  | .frnd w => Sys2Proof.Machine.execFrnd w s
  | .f2i w => Sys2Proof.Machine.execF2i w s
  | .i2f w => Sys2Proof.Machine.execI2f w s
  | .vshf w => Sys2Proof.Machine.execVshf w s
  | .vbal w => Sys2Proof.Machine.execVbal w s
  | .vred w => Sys2Proof.Machine.execVred w s
  | .vscn w => Sys2Proof.Machine.execVscn w s
  | .vbcs w => Sys2Proof.Machine.execVbcs w s
  | .vld w => Sys2Proof.Machine.execVld w s
  | .vst w => Sys2Proof.Machine.execVst w s
  | .vatm w => Sys2Proof.Machine.execVatm w s
  | .vrdm w => Sys2Proof.Machine.execVrdm w s
  | .vatl w => Sys2Proof.Machine.execVatl w s
  | .ginc w => Sys2Proof.Machine.execGinc w s
  | .grd w => Sys2Proof.Machine.execGrd w s
  | .gmrg w => Sys2Proof.Machine.execGmrg w s
  | .gclr w => Sys2Proof.Machine.execGclr w s
  | .kand w => Sys2Proof.Machine.execKand w s
  | .kor w => Sys2Proof.Machine.execKor w s
  | .kxor w => Sys2Proof.Machine.execKxor w s
  | .knot w => Sys2Proof.Machine.execKnot w s
  | .eldv d n kind off => Sys2Proof.Machine.execEldv d n kind off s
  | .escl d a => Sys2Proof.Machine.execEscl d a s
  | .ebia d a n bf16 off => Sys2Proof.Machine.execEbia d a n bf16 off s
  | .eact d a f => Sys2Proof.Machine.execEact d a f s
  | .emul d a b => Sys2Proof.Machine.execEmul d a b s
  | .eadd d a b => Sys2Proof.Machine.execEadd d a b s
  | .emax d a b => Sys2Proof.Machine.execEmax d a b s
  | .ecvt d a m sc f => Sys2Proof.Machine.execEcvt d a m sc f s
  | .est a n stride f => Sys2Proof.Machine.execEst a n stride f s
  | .etrn a n f => Sys2Proof.Machine.execEtrn a n f s
  | .enop => Sys2Proof.Machine.execEnop s
  | .eend => Sys2Proof.Machine.execEend s
  | .powerOn => Sys2Proof.Machine.execPowerOn s
  | .bootcmdWrite v => Sys2Proof.Machine.execBootcmdWrite v s
  | .sbverifyWrite v => Sys2Proof.Machine.execSbverifyWrite v s
  | .sbverifyDone => Sys2Proof.Machine.execSbverifyDone s
  | .attreqWrite v => Sys2Proof.Machine.execAttreqWrite v s
  | .attestationReportDone => Sys2Proof.Machine.execAttestationReportDone s
  | .ccstartWrite v => Sys2Proof.Machine.execCcstartWrite v s
  | .tlbinvWrite die v => Sys2Proof.Machine.execTlbinvWrite die v s
  | .tlbInvalidationComplete die => Sys2Proof.Machine.execTlbInvalidationComplete die s
  | .testreqWrite die v => Sys2Proof.Machine.execTestreqWrite die v s
  | .unitfenceFence die u => Sys2Proof.Machine.execUnitfenceFence die u s
  | .unitfenceLift die u => Sys2Proof.Machine.execUnitfenceLift die u s
  | .monctlClear die n => Sys2Proof.Machine.execMonctlClear die n s
  | .registerWrite die off v => Sys2Proof.Machine.execRegisterWrite die off v s
  | .diePowerLoss die => Sys2Proof.Machine.execDiePowerLoss die s
  | .dieWake die => Sys2Proof.Machine.execDieWake die s
  | .dieReset die => Sys2Proof.Machine.execDieReset die s
  | .junctionOver100c die => Sys2Proof.Machine.execJunctionOver100c die s
  | .junctionBelow95c die => Sys2Proof.Machine.execJunctionBelow95c die s
  | .junctionOver115c => Sys2Proof.Machine.execJunctionOver115c s
  | .mgmtRefresh => Sys2Proof.Machine.execMgmtRefresh s
  | .inboundRmaWrite w off data => Sys2Proof.Machine.execInboundRmaWrite w off data s
  | .inboundRmaRead key off len => Sys2Proof.Machine.execInboundRmaRead key off len s
  | .ueUnsupportedRequest => Sys2Proof.Machine.execUeUnsupportedRequest s
  | .ueContextAbandoned port window code => Sys2Proof.Machine.execUeContextAbandoned port window code s
  | .requestAtTarget r => Sys2Proof.Machine.execRequestAtTarget r s
  | .replyAtRequester r => Sys2Proof.Machine.execReplyAtRequester r s
  | .requestTimeout q tsn => Sys2Proof.Machine.execRequestTimeout q tsn s
  | .flitCrcFail die m => Sys2Proof.Machine.execFlitCrcFail die m s
  | .retryRequest die m => Sys2Proof.Machine.execRetryRequest die m s
  | .flitAck die m n => Sys2Proof.Machine.execFlitAck die m n s
  | .replayTimerExpiry die m => Sys2Proof.Machine.execReplayTimerExpiry die m s
  | .retrainComplete die m badLanes => Sys2Proof.Machine.execRetrainComplete die m badLanes s
  | .grenderFlitFail port => Sys2Proof.Machine.execGrenderFlitFail port s
  | .grenderAuthFail port => Sys2Proof.Machine.execGrenderAuthFail port s
  | .switchPortFailed plane pkg => Sys2Proof.Machine.execSwitchPortFailed plane pkg s
  | .keyRotation port => Sys2Proof.Machine.execKeyRotation port s
  | .cxlPortFail die port => Sys2Proof.Machine.execCxlPortFail die port s
  | .spanReserveRequest k => Sys2Proof.Machine.execSpanReserveRequest k s
  | .spanReserveAnswer k member yes => Sys2Proof.Machine.execSpanReserveAnswer k member yes s
  | .spanCommit k => Sys2Proof.Machine.execSpanCommit k s
  | .spanRelease k => Sys2Proof.Machine.execSpanRelease k s
  | .spanRetryTimer k => Sys2Proof.Machine.execSpanRetryTimer k s
  | .spanMessageTimeout k member => Sys2Proof.Machine.execSpanMessageTimeout k member s
  | .spanStopIssue k => Sys2Proof.Machine.execSpanStopIssue k s
  | .stopIssueAck k member => Sys2Proof.Machine.execStopIssueAck k member s
  | .blockDispatch handle => Sys2Proof.Machine.execBlockDispatch handle s
  | .dependencyReread handle => Sys2Proof.Machine.execDependencyReread handle s
  | .runStart g m => Sys2Proof.Machine.execRunStart g m s
  | .partWake g m => Sys2Proof.Machine.execPartWake g m s
  | .watchRetest g m => Sys2Proof.Machine.execWatchRetest g m s
  | .stampReread g m => Sys2Proof.Machine.execStampReread g m s
  | .yieldTimeout g m => Sys2Proof.Machine.execYieldTimeout g m s
  | .syncWordArrival n => Sys2Proof.Machine.execSyncWordArrival n s
  | .p4StarvationGrant die => Sys2Proof.Machine.execP4StarvationGrant die s
  | .batchComplete g => Sys2Proof.Machine.execBatchComplete g s
  | .copyPieceLanded op => Sys2Proof.Machine.execCopyPieceLanded op s
  | .copyComplete op => Sys2Proof.Machine.execCopyComplete op s
  | .sluiceFold op => Sys2Proof.Machine.execSluiceFold op s
  | .subRequestPartition r => Sys2Proof.Machine.execSubRequestPartition r s
  | .rowFetch n => Sys2Proof.Machine.execRowFetch n s
  | .scadRowAdd n => Sys2Proof.Machine.execScadRowAdd n s
  | .gatherReplyMerge op r => Sys2Proof.Machine.execGatherReplyMerge op r s
  | .gatherComplete op => Sys2Proof.Machine.execGatherComplete op s
  | .tileOperationComplete op => Sys2Proof.Machine.execTileOperationComplete op s
  | .drainComplete op => Sys2Proof.Machine.execDrainComplete op s
  | .epldCheckComplete op => Sys2Proof.Machine.execEpldCheckComplete op s
  | .walkComplete die ctxDie ctxCore va => Sys2Proof.Machine.execWalkComplete die ctxDie ctxCore va s
  | .migrationComplete n => Sys2Proof.Machine.execMigrationComplete n s
  | .migrationAbandon n cause => Sys2Proof.Machine.execMigrationAbandon n cause s
  | .gangExit g => Sys2Proof.Machine.execGangExit g s
  | .blockResourcesFree b => Sys2Proof.Machine.execBlockResourcesFree b s
  | .sliceTimerExpiry handle => Sys2Proof.Machine.execSliceTimerExpiry handle s
  | .haltComplete b => Sys2Proof.Machine.execHaltComplete b s
  | .roundStart handle => Sys2Proof.Machine.execRoundStart handle s
  | .quantumCountExpiry g => Sys2Proof.Machine.execQuantumCountExpiry g s
  | .commitPhaseStart handle => Sys2Proof.Machine.execCommitPhaseStart handle s
  | .commitSlot g => Sys2Proof.Machine.execCommitSlot g s
  | .wgtRefreshWindowStart die bank => Sys2Proof.Machine.execWgtRefreshWindowStart die bank s
  | .wgtRefreshWindowEnd die bank => Sys2Proof.Machine.execWgtRefreshWindowEnd die bank s
  | .idleTestStep die u r => Sys2Proof.Machine.execIdleTestStep die u r s
  | .forcedPassStep die u r => Sys2Proof.Machine.execForcedPassStep die u r s
  | .scrubRead arr die granule r => Sys2Proof.Machine.execScrubRead arr die granule r s
  | .monitorInterval die n => Sys2Proof.Machine.execMonitorInterval die n s
  | .drainSweepComplete g otherSent otherDone => Sys2Proof.Machine.execDrainSweepComplete g otherSent otherDone s
  | .retconsWrite die v => Sys2Proof.Machine.execRetconsWrite die v s
  | .hostWindowRmaResponse tag body => Sys2Proof.Machine.execHostWindowRmaResponse tag body s
  | .spanKillMessage k => Sys2Proof.Machine.execSpanKillMessage k s
  | .spanBarrierCombine k b m => Sys2Proof.Machine.execSpanBarrierCombine k b m s
  | .commitAcknowledged k a => Sys2Proof.Machine.execCommitAcknowledged k a s

end Sys2Proof.Machine
end

