-- ==== Sys2Proof/Machine/Sched.lean ====
section
/-! DEFINITION. What a step may do and how it does it: internal events that are due, the parts, lane streams and epilogue units that may
issue (R29, R46 to R48), instruction fetch (R208, R401), and issue. Which of several happens is a free choice (log 3). -/
namespace Sys2Proof.Machine

/-- What one step does. -/
inductive Choice where
  /-- the next event from outside (log 2, 9) -/
  | input
  /-- an event inside the package that is due -/
  | event (i : Instr)
  /-- an inbound message that has waited for a migrating page -/
  | parked (n : Nat)
  /-- a stream that may issue becomes ready for its slot: its operands are clear, its columns free (R47; log 3) -/
  | ready (g : GangId) (lane : Bool) (m : BitVec 8)
  | scalar (g : GangId) (m : BitVec 8)
  /-- the lane streams of a group of slices of a part -/
  | lane (g : GangId) (group : BitVec 8)
  | epilogue (op : Nat)
  deriving DecidableEq, Repr

/-! ## Events that are due -/

/-- Whether a part waits on a word that lies outside this package: it is read again (R48). -/
def State.waitsAway (s : State) (g : Gang) (m : BitVec 8) : Bool :=
  let away (sp a n : Nat) : Bool := match (s.locate g.id (.word false) sp a n).2 with | .ok p => p.isRemote | _ => false
  !s.determ g.id && match g.partWait m with
  | some (.sync sp a _) => away sp a 16
  | some (.stamp sp a _) => away sp a 8
  | _ => false
/-- The events of one part. -/
def State.partEvents (s : State) (g : Gang) (m : BitVec 8) : List Instr :=
  (if s.gangLive g then (g.startGroups m).map fun l => .runStart g.id l else []) ++
  (if s.canWake g then
    (if s.wakeDue g m || s.laneWakeDue g m then [.partWake g.id m] else []) ++
    (if s.waitsAway g m then [.stampReread g.id m] else []) ++
    (match g.partWait m with | some (.yield _) => [.yieldTimeout g.id m] | _ => [])
  else [])
/-- Whether a drain of a gang sweeps on this package alone; that of a span needs the other members' sums. -/
def Gang.sweeps (g : Gang) : Bool :=
  match g.partWait g.full with
  | some (.drain .span _) => false
  | some (.drain _ _) => true
  | _ => false
def State.gangEvents (s : State) (g : Gang) : List Instr :=
  g.parts.flatMap (s.partEvents g) ++
  (if s.canWake g && g.sweeps then [.drainSweepComplete g.id 0 0] else []) ++
  (if !g.sealed.isEmpty && s.batchDone g then [.batchComplete g.id] else []) ++
  (if s.exitDue g then [.gangExit g.id] else []) ++
  (if s.quantumDue g then [.quantumCountExpiry g.id] else [])
/-- The next events of an operation; those of a die without power or in reset stand still (R450). -/
def State.opEvents (s : State) (o : EngineOp) : List Instr :=
  let d := s.die (s.gangDie o.gang)
  if o.complete || o.waiting || !d.powered || d.inReset then []
  else match o.kind with
    | .copy c => if c.landed.length < c.units then [.copyPieceLanded o.id] else if s.copyDone o c then [.copyComplete o.id] else []
    | .gather x => if x.unsent != some [] then [.sluiceFold o.id] else if s.gatherDone o x then [.gatherComplete o.id] else []
    | .tile _ => if s.tileDue o then [.tileOperationComplete o.id] else []
    | .drain x => if x.done && s.tileDue o then [.drainComplete o.id] else []
    | .epld _ _ => [.epldCheckComplete o.id]
/-- The events of a grid. The resources of an exited block of a span are freed by a message (log 32). -/
def State.gridEvents (s : State) (g : Grid) : List Instr :=
  (if (s.dispatchPlan g).isSome then [.blockDispatch g.handle] else []) ++
  (if !g.depMet && !g.isEarly && !s.devicePending g.handle then [.dependencyReread g.handle] else []) ++
  (if s.roundDue g then [.roundStart g.handle] else []) ++
  (if s.commitDue g then [.commitPhaseStart g.handle] else []) ++
  (match s.nextSlot g with | some x => [.commitSlot x.id] | none => [])
def State.blockEvents (s : State) (b : Block) : List Instr :=
  let span := match s.grid? b.id.handle with | some g => g.record.spanSize != 0 | none => false
  (if b.state == .exited && !b.freed && !span && s.blockQuiet b.id then [.blockResourcesFree b.id] else []) ++
  (if s.haltDue b && !s.committing b.id then [.haltComplete b.id] else [])
/-- The events of the gather path, arrivals, migrations and the boot, test and reservation units. -/
def State.unitEvents (s : State) : List Instr :=
  s.subOwn.map .subRequestPartition ++
  (s.flights.filter s.flightDue).map Flight.event ++
  s.rowJobs.mapIdx (fun n j => if j.r.scad then .scadRowAdd n else .rowFetch n) ++
  s.subReplies.map (fun p => .gatherReplyMerge p.1 p.2) ++
  (s.arrivals.zipIdx.filterMap fun p =>
    if s.arrivalTurn p.1 (s.arrivals.take p.2) && s.arrivalMoves p.1 then some (.syncWordArrival p.2) else none) ++
  s.migrations.mapIdx (fun n _ => .migrationComplete n) ++
  (((s.invalidations.filter s.invDue).map (·.die)).eraseDups.map .tlbInvalidationComplete) ++
  (if s.boot.verifying.isSome then [.sbverifyDone] else []) ++
  (if s.boot.attesting.isSome then [.attestationReportDone] else []) ++
  (s.fences.filterMap fun p => if s.unitBusy p.1 p.2 then none else some (.unitfenceFence p.1 p.2)) ++
  (match s.reserveQueue, s.reservation with | k :: _, none => [.spanReserveRequest k] | _, _ => [])
def State.events (s : State) : List Instr :=
  s.gangs.flatMap s.gangEvents ++ s.ops.flatMap s.opEvents ++ s.grids.flatMap s.gridEvents ++ s.blocks.flatMap s.blockEvents ++
    s.unitEvents

/-- Events that come before everything else: a P4 request that is granted next (R21), and in deterministic operation the end of a batch
whose operations have ended, so that program and data alone decide what WAITC finds (R357). -/
def State.forced (s : State) : List Instr :=
  ((List.range 13).filter s.p4Due).map .p4StarvationGrant ++
  ((s.gangs.filter fun g => s.determ g.id && !g.sealed.isEmpty && s.batchDone g).map fun g => .batchComplete g.id)

/-! ## Who may issue -/

/-- Whether an instruction of a stream is being fetched from another package. -/
def State.fetchingCode (s : State) (g : GangId) (lane : Bool) (m : BitVec 8) : Bool :=
  s.outstanding.any fun o => o.owner == .fetch g (some (lane, m))
/-- Streams that may become ready. -/
def State.scalarCandidates (s : State) : List (Gang × BitVec 8) :=
  s.gangs.flatMap fun g => (g.parts.filter fun m => s.scalarReady g m && !s.fetchingCode g.id false m).map fun m => (g, m)
def State.laneCandidates (s : State) : List (Gang × BitVec 8) :=
  s.gangs.flatMap fun g => g.parts.flatMap fun p =>
    ((g.laneGroups p).filter fun l => s.laneReady g p l && !s.fetchingCode g.id true l).map fun l => (g, l)
def State.candidates (s : State) (lane : Bool) : List (Gang × BitVec 8) := if lane then s.laneCandidates else s.scalarCandidates

/-- A stream that is ready, with its ready time, and the last issue of its gang in its slot. -/
structure Stream where
  gang : Gang
  mask : BitVec 8
  since : Nat
  after : Nat
/-- The ready streams of one kind: nothing issues on a die before a test step that has been granted there (R21). -/
def State.streams (s : State) (lane : Bool) : List Stream :=
  ((s.candidates lane).filter fun p => !s.p4Granted (s.gangDie p.1.id)).filterMap fun p =>
    (s.ready.find? fun r => r.gang == p.1.id && r.lane == lane && r.mask == p.2).map fun r => ⟨p.1, p.2, r.since, r.after⟩
/-- Lexicographic order. -/
def lexLt : List Nat → List Nat → Bool
  | x :: xs, y :: ys => x < y || (x == y && lexLt xs ys)
  | _, _ => false
/-- The place of a stream in the order of its slot (R46): class, the gang's ready time, block slot, GANGID, then within the gang the part's
ready time and lowest slice. The gang's time is its earliest part's, but not before its last issue, after which it is ready with a new time:
no gang goes twice before another that was ready (R47). -/
def State.slotKey (s : State) (l : List Stream) (x : Stream) : List Nat :=
  let mine := l.filter fun y => y.gang.id == x.gang.id
  let first := Nat.max (mine.foldl (fun n y => Nat.min n y.since) x.since) (mine.foldl (fun n y => Nat.max n y.after) 0)
  let slot := match s.blockOf x.gang.id with | some b => b.slot | none => 0
  [s.gangClass x.gang.id, first, slot, x.gang.id.num, x.since, lowestSlice x.mask]
/-- The streams that issue next: the first of each quadrant's slot. A control core has one gang, and a slot of its own. -/
def State.heads (s : State) (l : List Stream) : List Stream :=
  l.filter fun x => x.gang.id.isControl || !(l.any fun y => !y.gang.id.isControl && s.quadrant y.gang.id == s.quadrant x.gang.id &&
    lexLt (s.slotKey l y) (s.slotKey l x))
/-- Streams that may issue and are not ready yet. -/
def State.toReady (s : State) : List Choice :=
  [false, true].flatMap fun lane => ((s.candidates lane).filter fun p => !s.ready.any fun r =>
    r.gang == p.1.id && r.lane == lane && r.mask == p.2).map fun p => .ready p.1.id lane p.2
/-- The word that a drain's program performs next; none while it is not to be performed. -/
def State.drainWord (s : State) (o : EngineOp) : Option Word :=
  match o.kind with
  | .drain x => if !o.complete && !x.raw && x.row < 64 && s.tileDue o then x.prog[x.word]? else none
  | _ => none
def State.issues (s : State) : List Choice :=
  (s.heads (s.streams false)).map (fun x => .scalar x.gang.id x.mask) ++ (s.heads (s.streams true)).map (fun x => .lane x.gang.id x.mask) ++
    (s.ops.filter fun o => (s.drainWord o).isSome).map fun o => .epilogue o.id
/-- A message that has waited, performed again; one that must wait on keeps its place. -/
def State.performParked (s : State) (n : Nat) : Outcome :=
  match s.parked[n]? with
  | none => .next s
  | some i => match exec i { s with parked := s.parked.take n, issue := ⟨.none, []⟩ } with
    | .next t => .next { t with parked := t.parked ++ s.parked.drop (n + 1) }
    | x => x
/-- Messages that need wait no longer. -/
def State.parkedDue (s : State) : List Nat :=
  (List.range s.parked.length).filter fun n => match s.performParked n with
    | .next t => t.parked.length < s.parked.length
    | _ => false
/-- Everything that may happen next. -/
def State.choices (s : State) : List Choice :=
  if !s.forced.isEmpty then s.forced.map .event
  else (if s.inputs.isEmpty then [] else [.input]) ++ s.events.map .event ++ s.parkedDue.map .parked ++ s.toReady ++ s.issues

/-! ## Fetch (R208, R401; log 28) -/

/-- What comes of fetching: the words; a fault of cause, INFO and address; a migrating page; or a request to another package. -/
inductive Fetch where
  | ok (ws : List Word)
  | fault (cause info : Nat) (addr : Option (Nat × Nat))
  | wait (pte : Nat)
  | later
/-- An unmapped page, a missing permission or an address that names nothing is the fetch fault 0x0A, which names no address; any other keeps
its cause, a malformed entry's 0x12 among them (R404). -/
def Fetch.ofFault (f : AccFault) : Fetch :=
  if f.cause = 0x10 || f.cause = 0x11 || f.cause = 0x13 then .fault 0x0A 0 none else .fault f.cause f.info (some (f.space, f.addr))
/-- The page of an address: the page just used, or a translation that needs X. -/
def State.codeLeaf (s : State) (g : GangId) (last : Option Leaf) (va : Nat) : State × Xlat :=
  match last with
  | some l => if l.base ≤ va && va < l.base + l.size then (s, .ok l) else s.translate (s.xagent g) va 1
  | none => s.translate (s.xagent g) va 1
/-- A word of code that the core holds for a stream, where the fetch is served by it (R222; log 28). -/
def State.codeHeld (s : State) (g : GangId) (stream : Bool × BitVec 8) (pa : Nat) : Option Word :=
  let q := s.requester g
  match s.heldCode.find? fun e => e.serves q.die q.agent g stream.1 stream.2 pa with
  | some e => if Config.codeHit s.clock pa then some e.word else none
  | none => none
/-- The core holds a word of code from now on. -/
def State.holdCode (s : State) (g : GangId) (lane : Bool) (pa : Nat) (w : Word) : State :=
  let q := s.requester g
  { s with heldCode := s.heldCode.filter (fun e => !(e.die == q.die && e.core == q.agent && e.lane == lane && e.pa == pa)) ++
      [⟨q.die, q.agent, lane, pa, w, []⟩] }
/-- One word of code of a page in memory, here or in another package. -/
def State.codeRead (s : State) (g : GangId) (stream : Bool × BitVec 8) (l : Leaf) (va : Nat) : State × Fetch :=
  match s.fetched.find? fun f => f.gang == g && f.addr == va && f.code with
  | some f => match f.fault with
    | some x => (s, Fetch.ofFault x)
    | none => (s, .ok (wordsOfBytes 1 f.bytes))
  | none => match s.genPlace (s.gangDie g) l .load va 4 with
    | .fault f => (s, Fetch.ofFault f)
    | .wait _ => (s, .later)
    | .ok p =>
      let die := s.gangDie g
      if p.isRemote then
        (if s.hasRoom (s.requester g) 1 then s.sendAccess g p va 0 (.load 4) (.fetch g (some stream)) SyncUse.unchecked 0 else s, .later)
      else if !s.linkActive die (p.die die) p.addr then (s, .later)
      else match s.poisonCheck p 4 false with
        | (s, some (c, i)) => (s, .fault c i (some (0, va)))
        | (s, none) => (((s.sendOver (s.requester g) (p.die die) p.addr).corrected p die), .ok (wordsOfBytes 1 (s.readPlace p 4)))
/-- One word of code: held by the core, or read and held. -/
def State.codeWord (s : State) (g : GangId) (stream : Bool × BitVec 8) (l : Leaf) (va : Nat) : State × Fetch :=
  match s.codeHeld g stream (l.pa va) with
  | some w => (s, .ok [w])
  | none => match s.codeRead g stream l va with
    | (s, .ok ws) => (s.holdCode g stream.1 (l.pa va) (ws.headD 0), .ok ws)
    | x => x
/-- `n` words from an address, with the page used last. -/
def State.fetchWords (g : GangId) (stream : Bool × BitVec 8) : Nat → Option Leaf → Nat → State → State × Fetch × Option Leaf
  | 0, last, _, s => (s, .ok [], last)
  | n + 1, last, va, s =>
    if 2 ^ 56 ≤ va then (s, .fault 0x0A 0 none, last)
    else match s.codeLeaf g last va with
      | (s, .fault f) => (s, Fetch.ofFault f, last)
      | (s, .wait p) => (s, .wait p, last)
      | (s, .ok l) => match s.codeWord g stream l va with
        | (s, .ok w) => match State.fetchWords g stream n (some l) (va + 4) s with
          | (s, .ok ws, l) => (s, .ok (w ++ ws), l)
          | r => r
        | (s, x) => (s, x, some l)
/-- A scalar instruction: its word, and its literal where one follows (R171). -/
def State.fetchScalar (s : State) (g : GangId) (m : BitVec 8) (pc : Nat) : State × Fetch :=
  if pc % 4 ≠ 0 then (s, .fault 0x0A 0 none)
  else match State.fetchWords g (false, m) 1 none pc s with
    | (s, .ok ws, l) =>
      if hasLiteral (ws.headD 0) then match State.fetchWords g (false, m) 1 l (pc + 4) s with
        | (s, .ok lit, _) => (s, .ok (ws ++ lit))
        | (s, x, _) => (s, x)
      else (s, .ok ws)
    | (s, x, _) => (s, x)
/-- The address of a lane instruction (R153, R216): 12 bytes each from the image's lane code base. -/
def State.laneAddrOf (s : State) (g : GangId) (idx : Nat) : Nat :=
  match s.gridOf g with
  | some gr => gr.record.laneBase + 12 * idx
  | none => 0
def State.fetchLane (s : State) (g : GangId) (m : BitVec 8) (idx : Nat) : State × Fetch :=
  match State.fetchWords g (true, m) 3 none (s.laneAddrOf g idx) s with
  | (s, x, _) => (s, x)

/-! ## Issue -/

/-- The state in which a fetched instruction is performed: the issue slot holds it, answers to its fetch are used up, the block has issued
(R40), parts that yield to the gang see that it has issued (R298), and a structural test that waits is passed over (R21). -/
def State.atIssue (s : State) (g : GangId) (who : Issuer) (turn : BitVec 8) (va : Nat) (ws : List Word) : State :=
  let used (f : Fetched) : Bool := f.gang == g && f.code && va ≤ f.addr && f.addr < va + 4 * ws.length
  let s := { s with issue := ⟨who, ws⟩, fetched := s.fetched.filter fun f => !used f }
  let s := match s.gang? g with
    | some x => if s.determ g then s.setGang { x with turn := some turn } else s
    | none => s
  let s := match s.blockOf g with
    | some b => if b.issued then s else s.setBlock { b with issued := true }
    | none => s
  let s := s.issuedOnce g
  s.passOver (s.gangDie g)
/-- A scalar instruction of a part, performed or refused by the decoder (R402, R403). -/
def State.runScalar (s : State) (g : GangId) (m : BitVec 8) (va : Nat) (ws : List Word) : Outcome :=
  let s := s.atIssue g (.scalar g m) m va ws
  match decodeScalar (ws.headD 0) (ws.getD 1 0) with
  | .ok i => exec i s
  | .error n => .next (s.takeTrap g (TrapInfo.plain 0x03 n 0 (lowestSlice m) ws))
def State.issueScalar (s : State) (gid : GangId) (m : BitVec 8) : Outcome :=
  match s.gang? gid with
  | none => .next s
  | some g => match g.slice? (lowestSlice m) with
    | none => .next s
    | some sl => match s.fetchScalar gid m sl.pc.toNat with
      | (s, .ok ws) => s.runScalar gid m sl.pc.toNat ws
      | (s, .fault c i a) => .next (s.takeTrap gid ⟨c, 0, lowestSlice m, i, 0, a, 0, []⟩)
      | (s, .wait p) => .next (s.waitPart g m (.migration p))
      | (s, .later) => .next s
/-- A lane instruction of a group of slices, performed or refused by the decoder with every active lane named (R403). -/
def State.runLane (s : State) (g : Gang) (m : BitVec 8) (ws : List Word) : Outcome :=
  let s := s.atIssue g.id (.lane g.id m) (g.partOf m) (s.laneAddrOf g.id (g.laneIndex m)) ws
  match decodeLane (laneBits (ws.headD 0) (ws.getD 1 0) (ws.getD 2 0)) with
  | .ok i => exec i s
  | .error n => .next (s.trapLane g m 0x03 n (g.activeLanes (g.partOf m)) none)
def State.issueLane (s : State) (gid : GangId) (m : BitVec 8) : Outcome :=
  match s.gang? gid with
  | none => .next s
  | some g => match s.fetchLane gid m (g.laneIndex m) with
    | (s, .ok ws) => s.runLane g m ws
    | (s, .fault c i a) => .next ({ s with issue := ⟨.lane gid m, []⟩ }.trapLane g m c i (g.activeLanes (g.partOf m)) a)
    | (s, .wait p) => .next (s.waitLane g m (.migration p))
    | (s, .later) => .next s
/-- A word of a drain's program. -/
def State.issueEpilogue (s : State) (op : Nat) : Outcome :=
  match s.op? op with
  | none => .next s
  | some o => match s.drainWord o with
    | none => .next s
    | some w => match decodeEpi w with
      | some i => exec i { s with issue := ⟨.epilogue op, [w]⟩ }
      | none => .next (s.trapPlain o 0x43 0)

/-- One choice, performed. An event has no issuer. -/
def State.perform (s : State) : Choice → Outcome
  | .input => match s.inputs with
    | [] => .next s
    | i :: l => exec i { s with inputs := l, issue := ⟨.none, []⟩ }
  | .event i => exec i { s with issue := ⟨.none, []⟩ }
  | .parked n => s.performParked n
  | .ready g lane m => .next (s.markReady g lane m)
  | .scalar g m => s.issueScalar g m
  | .lane g m => s.issueLane g m
  | .epilogue op => s.issueEpilogue op
/-- A slice after an issue of its part: what made the instruction ready is used up. -/
def Slice.issued (sl : Slice) (lane : Bool) : Slice :=
  if lane then (if waitReady sl.lwait then { sl with lwait := none } else sl)
  else if waitReady sl.wait then { sl with wait := none } else sl
/-- The parts of a gang's stream at its issue: their turns come after it (R47). -/
def ReadySince.issuedAt (gid : GangId) (lane : Bool) (now : Nat) (r : ReadySince) : ReadySince :=
  if r.gang == gid && r.lane == lane then { r with after := now } else r
/-- A stream has issued: it becomes ready again with a new time (R46). -/
def State.issuedStream (s : State) (gid : GangId) (lane : Bool) (m : BitVec 8) : State :=
  let rest := s.ready.filter fun r => !(r.gang == gid && r.lane == lane && r.mask == m)
  let s := { s with ready := rest.map (ReadySince.issuedAt gid lane s.clock) }
  match s.gang? gid with
  | some g => if s.blocked gid lane m then s else s.setGang (g.mapPart m fun _ sl => sl.issued lane)
  | none => s
/-- Whether fences leave a block unable to run on its core (R471). -/
def State.unable (s : State) (b : Block) : Bool :=
  !s.coreLive b.die b.core || (s.blockGangs b.id).any fun g => !g.exited && !s.groupLive b.die b.core (g.id.num % 4) g.group g.slices.length
/-- A resident block that fences leave unable to run is halted as by PREEMPT.BLOCK, with its cohort, its copy or its span (R51, R471), also where
it is placed or starts to run after the fence. -/
def State.fencePreempt (s : State) : State :=
  s.blocks.foldl (fun s b => match s.block? b.id, s.grid? b.id.handle with
    | some x, some g =>
      let l := g.widen (g.cohortOf x.id.index)
      let goes (y : Block) : Bool := y.state == .running || (y.state == .placed && y.id == x.id)
      if x.resident && s.unable x && (s.targetBlocks g l).any goes then s.preempt g (g.widen [x.id.index]) else s
    | _, _ => s) s
/-- What follows every choice: blocks that cannot run on are halted, traps whose gangs have completed what they issued are taken, requests
leave, ports drop old keys, far ports are enumerated, and streams that may no longer issue are not ready. -/
def State.settled (s : State) (c : Choice) : State :=
  let s := match c with
    | .scalar g m => s.issuedStream g false m
    | .lane g m => s.issuedStream g true m
    | _ => s
  let s := s.fencePreempt.finishTraps.launchFlights.dropKeys.cxlPorts
  { s with
    flight := Config.flight s.clock
    ready := s.ready.filter fun r => (s.candidates r.lane).any fun p => p.1.id == r.gang && p.2 == r.mask }
/-- A choice, and what follows it. -/
def State.run (s : State) (c : Choice) : Outcome :=
  match s.perform c with
  | .next t => .next (t.settled c)
  | x => x
/-- The next step among what may happen: nothing, the only choice, or a free one (log 3). -/
def State.advance (s : State) : Outcome :=
  match s.choices with
  | [] => .next s
  | [c] => s.run c
  | c :: l => s.run ((c :: l).getD (Config.pick s.clock % (l.length + 1)) c)

/-! ## A first instruction (log 16) -/

/-- The address of code that withFetchWord places. -/
def codeBase : Nat := 0x10000
/-- Bytes of an instruction from the bits that the opcode table numbers. -/
def codeBytes (w : Nat) : List Byte := leBytes 12 w
/-- A grid of one block, one gang and one slice, in the identity context of control core 0 of die 12. -/
def firstRecord : LaunchRec :=
  { dieMask := 1, evStamp := 0, expLen := 0, expOff := 0, csVal := 0, csAddr := 0, sigWord := 0, sliceLen := 0, depGen := 0,
    depWord := 0, pkgList := [], spanSize := 0, spanId := 0, gaugeSz := 0, lsSz := 16, qlog := 0, esQuota := 0, wload := false,
    early := false, raceAct := false, race := false, redun := false, determ := false, regs := 24, cls := 0, cohort := 1, slices := 1,
    gangs := 1, gridX := 1, gridY := 1, gridZ := 1, laneBase := codeBase, entry := BitVec.ofNat 56 codeBase }
def firstHandle : Word := 0xC0000000
def firstBlock : BlockId := ⟨firstHandle, 0, false⟩
def firstGangId : GangId := .compute firstBlock 0
def firstGrid : Grid :=
  { handle := firstHandle, record := firstRecord, params := [], ctxDie := 12, ctxCore := 0, order := 0, next := 1, quota := 0,
    producer := none, held := [], killedBlocks := [], depMet := true, depReported := false, timerOn := false, round := 0,
    phase := .notStarted, image := none, committed := [], windowOpen := false, spanKilled := false, detached := [],
    stopIssued := false, spanPlaced := false }
def firstBlockRec : Block :=
  { id := firstBlock, state := .running, integrity := false, killing := false, die := 0, core := 0, slot := 0, granule := 0,
    barriers := List.replicate 16 Barrier.empty, accs := [(0, WordMap.zero)], latch := [], race := [], signalled := false,
    issued := false, freed := false, saver := none, want := [] }
/-- A gang at the code, its registers zero. -/
def firstGang (id : GangId) (die : Nat) : Gang :=
  let g := newGang id die 0 1 0 (BitVec.ofNat 56 codeBase)
  { g with v := WordMap.zero, slices := g.slices.map fun sl => { sl with regs := WordMap.zero, q := 0, k := 0xF0000000 } }
/-- The package with its dies running and code in memory, in the identity context of control core 0 of die 12. -/
def State.withCode (s : State) (w : Nat) : State :=
  { s with
    mem := s.mem.write codeBase (codeBytes w)
    dies := s.dies.map fun d => { d with powered := true, inReset := false, timebaseOn := true }
    controls := s.controls.map fun c => if c.die = 12 && c.idx = 0 then { c with identity := true } else c }
/-- The placed grid with its gang, a stream of which is ready. -/
def State.withGang (s : State) (g : Gang) (ready : List ReadySince) : State :=
  { s with ready := ready, grids := [firstGrid], blocks := [firstBlockRec], cohorts := [Cohort.mk firstHandle 0 false [] 0 0 0], gangs := [g] }
/-- The instruction where a scalar stream fetches: that of a compute core's gang, or for a supervisor instruction that of control
core 0 of die 12. -/
def State.withScalarCode (s : State) (w : Nat) : State :=
  let s := s.withCode w
  if w / 2 ^ 26 % 64 = 0x3E then
    { s with gangs := [firstGang (.control 12 0) 12]
             ready := [⟨.control 12 0, false, 1, 0, 0⟩]
             controls := s.controls.map fun c => if c.die = 12 && c.idx = 0 then { c with running := true } else c }
  else s.withGang (firstGang firstGangId 0) [⟨firstGangId, false, 1, 0, 0⟩]
/-- The instruction where a lane stream fetches: the scalar stream waits for the run to end. -/
def State.withLaneCode (s : State) (w : Nat) : State :=
  let g := firstGang firstGangId 0
  let waiting (sl : Slice) : Slice := { sl with cur := some ⟨⟨0, 1, WordMap.zero, 1, none⟩, 0⟩, wait := some .laneQueue }
  (s.withCode w).withGang { g with slices := g.slices.map waiting } [⟨firstGangId, true, 1, 0, 0⟩]
/-- The instruction as the one word of the program of a drain in progress: its gang waits for it. -/
def State.withDrainCode (s : State) (w : Nat) : State :=
  let g := firstGang firstGangId 0
  let x : DrainOp := ⟨0, false, false, [BitVec.ofNat 32 w], [0, 0, 0, 0], 0, 0, 0, 0, WordMap.zero, []⟩
  let waiting (sl : Slice) : Slice := { sl with wait := some (.counters 15 15 15 0) }
  let s := (s.withCode w).withGang { g with tq := [(0, false)], slices := g.slices.map waiting } []
  { s with ops := [⟨0, firstGangId, .drain x, 0, [], false, false, none⟩], nextOp := 1 }
/-- The stream that fetches an instruction word of the table next. -/
def State.withFirst (s : State) (nbits w : Nat) : State :=
  if 32 < nbits then s.withLaneCode w
  else match decodeScalar (BitVec.ofNat 32 w) 0 with
    | .ok _ => s.withScalarCode w
    | .error _ => match decodeEpi (BitVec.ofNat 32 w) with
      | some _ => s.withDrainCode w
      | none => s.withScalarCode w

end Sys2Proof.Machine
end

