-- ==== Sys2Proof/Machine/Step.lean ====
section
/-! DEFINITION. One step of the package, and a state whose next step runs a given instruction. -/
namespace Sys2Proof.Machine

/-- One step: time moves on, and one of the things that may happen happens. -/
def step (s : State) : Host.Outcome State Fault Refusal := State.advance s.tick

/-- The state with an instruction placed where the next step fetches (log 16). -/
def State.withFetchWord (s : State) (nbits w : Nat) : State := s.withFirst nbits w

end Sys2Proof.Machine
end

