-- ==== Sys2Proof/Safety.lean ====
section
/-! DEFINITION. What counts as a safe run, in the terms that claims use. -/
namespace Sys2Proof.Machine

/-- The memories of the package are in their one canonical form. -/
def State.memOk (s : State) : Bool := s.mem.wf && s.ls.wf && s.wgt.wf

/-- The machine goes on from a state. -/
def State.goesOn (s : State) : Bool :=
  match step s with
  | .next _ => true
  | _ => false

end Sys2Proof.Machine
end

