-- ==== Sys2Proof/Certificates/Slice0/Obligations.lean ====
section
/-! DEFINITION. What this package states about the machine: the claims, with the plain vocabulary in which they are written. Each
docstring cites the rules of spec/ that its statement formalises. -/

namespace Sys2Proof.Claims
open Sys2Proof.Machine

/-! ## Vocabulary: who issues, and what a step leaves alone -/

/-- Part `m` of gang `g` issues a scalar instruction in `s`. -/
def ScalarAt (s : State) (g : Gang) (m : BitVec 8) : Prop := s.issue.who = .scalar g.id m ∧ s.gang? g.id = some g
/-- The lane stream of slices `m` of gang `g` issues in `s`. -/
def LaneAt (s : State) (g : Gang) (m : BitVec 8) : Prop := s.issue.who = .lane g.id m ∧ s.gang? g.id = some g

/-- `t` is `s` with the one gang `g'` in the place of its namesake: memories, registers of devices, blocks, engines and every other
gang are as they were. -/
def OnlyGang (s t : State) (g' : Gang) : Prop :=
  t = { s with gangs := t.gangs } ∧ t.gang? g'.id = some g' ∧ ∀ k, k ≠ g'.id → t.gang? k = s.gang? k
/-- `g'` is `g` with slice `i` of part `m` changed by `f i`: other slices, lane registers, counters, special registers and buffers are
as they were. -/
def PartRuns (g g' : Gang) (m : BitVec 8) (f : Nat → Slice → Slice) : Prop :=
  g' = { g with slices := g'.slices, parts := g'.parts } ∧ g'.slices.length = g.slices.length ∧
  ∀ i sl, g.slice? i = some sl → g'.slice? i = some (if m.getLsbD i then f i sl else sl)
/-- The parts of `g'` beside those of `g`, once the slices of `m` have run: the parts that hold no slice of `m` are the same, and two slices
of `m` that have not exited are in one part just where they are at one address (R32, R198). -/
def PartsFormed (g g' : Gang) (m : BitVec 8) : Prop :=
  (∀ p, p ≠ 0 → p &&& m = 0 → (p ∈ g'.parts ↔ p ∈ g.parts)) ∧
  ∀ i j sl sl', m.getLsbD i = true → m.getLsbD j = true → g'.slice? i = some sl → g'.slice? j = some sl' →
    sl.exited = false → sl'.exited = false →
    ((∃ p ∈ g'.parts, p.getLsbD i = true ∧ p.getLsbD j = true) ↔ sl.pc = sl'.pc)
/-- Part `m` of gang `g`, whose other parts hold none of its slices (R31), has split as its slices' addresses say. -/
def PartsFollow (g g' : Gang) (m : BitVec 8) : Prop := (∀ p ∈ g.parts, p = m ∨ p &&& m = 0) → PartsFormed g g' m
/-- The outcome goes on, and all that it changes is the slices of part `m`, each by `f`, and the parts that they form. -/
def Runs (s : State) (g : Gang) (m : BitVec 8) (f : Nat → Slice → Slice) (o : Outcome) : Prop :=
  ∃ t g', o = .next t ∧ OnlyGang s t g' ∧ PartRuns g g' m f ∧ PartsFollow g g' m

/-! ## Scalar results (R176, R200 to R203) -/

/-- The integer operations of R200 as the manual's table gives them. -/
def opMulHigh (x y : Word) : Word := (x.signExtend 64 * y.signExtend 64).extractLsb' 32 32
def opMulHighN (x y : Word) : Word := (x.zeroExtend 64 * y.zeroExtend 64).extractLsb' 32 32
def opLeft (x y : Word) : Word := if 32 ≤ y.toNat then 0 else BitVec.ofNat 32 (x.toNat * 2 ^ y.toNat)
def opRight (x y : Word) : Word := if 32 ≤ y.toNat then 0 else BitVec.ofNat 32 (x.toNat / 2 ^ y.toNat)
def opRightS (x y : Word) : Word :=
  if 32 ≤ y.toNat then (if x.msb then BitVec.allOnes 32 else 0) else BitVec.ofInt 32 (x.toInt / 2 ^ y.toNat)
def opSmaller (x y : Word) : Word := if x.toInt ≤ y.toInt then x else y
def opLarger (x y : Word) : Word := if x.toInt ≤ y.toInt then y else x
def opSmallerN (x y : Word) : Word := if x.toNat ≤ y.toNat then x else y
def opLargerN (x y : Word) : Word := if x.toNat ≤ y.toNat then y else x
def opZeros (x : Word) : Word := BitVec.ofNat 32 (32 - x.toNat.size)
def opOnes (x : Word) : Word := BitVec.ofNat 32 ((List.range 32).filter fun i => x.getLsbD i).length

/-- R176's two readings of imm7. -/
def signed7 (i : BitVec 7) : Word := BitVec.ofInt 32 i.toInt
def plain7 (i : BitVec 7) : Word := BitVec.ofNat 32 i.toNat

def regForm (x : AluReg) (f : Word → Word → Word) : Option (Guard × Dst × (Slice → Word)) :=
  some (x.g, x.d, fun sl => f (sl.src x.a) (sl.src x.b))
def unForm (x : AluUn) (f : Word → Word) : Option (Guard × Dst × (Slice → Word)) := some (x.g, x.d, fun sl => f (sl.src x.a))
def immForm (x : AluImm) (y : Word) (f : Word → Word → Word) : Option (Guard × Dst × (Slice → Word)) :=
  some (x.g, x.d, fun sl => f (sl.src x.a) y)

/-- Guard, destination and value of the instructions that write one scalar register (R200, R203). -/
def aluResult : Instr → Option (Guard × Dst × (Slice → Word))
  | .add x => regForm x (· + ·) | .sub x => regForm x (· - ·) | .mul x => regForm x (· * ·)
  | .mulh x => regForm x opMulHigh | .mulhn x => regForm x opMulHighN
  | .and x => regForm x (· &&& ·) | .or x => regForm x (· ||| ·) | .xor x => regForm x (· ^^^ ·)
  | .andn x => regForm x fun a b => a &&& ~~~b
  | .shl x => regForm x opLeft | .shr x => regForm x opRight | .sra x => regForm x opRightS
  | .min x => regForm x opSmaller | .max x => regForm x opLarger
  | .minn x => regForm x opSmallerN | .maxn x => regForm x opLargerN
  | .clz x => unForm x opZeros | .popc x => unForm x opOnes | .mov x => unForm x id
  | .addImm x => immForm x (signed7 x.i) (· + ·) | .subImm x => immForm x (signed7 x.i) (· - ·)
  | .mulImm x => immForm x (signed7 x.i) (· * ·)
  | .andImm x => immForm x (signed7 x.i) (· &&& ·) | .orImm x => immForm x (signed7 x.i) (· ||| ·)
  | .xorImm x => immForm x (signed7 x.i) (· ^^^ ·)
  | .shlImm x => immForm x (plain7 x.i) opLeft | .shrImm x => immForm x (plain7 x.i) opRight
  | .sraImm x => immForm x (plain7 x.i) opRightS
  | .minImm x => immForm x (signed7 x.i) opSmaller | .maxImm x => immForm x (signed7 x.i) opLarger
  | .minnImm x => immForm x (plain7 x.i) opSmallerN | .maxnImm x => immForm x (plain7 x.i) opLargerN
  | .sel g d a b q => some (g, d, fun sl => if sl.q.getLsbD q.toNat then sl.src a else sl.src b)
  | .liImm g d i => some (g, d, fun _ => signed7 i)
  | .liLiteral g d w => some (g, d, fun _ => w)
  | _ => none

/-- The conditions of R177: .LT and .LE as i32, .LTN and .LEN as n32. -/
def condHolds (c : Cond) (x y : Word) : Bool :=
  match c with
  | .eq => x == y
  | .ne => x != y
  | .lt => x.toInt < y.toInt
  | .le => x.toInt ≤ y.toInt
  | .ltn => x.toNat < y.toNat
  | .len => x.toNat ≤ y.toNat
/-- R176 for CMP: zero-extended with .LTN and .LEN. -/
def condImm (c : Cond) (i : BitVec 7) : Word := if c = .ltn ∨ c = .len then plain7 i else signed7 i

/-- Guard, destination and value of the instructions that write one scalar predicate (R201, R202). -/
def predResult : Instr → Option (Guard × BitVec 3 × (Slice → Bool))
  | .cmpReg g q a b c => some (g, q, fun sl => condHolds c (sl.src a) (sl.src b))
  | .cmpImm g q a c i => some (g, q, fun sl => condHolds c (sl.src a) (condImm c i))
  | .qand x => some (x.g, x.q, fun sl => sl.q.getLsbD x.x.toNat && sl.q.getLsbD x.y.toNat)
  | .qor x => some (x.g, x.q, fun sl => sl.q.getLsbD x.x.toNat || sl.q.getLsbD x.y.toNat)
  | .qxor x => some (x.g, x.q, fun sl => sl.q.getLsbD x.x.toNat != sl.q.getLsbD x.y.toNat)
  | .qnot g q x => some (g, q, fun sl => !sl.q.getLsbD x.toNat)
  | _ => none

/-! ## Control flow (R208 to R215) -/

/-- The address 4 × offset past the next address (R171, R209). -/
def jumpTarget (sl : Slice) (size : Nat) (off : Int) : VAddr := BitVec.ofInt 56 (sl.pc.toNat + size + 4 * off)
/-- Whether an address lies in a loop level's body (R213). -/
def inBody (l : LoopLevel) (a : VAddr) : Bool := l.start.toNat ≤ a.toNat % 2 ^ 32 && a.toNat % 2 ^ 32 < l.stop.toNat
/-- A taken branch: one that leaves the innermost body pops that level and every further level that does not contain the target (R213). -/
def branched (sl : Slice) (target : VAddr) : Slice :=
  { sl with
    pc := target
    loops := match sl.loops with
      | [] => []
      | l :: ls => if inBody l target then l :: ls else ls.filter fun x => inBody x target }
/-- The program counter with bits [31:0] replaced (R211). -/
def lowReplaced (pc : VAddr) (w : Word) : VAddr := BitVec.ofNat 56 (pc.toNat / 2 ^ 32 * 2 ^ 32 + w.toNat)

/-- What the branches whose guard is true do in one slice (R209, R211, R214). -/
def flowTaken (size : Nat) : Instr → Option (Guard × (Slice → Slice))
  | .br g off => some (g, fun sl => branched sl (jumpTarget sl size off.toInt))
  | .call g off => some (g, fun sl =>
      { sl.setReg 30 ((sl.pc + BitVec.ofNat 56 size).extractLsb' 0 32) with pc := jumpTarget sl size off.toInt })
  | .ret g a => some (g, fun sl => { sl with pc := lowReplaced sl.pc (sl.src a) })
  | .nop g => some (g, fun sl => sl.advance size)
  | _ => none

/-- The predicates that BRQ looks at, and whether it is taken (R210). -/
def brqVotes (g : Gang) (m : BitVec 8) (gd : Guard) (q : BitVec 3) : List Bool :=
  ((List.range 8).filter fun i => m.getLsbD i).filterMap fun i =>
    (g.slice? i).bind fun sl => if guardTrue gd sl then some (sl.q.getLsbD q.toNat) else none
def brqGoes (mode : BrqMode) (v : List Bool) : Prop :=
  match mode with
  | .any => true ∈ v
  | .all => v ≠ [] ∧ false ∉ v
  | .none => true ∉ v

end Sys2Proof.Claims

open Sys2Proof Sys2Proof.Machine Sys2Proof.Claims

/-! ## Scalar arithmetic, predicates and control flow -/

/-- R198, R200, R203, R176, R28: in each slice of the issuing part whose guard is true, d takes the value that the table gives; the
slice moves to its next address; nothing else changes in the package. -/
def Sys2Proof.Claims.RegisterResults : Prop :=
  ∀ (s : State) (g : Gang) (m : BitVec 8) (i : Instr) (gd : Guard) (d : Dst) (f : Slice → Word),
    ScalarAt s g m → i.wf = true → aluResult i = some (gd, d, f) →
    Runs s g m (fun _ sl => (if guardTrue gd sl then sl.setDst d (f sl) else sl).advance s.issueSize) (exec i s)

/-- R201, R202: the predicate instructions write one q register where the guard is true, and nothing else. -/
def Sys2Proof.Claims.PredicateResults : Prop :=
  ∀ (s : State) (g : Gang) (m : BitVec 8) (i : Instr) (gd : Guard) (q : BitVec 3) (f : Slice → Bool),
    ScalarAt s g m → i.wf = true → predResult i = some (gd, q, f) →
    Runs s g m (fun _ sl => (if guardTrue gd sl then
      { sl with q := (sl.q &&& ~~~(1#8 <<< q.toNat)) ||| ((BitVec.ofBool (f sl)).zeroExtend 8 <<< q.toNat) } else sl).advance s.issueSize) (exec i s)

/-- R28, R176, R198, R200, R201, R202, R203: both parts, each cited where it stands. -/
def Obligations.ScalarResults : Prop := Claims.RegisterResults ∧ Claims.PredicateResults

/-- R171, R172: what a destination and a guard mean: a write to s0 to s30 reads back and leaves the others, 31 discards; guard 7 is
true whatever q7 holds, a guard 0 to 6 reads its q, and the negate bit inverts. -/
def Sys2Proof.Claims.GuardsAndDestinations : Prop :=
  ∀ (sl : Slice) (v : Word),
    (∀ n k : Fin 31, (sl.setDst (.reg n) v).reg k = if k = n then v else sl.reg k) ∧ sl.setDst .discard v = sl ∧
    (∀ neg, guardTrue ⟨7, neg⟩ sl = !neg) ∧
    ∀ (q : BitVec 3) (neg : Bool), q ≠ 7 → guardTrue ⟨q, neg⟩ sl = (sl.q.getLsbD q.toNat != neg)

/-- R31, R32, R198, R209, R211, R213, R214: BR, CALL, RET and NOP in each slice of the part. Slices that come to one address stay one part,
others split; the gang's other parts are kept. -/
def Sys2Proof.Claims.Branches : Prop :=
  ∀ (s : State) (g : Gang) (m : BitVec 8) (i : Instr) (gd : Guard) (f : Slice → Slice),
    ScalarAt s g m → flowTaken s.issueSize i = some (gd, f) →
    Runs s g m (fun _ sl => if guardTrue gd sl then f sl else sl.advance s.issueSize) (exec i s)

/-- R32, R198, R210: BRQ, which splits the part where its slices part ways. -/
def Sys2Proof.Claims.PredicateBranch : Prop :=
  ∀ (s : State) (g : Gang) (m : BitVec 8) (gd : Guard) (mode : BrqMode) (q : BitVec 3) (off : BitVec 17),
    ScalarAt s g m →
    (brqGoes mode (brqVotes g m gd q) →
      Runs s g m (fun _ sl => if guardTrue gd sl then branched sl (jumpTarget sl s.issueSize off.toInt) else sl.advance s.issueSize)
        (exec (.brq gd mode q off) s)) ∧
    (¬ brqGoes mode (brqVotes g m gd q) →
      Runs s g m (fun _ sl => sl.advance s.issueSize) (exec (.brq gd mode q off) s))

/-- R32, R198, R209, R210, R211, R213, R214: both parts, each cited where it stands. -/
def Obligations.ControlFlow : Prop := Claims.Branches ∧ Claims.PredicateBranch

/-! ## Parts, loops, exit, REGANG -/

namespace Sys2Proof.Claims

/-- What LOOP does in one slice (R212): with a false guard the body runs once, with a count of 0 it is skipped, else a level is pushed. -/
def looped (sl : Slice) (gd : Guard) (a : Src) (n : BitVec 12) (size : Nat) : Slice :=
  let start : Word := (sl.pc + BitVec.ofNat 56 size).extractLsb' 0 32
  if !guardTrue gd sl then sl.advance size
  else if sl.src a = 0 then sl.advance (size + 4 * n.toNat)
  else { sl with pc := sl.pc + BitVec.ofNat 56 size, loops := ⟨start, start + BitVec.ofNat 32 (4 * n.toNat), sl.src a⟩ :: sl.loops }
/-- Slice `i` of part `m` is to execute, its guard true. -/
def Executes (g : Gang) (m : BitVec 8) (gd : Guard) (i : Nat) (sl : Slice) : Prop :=
  i < 8 ∧ m.getLsbD i = true ∧ g.slice? i = some sl ∧ guardTrue gd sl = true
/-- `i` is the lowest executing slice for which `p` holds. -/
def LowestFailing (g : Gang) (m : BitVec 8) (gd : Guard) (p : Slice → Prop) (i : Nat) : Prop :=
  ∃ sl, Executes g m gd i sl ∧ p sl ∧ ∀ j sl', j < i → Executes g m gd j sl' → ¬ p sl'
/-- What EXIT does in one slice (R35, R214): it exits once its lane queue is empty, and waits for that otherwise. -/
def exitedSlice (gd : Guard) (size : Nat) (sl : Slice) : Slice :=
  if !guardTrue gd sl then sl.advance size
  else if sl.queue = [] ∧ sl.cur = none then { sl with exited := true, wait := none } else { sl with wait := some .laneQueue }
/-- A slice of a mask that resumes after its REGANG, at an instruction of 4 bytes (R33). -/
def rejoined (p : VAddr) (sl : Slice) : Slice :=
  if sl.exited then sl else { sl.advance 4 with pending := 0, pendingPc := p, wait := none }
/-- INFO `k` is why a REGANG of `mask` traps in slice `i`: the mask is no mask that it may give, or it differs in address or in mask from the
REGANG at which slices wait that name it (R215, R408). -/
def regangFault (g : Gang) (mask : BitVec 8) (i : Nat) (sl : Slice) (k : Nat) : Prop :=
  let bad : Prop := mask = 0 ∨ mask.getLsbD i = false ∨ 2 ^ g.slices.length ≤ mask.toNat
  let waits (p : Slice → Prop) : Prop := ∃ x ∈ g.slices, x.pending ≠ 0 ∧ x.pending.getLsbD i = true ∧ p x
  (k = 1 ∧ bad) ∨
  (k = 2 ∧ ¬ bad ∧ waits fun x => x.pendingPc ≠ sl.pc) ∨
  (k = 3 ∧ ¬ bad ∧ ¬ (waits fun x => x.pendingPc ≠ sl.pc) ∧ waits fun x => x.pending ≠ mask)

end Sys2Proof.Claims

/-- R212: the end check of the loop stack. Without a level, or outside the innermost body's end, the slice goes to its next
address; at the end of a body it goes back with one pass less, or pops the level and looks at the next. -/
def Sys2Proof.Claims.LoopEndCheck : Prop :=
  ∀ (sl : Slice) (n : Nat),
    let p := sl.pc.toNat % 2 ^ 32
    (sl.loops = [] → sl.advance n = { sl with pc := sl.pc + BitVec.ofNat 56 n }) ∧
    ∀ (l : LoopLevel) (ls : List LoopLevel), sl.loops = l :: ls →
      (¬ (l.start.toNat ≤ p ∧ p < l.stop.toNat ∧ l.stop.toNat ≤ p + n) →
        sl.advance n = { sl with pc := sl.pc + BitVec.ofNat 56 n }) ∧
      (l.start.toNat ≤ p ∧ p < l.stop.toNat ∧ l.stop.toNat ≤ p + n → 0 < n →
        (1 < l.count.toNat → sl.advance n = { sl with pc := lowReplaced sl.pc l.start, loops := { l with count := l.count - 1 } :: ls }) ∧
        (l.count.toNat ≤ 1 → sl.advance n = ({ sl with loops := ls } : Slice).advance n))

/-- R212: LOOP pushes a level, skips its body or runs it once; with four levels held and a count other than 0 it traps with cause 0x08
before any change. -/
def Sys2Proof.Claims.LoopPushes : Prop :=
  ∀ (s : State) (g : Gang) (m : BitVec 8) (gd : Guard) (a : Src) (n : BitVec 12),
    ScalarAt s g m →
    let full (sl : Slice) : Prop := sl.src a ≠ 0 ∧ 4 ≤ sl.loops.length
    ((∀ i sl, Executes g m gd i sl → ¬ full sl) → Runs s g m (fun _ sl => looped sl gd a n s.issueSize) (exec (.loop gd a n) s)) ∧
    ∀ i, LowestFailing g m gd full i →
      exec (.loop gd a n) s = .next (s.takeTrap g.id (TrapInfo.plain 0x08 0 0 i s.issue.words))

/-- R212: both parts, each cited where it stands. -/
def Obligations.Loops : Prop := Claims.LoopEndCheck ∧ Claims.LoopPushes

/-- R35, R198, R214, R340: EXIT where no slice of the gang waits at a REGANG. In deterministic operation the exit of the last slice ends the
quantum. Where slices wait at a REGANG that names an executing slice, the part waits for the accesses that the gang has made. -/
def Obligations.ExitEndsSlices : Prop :=
  ∀ (s : State) (g : Gang) (m : BitVec 8) (gd : Guard),
    ScalarAt s g m →
    ((∀ sl ∈ g.slices, sl.pending = 0) →
      ∃ t g', exec (.exit gd) s = .next t ∧ OnlyGang s t g' ∧
        PartRuns g { g' with ended := g.ended } m (fun _ sl => exitedSlice gd s.issueSize sl) ∧ PartsFollow g g' m ∧
        g'.ended = if s.determ g.id = true ∧ ∀ sl ∈ g'.slices, sl.exited = true then some .exit else g.ended) ∧
    ((∃ i sl, Executes g m gd i sl ∧ ∃ x ∈ g.slices, x.pending ≠ 0 ∧ x.pending.getLsbD i = true) → s.gangOutstanding g.id = true →
      exec (.exit gd) s = .next (s.waitPart g m .outstanding))

/-- R33, R215, R340: REGANG by a part whose guards are true and whose lane queues are empty, once the accesses that the gang made before
are performed; until then the part waits at it. When every other slice of the mask has exited or waits at this REGANG, the live slices of
the mask resume after it as one part, the gang's other parts being kept; while one is still to come, the part records its mask and waits.
A part with no executing slice goes on. -/
def Sys2Proof.Claims.RegangJoins : Prop :=
  ∀ (s : State) (g : Gang) (m mask : BitVec 8) (gd : Guard) (p : VAddr),
    ScalarAt s g m → m ≠ 0 → m &&& mask = m → mask.toNat < 2 ^ g.slices.length → g.slices.length ≤ 8 →
    (∀ i sl, m.getLsbD i → g.slice? i = some sl →
      guardTrue gd sl = true ∧ sl.exited = false ∧ sl.queue = [] ∧ sl.cur = none ∧ sl.pending = 0 ∧ sl.pc = p) →
    (∀ i sl, mask.getLsbD i = false → g.slice? i = some sl → sl.pending = 0) →
    ((∀ i sl, mask.getLsbD i → m.getLsbD i = false → g.slice? i = some sl →
        sl.exited = true ∧ sl.pending = 0 ∨
          sl.exited = false ∧ sl.pending = mask ∧ sl.pendingPc = p ∧ sl.queue = [] ∧ sl.cur = none) →
      s.gangOutstanding g.id = false →
      ∃ t g', exec (.regang gd mask) s = .next t ∧ OnlyGang s t g' ∧ PartRuns g g' mask (fun _ sl => rejoined p sl) ∧
        PartsFormed g g' mask ∧
        ∀ a, (∀ i sl, mask.getLsbD i → g.slice? i = some sl → sl.exited = false → (rejoined p sl).pc = a) →
          ∃ q ∈ g'.parts, ∀ i sl, i < 8 → g.slice? i = some sl → (q.getLsbD i = true ↔ mask.getLsbD i = true ∧ sl.exited = false)) ∧
    ((∀ i sl, mask.getLsbD i → m.getLsbD i = false → g.slice? i = some sl → sl.pending = 0 ∨ sl.pending = mask ∧ sl.pendingPc = p) →
      (s.gangOutstanding g.id = true → exec (.regang gd mask) s = .next (s.waitPart g m .outstanding)) ∧
      (s.gangOutstanding g.id = false →
      (∃ i sl, i < 8 ∧ mask.getLsbD i ∧ m.getLsbD i = false ∧ g.slice? i = some sl ∧ sl.exited = false ∧ sl.pending = 0) →
      ∃ t g', exec (.regang gd mask) s = .next t ∧ OnlyGang s t g' ∧
        PartRuns g g' m (fun _ sl => { sl with pending := mask, pendingPc := p, wait := some .regang }) ∧ PartsFollow g g' m))

/-- R198, R215: REGANG in a part whose guards are all false, with no slice of the gang at a REGANG: it goes on to its next address. -/
def Sys2Proof.Claims.RegangPasses : Prop :=
  ∀ (s : State) (g : Gang) (m mask : BitVec 8) (gd : Guard),
    ScalarAt s g m → (∀ i sl, ¬ Executes g m gd i sl) → (∀ x ∈ g.slices, x.pending = 0) →
    Runs s g m (fun _ sl => sl.advance s.issueSize) (exec (.regang gd mask) s)

/-- R215, R408: REGANG traps with cause 0x07 before any change, in the lowest executing slice that has a reason to: its mask is zero, omits
that slice or names a slice that the gang does not have (INFO 1), or slices wait on a mask that names it at another REGANG (2), or at this
one with another mask (3). -/
def Sys2Proof.Claims.RegangTraps : Prop :=
  ∀ (s : State) (g : Gang) (m mask : BitVec 8) (gd : Guard) (i k : Nat) (sl : Slice),
    ScalarAt s g m → Executes g m gd i sl → regangFault g mask i sl k →
    (∀ j sl' k', j < i → Executes g m gd j sl' → ¬ regangFault g mask j sl' k') →
    exec (.regang gd mask) s = .next (s.takeTrap g.id (TrapInfo.plain 0x07 k 0 i s.issue.words))

/-- R33, R198, R215, R340, R408: the three parts, each cited where it stands. -/
def Obligations.Regang : Prop := Claims.RegangJoins ∧ Claims.RegangPasses ∧ Claims.RegangTraps

/-! ## The lane queue, special registers, TRAP, BKPT, INVI -/

namespace Sys2Proof.Claims

/-- What LRUN does in one slice (R29, R30, R216). -/
def enqueued (g : Gang) (gd : Guard) (a : Src) (cm1 : BitVec 12) (sl : Slice) : Slice :=
  if guardTrue gd sl then
    { sl with queue := sl.queue ++ [⟨(sl.src a).toNat, cm1.toNat + 1, sl.regs, g.dmask, sl.nextMask⟩], nextMask := none }
  else sl
/-- What LMASK does in one slice: the mask takes effect at the end of the last run queued before it, at once with no run queued or in progress
(R30, R217; log 13). -/
def masked (gd : Guard) (x : BitVec 4) (sl : Slice) : Slice :=
  if guardTrue gd sl then (if sl.queue = [] ∧ sl.cur = none then { sl with active := x } else { sl with nextMask := some x }) else sl
/-- What SRD does in one slice (R194, R206): d, and for the even number of a 64-bit register d + 1, take the register. -/
def specialRead (s : State) (g : Gang) (gd : Guard) (d : Dst) (r : Nat) (i : Nat) (sl : Slice) : Slice :=
  if guardTrue gd sl then
    match d with
    | .discard => sl
    | .reg n =>
      if r = 0x10 ∨ r = 0x12 ∨ r = 0x14 then (sl.setReg n.val (s.special g i r)).setReg (n.val + 1) (s.special g i (r + 1))
      else sl.setReg n.val (s.special g i r)
  else sl
/-- Why an SWR of number `r` is refused in a slice (R207). -/
def swrRefused (s : State) (g : Gang) (a : Src) (r : Nat) (sl : Slice) : Prop :=
  ¬ (0x14 ≤ r ∧ r ≤ 0x19) ∨
  (r = 0x16 ∧ sl.src a &&& 0x7FFFFFF0 ≠ 0) ∨ (r = 0x17 ∧ sl.src a &&& 0xFFFFE000 ≠ 0) ∨ (r = 0x19 ∧ sl.src a &&& 0xF0FFFFE0 ≠ 0) ∨
  ((r = 0x14 ∨ r = 0x15 ∨ r = 0x16) ∧ ∀ gr, s.gridOf g.id = some gr → gr.record.gaugeSz = 0)
/-- `s` with `t`'s gangs and one write of bytes to a local store. -/
def lsWritten (s t : State) (a : Nat) (bs : List Byte) : State := { s with gangs := t.gangs, ls := s.ls.write a bs }
/-- INVI's section operand names the section of a held word (R222). -/
def Discards (sec : InviSection) (e : HeldCode) : Prop := sec = .both ∨ (sec = .lane ∧ e.lane = true) ∨ (sec = .scal ∧ e.lane = false)
/-- `i` is the highest executing slice. -/
def HighestExecuting (g : Gang) (m : BitVec 8) (gd : Guard) (i : Nat) (sl : Slice) : Prop :=
  Executes g m gd i sl ∧ ∀ j sl', i < j → ¬ Executes g m gd j sl'

end Sys2Proof.Claims

/-- R29, R30, R216: LRUN enqueues the run with a copy of s0 to s30 and DMASK, waits while four runs wait, and traps on a source of
2^24 or more (cause 0x09, INFO 2), which enqueues nothing. -/
def Sys2Proof.Claims.LrunEnqueues : Prop :=
  ∀ (s : State) (g : Gang) (m : BitVec 8) (gd : Guard) (a : Src) (cm1 : BitVec 12),
    ScalarAt s g m → g.id.isControl = false →
    ((∀ i sl, Executes g m gd i sl → (sl.src a).toNat < 2 ^ 24 ∧ sl.queue.length < 4) →
      Runs s g m (fun _ sl => (enqueued g gd a cm1 sl).advance s.issueSize) (exec (.lrun gd a cm1) s)) ∧
    ((∀ i sl, Executes g m gd i sl → (sl.src a).toNat < 2 ^ 24) → (∃ i sl, Executes g m gd i sl ∧ 4 ≤ sl.queue.length) →
      exec (.lrun gd a cm1) s = .next (s.waitPart g m .queueSpace)) ∧
    ∀ i, LowestFailing g m gd (fun sl => 2 ^ 24 ≤ (sl.src a).toNat) i →
      exec (.lrun gd a cm1) s = .next (s.takeTrap g.id (TrapInfo.plain 0x09 2 0 i s.issue.words))

/-- R217, R30: LMASK gives the mask that takes effect at the next run boundary of the slice, from a register's bits [3:0] or the
immediate. That the mask of an idle lane stream takes effect at once is the model's choice (log 13). -/
def Sys2Proof.Claims.LmaskSetsMask : Prop :=
  ∀ (s : State) (g : Gang) (m : BitVec 8) (gd : Guard) (a : Src) (mask : BitVec 4),
    ScalarAt s g m → g.id.isControl = false →
    Runs s g m (fun _ sl => (masked gd ((sl.src a).extractLsb' 0 4) sl).advance s.issueSize) (exec (.lmaskReg gd a) s) ∧
    Runs s g m (fun _ sl => (masked gd mask sl).advance s.issueSize) (exec (.lmaskImm gd mask) s)

/-- R29, R30, R216, R217: both parts, each cited where it stands. -/
def Obligations.LaneRuns : Prop := Claims.LrunEnqueues ∧ Claims.LmaskSetsMask

/-- No register of the gang awaits the reply to an access of a lane (R47). -/
def Sys2Proof.Claims.NothingPending (s : State) (g : GangId) : Prop := ∀ names, s.pendingRegs g names = []

/-- R218 (with R178): on a control core LRUN and both forms of LMASK trap, and with the cause and INFO with which a lane instruction traps
there. -/
def Obligations.ControlCoreLaneStream : Prop :=
  ∀ (s : State) (g : Gang) (m : BitVec 8), g.id.isControl = true → Claims.NothingPending s g.id →
    (∀ (gd : Guard) (a : Src) (cm1 : BitVec 12) (mask : BitVec 4), ScalarAt s g m →
      ∀ i ∈ [Instr.lrun gd a cm1, .lmaskReg gd a, .lmaskImm gd mask],
        exec i s = .next (s.takeTrap g.id (TrapInfo.plain 0x05 1 0 (lowestSlice m) s.issue.words))) ∧
    ∀ (i : Instr) (op : Nat) (w : LaneWord), LaneAt s g m → i.lane? = some (op, w) → i.wf = true →
      ∃ t : TrapInfo, exec i s = .next (s.takeTrap g.id t) ∧ t.cause = 0x05 ∧ t.info = 1

/-- R193, R194, R206: SRD gives each slice its own value of the special register. -/
def Sys2Proof.Claims.SpecialReads : Prop :=
  ∀ (s : State) (g : Gang) (m : BitVec 8) (gd : Guard) (d : Dst) (r : Fin 27),
    ScalarAt s g m →
    Runs s g m (fun i sl => (specialRead s g gd d r.val i sl).advance s.issueSize) (exec (.srd gd d r) s) ∧
    ∀ i, s.special g i 0 = BitVec.ofNat 32 (4 * i) ∧ s.special g i 1 = BitVec.ofNat 32 i ∧
      s.special g i 2 = BitVec.ofNat 32 (match g.id with | .compute _ n => n | .control _ _ => 0) ∧
      s.special g i 0x0C = BitVec.ofNat 32 (s.pkgId % 512) ∧
      s.special g i 0x17 = g.dmask ∧ s.special g i 0x18 = g.crew ∧ s.special g i 0x19 = g.moncfg ∧
      s.special g i 0x10 = (s.timebase (s.gangDie g.id)).extractLsb' 0 32 ∧
      s.special g i 0x11 = (s.timebase (s.gangDie g.id)).extractLsb' 32 32

/-- R77, R194, R207: SWR. A refused write traps with cause 0x0B and the number before any change. Otherwise DMASK, CREW and MONCFG take the
value of the highest executing slice, and GSEED and GBASE change bytes of the gauge header alone: GSEED's even number 8 bytes from
offset 8, its odd number the upper 4 of them, GBASE 4 bytes from offset 0, with SAT kept unless the written bit 31 clears it. -/
def Sys2Proof.Claims.SpecialWrites : Prop :=
  ∀ (s : State) (g : Gang) (m : BitVec 8) (gd : Guard) (a : Src) (r : Fin 27),
    ScalarAt s g m →
    (∀ i, LowestFailing g m gd (swrRefused s g a r.val) i →
      exec (.swr gd a r) s = .next (s.takeTrap g.id (TrapInfo.plain 0x0B r.val 0 i s.issue.words))) ∧
    ((∀ i sl, ¬ Executes g m gd i sl) → Runs s g m (fun _ sl => sl.advance s.issueSize) (exec (.swr gd a r) s)) ∧
    ((∀ i sl, Executes g m gd i sl → ¬ swrRefused s g a r.val sl) → ∀ i sl, HighestExecuting g m gd i sl →
      ∃ t g', exec (.swr gd a r) s = .next t ∧ t.gang? g.id = some g' ∧ (∀ k, k ≠ g.id → t.gang? k = s.gang? k) ∧
        PartRuns { g with dmask := if r.val = 0x17 then sl.src a else g.dmask,
                          crew := if r.val = 0x18 then sl.src a else g.crew,
                          moncfg := if r.val = 0x19 then sl.src a else g.moncfg } g' m (fun _ x => x.advance s.issueSize) ∧
        (0x17 ≤ r.val → t = { s with gangs := t.gangs }) ∧
        ∀ gr b, s.gridOf g.id = some gr → s.blockOf g.id = some b →
          (r.val = 0x14 → t = lsWritten s t (b.gaugeBase gr.record + 8)
            (leBytes 4 (sl.src a).toNat ++ leBytes 4 (match a with | .reg n => sl.reg (n.val + 1) | .lit _ => 0).toNat)) ∧
          (r.val = 0x15 → t = lsWritten s t (b.gaugeBase gr.record + 12) (leBytes 4 (sl.src a).toNat)) ∧
          (r.val = 0x16 → gr.record.gaugeSz ≠ 0 → t = lsWritten s t (b.gaugeBase gr.record)
            (leBytes 4 ((BitVec.ofNat 32 (s.ls.readNat (b.gaugeBase gr.record) 4) &&& 0x80000000 &&& ~~~(sl.src a)) |||
              (sl.src a &&& 0xF)).toNat)))

/-- R77, R193, R194, R206, R207: both parts, each cited where it stands. -/
def Obligations.SpecialRegisters : Prop := Claims.SpecialReads ∧ Claims.SpecialWrites

/-- R220, R221: TRAP and BKPT stop their gang at the next instruction with causes 0x01 (INFO the code) and 0x02, naming the lowest
executing slice; a part with no executing slice goes on. -/
def Sys2Proof.Claims.TrapAndBreakpoint : Prop :=
  ∀ (s : State) (g : Gang) (m : BitVec 8) (gd : Guard) (code : BitVec 10),
    ScalarAt s g m →
    (∀ i sl, Executes g m gd i sl → (∀ j sl', j < i → ¬ Executes g m gd j sl') →
      ∃ t, Runs s g m (fun _ x => x.advance s.issueSize) (.next t) ∧
        exec (.trap gd code) s = .next (t.takeTrap g.id (TrapInfo.plain 0x01 code.toNat 0 i s.issue.words)) ∧
        exec (.bkpt gd) s = .next (t.takeTrap g.id (TrapInfo.plain 0x02 0 0 i s.issue.words))) ∧
    ((∀ i sl, ¬ Executes g m gd i sl) → ∀ ins ∈ [Instr.trap gd code, .bkpt gd],
      Runs s g m (fun _ x => x.advance s.issueSize) (exec ins s))

/-- R222: INVI passes once the lane queues of the executing slices are empty, and waits before. Of the words that cores hold for a section
that it names none serves the executing slices any longer, with .core none the core, with .die none the die, with .pkg none at all; words
of the other section stay. What cores hold is the model's own record of their caches (log 28). -/
def Sys2Proof.Claims.InviPasses : Prop :=
  ∀ (s : State) (g : Gang) (m : BitVec 8) (gd : Guard) (sc : InviScope) (sec : InviSection),
    ScalarAt s g m →
    ((∀ i sl, Executes g m gd i sl → sl.queue = [] ∧ sl.cur = none) →
      ∃ t, Runs s g m (fun _ sl => sl.advance s.issueSize) (.next { t with heldCode := s.heldCode }) ∧ exec (.invi gd sc sec) s = .next t ∧
        ((∀ i sl, ¬ Executes g m gd i sl) → t.heldCode = s.heldCode) ∧
        (∀ e ∈ s.heldCode, ¬ Discards sec e → e ∈ t.heldCode) ∧
        ∀ i sl, Executes g m gd i sl → ∀ e ∈ t.heldCode, Discards sec e →
          (∀ p pa, p.getLsbD i = true → e.serves (s.gangDie g.id) (s.requester g.id).agent g.id e.lane p pa = false) ∧
          (sc ≠ .slice → ¬ (e.die = s.gangDie g.id ∧ e.core = (s.requester g.id).agent)) ∧
          (sc = .die → e.die ≠ s.gangDie g.id) ∧ sc ≠ .pkg) ∧
    ((∃ i sl, Executes g m gd i sl ∧ ¬ (sl.queue = [] ∧ sl.cur = none)) →
      exec (.invi gd sc sec) s = .next (s.waitPart g m .laneQueue))

/-- R220, R221, R222: both parts, each cited where it stands. -/
def Obligations.SystemGroup : Prop := Claims.TrapAndBreakpoint ∧ Claims.InviPasses

/-! ## Taking a trap -/

/-- R393: the 64 bytes of a trap record, field by field. -/
def Sys2Proof.Claims.TrapRecordLayout : Prop :=
  ∀ (g : Gang) (t : TrapInfo),
    t.cause < 256 → t.src < 16 → t.slice < 8 → t.info < 2 ^ 16 →
    (trapRecord g t).length = 64 ∧
    ofLeBytes ((trapRecord g t).take 1) = t.cause ∧
    ofLeBytes (((trapRecord g t).drop 1).take 1) = t.src + 16 * t.slice + (if t.addr.isSome then 128 else 0) ∧
    ofLeBytes (((trapRecord g t).drop 2).take 2) = t.info ∧
    ofLeBytes (((trapRecord g t).drop 4).take 4) = t.lanes.toNat ∧
    (∀ sp a, t.addr = some (sp, a) → sp < 8 → a < 2 ^ 56 → ofLeBytes (((trapRecord g t).drop 8).take 8) = a + sp * 2 ^ 56) ∧
    (t.laneIdx < 2 ^ 24 → ofLeBytes (((trapRecord g t).drop 16).take 4) = t.laneIdx) ∧
    (∀ k w, k < 3 → t.words[k]? = some w → ofLeBytes (((trapRecord g t).drop (20 + 4 * k)).take 4) = w.toNat) ∧
    ∀ i, i < 8 → ofLeBytes (((trapRecord g t).drop (32 + 4 * i)).take 4) =
      match g.slice? i with
      | none => 3
      | some sl => sl.pc.toNat % 2 ^ 32 / 4 * 4 + (if sl.exited then 2 else if sl.pending ≠ 0 then 1 else 0)

/-- R391, R393 to R396: a gang of a running block of a grid without redundancy takes a trap of disposition H with nothing that it has
issued incomplete. It stops; with TRAPWIN enabled and the stamp disabled its record and its slot header are written in the die's trap window and no other
byte of memory changes; its block begins to halt; other gangs and blocks are as they were. -/
def Sys2Proof.Claims.TrapHaltsGang : Prop :=
  ∀ (s : State) (g : Gang) (b : BlockId) (n : Nat) (x : Block) (gr : Grid) (t : TrapInfo),
    g.id = .compute b n → s.gang? g.id = some g → s.block? b = some x → x.state = .running → s.grid? b.handle = some gr →
    g.trapping = none → s.issuing g.id = false → gr.record.redun = false → (t.cause = 0x01 ∨ t.cause = 0x02 ∨ t.cause = 0x10 ∨ t.cause = 0x1F) →
    s.mem.wf = true → n < 32 → x.core < 16 → x.slot < 8 →
    let win := s.devGet x.die 0x6000
    let base := win.toNat / 2 ^ 16 % 2 ^ 36 * 2 ^ 16
    let record := base + 0x10000 + 64 * (256 * x.core + 32 * x.slot + n)
    let header := base + 64 * (8 * x.core + x.slot)
    win.getLsbD 0 = true → (s.devGet g.id.stampCore.1 (0x6008 + 8 * g.id.stampCore.2)).getLsbD 0 = false →
    ∃ t', s.takeTrap g.id t = t' ∧
      (∃ g', t'.gang? g.id = some g' ∧ g' = { g with halted := true } ∧ t'.mem.read record 64 = trapRecord g' t) ∧
      (∀ k, k ≠ g.id → t'.gang? k = s.gang? k) ∧
      t'.block? b = some { x with state := .halting } ∧ (∀ k, k ≠ b → t'.block? k = s.block? k) ∧
      t'.mem.readNat header 4 = b.handle.toNat ∧ t'.mem.readNat (header + 4) 4 = b.index % 2 ^ 32 ∧
      t'.mem.readNat (header + 8) 4 = s.mem.readNat (header + 8) 4 ||| 2 ^ n ∧
      (∀ a, ¬ (record ≤ a ∧ a < record + 64) → ¬ (header ≤ a ∧ a < header + 64) → t'.mem.get a = s.mem.get a) ∧
      t'.ls = s.ls ∧ t'.wgt = s.wgt ∧ t'.ops = s.ops ∧ t'.grids = s.grids ∧ t'.outputs = s.outputs

/-- R391: a gang that traps while an instruction that it has issued is incomplete stops at once, and its block begins to halt, but nothing
is written; once all that it has issued is complete, and no other gang waits so, the trap is taken as it is otherwise. -/
def Sys2Proof.Claims.TrapWaits : Prop :=
  (∀ (s : State) (g : Gang) (t : TrapInfo),
    s.gang? g.id = some g → g.trapping = none → s.issuing g.id = true → disposition t.cause ≠ .kill →
    (s.takeTrap g.id t).gang? g.id = some { g with trapping := some t } ∧ (s.takeTrap g.id t).mem = s.mem ∧
    (s.takeTrap g.id t).dev = s.dev ∧ (s.takeTrap g.id t).outputs = s.outputs ∧
    (∀ k, k ≠ g.id → (s.takeTrap g.id t).gang? k = s.gang? k) ∧
    ∀ b n x, g.id = .compute b n → s.block? b = some x → x.state = .running →
      (s.takeTrap g.id t).block? b = some { x with state := .halting }) ∧
  ∀ (s : State) (g : Gang) (t : TrapInfo),
    s.gang? g.id = some g → g.trapping = some t → s.issuing g.id = false → (s.gangs.map (·.id)).Nodup →
    (∀ k ∈ s.gangs, k.id ≠ g.id → k.trapping = none) →
    s.finishTraps = s.trapCore g.id t ∧ ∃ g', (s.trapCore g.id t).gang? g.id = some g' ∧ g' = { g with halted := true, trapping := none }

/-- R391, R393, R394, R395, R396: the three parts, each cited where it stands. -/
def Obligations.TrapHalts : Prop := Claims.TrapRecordLayout ∧ Claims.TrapHaltsGang ∧ Claims.TrapWaits

/-- R389, R228: a trap of disposition K, taken with nothing issued incomplete, also kills the block's cohort, every live block of it being marked, and nothing of another
cohort. -/
def Sys2Proof.Claims.TrapKillsCohort : Prop :=
  ∀ (s : State) (g : Gang) (b : BlockId) (n : Nat) (gr : Grid) (t : TrapInfo),
    g.id = .compute b n → s.gang? g.id = some g → g.trapping = none → s.issuing g.id = false →
    s.grid? b.handle = some gr → gr.record.redun = false → gr.record.spanSize = 0 →
    s.latchPeers g.id = [] → disposition t.cause = .kill →
    ∀ (k : BlockId) (y : Block), s.block? k = some y → k.handle = b.handle → k.shadow = b.shadow →
      ∃ y', (s.takeTrap g.id t).block? k = some y' ∧
        (k.index / gr.record.cohort = b.index / gr.record.cohort → y.state ≠ .exited → y.state ≠ .killed → y'.killing = true) ∧
        (k.index / gr.record.cohort ≠ b.index / gr.record.cohort → y' = y)

/-- R399: a supervisor gang that traps halts alone, whatever the cause: its control core no longer runs, and no block or grid changes. -/
def Sys2Proof.Claims.SupervisorTrap : Prop :=
  ∀ (s : State) (g : Gang) (d i : Nat) (c : ControlCore) (t : TrapInfo),
    g.id = .control d i → s.gang? g.id = some g → s.control? d i = some c → g.trapping = none → s.issuing g.id = false →
    ∃ g', (s.takeTrap g.id t).gang? g.id = some g' ∧ g'.halted = true ∧
      (s.takeTrap g.id t).control? d i = some { c with running := false } ∧
      (s.takeTrap g.id t).blocks = s.blocks ∧ (s.takeTrap g.id t).grids = s.grids ∧ (s.takeTrap g.id t).ops = s.ops ∧
      ∀ k, k ≠ g.id → (s.takeTrap g.id t).gang? k = s.gang? k

/-- R228, R389, R399: both parts, each cited where it stands. -/
def Obligations.TrapConsequences : Prop := Claims.TrapKillsCohort ∧ Claims.SupervisorTrap

/-! ## Barriers -/

namespace Sys2Proof.Claims

/-- `i` is the leader slice, the lowest executing slice of the part (R283). -/
def Leader (g : Gang) (m : BitVec 8) (gd : Guard) (i : Nat) (sl : Slice) : Prop :=
  Executes g m gd i sl ∧ ∀ j sl', j < i → ¬ Executes g m gd j sl'
/-- Memories, blocks, grids, engine operations, arrivals in flight, boot unit, control cores and outputs are as they were. -/
def Quiet (s t : State) : Prop :=
  t.mem = s.mem ∧ t.ls = s.ls ∧ t.wgt = s.wgt ∧ t.blocks = s.blocks ∧ t.grids = s.grids ∧ t.ops = s.ops ∧ t.arrivals = s.arrivals ∧
  t.boot = s.boot ∧ t.controls = s.controls ∧ t.outputs = s.outputs ∧ t.pkgId = s.pkgId ∧ t.dies = s.dies
/-- The other gangs are as they were. -/
def OthersSame (s t : State) (k : GangId) : Prop := ∀ j, j ≠ k → t.gang? j = s.gang? j

/-- A gang-wide instruction of the part is to execute: the gang is one part, and the guard holds in every slice of it (R34, R283). -/
def WholeGang (g : Gang) (m : BitVec 8) (gd : Guard) : Prop :=
  g.parts.length ≤ 1 ∧ (∃ i sl, Executes g m gd i sl) ∧
  ∀ i, i < 8 → m.getLsbD i = true → ∃ sl, g.slice? i = some sl ∧ guardTrue gd sl = true
/-- Barrier number, phase operand, scope and fixed count (0 for ALL) of a barrier instruction of gang `g` (R284 to R286). -/
def barrierForm (s : State) (g : Gang) : Instr → Option (Guard × Phase × BitVec 4 × Nat × Nat)
  | .bar gd p none b => some (gd, p, b, 1, 0)
  | .bar gd p (some a) b => (g.operandSlice).bind fun q =>
      if 1 ≤ (q.2.src a).toNat ∧ ∃ gr, s.gridOf g.id = some gr ∧ (q.2.src a).toNat ≤ gr.record.gangs
      then some (gd, p, b, 1, (q.2.src a).toNat) else none
  | .barc gd p b => some (gd, p, b, 2, 0)
  | .bars gd p b => if ∃ gr, s.gridOf g.id = some gr ∧ gr.record.spanSize ≠ 0 then some (gd, p, b, 5, 0) else none
  | _ => none
/-- An arrival of the gang at barrier `b` of block `x` can be made now (R285). -/
def CanArrive (s : State) (g : Gang) (x : Block) (b : BitVec 4) (scope fixed : Nat) : Prop :=
  s.blockOf g.id = some x ∧ x.barriers.length = 16 ∧ g.arrived.getLsbD b.toNat = false ∧
  (∀ sl ∈ g.slices, sl.queue = [] ∧ sl.cur = none ∧ sl.wait = none) ∧ g.slices.length ≤ 8 ∧ g.exited = false ∧ g.qbuf = [] ∧
  s.outstanding = [] ∧ (∀ a ∈ s.arrivals, a.src ≠ some g.id) ∧ s.determ g.id = false ∧
  (x.barrier b.toNat = { Barrier.empty with phase := (x.barrier b.toNat).phase } ∨
    0 < (x.barrier b.toNat).arrivals ∧ (x.barrier b.toNat).fixed = fixed ∧ (x.barrier b.toNat).scope = scope)
/-- The gang once its arrival at barrier `b` is counted. -/
def arrivedGang (g : Gang) (x : Block) (b : BitVec 4) : Gang :=
  { g with arrived := g.arrived ||| (1#16 <<< b.toNat),
           arrPhase := if (x.barrier b.toNat).phase then g.arrPhase ||| (1#16 <<< b.toNat) else g.arrPhase &&& ~~~(1#16 <<< b.toNat) }
/-- A gang of the scope that has neither arrived in the phase nor exited, other than `g`. -/
def StillMissing (s : State) (g : Gang) (x : Block) (b : BitVec 4) (scope : Nat) : Prop :=
  ∃ y ∈ s.barrierBlocks x scope, ∃ k ∈ s.blockGangs y.id, k.id ≠ g.id ∧ k.exited = false ∧
    ¬ (k.arrived.getLsbD b.toNat = true ∧ k.arrPhase.getLsbD b.toNat = (y.barrier b.toNat).phase ∧
      ((y.barrier b.toNat).scope = scope ∨ y.id = x.id))

end Sys2Proof.Claims

/-- R285: an arrival that does not complete its phase is counted with its fixed count and scope; .NEAR goes on, .BOTH waits. -/
def Sys2Proof.Claims.BarrierArrivals : Prop :=
  ∀ (s : State) (g : Gang) (m : BitVec 8) (i : Instr) (gd : Guard) (p : Phase) (b : BitVec 4) (scope fixed : Nat) (x : Block),
    ScalarAt s g m → barrierForm s g i = some (gd, p, b, scope, fixed) → p ≠ .far → WholeGang g m gd → CanArrive s g x b scope fixed →
    (if fixed = 0 then StillMissing s g x b scope else (x.barrier b.toNat).arrivals + 1 < fixed) →
    ∃ t g', exec i s = .next t ∧ t.gang? g.id = some g' ∧ OthersSame s t g.id ∧
      PartRuns (arrivedGang g x b) g' m
        (fun _ sl => if p = .near then sl.advance s.issueSize else { sl with wait := some (.barrier b.toNat s.issueSize) }) ∧
      t.block? x.id = some (x.setBarrier b.toNat
        ⟨(x.barrier b.toNat).phase, (x.barrier b.toNat).arrivals + 1, fixed, scope⟩) ∧
      (∀ k, k ≠ x.id → t.block? k = s.block? k) ∧ t.mem = s.mem ∧ t.ls = s.ls ∧ t.outputs = s.outputs

/-- R286: the last arrival of a phase of BAR or BARC, with no entries to flush, flips the phase in every block of the scope, clears
the count and wakes every waiting part; .NEAR leaves the arriving gang arrived, .BOTH departs at once. -/
def Obligations.BarrierCompletion : Prop :=
  ∀ (s : State) (g : Gang) (m : BitVec 8) (i : Instr) (gd : Guard) (p : Phase) (b : BitVec 4) (scope fixed : Nat) (x : Block),
    ScalarAt s g m → barrierForm s g i = some (gd, p, b, scope, fixed) → scope ≠ 5 → p ≠ .far → WholeGang g m gd →
    CanArrive s g x b scope fixed → ((s.barrierBlocks x scope).map (·.id)).Nodup →
    (∀ y ∈ s.barrierBlocks x scope, s.block? y.id = some y ∧ y.barriers.length = 16) → x ∈ s.barrierBlocks x scope →
    (∀ k ∈ s.gangs, k.abuf = [] ∧ s.gang? k.id = some k) →
    (if fixed = 0 then
      ∀ y ∈ s.barrierBlocks x scope, ∀ k ∈ s.blockGangs y.id, k.id ≠ g.id → k.exited = true ∨
        k.arrived.getLsbD b.toNat = true ∧ k.arrPhase.getLsbD b.toNat = (y.barrier b.toNat).phase ∧
          ((y.barrier b.toNat).scope = scope ∨ y.id = x.id)
     else fixed = (x.barrier b.toNat).arrivals + 1) →
    ∃ t g', exec i s = .next t ∧ t.gang? g.id = some g' ∧
      PartRuns { arrivedGang g x b with
          arrived := if p = .near then g.arrived ||| (1#16 <<< b.toNat) else g.arrived, acq := g'.acq } g' m
        (fun _ sl => sl.advance s.issueSize) ∧
      (∀ y ∈ s.barrierBlocks x scope, t.block? y.id = some (y.setBarrier b.toNat ⟨!(y.barrier b.toNat).phase, 0, 0, 7⟩)) ∧
      (∀ k, k ∉ (s.barrierBlocks x scope).map (·.id) → t.block? k = s.block? k) ∧
      (∀ k ∈ s.gangs, k.id ≠ g.id → ∃ k', t.gang? k.id = some k' ∧
        ∀ j sl, k.slice? j = some sl → ∃ sl', k'.slice? j = some sl' ∧ sl' = { sl with wait := sl'.wait } ∧
          (∀ c n, sl.wait = some (.barrier c n) → (c = b.toNat ∧ k.id.block? ∈ (s.barrierBlocks x scope).map (fun y => some y.id) →
              j < 8 → sl'.wait = some (.barrierDone c n)) ∧
            (c ≠ b.toNat → sl'.wait = sl.wait)) ∧
          ((∀ c n, sl.wait ≠ some (.barrier c n)) → sl'.wait = sl.wait)) ∧
      t.mem = s.mem ∧ t.ls = s.ls ∧ t.outputs = s.outputs

/-- R285: .FAR waits while the phase of its arrival lasts and departs once it has ended; without an arrival, and .NEAR or .BOTH of a gang
already arrived, are barrier mismatches (cause 0x30, INFO 2 and 1). -/
def Sys2Proof.Claims.BarrierDepartures : Prop :=
  ∀ (s : State) (g : Gang) (m : BitVec 8) (i : Instr) (gd : Guard) (p : Phase) (b : BitVec 4) (scope fixed : Nat),
    ScalarAt s g m → barrierForm s g i = some (gd, p, b, scope, fixed) → WholeGang g m gd →
    (p = .far → g.arrived.getLsbD b.toNat = false →
      exec i s = .next (s.takeTrap g.id (TrapInfo.plain 0x30 2 0 (lowestSlice m) s.issue.words))) ∧
    (p ≠ .far → g.arrived.getLsbD b.toNat = true →
      exec i s = .next (s.takeTrap g.id (TrapInfo.plain 0x30 1 0 (lowestSlice m) s.issue.words))) ∧
    ∀ x, s.blockOf g.id = some x → p = .far → g.arrived.getLsbD b.toNat = true → g.qbuf = [] →
      ((x.barrier b.toNat).phase = g.arrPhase.getLsbD b.toNat →
        exec i s = .next (s.waitPart g m (.barrier b.toNat s.issueSize))) ∧
      ((x.barrier b.toNat).phase ≠ g.arrPhase.getLsbD b.toNat →
        ∃ t g', exec i s = .next t ∧ t.gang? g.id = some g' ∧ OthersSame s t g.id ∧ Quiet s t ∧
          PartRuns { g with arrived := g.arrived &&& ~~~(1#16 <<< b.toNat), acq := g'.acq } g' m (fun _ sl => sl.advance s.issueSize))

/-- R285: both parts, each cited where it stands. -/
def Obligations.BarrierWaits : Prop := Claims.BarrierArrivals ∧ Claims.BarrierDepartures

/-! ## Sync words, stamps, counters, fences -/

namespace Sys2Proof.Claims

/-- A slice that waits. -/
def waiting (w : Wait) (sl : Slice) : Slice := { sl with wait := some w }
/-- The gang's accesses are plain: no poison, no race detector. -/
def Plain (s : State) (g : GangId) : Prop := s.poison = [] ∧ ∀ gr, s.gridOf g = some gr → gr.record.race = false ∧ gr.image = none
/-- What a WAIT or MWAIT reads and waits for: the address, whether it is a stamp, the value. -/
def waitForm : Instr → Option (Guard × SyncAddr × Bool × (Slice → Nat))
  | .wait gd _ a gen => some (gd, a, false, fun sl => (sl.src gen).toNat)
  | .mwait gd _ a (.pair p) => some (gd, a, true, fun sl => (sl.reg (2 * p.val)).toNat + 2 ^ 32 * (sl.reg (2 * p.val + 1)).toNat)
  | .mwait gd _ a (.lit w) => some (gd, a, true, fun _ => w.toNat)
  | _ => none
/-- R79, R80, R411: the word is satisfied: its generation, or the stamp, is not behind the value in modular order; a sync word whose
target is 0 never satisfies a WAIT. -/
def Satisfied (stamp : Bool) (v : Nat) (bs : List Byte) : Prop :=
  if stamp then (ofLeBytes (bs.take 8) + 2 ^ 64 - v) % 2 ^ 64 < 2 ^ 63
  else ofLeBytes (bs.take 4) ≠ 0 ∧ (ofLeBytes ((bs.drop 8).take 4) + 2 ^ 32 - v) % 2 ^ 32 < 2 ^ 31
/-- The part passes its instruction; of its gang only slices, parts, and what `h` changes are different. -/
def PassesWith (s : State) (g : Gang) (m : BitVec 8) (h : Gang → Gang) (o : Outcome) : Prop :=
  ∃ t g', o = .next t ∧ t.gang? g.id = some g' ∧ OthersSame s t g.id ∧ Quiet s t ∧
    PartRuns { h g with acq := g'.acq } g' m (fun _ sl => sl.advance s.issueSize)

end Sys2Proof.Claims

/-- R288: ARRIVE with a count other than 0 on a word of this package, outside deterministic operation, goes on with one arrival of that
count in flight; the word changes when the arrival reaches it. A count of 0 arrives at nothing. A word that cannot be reached traps. -/
def Obligations.ArriveSends : Prop :=
  ∀ (s : State) (g : Gang) (m : BitVec 8) (gd : Guard) (sc : Scope) (rel : Bool) (a : SyncAddr) (n : Src) (i : Nat) (sl : Slice) (s1 : State),
    ScalarAt s g m → Leader g m gd i sl → s.determ g.id = false →
    (∀ p, s.locate g.id (.word true) a.space (sl.syncAddr a) 16 = (s1, .ok p) → p.isRemote = false →
      (sl.src n ≠ 0 → ∃ t g' r, exec (.arrive gd sc rel a n) s = .next t ∧ t.gang? g.id = some g' ∧ OthersSame s t g.id ∧
        PartRuns g g' m (fun _ x => x.advance s.issueSize) ∧ t.arrivals = s.arrivals ++ [r] ∧
        r.place = some p ∧ r.space = a.space ∧ r.addr = sl.syncAddr a ∧ r.n = (sl.src n).toNat ∧ r.src = some g.id ∧
        t.mem = s.mem ∧ t.ls = s.ls ∧ t.blocks = s.blocks) ∧
      (sl.src n = 0 → PassesWith s g m id (exec (.arrive gd sc rel a n) s))) ∧
    ∀ f, s.locate g.id (.word true) a.space (sl.syncAddr a) 16 = (s1, .fault f) →
      exec (.arrive gd sc rel a n) s =
        .next (s1.takeTrap g.id ⟨f.cause, 0, i, f.info, 0, some (f.space, sl.syncAddr a), 0, s.issue.words⟩)

/-- R79: what an arrival of `n` does to a sync word's 16 bytes, target at 0, count at 4, generation at 8: below the target the count
rises; at the target the count clears and the generation rises; beyond it, or with a target of 0, the word is left and overrun reported. -/
def Obligations.SyncWordArrivals : Prop :=
  ∀ (bs : List Byte) (n : Nat), bs.length = 16 → 0 < n →
    let target := ofLeBytes (bs.take 4)
    let count := ofLeBytes ((bs.drop 4).take 4)
    let gen := ofLeBytes ((bs.drop 8).take 4)
    (count + n < target → arriveWord bs n = some (bs.take 4 ++ leBytes 4 (count + n) ++ bs.drop 8)) ∧
    (count + n = target → arriveWord bs n = some (bs.take 4 ++ leBytes 4 0 ++ leBytes 4 ((gen + 1) % 2 ^ 32) ++ bs.drop 12)) ∧
    (target = 0 ∨ target < count + n → arriveWord bs n = none)

/-- R79, R80, R289, R339, R411: WAIT and MWAIT on a word of this package pass when it is satisfied, and otherwise the part waits on that
word and changes nothing in memory; while an earlier arrival of the gang's own, or another access of its scalar stream, is on its way to
the word, the part waits for that. -/
def Sys2Proof.Claims.WordWaits : Prop :=
  ∀ (s : State) (g : Gang) (m : BitVec 8) (i : Instr) (gd : Guard) (a : SyncAddr) (stamp : Bool) (v : Slice → Nat) (k : Nat) (sl : Slice)
    (s1 : State) (p : Place),
    ScalarAt s g m → waitForm i = some (gd, a, stamp, v) → Leader g m gd k sl → Plain s g.id →
    s.locate g.id (.word false) a.space (sl.syncAddr a) (if stamp then 8 else 16) = (s1, .ok p) → p.isRemote = false →
    g.partWait m ≠ some .held →
    (s1.arrivalAt g.id p (if stamp then 8 else 16) = true ∨ s1.flightMeets g.id false p (if stamp then 8 else 16) = true →
      exec i s = .next (s1.waitPart g m .outstanding)) ∧
    (s1.arrivalAt g.id p (if stamp then 8 else 16) = false → s1.flightMeets g.id false p (if stamp then 8 else 16) = false →
    (Satisfied stamp (v sl) (s.readPlace p (if stamp then 8 else 16)) → (∀ die off, p ≠ .reg die off) → PassesWith s g m id (exec i s)) ∧
    (¬ Satisfied stamp (v sl) (s.readPlace p (if stamp then 8 else 16)) → (∀ die off, p ≠ .reg die off) →
      ∃ t g', exec i s = .next t ∧ t.gang? g.id = some g' ∧ OthersSame s t g.id ∧ Quiet s t ∧
        PartRuns g g' m (fun _ x => waiting (if stamp then .stamp a.space (sl.syncAddr a) (BitVec.ofNat 64 (v sl))
          else .sync a.space (sl.syncAddr a) (BitVec.ofNat 32 (v sl))) x)))

/-- R362: a WAIT, MWAIT, WAITC or TAKE whose condition held as a round of its deterministic grid started passes, whatever holds since. -/
def Sys2Proof.Claims.HeldWaits : Prop :=
  ∀ (s : State) (g : Gang) (m : BitVec 8) (gd : Guard) (k : Nat) (sl : Slice),
    ScalarAt s g m → Leader g m gd k sl → g.partWait m = some .held →
    let passes (o : Outcome) : Prop := ∃ t g', o = .next t ∧ t.gang? g.id = some g' ∧ OthersSame s t g.id ∧ Quiet s t ∧
      PartRuns { g with acq := g'.acq } g' m (fun _ x => ({ x with wait := none } : Slice).advance s.issueSize)
    (∀ i a stamp v, waitForm i = some (gd, a, stamp, v) → passes (exec i s)) ∧
    (∀ l st c t, passes (exec (.waitc gd l st c t) s)) ∧
    ∀ a, (sl.src a).toNat < 256 → passes (exec (.take gd a) s)

/-- R79, R80, R289, R339, R362, R411: both parts, each cited where it stands. -/
def Obligations.WaitsOnWords : Prop := Claims.WordWaits ∧ Claims.HeldWaits

/-- R81, R190, R290, R291: WAITC passes when each of the counters l, s, c and t is at or below its operand, and waits otherwise; with a limit
of 0 for l or s it also waits for the part's lane queues, the model's reading of R347 and R349 (log 55). SEAL closes the open batch under the
gang's batch number, raising that number and counter c, and waits while 15 sealed batches are held, those that are complete and held back by
an older one included, which is the model's reading too (log 39). -/
def Obligations.CountersAndBatches : Prop :=
  ∀ (s : State) (g : Gang) (m : BitVec 8) (gd : Guard) (l sc c t : BitVec 4),
    ScalarAt s g m → (∃ i sl, Executes g m gd i sl) → g.partWait m ≠ some .held →
    let idle : Prop := ∀ i sl, i < 8 → m.getLsbD i = true → g.slice? i = some sl → sl.queue = [] ∧ sl.cur = none
    ((l ≠ 0 ∧ sc ≠ 0 ∨ idle) → g.l ≤ l.toNat ∧ g.s ≤ sc.toNat ∧ g.c ≤ c.toNat ∧ g.t ≤ t.toNat →
      Runs s g m (fun _ sl => sl.advance s.issueSize) (exec (.waitc gd l sc c t) s)) ∧
    (¬ (g.l ≤ l.toNat ∧ g.s ≤ sc.toNat ∧ g.c ≤ c.toNat ∧ g.t ≤ t.toNat) ∨ ((l = 0 ∨ sc = 0) ∧ ¬ idle) →
      exec (.waitc gd l sc c t) s = .next (s.waitPart g m (.counters l.toNat sc.toNat c.toNat t.toNat))) ∧
    (g.sealed.length < 15 → ∃ u g', exec (.seal gd) s = .next u ∧ OnlyGang s u g' ∧
      PartRuns { g with sealed := g.sealed ++ [⟨g.batch, g.openOps⟩], openOps := [], c := g.c + 1, batch := g.batch + 1 } g' m
        (fun _ sl => sl.advance s.issueSize)) ∧
    (15 ≤ g.sealed.length → exec (.seal gd) s = .next (s.waitPart g m .batches))

/-- R279, R292, R293: FENCE and FENCEM of a part whose lane queues are empty, whose requests are all answered, whose gang has no load and no
arrival on its way and holds no atomic-buffer entry. A request or an arrival of the gang's own still in flight holds back a release, a load any
fence, and a lane queue that is not empty any fence. FENCEM of a mask with bits of dies that do not exist traps with cause 0x09, INFO 3;
its mask is read in the leader slice, which is the model's choice (log 67). -/
def Sys2Proof.Claims.FencesPass : Prop :=
  ∀ (s : State) (g : Gang) (m : BitVec 8) (gd : Guard) (sc : Scope) (o : FenceOrder) (a : Src) (i : Nat) (sl : Slice),
    ScalarAt s g m → Leader g m gd i sl → g.abuf = [] →
    let idle : Prop := ∀ j x, j < 8 → m.getLsbD j → g.slice? j = some x → x.queue = [] ∧ x.cur = none
    let loads : Prop := ∃ r ∈ s.remote, r.gang = g.id ∧ r.clsL = true
    let both (p : Outcome → Prop) : Prop := p (exec (.fence gd sc o) s) ∧ ((sl.src a).toNat < 2 ^ 13 → p (exec (.fencem gd o a) s))
    (idle → s.outstanding = [] → (∀ a ∈ s.arrivals, a.src ≠ some g.id) → ¬ loads → both (PassesWith s g m id)) ∧
    (¬ idle → both (· = .next (s.waitPart g m .laneQueue))) ∧
    (idle → loads ∨ (o = .rel ∨ o = .ar) ∧ s.gangOutstanding g.id = true → both (· = .next (s.waitPart g m .outstanding))) ∧
    (2 ^ 13 ≤ (sl.src a).toNat → exec (.fencem gd o a) s = .next (s.takeTrap g.id (TrapInfo.plain 0x09 3 0 i s.issue.words)))

/-- R294, R361: DRAIN of a whole gang begins its sweeps, and DRAIN_SWEEP_COMPLETE ends it once two sweeps have found equal sums of sent
and performed requests, with nothing sent between them; other sums make the next sweep. -/
def Sys2Proof.Claims.DrainSweeps : Prop :=
  ∀ (s : State) (g : Gang) (m : BitVec 8) (gd : Guard) (sc : DrainScope),
    sc ≠ .span →
    (ScalarAt s g m → WholeGang g m gd → s.determ g.id = false → g.abuf = [] → s.outstanding = [] →
      exec (.drain gd sc) s = .next (s.waitPart g m (.drain sc none))) ∧
    ∀ prev, s.gang? g.id = some g → g.partWait g.full = some (.drain sc prev) → s.canWake g = true →
      ∃ t g', exec (.drainSweepComplete g.id 0 0) s = .next t ∧ OnlyGang s t g' ∧
        g' = { g with slices := g'.slices } ∧
        ∀ j x, g.full.getLsbD j → g.slice? j = some x → g'.slice? j = some (waiting
          (if (s.drainSums g.id sc).1 = (s.drainSums g.id sc).2 ∧ prev = some (s.drainSums g.id sc) then .drainDone
           else .drain sc (some (s.drainSums g.id sc))) x)

/-- R279, R292, R293, R294, R361: both parts, each cited where it stands. -/
def Obligations.FencesAndDrains : Prop := Claims.FencesPass ∧ Claims.DrainSweeps

/-- R62, R295, R296, R430: GIVE makes, passes on and retires a handle of the cohort; TAKE passes once its handle is held by the block and
waits before. -/
def Sys2Proof.Claims.HandlesGiveAndTake : Prop :=
  ∀ (s : State) (g : Gang) (m : BitVec 8) (gd : Guard) (d : Fin 31) (a b : Src) (i : Nat) (sl : Slice) (bid : BlockId) (co : Cohort) (gr : Grid),
    ScalarAt s g m → Leader g m gd i sl → g.id.block? = some bid → s.cohort? bid = some co → s.gridOf g.id = some gr →
    (∀ t, giveTable gr.record co.table (s.rank bid) (sl.reg d.val) (sl.src a).toNat (sl.src b).toNat = .ok t →
      (∀ j x, m.getLsbD j → g.slice? j = some x → x.queue = [] ∧ x.cur = none) → s.gangOutstanding g.id = false → s.determ g.id = false →
      ∃ u g' co', exec (.give gd d a b) s = .next u ∧ t = co'.table ∧ u.cohort? bid = some co' ∧
        co' = { co with table := t, interval := co'.interval } ∧
        u.gang? g.id = some g' ∧ OthersSame s u g.id ∧ Quiet s u ∧ PartRuns g g' m (fun _ x => x.advance s.issueSize)) ∧
    (∀ e, giveTable gr.record co.table (s.rank bid) (sl.reg d.val) (sl.src a).toNat (sl.src b).toNat = .error e →
      (∀ j x, m.getLsbD j → g.slice? j = some x → x.queue = [] ∧ x.cur = none) → s.gangOutstanding g.id = false → s.determ g.id = false →
      exec (.give gd d a b) s = .next (s.takeTrap g.id (TrapInfo.plain 0x34 e 0 i s.issue.words))) ∧
    ((sl.src a).toNat < 256 →
      g.partWait m ≠ some .held →
      ((∃ e, lookupAt (sl.src a).toNat co.table = some e ∧ e.holder = s.rank bid) → PassesWith s g m id (exec (.take gd a) s)) ∧
      ((∀ e, lookupAt (sl.src a).toNat co.table = some e → e.holder ≠ s.rank bid) →
        exec (.take gd a) s = .next (s.waitPart g m (.take (sl.src a).toNat))))

/-- R62, R430: the table change of a GIVE word: handle in [7:0], rank in [12:8], retire in [31]. -/
def Sys2Proof.Claims.HandleTable : Prop :=
  ∀ (r : LaunchRec) (t : List (Nat × HandleEntry)) (me h rank off len : Nat),
    h < 256 → rank < 32 → rank < r.cohort →
    (lookupAt h t = none → off % 64 = 0 → len % 64 = 0 → 64 ≤ len → len ≤ 2 ^ 23 → off + len ≤ r.lsSz * 4096 →
      (∀ p ∈ t, p.2.owner = me → p.2.off + p.2.len ≤ off ∨ off + len ≤ p.2.off) →
      (r.expLen = 0 ∨ r.expOff + r.expLen ≤ off ∨ off + len ≤ r.expOff) →
      ∃ t', giveTable r t me (BitVec.ofNat 32 (h + 256 * rank)) off len = .ok t' ∧
        ∀ k, lookupAt k t' = if k = h then some ⟨me, rank, off, len⟩ else lookupAt k t) ∧
    (∀ e, lookupAt h t = some e → e.holder = me →
      ∃ t', giveTable r t me (BitVec.ofNat 32 (h + 256 * rank)) off len = .ok t' ∧
        ∀ k, lookupAt k t' = if k = h then some { e with holder := rank } else lookupAt k t) ∧
    (∀ e, lookupAt h t = some e → e.holder = me → e.owner = me →
      ∃ t', giveTable r t me (BitVec.ofNat 32 (h + 256 * rank + 2 ^ 31)) off len = .ok t' ∧
        ∀ k, lookupAt k t' = if k = h then none else lookupAt k t) ∧
    (∀ e, lookupAt h t = some e → e.holder ≠ me → giveTable r t me (BitVec.ofNat 32 (h + 256 * rank)) off len = .error 5)

/-- R62, R295, R296, R430: both parts, each cited where it stands. -/
def Obligations.Handles : Prop := Claims.HandlesGiveAndTake ∧ Claims.HandleTable

namespace Sys2Proof.Claims

/-- R430: INFO `k` is a reason to refuse a GIVE of word `w`, offset and length by the block of rank `me`, in a cohort with table `t`. -/
def giveReason (r : LaunchRec) (t : List (Nat × HandleEntry)) (me : Nat) (w : Word) (off len : Nat) (k : Nat) : Prop :=
  let h := (w.extractLsb' 0 8).toNat
  let registers := lookupAt h t = none ∧ w.getLsbD 31 = false
  (k = 1 ∧ r.cohort ≤ (w.extractLsb' 8 5).toNat) ∨
  (k = 2 ∧ w.getLsbD 31 = true ∧ lookupAt h t = none) ∨
  (k = 3 ∧ registers ∧ (off % 64 ≠ 0 ∨ len % 64 ≠ 0 ∨ len < 64 ∨ 2 ^ 23 < len ∨ r.lsSz * 4096 < off + len)) ∨
  (k = 4 ∧ registers ∧ ((∃ p ∈ t, p.2.owner = me ∧ off < p.2.off + p.2.len ∧ p.2.off < off + len) ∨
    (r.expLen ≠ 0 ∧ off < r.expOff + r.expLen ∧ r.expOff < off + len))) ∨
  (k = 5 ∧ ∃ e, lookupAt h t = some e ∧ e.holder ≠ me) ∨
  (k = 6 ∧ w.getLsbD 31 = true ∧ ∃ e, lookupAt h t = some e ∧ e.owner ≠ me) ∨
  (k = 9 ∧ w.extractLsb' 13 18 ≠ 0)

end Sys2Proof.Claims

/-- R430: a GIVE for which a reason of the table holds traps with cause 0x34 and the INFO of one that holds, at issue or, in deterministic
operation, in its gang's commit slot; a GIVE for which none holds does not. DETACH outside a span traps with INFO 7, of a member that does
not exist with INFO 8. Which INFO is given where several reasons hold is not stated. -/
def Obligations.HandleRefusals : Prop :=
  ∀ (s : State) (g : Gang) (m : BitVec 8) (gd : Guard) (d : Fin 31) (a b : Src) (i : Nat) (sl : Slice) (bid : BlockId) (co : Cohort) (gr : Grid),
    ScalarAt s g m → Leader g m gd i sl → s.gridOf g.id = some gr →
    (g.id.block? = some bid → s.cohort? bid = some co →
      (∀ j x, m.getLsbD j → g.slice? j = some x → x.queue = [] ∧ x.cur = none) → s.gangOutstanding g.id = false →
      let why := giveReason gr.record co.table (s.rank bid) (sl.reg d.val) (sl.src a).toNat (sl.src b).toNat
      ((∃ k, why k) → s.determ g.id = false →
        ∃ k, why k ∧ exec (.give gd d a b) s = .next (s.takeTrap g.id (TrapInfo.plain 0x34 k 0 i s.issue.words))) ∧
      ((∃ k, why k) → s.determ g.id = true →
        PassesWith s g m (fun x => { x with ended := some (.handle s.issue.words m) }) (exec (.give gd d a b) s) ∧
        ∀ ws, decodeScalar (ws.headD 0) (ws.getD 1 0) = .ok (.give gd d a b) →
          ∃ k, why k ∧ (s.slotHandle g.id none ws m).1 = s.takeTrap g.id (TrapInfo.plain 0x34 k 5 i ws)) ∧
      ((¬ ∃ k, why k) → s.determ g.id = false →
        ∃ t g', exec (.give gd d a b) s = .next t ∧ t.gang? g.id = some g' ∧ PartRuns g g' m (fun _ x => x.advance s.issueSize))) ∧
    (gr.record.spanSize = 0 → exec (.detach gd a) s = .next (s.takeTrap g.id (TrapInfo.plain 0x34 7 0 i s.issue.words))) ∧
    (gr.record.spanSize ≠ 0 → gr.record.spanSize ≤ (sl.src a).toNat →
      exec (.detach gd a) s = .next (s.takeTrap g.id (TrapInfo.plain 0x34 8 0 i s.issue.words)))

/-- R65, R66, R99, R297, R298: DETACH from a member of the span records it and tells that member by a control message; QEND goes on, ending the quantum in
deterministic operation; YIELD goes on where no other gang of the quadrant is ready and waits for those that are. -/
def Obligations.DetachQendYield : Prop :=
  ∀ (s : State) (g : Gang) (m : BitVec 8) (gd : Guard) (a : Src) (i : Nat) (sl : Slice),
    ScalarAt s g m → Leader g m gd i sl →
    (∀ gr, s.gridOf g.id = some gr → s.determ g.id = false → (sl.src a).toNat < gr.record.spanSize →
      s.usesMember g.id gr (sl.src a).toNat = false → gr.detached.contains (gr.member s.pkgId, (sl.src a).toNat) = false →
      ∃ t g', exec (.detach gd a) s = .next t ∧ t.gang? g.id = some g' ∧ OthersSame s t g.id ∧
        PartRuns g g' m (fun _ x => x.advance s.issueSize) ∧
        t.grid? gr.handle = some { gr with detached := gr.detached ++ [(gr.member s.pkgId, (sl.src a).toNat)] } ∧
        t.outputs = s.outputs ++ s.controlTo (gr.record.pkgList.getD (sl.src a).toNat 0)
          (.spanDetach gr.spanKey (gr.member s.pkgId) (sl.src a).toNat) ∧ t.mem = s.mem ∧ t.ls = s.ls) ∧
    (∀ gr, s.gridOf g.id = some gr → gr.record.spanSize = 0 →
      exec (.detach gd a) s = .next (s.takeTrap g.id (TrapInfo.plain 0x34 7 0 i s.issue.words))) ∧
    (s.determ g.id = false → Runs s g m (fun _ x => x.advance s.issueSize) (exec (.qend gd) s)) ∧
    (s.determ g.id = true → PassesWith s g m (fun x => { x with ended := some .plain }) (exec (.qend gd) s)) ∧
    (s.quadrantReady g = [] → Runs s g m (fun _ x => x.advance s.issueSize) (exec (.yield gd) s)) ∧
    (s.quadrantReady g ≠ [] → exec (.yield gd) s = .next (s.waitPart g m (.yield (s.quadrantReady g))))

/-! ## Engine instructions -/

namespace Sys2Proof.Claims

/-- Part `m` of compute or control gang `g` is the whole gang and issues an engine instruction outside deterministic operation, its
operands read in slice `i` (R300, R302). -/
def EngineAt (s : State) (g : Gang) (m : BitVec 8) (gd : Guard) (i : Nat) (sl : Slice) : Prop :=
  ScalarAt s g m ∧ WholeGang g m gd ∧ g.operandSlice = some (i, sl) ∧ s.determ g.id = false
/-- Every lane of the gang is active and no slice has exited (R34, R406). -/
def AllLanes (g : Gang) : Prop := ∀ sl ∈ g.slices, sl.exited = false ∧ sl.active = 15
/-- The instruction is accepted: one operation of kind `k` joins the machine's, the part goes on, the gang is changed by `h`, and no
memory, grid or other gang is changed. -/
def Accepted (s : State) (g : Gang) (m : BitVec 8) (i : Nat) (k : OpKind) (h : Gang → Gang) (o : Outcome) : Prop :=
  ∃ t g', o = .next t ∧ t.gang? g.id = some g' ∧ OthersSame s t g.id ∧
    PartRuns (h g) g' m (fun _ x => x.advance s.issueSize) ∧
    t.ops = s.ops ++ [⟨s.nextOp, g.id, k, i, s.issue.words, false, false, none⟩] ∧ t.nextOp = s.nextOp + 1 ∧
    t.mem = s.mem ∧ t.ls = s.ls ∧ t.wgt = s.wgt ∧ t.grids = s.grids ∧ t.outputs = s.outputs
/-- COPY, COPYR, GATH and SCAD join the open batch, which is sealed first where it holds 256 operations (R81). -/
def joined (n : Nat) (g : Gang) : Gang :=
  if 256 ≤ g.openOps.length then
    { g with sealed := g.sealed ++ [⟨g.batch, g.openOps⟩], openOps := [n], c := g.c + 1, batch := g.batch + 1 }
  else { g with openOps := g.openOps ++ [n] }
/-- One more tile operation of the gang, `n`: counter t holds it as its youngest (R190). -/
def oneMoreTile (n : Nat) (g : Gang) : Gang := { g with tq := g.tq ++ [(n, false)] }
/-- A 64-bit value of two registers, low word first, or one register zero-extended. -/
def addressOf (sl : Slice) (space n : Nat) : Nat :=
  if space = 0 ∨ space = 2 then (sl.reg n).toNat + 2 ^ 32 * (sl.reg (n + 1)).toNat else (sl.reg n).toNat
/-- The block holds accumulator slot `k` in `t` (R58). -/
def HoldsSlot (t : State) (b : BlockId) (k : Nat) : Prop := ∃ y, t.block? b = some y ∧ (lookupAt k y.accs).isSome
/-- The slots of a core are held by at most the block that asks, as the walk over its blocks finds them. -/
def SlotFree (s : State) (b : Block) (k : Nat) : Prop := s.slotOwner b.die b.core k = none ∨ s.slotOwner b.die b.core k = some b.id

end Sys2Proof.Claims

/-- R81, R303 to R305, R309: COPY and COPYR with an allowed control word join the open batch with the operands of the control group: units
[19:0], spaces [29:27] and [26:24], completion mark [31:30], addresses of destination and source. A combination that is not allowed
traps with cause 0x45. -/
def Sys2Proof.Claims.CopiesJoinBatch : Prop :=
  ∀ (s : State) (g : Gang) (m : BitVec 8) (x : CopyForm) (i : Nat) (sl : Slice) (reduce : Bool),
    EngineAt s g m x.g i sl →
    let cw := sl.reg (4 * x.b.val)
    let c := copyOf sl reduce x.d.val x.a.val (4 * x.b.val)
    let die := match g.id with | .control d _ => some d | .compute _ _ => none
    let ins := if reduce then Instr.copyr x else Instr.copy x
    c.units = cw.toNat % 2 ^ 20 ∧ c.dspace = cw.toNat / 2 ^ 27 % 8 ∧ c.sspace = cw.toNat / 2 ^ 24 % 8 ∧ c.mark = cw.toNat / 2 ^ 30 ∧
    c.dst = addressOf sl c.dspace x.d.val ∧ c.src = addressOf sl c.sspace x.a.val ∧ c.landed = [] ∧ c.reduce = reduce ∧
    (copyAllowed c cw die x.d.val x.a.val = true → ¬ (256 ≤ g.openOps.length ∧ 15 ≤ g.sealed.length) →
      (∀ d, die = some d → ¬ (c.dspace = 3 ∧ s.dieBusy d = true)) →
      Accepted s g m i (.copy c) (joined s.nextOp) (exec ins s)) ∧
    (copyAllowed c cw die x.d.val x.a.val = false →
      exec ins s = .next (s.takeTrap g.id (TrapInfo.plain 0x45 0 0 i s.issue.words)))

/-- R106, R310, R311: GATH and SCAD whose descriptor, package list and index list have been read here and pass the checks of R311 join
the open batch with every position still to come, in the order of the index list. A handle that is not a multiple of 64 traps
with cause 0x40. -/
def Sys2Proof.Claims.GathersJoinBatch : Prop :=
  ∀ (s s1 s2 s3 : State) (g : Gang) (m : BitVec 8) (x : GathForm) (scad : Bool) (i : Nat) (sl : Slice) (bid : BlockId) (gr : Grid)
    (co : Cohort) (d l bs : List Byte),
    EngineAt s g m x.g i sl → g.id.block? = some bid → s.gridOf g.id = some gr → s.cohort? bid = some co →
    let ins := if scad then Instr.scad x else Instr.gath x
    let cw := sl.reg (4 * x.b.val)
    let n := cw.toNat % 2 ^ 10 + 1
    let tile := (sl.reg (2 * x.d.val)).toNat
    let list := (sl.reg (2 * x.d.val + 1)).toNat
    let size := n / 2 ^ (cw.toNat / 2 ^ 12 % 16) * descRowBytes d
    let mask := (tile + size + 63) / 64 * 64
    (addressOf sl 0 (2 * x.a.val) % 64 ≠ 0 →
      exec ins s = .next ((s.takeTrap g.id (TrapInfo.plain 0x40 0 0 i s.issue.words)).dropFetched g.id)) ∧
    (addressOf sl 0 (2 * x.a.val) % 64 = 0 → s.issueRead g.id 0 (addressOf sl 0 (2 * x.a.val)) 64 = (s1, .ok d) →
      descOk d = true → s1.registered d = true →
      s1.pageRead g.id (descField d 64 56) (2 * descNp d) = (s2, .ok l) →
      ((List.range (descNp d)).map fun k => ofLeBytes ((l.drop (2 * k)).take 2)).Nodup →
      gatherControlOk scad cw (descFmt d) = true → tile % 64 = 0 → list % 16 = 0 → mask + 64 ≤ gr.record.lsSz * 4096 →
      (cw.toNat / 2 ^ 30 = 2 → (sl.reg (4 * x.b.val + 1)).toNat % 8 = 0) → co.table = [] →
      s2.engineReadAll g.id 1 (ownAddr (s.rank bid) list) (4 * n) = (s3, .ok bs) →
      ¬ (256 ≤ g.openOps.length ∧ 15 ≤ g.sealed.length) →
      ∃ op : GatherOp, Accepted s g m i (.gather op) (joined s.nextOp) (exec ins s) ∧ op.scad = scad ∧ op.desc = d ∧
        op.indices = (wordsOfBytes n bs).map (fun w => w.toNat) ∧ op.left = List.range n ∧ op.failed = [] ∧
        op.tile = ownAddr (s.rank bid) tile ∧ op.maskAddr = ownAddr (s.rank bid) mask)

/-- R81, R106, R303, R304, R305, R309, R310, R311: both parts, each cited where it stands. -/
def Obligations.BatchedOperations : Prop := Claims.CopiesJoinBatch ∧ Claims.GathersJoinBatch

/-- R314, R405: the PFT hints of a compute gang complete in every state, whatever they find; PFT.L2 changes nothing, and the promote and demote hints start at most the migration
of the one page named. On a control core they trap with cause 0x05, INFO 1. -/
def Obligations.PrefetchHints : Prop :=
  ∀ (s : State) (g : Gang) (m : BitVec 8) (gd : Guard) (a : Pair) (b : Fin 31),
    ScalarAt s g m →
    (g.id.isControl = false →
      (∀ ins ∈ [Instr.pftL2 gd a b, .pftPromote gd a, .pftDemote gd a],
        ∃ t g', exec ins s = .next t ∧ t.gang? g.id = some g' ∧ OthersSame s t g.id ∧ PartRuns g g' m (fun _ sl => sl.advance s.issueSize) ∧
          t.ls = s.ls ∧ t.wgt = s.wgt ∧ t.blocks = s.blocks ∧ t.grids = s.grids ∧ t.ops = s.ops ∧ t.outputs = s.outputs) ∧
      Runs s g m (fun _ sl => sl.advance s.issueSize) (exec (.pftL2 gd a b) s) ∧
      ∀ i sl, Leader g m gd i sl →
        (s.hintLeaf g.id (sl.pair a) true = none → Runs s g m (fun _ x => x.advance s.issueSize) (exec (.pftPromote gd a) s)) ∧
        (s.hintLeaf g.id (sl.pair a) false = none → Runs s g m (fun _ x => x.advance s.issueSize) (exec (.pftDemote gd a) s)) ∧
        (∀ l f, s.hintLeaf g.id (sl.pair a) true = some l → s.freeFrame (l.pte.toNat / 2 ^ 53 % 8) l.size = some f →
          ∃ t, exec (.pftPromote gd a) s = .next t ∧
            t.migrations = s.migrations ++ [⟨l.ptePa, l.base, l.pte, f, l.size, l.pa 0 / 2 ^ 48, false, none, s.clock⟩]) ∧
        (∀ l f, s.hintLeaf g.id (sl.pair a) false = some l → s.freeFrame (8 + l.pa 0 / 2 ^ 48 / 2) l.size = some f →
          ∃ t, exec (.pftDemote gd a) s = .next t ∧
            t.migrations = s.migrations ++ [⟨l.ptePa, l.base, l.pte, f, l.size, 8 + l.pa 0 / 2 ^ 48 / 2, true, none, s.clock⟩])) ∧
    (g.id.isControl = true →
      ∀ ins ∈ [Instr.pftL2 gd a b, .pftPromote gd a, .pftDemote gd a],
        exec ins s = .next (s.takeTrap g.id (TrapInfo.plain 0x05 1 0 (lowestSlice m) s.issue.words)))

/-- R58, R326: MXZ and MXLD on a slot that is free or the block's own claim it and are accepted as one tile operation each. -/
def Sys2Proof.Claims.SlotOperations : Prop :=
  ∀ (s : State) (g : Gang) (m : BitVec 8) (gd : Guard) (d a : Fin 31) (i : Nat) (sl : Slice) (bid : BlockId) (b : Block),
    EngineAt s g m gd i sl → AllLanes g → g.id.block? = some bid → s.block? bid = some b → g.t < 63 → (sl.reg d.val).toNat < 32 →
    SlotFree s b (sl.reg d.val).toNat →
    (Accepted s g m i (.tile (.zero (sl.reg d.val).toNat)) (oneMoreTile s.nextOp) (exec (.mxz gd d) s) ∧
      ∀ t, exec (.mxz gd d) s = .next t → HoldsSlot t bid (sl.reg d.val).toNat) ∧
    ((sl.reg a.val).toNat % 64 = 0 →
      Accepted s g m i (.tile (.load (sl.reg d.val).toNat (sl.reg a.val).toNat)) (oneMoreTile s.nextOp) (exec (.mxld gd d a) s) ∧
      ∀ t, exec (.mxld gd d a) s = .next t → HoldsSlot t bid (sl.reg d.val).toNat)

/-- R315 to R322: MXA.SOLO whose operands pass the checks reads its format block at issue and is accepted as the product of one
member. -/
def Sys2Proof.Claims.SoloProduct : Prop :=
  ∀ (s s1 : State) (g : Gang) (m : BitVec 8) (x : MxaForm) (i : Nat) (sl : Slice) (bid : BlockId) (fb : List Byte),
    EngineAt s g m x.g i sl → AllLanes g → g.id.block? = some bid → g.t < 63 → mxaCheck x false s g i sl = none →
    s.tilePending g (sl.reg (2 * x.d.val)) = [] →
    s.engineReadAll g.id 1 (sl.reg x.a.val).toNat 64 = (s1, .ok fb) → formatOk fb (asrcOf (sl.reg (2 * x.d.val))) = true →
    (asrcOf (sl.reg (2 * x.d.val)) = 2 → cblkOf (sl.reg (2 * x.d.val)) < 256 / tileK (tileHalf fb 0).fmt) →
    ∃ mem : TileMember, mem.gang = g.id.num ∧ mem.slot = (sl.reg (2 * x.d.val)).toNat % 32 ∧ mem.fmtBlock = fb ∧
      Accepted s g m i (.tile (.product true [mem] (sl.reg x.b.val))) (oneMoreTile s.nextOp) (exec (.mxaSolo x) s)

/-- R323, R324: MXA. The record of a member that others of its crew are still to join waits in the latch. The last member's MXA makes the
crew's one product, in ascending gang order; t rises for every member, the entry is freed and the members go on. -/
def Sys2Proof.Claims.CrewProduct : Prop :=
  ∀ (s s1 : State) (g : Gang) (m : BitVec 8) (x : MxaForm) (i : Nat) (sl : Slice) (b : Block) (fb : List Byte),
    EngineAt s g m x.g i sl → AllLanes g → m = g.full → s.blockOf g.id = some b → g.t < 63 → mxaCheck x true s g i sl = none →
    s.tilePending g (sl.reg (2 * x.d.val)) = [] →
    s.engineReadAll g.id 1 (sl.reg x.a.val).toNat 64 = (s1, .ok fb) → formatOk fb (asrcOf (sl.reg (2 * x.d.val))) = true →
    (asrcOf (sl.reg (2 * x.d.val)) = 2 → cblkOf (sl.reg (2 * x.d.val)) < 256 / tileK (tileHalf fb 0).fmt) →
    (∀ sl ∈ g.slices, sl.wait = none) →
    (∀ k, g.crew.getLsbD k → k ≠ g.id.num → ∃ h, s.gang? (.compute b.id k) = some h ∧ h.exited = false) → g.exited = false →
    (b.latch = [] → (∃ k, k < 32 ∧ g.crew.getLsbD k ∧ k ≠ g.id.num) →
      ∃ t g' y rec, exec (.mxa x) s = .next t ∧ t.gang? g.id = some g' ∧ OthersSame s t g.id ∧
        PartRuns g g' m (fun _ z => { z with wait := some .latch }) ∧
        t.block? b.id = some y ∧ y.latch = [⟨g.crew, [rec]⟩] ∧ rec.gang = g.id.num ∧ rec.fmtBlock = fb ∧ t.ops = s.ops) ∧
    ∀ e, b.latch = [e] → e.key = g.crew →
      (∀ r ∈ e.members, r.pc = sl.pc ∧ r.b = sl.reg x.b.val ∧ r.fmtBlock.drop 32 = fb.drop 32) → e.members ≠ [] →
      (e.members.map (·.gang)).Nodup → (∀ k, k < 32 → (g.crew.getLsbD k ↔ k = g.id.num ∨ k ∈ e.members.map (·.gang))) →
      (∀ r ∈ e.members, r.gang < 32 ∧ r.gang ≠ g.id.num) →
      ∃ t g' y ms, exec (.mxa x) s = .next t ∧ t.gang? g.id = some g' ∧
        PartRuns (oneMoreTile s.nextOp g) g' m (fun _ z => z.advance s.issueSize) ∧
        t.ops = s.ops ++ [⟨s.nextOp, g.id, .tile (.product false ms (sl.reg x.b.val)), i, s.issue.words, false, false, none⟩] ∧
        ms.map (·.gang) = (List.range 32).filter (fun k => g.crew.getLsbD k) ∧
        t.block? b.id = some y ∧ y.latch = [] ∧
        ∀ r ∈ e.members, ∀ h, s.gang? (.compute b.id r.gang) = some h →
          ∃ h', t.gang? (.compute b.id r.gang) = some h' ∧ h'.tq = h.tq ++ [(s.nextOp, false)]

/-- The format block at offset `off` of the gang's own partition is `fb`, and can be read: no handle is out, nothing is poisoned (R61,
R317). -/
def Sys2Proof.Claims.OwnFormat (s : State) (g : Gang) (b : Block) (a off : Nat) (fb : List Byte) : Prop :=
  g.id.block? = some b.id ∧ s.block? b.id = some b ∧ s.poison = [] ∧
  (∃ co, s.cohort? b.id = some co ∧ co.table = []) ∧
  (∃ gr, s.gridOf g.id = some gr ∧ off + 64 ≤ gr.record.lsSz * 4096 ∧ gr.record.lsSz ≤ 2048) ∧
  s.rank b.id < 32 ∧ a = s.rank b.id % 16 * 2 ^ 23 + off ∧ off % 64 = 0 ∧ fb = s.ls.read (b.base + off) 64
/-- Operand words of a product that reads A from the gang's own local store and B from its cohort's (R318, R319): slot, source 1, and
every field that the source does not use zero. -/
def Sys2Proof.Claims.LocalOperands (w d1 bw : Word) : Prop :=
  w.toNat / 32 = 1 ∧ d1.toNat % 64 = 0 ∧ bw.toNat % 128 = 0 ∧ bw.toNat < 2 ^ 28

/-- R315 to R319, R323, R324: MXA.SOLO and MXA complete for every state and operands of this shape: an accepted format block in the
gang's own partition, A and B in local store, a free slot, room in counter t; for MXA every other gang of the crew recorded. -/
def Sys2Proof.Claims.ProductsComplete : Prop :=
  ∀ (s : State) (g : Gang) (m : BitVec 8) (x : MxaForm) (i : Nat) (sl : Slice) (b : Block) (off : Nat) (fb : List Byte),
    EngineAt s g m x.g i sl → AllLanes g → g.t < 63 → Claims.OwnFormat s g b (sl.reg x.a.val).toNat off fb → formatOk fb 1 = true →
    Claims.LocalOperands (sl.reg (2 * x.d.val)) (sl.reg (2 * x.d.val + 1)) (sl.reg x.b.val) →
    SlotFree s b ((sl.reg (2 * x.d.val)).toNat % 32) →
    (∃ t g' mem, exec (.mxaSolo x) s = .next t ∧ t.gang? g.id = some g' ∧ OthersSame s t g.id ∧
      PartRuns (oneMoreTile s.nextOp g) g' m (fun _ z => z.advance s.issueSize) ∧
      t.ops = s.ops ++ [⟨s.nextOp, g.id, .tile (.product true [mem] (sl.reg x.b.val)), i, s.issue.words, false, false, none⟩]) ∧
    ∀ e, b.latch = [e] → e.key = g.crew → m = g.full → g.exited = false → (∀ z ∈ g.slices, z.wait = none) →
      (∃ gr, s.gridOf g.id = some gr ∧ g.crew.toNat < 2 ^ gr.record.gangs) → g.id.num < 32 →
      1 ≤ e.members.length → e.members.length ≤ 5 → (e.members.map (·.gang)).Nodup →
      (∀ k, k < 32 → (g.crew.getLsbD k ↔ k = g.id.num ∨ k ∈ e.members.map (·.gang))) →
      (∀ r ∈ e.members, r.gang < 32 ∧ r.gang ≠ g.id.num ∧ r.pc = sl.pc ∧ r.b = sl.reg x.b.val ∧ r.fmtBlock.drop 32 = fb.drop 32 ∧
        ∃ h, s.gang? (.compute b.id r.gang) = some h ∧ h.exited = false) →
      ∃ t g' ms, exec (.mxa x) s = .next t ∧ t.gang? g.id = some g' ∧
        PartRuns (oneMoreTile s.nextOp g) g' m (fun _ z => z.advance s.issueSize) ∧
        t.ops = s.ops ++ [⟨s.nextOp, g.id, .tile (.product false ms (sl.reg x.b.val)), i, s.issue.words, false, false, none⟩]

/-- R315, R316, R317, R318, R319, R320, R321, R322, R323, R324: the three parts, each cited where it stands. -/
def Obligations.TileProducts : Prop := Claims.SoloProduct ∧ Claims.CrewProduct ∧ Claims.ProductsComplete

/-- R327, R334: MXST of a slot that the block holds is accepted as a drain: RAW without a program, else with the program read at issue up
to its first EEND; EPLD is accepted as a check of the program at its address. -/
def Sys2Proof.Claims.DrainsAccepted : Prop :=
  ∀ (s s1 : State) (g : Gang) (m : BitVec 8) (gd : Guard) (d a : Pair) (b : Group) (i : Nat) (sl : Slice) (blk : Block)
    (bs : List Byte) (prog : List Word),
    EngineAt s g m gd i sl → AllLanes g → s.blockOf g.id = some blk → g.t < 63 →
    (let w := sl.reg (2 * d.val)
     let params := (List.range 4).map fun k => sl.reg (4 * b.val + k)
     w.toNat < 128 → s.slotOwner blk.die blk.core (w.toNat % 32) = some blk.id →
     (w.getLsbD 6 = true →
      Accepted s g m i (.drain ⟨w.toNat % 32, true, w.getLsbD 5, [], params, 0, 0, 0, 0, WordMap.zero, []⟩) (oneMoreTile s.nextOp)
        (exec (.mxst gd d a b) s)) ∧
     (w.getLsbD 6 = false → sl.pair a % 128 = 0 → s.issueRead g.id 0 (sl.pair a) 128 = (s1, .ok bs) →
      checkProgram 0 (wordsOfBytes 32 bs) = .ok prog → usesBands prog = false →
      Accepted s g m i (.drain ⟨w.toNat % 32, false, w.getLsbD 5, prog, params, 0, 0, 0, 0, WordMap.zero, []⟩) (oneMoreTile s.nextOp)
        (exec (.mxst gd d a b) s)) ∧
     (∀ s2 s3 ab bb, w.getLsbD 6 = false → sl.pair a % 128 = 0 → s.issueRead g.id 0 (sl.pair a) 128 = (s1, .ok bs) →
      checkProgram 0 (wordsOfBytes 32 bs) = .ok prog → usesBands prog = true →
      let fb := (sl.reg (2 * d.val + 1)).toNat
      fb % 64 = 0 → s1.engineRead g.id 1 (fb + 8) 4 = (s2, .ok ab) → s2.engineRead g.id 1 (fb + 40) 4 = (s3, .ok bb) →
      Accepted s g m i (.drain ⟨w.toNat % 32, false, w.getLsbD 5, prog, params, ofLeBytes ab, ofLeBytes bb, 0, 0,
        WordMap.zero, []⟩) (oneMoreTile s.nextOp) (exec (.mxst gd d a b) s))) ∧
    (sl.pair a % 128 = 0 → Accepted s g m i (.epld (sl.pair a) none) (oneMoreTile s.nextOp) (exec (.epld gd a) s))

/-- R58, R326, R327, R334: both parts, each cited where it stands. -/
def Obligations.SlotsAndDrains : Prop := Claims.SlotOperations ∧ Claims.DrainsAccepted

/-- R34, R300, R405, R406: what an engine instruction other than a hint traps on before it looks at its operands: a control core
(0x05, INFO 1, COPY and COPYR excepted), a gang of more than one part (0x06, INFO 1), a guard that holds in some slices of the part
and not in others (INFO 3), and for the matrix instructions a lane that is inactive or exited (INFO 2). -/
def Sys2Proof.Claims.GangWideTraps : Prop :=
  ∀ (s : State) (g : Gang) (m : BitVec 8) (ins : Instr) (gd : Guard) (matrix : Bool),
    ScalarAt s g m →
    ((∃ x : GathForm, x.g = gd ∧ matrix = false ∧ (ins = .gath x ∨ ins = .scad x)) ∨
      (∃ x : MxaForm, x.g = gd ∧ matrix = true ∧ (ins = .mxa x ∨ ins = .mxaSolo x)) ∨
      (∃ d a : Fin 31, matrix = true ∧ (ins = .mxz gd d ∨ ins = .mxld gd d a)) ∨
      (∃ (d a : Pair) (b : Group), matrix = true ∧ (ins = .mxst gd d a b ∨ ins = .epld gd a))) →
    (g.id.isControl = true → exec ins s = .next (s.takeTrap g.id (TrapInfo.plain 0x05 1 0 (lowestSlice m) s.issue.words))) ∧
    (g.id.isControl = false → 1 < g.parts.length →
      exec ins s = .next (s.takeTrap g.id (TrapInfo.plain 0x06 1 0 (lowestSlice m) s.issue.words))) ∧
    (g.id.isControl = false → g.parts.length ≤ 1 → (matrix = true → AllLanes g) → (∃ i sl, Executes g m gd i sl) →
      (∃ i sl, i < 8 ∧ m.getLsbD i = true ∧ g.slice? i = some sl ∧ guardTrue gd sl = false) →
      exec ins s = .next (s.takeTrap g.id (TrapInfo.plain 0x06 3 0 (lowestSlice m) s.issue.words))) ∧
    (g.id.isControl = false → g.parts.length ≤ 1 → matrix = true → ¬ AllLanes g → g.slices.length ≤ 8 →
      ∃ lanes : BitVec 32, lanes ≠ 0 ∧ exec ins s = .next (s.takeTrap g.id ⟨0x06, 0, lowestSlice m, 2, lanes, none, 0, s.issue.words⟩))

/-! ## Lane instructions that write registers and predicates -/

namespace Sys2Proof.Claims

/-- Lane `l` executes lane word `w` of part `m`: it is active and its guard, k7 true, holds (R186, R237). -/
def acts (g : Gang) (m : BitVec 8) (w : LaneWord) (l : Nat) : Bool :=
  m.getLsbD (l / 4) && match g.slice? (l / 4) with
    | some sl => sl.active.getLsbD (l % 4) &&
        ((w.guard.toNat % 8 == 7 || sl.k.getLsbD (4 * (w.guard.toNat % 8) + l % 4)) != w.guard.getLsbD 3)
    | none => false
/-- The executing lanes, ascending. -/
def participants (g : Gang) (m : BitVec 8) (w : LaneWord) : List Nat := (List.range 32).filter (acts g m w)
/-- A lane instruction is at issue on a compute core: the v registers that it names exist, none of them awaits a write (R47), no register
holds an uncorrectable error, and no slice waits at a REGANG. -/
def LaneReady (s : State) (g : Gang) (m : BitVec 8) (names : List Nat) : Prop :=
  LaneAt s g m ∧ g.id.isControl = false ∧ g.halted = false ∧ (∀ n ∈ names, n < s.laneRegs g.id) ∧ s.pendingRegs g.id names = [] ∧
  g.bad = [] ∧ (∀ sl ∈ g.slices, sl.pending = 0) ∧ g.slices.length ≤ 8
/-- The v registers among the first `n + 1` of d, a, b and c. -/
def named (w : LaneWord) (n : Nat) : List Nat :=
  ([w.d, w.a, w.b, w.c].take (n + 1)).filterMap fun f => if f.toNat < 768 then some f.toNat else none
/-- The active mask as the next run begins: what an LMASK queued before that run gave, else as it was (R30, R217; log 13). -/
def maskNext (sl : Slice) : BitVec 4 :=
  match sl.queue with
  | [] => sl.nextMask.getD sl.active
  | r :: _ => r.mask.getD sl.active
/-- A slice's run after one more lane instruction (R29): the next instruction, or the run's end, at which a mask takes effect. -/
def runMoved (sl : Slice) : Slice :=
  match sl.cur with
  | none => sl
  | some c =>
    if c.next + 1 < c.run.index + c.run.count then { sl with cur := some { c with next := c.next + 1 } }
    else { sl with cur := none, active := maskNext sl, nextMask := if sl.queue = [] then none else sl.nextMask }
/-- The count of retired lane instructions in deterministic operation (R242). -/
def retired (s : State) (g : Gang) : Nat := if s.determ g.id then g.qcount + 1 else g.qcount
/-- R185: the bits of d that a write-select replaces. -/
def selected (ws : BitVec 2) (old new : Word) : Word :=
  if ws = 1 then old.extractLsb' 16 16 ++ new.extractLsb' 0 16
  else if ws = 2 then new.extractLsb' 0 16 ++ old.extractLsb' 0 16
  else new

/-- The instruction goes on and changes of the machine its gang alone: in each executing lane d takes a result under the write-select,
the leader's with .U (R240); every other register of every lane keeps its value. `spec l r` says what result `r` lane `l` has; `h` is
what else of the gang changes. -/
def LaneWrites (s : State) (g : Gang) (m : BitVec 8) (w : LaneWord) (h : Gang → Gang) (spec : Nat → Word → Prop) (o : Outcome) : Prop :=
  ∃ t g', o = .next t ∧ OnlyGang s t g' ∧ g'.parts = g.parts ∧
    PartRuns { h g with v := g'.v, qcount := retired s g } g' m (fun _ sl => runMoved sl) ∧
    ∃ r : Nat → Word, (∀ l ∈ participants g m w, spec l (r l)) ∧
      ∀ n l, l < 32 → g'.vreg n l =
        if n = w.d.toNat ∧ l ∈ participants g m w then
          selected w.ws (g.vreg n l) (r (if w.u then (participants g m w).headD 0 else l))
        else g.vreg n l

/-- Element `e` of width `w` of a word (R114). -/
def chunk (w : Nat) (x : Word) (e : Nat) : Nat := x.toNat / 2 ^ (w * e) % 2 ^ w
/-- An element as an integer of the signedness. -/
def ival (w : Nat) (sg : Bool) (v : Nat) : Int := if sg then (BitVec.ofNat w v).toInt else (v : Int)
/-- R115: an exact result kept to w bits, or clamped. -/
def reduced (w : Nat) (sg sat : Bool) (i : Int) : Nat :=
  let lo : Int := if sg then -(2 ^ (w - 1)) else 0
  let hi : Int := if sg then 2 ^ (w - 1) - 1 else 2 ^ w - 1
  ((if sat then max lo (min hi i) else i) % (2 ^ w : Int)).toNat
/-- Every element of the result is what `f` gives for that element's number. -/
def byElem (w : Nat) (f : Nat → Nat) (r : Word) : Prop := ∀ e, e < 32 / w → chunk w r e = f e % 2 ^ w

/-- The exact integer results of R243 and R244 by element: reduced by R115, or a pattern of bits. -/
def intElem (i : Instr) (w : Nat) (sg sat : Bool) (x y z : Nat) : Option Nat :=
  let iv := ival w sg
  match i with
  | .vadd _ => some (reduced w sg sat (iv x + iv y))
  | .vsub _ => some (reduced w sg sat (iv x - iv y))
  | .vmul _ => some (reduced w sg sat (iv x * iv y))
  | .vmulh _ => some ((iv x * iv y % 2 ^ (2 * w)).toNat / 2 ^ w)
  | .vmad _ => some (reduced w sg sat (iv x * iv y + iv z))
  | .vabs _ => some (reduced w sg sat (iv x).natAbs)
  | .vneg _ => some (reduced w sg sat (-(iv x)))
  | .vmin _ => some (reduced w sg false (min (iv x) (iv y)))
  | .vmax _ => some (reduced w sg false (max (iv x) (iv y)))
  | .vshl _ => some (reduced w sg sat (iv x * 2 ^ y))
  | .vshr _ => some (x / 2 ^ y)
  | .vsra _ => some ((BitVec.ofNat w x).sshiftRight y).toNat
  | .vrot _ => some ((BitVec.ofNat w x).rotateLeft y).toNat
  | .vclz _ => some (w - x.size)
  | .vpopc _ => some ((List.range w).filter x.testBit).length
  | _ => none
/-- The number of sources of those instructions. -/
def intSources : Instr → Nat
  | .vmad _ => 3
  | .vabs _ | .vneg _ | .vclz _ | .vpopc _ => 1
  | _ => 2

/-- Bits [p + n - 1 : p] of x, read as an integer of the signedness (R245). -/
def fieldOf (sg : Bool) (x : Word) (p n : Nat) : Word :=
  let v : Nat := ((if sg then x.toInt else (x.toNat : Int)) / 2 ^ p % 2 ^ n).toNat
  if sg then BitVec.ofInt 32 (BitVec.ofNat n v).toInt else BitVec.ofNat 32 v

/-- R243 to R251: the word, the sources named and the result in lane `l` of an integer lane instruction. -/
def intResult (s : State) (g : Gang) (i : Instr) : Option (LaneWord × Nat × (Nat → Word → Prop)) :=
  match i with
  | .vand w => some (w, 2, fun l r => r = s.opA g w w.ew l &&& s.opB g w w.ew l)
  | .vor w => some (w, 2, fun l r => r = s.opA g w w.ew l ||| s.opB g w w.ew l)
  | .vxor w => some (w, 2, fun l r => r = s.opA g w w.ew l ^^^ s.opB g w w.ew l)
  | .vnot w => some (w, 1, fun l r => r = ~~~s.opA g w w.ew l)
  | .vbfx w => some (w, 3, fun l r =>
      r = fieldOf w.sg (s.opA g w w.ew l) (min (s.opB g w w.ew l).toNat 32) (min (s.opC g w w.ew l).toNat 32))
  | .vbfi w => some (w, 3, fun l r =>
      let p := min (s.opB g w w.ew l).toNat 32
      let n := min (s.opC g w w.ew l).toNat 32
      ∀ j, j < 32 → r.getLsbD j = if p ≤ j ∧ j < p + n then (s.opA g w w.ew l).getLsbD (j - p) else (g.vreg w.d.toNat l).getLsbD j)
  | .vprm w => some (w, 3, fun l r => ∀ j, j < 4 → chunk 8 r j =
      let z := chunk 4 (s.opC g w w.ew l) j
      if 8 ≤ z then 0 else if z < 4 then chunk 8 (s.opA g w w.ew l) z else chunk 8 (s.opB g w w.ew l) (z - 4))
  | .vdot4 w => some (w, 3, fun l r => r.toNat = reduced 32 w.sg w.sat
      (((List.range 4).map fun e => ival 8 w.sg (chunk 8 (s.opA g w w.ew l) e) * ival 8 w.sg (chunk 8 (s.opB g w w.ew l) e)).sum +
        ival 32 w.sg (s.opC g w w.ew l).toNat))
  | .vsel w => some (w, 2, fun l r => r = if g.pred (w.c.toNat % 8) l then s.opA g w w.ew l else s.opB g w w.ew l)
  | .vmov w => some (w, 1, fun l r => r = s.opA g w w.ew l)
  | .vli w => some (w, 0, fun _ r => r = w.imm.zeroExtend 32)
  | i => match i.lane? with
    | some (_, w) =>
      if (intElem i w.ew w.sg w.sat 0 0 0).isSome then
        some (w, intSources i, fun l r => byElem w.ew (fun e => (intElem i w.ew w.sg w.sat (chunk w.ew (s.opA g w w.ew l) e)
          (chunk w.ew (s.opB g w w.ew l) e) (chunk w.ew (s.opC g w w.ew l) e)).getD 0) r)
      else none
    | none => none

/-- The rounding mode, and the draw of element `e` in lane `l` under RS (R125, R133). -/
def modeOf (w : LaneWord) : Nat := w.imm.toNat / 2 ^ 13
def drawOf (s : State) (g : Gang) (w : LaneWord) (l e : Nat) : Nat := if modeOf w = 4 then s.rsDraw g l e else 0
/-- R127: the saturate control, inverted for an E4M3 destination. -/
def satFor (w : LaneWord) : Bool := if w.fmt = 7 then !w.imm.getLsbD 12 else w.imm.getLsbD 12
/-- The arithmetic of R252, R253 and R257 on one element of a format. -/
def floatElem (i : Instr) (f : FloatFmt) (mode : Nat) (sat : Bool) (u x y z : Nat) : Option Nat :=
  match i with
  | .fadd _ => some (faddE f mode sat u x y)
  | .fsub _ => some (fsubE f mode sat u x y)
  | .fmul _ => some (fmulE f mode sat u x y)
  | .ffma _ => some (ffmaE f mode sat u x y z)
  | .fmin _ => some (minMaxF f false x y)
  | .fmax _ => some (minMaxF f true x y)
  | .frnd _ => some (frndE f mode u x)
  | _ => none
def floatSources : Instr → Nat
  | .ffma _ => 3
  | .frnd _ => 1
  | _ => 2
/-- R258: where the converted elements of x go, from width `a` to width `b`, by the group index. -/
def converted (a b grp : Nat) (old x : Word) (conv : Nat → Nat → Nat) (r : Word) : Prop :=
  (32 / a ≤ 32 / b → ∀ e, e < 32 / b → chunk b r e =
    if grp * (32 / a) ≤ e ∧ e < grp * (32 / a) + 32 / a then conv e (chunk a x (e - grp * (32 / a))) % 2 ^ b else chunk b old e) ∧
  (32 / b < 32 / a → ∀ e, e < 32 / b → chunk b r e = conv e (chunk a x (grp * (32 / b) + e)) % 2 ^ b)
/-- R252 to R261: the word, the sources named, and the result in lane `l` of a floating or conversion instruction. -/
def floatResult (s : State) (g : Gang) (i : Instr) : Option (LaneWord × Nat × (Nat → Word → Prop)) :=
  match i with
  | .frcp w => some (w, 1, fun l r => r = frcpE (s.opA g w 32 l))
  | .frsq w => some (w, 1, fun l r => r = frsqE (s.opA g w 32 l))
  | .fsqrt w => some (w, 1, fun l r => r = fsqrtE (modeOf w) (s.opA g w 32 l))
  | .fex2 w => some (w, 1, fun l r => r = fex2E (s.opA g w 32 l))
  | .flg2 w => some (w, 1, fun l r => r = flg2E (s.opA g w 32 l))
  | .fsin w => some (w, 1, fun l r => r = fsinE (s.opA g w 32 l))
  | .fcos w => some (w, 1, fun l r => r = fcosE (s.opA g w 32 l))
  | .fcvt w =>
    let src := floatFmt ([4, 5, 6, 7, 8, 9].getD w.low3 9)
    some (w, 1, fun l r => converted src.width w.ew w.ctl (g.vreg w.d.toNat l) (s.opA g w src.width l)
      (fun e x => fcvtE (floatFmt w.fmt) src (modeOf w) (satFor w) (drawOf s g w l e) x) r)
  | .f2i w =>
    let k := [32, 32, 16, 16, 8, 8].getD w.low3 8
    some (w, 1, fun l r => converted w.ew k w.ctl (g.vreg w.d.toNat l) (s.opA g w w.ew l)
      (fun e x => f2iE (floatFmt w.fmt) k (w.low3 % 2 == 0) (modeOf w) (drawOf s g w l e) x) r)
  | .i2f w =>
    let k := [32, 32, 16, 16, 8, 8].getD w.low3 8
    some (w, 1, fun l r => converted k w.ew w.ctl (g.vreg w.d.toNat l) (s.opA g w k l)
      (fun e x => i2fE (floatFmt w.fmt) k (w.low3 % 2 == 0) (modeOf w) (satFor w) (drawOf s g w l e) x) r)
  | i => match i.lane? with
    | some (_, w) =>
      if (floatElem i (floatFmt w.fmt) 0 false 0 0 0 0).isSome then
        some (w, floatSources i, fun l r => byElem w.ew (fun e => (floatElem i (floatFmt w.fmt) (modeOf w) (satFor w) (drawOf s g w l e)
          (chunk w.ew (s.opA g w w.ew l) e) (chunk w.ew (s.opB g w w.ew l) e) (chunk w.ew (s.opC g w w.ew l) e)).getD 0) r)
      else none
    | none => none
/-- R133: rs_seq rises by one with every instruction whose rounding field is RS. -/
def drawn (w : LaneWord) (g : Gang) : Gang := { g with rsSeq := if modeOf w = 4 then (g.rsSeq + 1) % 2 ^ 32 else g.rsSeq }

/-- R262: lane number `n` is a source lane: its slice is one of the part of the issuing slices `m`. -/
def isSource (g : Gang) (m : BitVec 8) (n : Int) : Prop :=
  0 ≤ n ∧ n < 4 * g.slices.length ∧ (g.partOf m).getLsbD (n.toNat / 4) = true
/-- One step of VRED and VSCN on an element (R265). -/
def redStep (w : LaneWord) (x y : Nat) : Nat :=
  let iv := ival w.ew w.sg
  if 4 ≤ w.fmt then
    if w.ctl = 0 then faddE (floatFmt w.fmt) 0 false 0 x y else minMaxF (floatFmt w.fmt) (w.ctl != 1) x y
  else match w.ctl with
    | 0 => reduced w.ew w.sg w.sat (iv x + iv y)
    | 1 => reduced w.ew w.sg false (min (iv x) (iv y))
    | 2 => reduced w.ew w.sg false (max (iv x) (iv y))
    | 3 => x &&& y
    | 4 => x ||| y
    | _ => x ^^^ y
/-- Values combined in order by one step each. -/
def combined (f : Nat → Nat → Nat) : List Nat → Nat
  | [] => 0
  | x :: xs => xs.foldl f x
/-- R265's identity element. -/
def redIdentity (w : LaneWord) : Nat :=
  match w.ctl with
  | 1 => if 4 ≤ w.fmt then [0x7F800000, 0x7F80, 0x7C00].getD (w.fmt - 4) 0 else if w.sg then 2 ^ (w.ew - 1) - 1 else 2 ^ w.ew - 1
  | 2 => if 4 ≤ w.fmt then [0xFF800000, 0xFF80, 0xFC00].getD (w.fmt - 4) 0 else if w.sg then 2 ^ (w.ew - 1) else 0
  | 3 => 2 ^ w.ew - 1
  | _ => 0
/-- R262 to R266: the word, the sources named, and the result in lane `l`. -/
def crossResult (s : State) (g : Gang) (m : BitVec 8) (i : Instr) : Option (LaneWord × Nat × (Nat → Word → Prop)) :=
  match i with
  | .vshf w => some (w, 2, fun l r =>
      let n := (s.opB g w w.ew l).toNat
      let src : Int := match w.c.toNat % 4 with | 0 => n | 1 => (l : Int) - n | 2 => l + n | _ => (l ^^^ n : Nat)
      (isSource g m src → r = s.opA g w w.ew src.toNat) ∧ (¬ isSource g m src → r = s.opA g w w.ew l))
  | .vbal w => some (w, 0, fun _ r => ∀ j, j < 32 → r.getLsbD j = (decide (j ∈ participants g m w) && g.pred w.ctl j))
  | .vred w => some (w, 1, fun _ r => ∀ e, e < 32 / w.ew →
      chunk w.ew r e = combined (redStep w) ((participants g m w).map fun l => chunk w.ew (s.opA g w w.ew l) e))
  | .vscn w => some (w, 1, fun l r => ∀ e, e < 32 / w.ew →
      let k := (participants g m w).idxOf l
      let upTo (n : Nat) : Nat := combined (redStep w) (((participants g m w).take n).map fun l => chunk w.ew (s.opA g w w.ew l) e)
      chunk w.ew r e = if w.v86 then (if k = 0 then redIdentity w else upTo k) else upTo (k + 1))
  | .vbcs w => some (w, if w.c.getLsbD 0 then 1 else 2, fun l r =>
      let p := (participants g m w).headD 0
      let src : Int := if w.c.getLsbD 0 then (p : Int) else (s.opB g w w.ew p).toNat
      (isSource g m src → r = s.opA g w w.ew src.toNat) ∧ (¬ isSource g m src → r = s.opA g w w.ew l))
  | _ => none

/-- Every element satisfies the condition, or with `any` one does (R248, R255). -/
def overElems (any : Bool) (w : Nat) (p : Nat → Prop) : Prop := if any then ∃ e, e < 32 / w ∧ p e else ∀ e, e < 32 / w → p e
/-- The conditions of FCMP (R255) on the values of two elements. -/
def floatCond (c : Nat) (x y : FVal) : Prop :=
  match c with
  | 0 => x.eq y = true
  | 1 => x.eq y = false
  | 2 => x.lt y = true
  | 3 => x.lt y = true ∨ x.eq y = true
  | 4 => y.lt x = true
  | 5 => y.lt x = true ∨ x.eq y = true
  | 6 => x = .nan ∨ y = .nan
  | _ => x ≠ .nan ∧ y ≠ .nan
/-- R248, R255, R256, R267: the word, the register sources named, and when the predicate becomes 1 in lane `l`. -/
def predOf (s : State) (g : Gang) (i : Instr) : Option (LaneWord × List (BitVec 10) × (Nat → Prop)) :=
  match i with
  | .vcmp w => some (w, [w.a, w.b], fun l => overElems w.v86 w.ew fun e =>
      let x := ival w.ew w.sg (chunk w.ew (s.opA g w w.ew l) e)
      let y := ival w.ew w.sg (chunk w.ew (s.opB g w w.ew l) e)
      match w.ctl with | 0 => x = y | 1 => x ≠ y | 2 => x < y | 3 => x ≤ y | 4 => y < x | _ => y ≤ x)
  | .fcmp w => some (w, [w.a, w.b], fun l => overElems w.v86 w.ew fun e =>
      floatCond w.ctl (decodeF (floatFmt w.fmt) (chunk w.ew (s.opA g w w.ew l) e))
        (decodeF (floatFmt w.fmt) (chunk w.ew (s.opB g w w.ew l) e)))
  | .fcls w => some (w, [w.a], fun l => overElems w.v86 w.ew fun e =>
      w.c.getLsbD (classBit (floatFmt w.fmt) (chunk w.ew (s.opA g w w.ew l) e)) = true)
  | .kand w => some (w, [], fun l => g.pred (w.a.toNat % 8) l = true ∧ g.pred (w.b.toNat % 8) l = true)
  | .kor w => some (w, [], fun l => g.pred (w.a.toNat % 8) l = true ∨ g.pred (w.b.toNat % 8) l = true)
  | .kxor w => some (w, [], fun l => g.pred (w.a.toNat % 8) l ≠ g.pred (w.b.toNat % 8) l)
  | .knot w => some (w, [], fun l => g.pred (w.a.toNat % 8) l = false)
  | _ => none

end Sys2Proof.Claims

/-- R183: the swizzles that move bytes, by modifier: the source byte of result bytes 0 to 3, none for a zero byte. -/
def Sys2Proof.Claims.byteSwizzles : List (Nat × List (Option Nat)) :=
  [(0x30, [some 0, some 1, some 2, some 3]), (0x31, [some 2, some 3, some 0, some 1]), (0x32, [some 1, some 0, some 3, some 2]),
   (0x33, [some 3, some 2, some 1, some 0]), (0x34, [some 0, some 0, some 0, some 0]), (0x35, [some 1, some 1, some 1, some 1]),
   (0x36, [some 2, some 2, some 2, some 2]), (0x37, [some 3, some 3, some 3, some 3]), (0x38, [some 0, some 1, some 0, some 1]),
   (0x39, [some 2, some 3, some 2, some 3]), (0x3A, [some 0, some 1, none, none]), (0x3B, [some 2, some 3, none, none]),
   (0x3C, [some 0, some 2, some 1, some 3]), (0x3E, [some 1, none, some 3, none]), (0x3F, [some 0, none, some 2, none])]

/-- R181, R182, R183: the special sources, and what a modifier delivers. -/
def Sys2Proof.Claims.LaneOperands : Prop :=
  ∀ (s : State) (g : Gang) (w : LaneWord) (l : Nat) (f : BitVec 10) (md : BitVec 6) (ew : Nat) (x : Word),
    l < 32 → ew ∈ [32, 16, 8, 4] →
    (f.toNat < 768 → s.laneSource g w l f = g.vreg f.toNat l) ∧
    (f = 768 ∨ f = 1021 → s.laneSource g w l f = BitVec.ofNat 32 l) ∧
    (769 ≤ f.toNat → f.toNat < 795 → s.laneSource g w l f = s.special g (l / 4) (f.toNat - 768)) ∧
    s.laneSource g w l 800 = 0x3F800000 ∧ s.laneSource g w l 801 = 0xBF800000 ∧ s.laneSource g w l 802 = 0x3F000000 ∧
    s.laneSource g w l 803 = 0x40000000 ∧ s.laneSource g w l 804 = 0x3FB8AA3B ∧ s.laneSource g w l 805 = 0x3F317218 ∧
    s.laneSource g w l 806 = 0x40490FDB ∧ s.laneSource g w l 807 = 0xFFFFFFFF ∧ s.laneSource g w l 808 = 0x3F803F80 ∧
    s.laneSource g w l 809 = 0x3C003C00 ∧ s.laneSource g w l 1023 = 0 ∧ s.laneSource g w l 1022 = w.imm.signExtend 32 ∧
    (∀ sl c, g.slice? (l / 4) = some sl → sl.cur = some c → s.laneSource g w l 1020 = c.run.regs.get (w.imm.toNat % 32)) ∧
    (md = 0 → applyMod md ew x = x) ∧
    (md = 0x10 → applyMod md ew x = x.extractLsb' 0 16 ++ x.extractLsb' 0 16) ∧
    (md = 0x11 → applyMod md ew x = x.extractLsb' 16 16 ++ x.extractLsb' 16 16) ∧
    (∀ e, e < 32 / ew → e < 16 → md = BitVec.ofNat 6 (0x20 + e) → ∀ j, j < 32 / ew → chunk ew (applyMod md ew x) j = chunk ew x e) ∧
    (∀ t, (md.toNat, t) ∈ byteSwizzles → ∀ j, j < 4 → chunk 8 (applyMod md ew x) j = (t.getD j none).elim 0 (chunk 8 x)) ∧
    (md = 0x3D → ∀ j, j < 8 → chunk 4 (applyMod md ew x) j = chunk 4 x (j ^^^ 1)) ∧
    (md = 0x3E → ∀ j, j < 2 → chunk 16 (applyMod md ew x) j = chunk 8 x (2 * j + 1)) ∧
    (md = 0x3F → ∀ j, j < 2 → chunk 16 (applyMod md ew x) j = chunk 8 x (2 * j))

/-- R171, R172, R181, R182, R183: both parts, each cited where it stands. -/
def Obligations.OperandForms : Prop := Claims.GuardsAndDestinations ∧ Claims.LaneOperands

/-- R237, R240, R242 to R251, R185, R114, R115: the integer lane instructions. -/
def Sys2Proof.Claims.LaneIntegers : Prop :=
  ∀ (s : State) (g : Gang) (m : BitVec 8) (i : Instr) (w : LaneWord) (n : Nat) (spec : Nat → Word → Prop),
    intResult s g i = some (w, n, spec) → i.wf = true → LaneReady s g m (named w n) →
    LaneWrites s g m w id spec (exec i s)

/-- R252 to R261, R125 to R130, R133: the floating and conversion lane instructions, whose element values are those of the model's
arithmetic (faddE and its like); rs_seq rises with rounding field RS. -/
def Sys2Proof.Claims.LaneFloats : Prop :=
  ∀ (s : State) (g : Gang) (m : BitVec 8) (i : Instr) (w : LaneWord) (n : Nat) (spec : Nat → Word → Prop),
    floatResult s g i = some (w, n, spec) → i.wf = true → LaneReady s g m (named w n) →
    LaneWrites s g m w (drawn w) spec (exec i s)

/-- R114, R115, R125, R126, R127, R128, R129, R130, R133, R185, R237, R240, R242, R243, R244, R245, R246, R247, R248, R249, R250, R251, R252, R253, R254, R255, R256, R257, R258, R259, R260, R261: both parts, each cited where it stands. -/
def Obligations.LaneResults : Prop := Claims.LaneIntegers ∧ Claims.LaneFloats

/-- R377: FRCP of ±2^(k − 127), whose reciprocal ±2^(127 − k) is normal, gives that reciprocal in every executing lane. The operand with
k = 0 is the subnormal ±2^-127. -/
def Obligations.ReciprocalsOfPowers : Prop :=
  ∀ (s : State) (g : Gang) (m : BitVec 8) (w : LaneWord),
    (Instr.frcp w).wf = true → LaneReady s g m (named w 1) →
    LaneWrites s g m w (drawn w) (fun l r => ∀ (neg : Bool) (k : Nat), k ≤ 253 →
      s.opA g w 32 l = BitVec.ofNat 32 ((if neg then 2 ^ 31 else 0) + (if k = 0 then 2 ^ 22 else k * 2 ^ 23)) →
      r = BitVec.ofNat 32 ((if neg then 2 ^ 31 else 0) + (254 - k) * 2 ^ 23)) (exec (.frcp w) s)

/-- R262 to R266: the cross-lane instructions, over the lanes of the issuing part alone. -/
def Sys2Proof.Claims.CrossLanes : Prop :=
  ∀ (s : State) (g : Gang) (m : BitVec 8) (i : Instr) (w : LaneWord) (n : Nat) (spec : Nat → Word → Prop),
    crossResult s g m i = some (w, n, spec) → i.wf = true → LaneReady s g m (named w n) →
    LaneWrites s g m w id spec (exec i s)

/-- R239, R248, R255, R256, R267: the instructions that write one lane predicate in the executing lanes, and nothing else. -/
def Sys2Proof.Claims.LanePredicates : Prop :=
  ∀ (s : State) (g : Gang) (m : BitVec 8) (i : Instr) (w : LaneWord) (names : List (BitVec 10)) (p : Nat → Prop),
    predOf s g i = some (w, names, p) → i.wf = true →
    LaneReady s g m (names.filterMap fun f => if f.toNat < 768 then some f.toNat else none) →
    ∃ t g', exec i s = .next t ∧ OnlyGang s t g' ∧ g' = { g with slices := g'.slices, qcount := retired s g } ∧
      g'.slices.length = g.slices.length ∧
      ∀ j sl, g.slice? j = some sl → ∃ k', g'.slice? j = some { (if m.getLsbD j then runMoved sl else sl) with k := k' } ∧
        ∀ q c, q < 8 → c < 4 →
          ((q = w.d.toNat ∧ 4 * j + c ∈ participants g m w → (k'.getLsbD (4 * q + c) = true ↔ p (4 * j + c))) ∧
            (¬ (q = w.d.toNat ∧ 4 * j + c ∈ participants g m w) → k'.getLsbD (4 * q + c) = sl.k.getLsbD (4 * q + c)))

/-- R239, R248, R255, R256, R262, R263, R264, R265, R266, R267: both parts, each cited where it stands. -/
def Obligations.LanesAndPredicates : Prop := Claims.CrossLanes ∧ Claims.LanePredicates

/-- R57, R178, R242, R401, R440: what a lane instruction traps on at issue: on a control core cause 0x05, INFO 1; of the integer and
cross-lane instructions a named register at or above 32 × REGS cause 0x04, its number in INFO, with the active lanes of the part; of the
integer ones an uncorrectable error in a source register that an executing lane reads, with .U the leader alone, cause 0x62, its number in
INFO, with executing lanes in which that register holds one, without .U all of them. While a named register awaits the reply to a lane's
access, the stream waits (R47). -/
def Sys2Proof.Claims.LaneIssueTraps : Prop :=
  ∀ (s : State) (g : Gang) (m : BitVec 8) (i : Instr) (op : Nat) (w : LaneWord),
    LaneAt s g m → i.lane? = some (op, w) → i.wf = true →
    (NothingPending s g.id → g.id.isControl = true → ∃ lanes idx,
      exec i s = .next (s.takeTrap g.id ⟨0x05, 1, lowestSlice m, 1, lanes, none, idx, s.issue.words⟩)) ∧
    (NothingPending s g.id → g.id.isControl = false → ∀ n spec k, (intResult s g i = some (w, n, spec) ∨ crossResult s g m i = some (w, n, spec)) →
      k ∈ named w n → s.laneRegs g.id ≤ k → (∀ j ∈ (named w n).takeWhile (· != k), j < s.laneRegs g.id) →
      ∃ lanes : BitVec 32, exec i s = .next (s.takeTrap g.id ⟨0x04, 1, lowestSlice m, k, lanes, none, g.laneIndex m, s.issue.words⟩) ∧
        ∀ l, l < 32 → (lanes.getLsbD l = true ↔
          (g.partOf m).getLsbD (l / 4) = true ∧ ∃ sl, g.slice? (l / 4) = some sl ∧ sl.active.getLsbD (l % 4) = true)) ∧
    (NothingPending s g.id → g.id.isControl = false → ∀ n spec f l, intResult s g i = some (w, n, spec) → (∀ j ∈ named w n, j < s.laneRegs g.id) →
      f ∈ [w.a, w.b, w.c].take n → f.toNat < 768 → l ∈ participants g m w → (w.u = true → (participants g m w).head? = some l) →
      32 * f.toNat + l ∈ g.bad →
      ∃ (k : Nat) (lanes : BitVec 32), lanes ≠ 0 ∧
        exec i s = .next (s.takeTrap g.id ⟨0x62, 1, lowestSlice m, k, lanes, none, g.laneIndex m, s.issue.words⟩) ∧
        (∀ j, j < 32 → lanes.getLsbD j = true → j ∈ participants g m w ∧ 32 * k + j ∈ g.bad) ∧
        (w.u = false → ∀ j ∈ participants g m w, 32 * k + j ∈ g.bad → lanes.getLsbD j = true)) ∧
    ∀ n spec, (intResult s g i = some (w, n, spec) ∨ floatResult s g i = some (w, n, spec) ∨ crossResult s g m i = some (w, n, spec)) →
      s.pendingRegs g.id (named w n) ≠ [] → ∃ l, l ≠ [] ∧ exec i s = .next (s.waitLane g m (.operands l))

/-- R34, R57, R178, R242, R300, R401, R405, R406, R440: both parts, each cited where it stands. -/
def Obligations.IssueTraps : Prop := Claims.GangWideTraps ∧ Claims.LaneIssueTraps

/-! ## Memory -/

namespace Sys2Proof.Claims

/-- Base plus 4 × imm7 (R204): a pair for GEN and POL, a zero-extended word for LOC and CON. -/
def scalarAddr (sl : Slice) (base : MemBase) (off : BitVec 7) : Nat :=
  let b : Nat := match base with
    | .gen p | .pol p => (sl.reg (2 * p.val)).toNat + 2 ^ 32 * (sl.reg (2 * p.val + 1)).toNat
    | .loc a | .con a => (sl.src a).toNat
  (((b : Int) + 4 * off.toInt) % 2 ^ 64).toNat
/-- Slice and address of every access of a scalar memory instruction, ascending. -/
def sliceAccesses (g : Gang) (m : BitVec 8) (gd : Guard) (base : MemBase) (off : BitVec 7) : List (Nat × Nat) :=
  ((List.range 8).filter fun i => m.getLsbD i).filterMap fun i =>
    (g.slice? i).bind fun sl => if guardTrue gd sl then some (i, scalarAddr sl base off) else none
/-- The issuing slices perform again an instruction of which lanes have faulted (R424). -/
def replays (g : Gang) (m : BitVec 8) : Bool := g.replaySeq.any fun p => m.getLsbD p.1
/-- Lanes that make an access: on a replay only those of the replay mask (R424). -/
def issued (g : Gang) (m : BitVec 8) (w : LaneWord) : List Nat :=
  (participants g m w).filter fun l => !replays g m || g.replay.getLsbD l
/-- R190: a counter once one more operation has been issued and has completed at once: it falls past the oldest complete ones. -/
def served (q : Counter) : Counter := (q ++ [(Counter.fresh q, true)]).dropWhile (·.2)
/-- The gang with its counter of class l, or s, so changed where any lane made an access. -/
def counted (inL : Bool) (lanes : List Nat) (g : Gang) : Gang := if lanes = [] then g else g.setAccesses inL (served (g.accesses inL))
/-- Lane and address of every access of a lane memory instruction, ascending. -/
def laneAccesses (g : Gang) (w : LaneWord) (lanes : List Nat) : List (Nat × Nat) := lanes.map fun l => (l, g.laneAddr w.a w.space l)
/-- Every access lands in this package, and not at a device register. -/
def AllHere (locs : List (Nat × Nat × Located)) : Prop :=
  ∀ x ∈ locs, ∃ p, x.2.2 = .ok p ∧ p.isRemote = false ∧ ∀ d o, p ≠ .reg d o
/-- Every access of a stream is performed in the step of its issue: none is sent, to another die or behind one of the stream that is on its
way to the same location (log 66). -/
def InStep (s : State) (g : Gang) (lane : Bool) (n : Nat) (ls : List Located) : Prop :=
  ∀ p, Located.ok p ∈ ls → s.departs g.id lane p n = false
/-- An earlier access of the part's lane stream is still on its way, for which a release waits (R341). -/
def HeldRelease (s : State) (g : Gang) (m : BitVec 8) (w : LaneWord) : Prop :=
  2 ≤ w.order ∧ ∃ r ∈ s.remote, r.laneStream = true ∧ r.gang = g.id ∧ r.mask &&& g.partOf m ≠ 0
def bytesAt (s : State) (l : Located) (n : Nat) : List Byte := match l with | .ok p => s.readPlace p n | _ => []
/-- The value of a list of (place, bytes) stored in order. -/
def stored (s : State) (sv : Bool) (l : List (Located × List Byte)) : State :=
  l.foldl (fun u x => match x.1 with | .ok p => u.writePlace p x.2 sv | _ => u) s
/-- Byte `a` of device memory, of the local stores, of the weight stores lies in the `n` bytes at a place. -/
def hitsMem (l : Located) (n a : Nat) : Prop := ∃ pa h, l = .ok (.mem pa h) ∧ pa ≤ a ∧ a < pa + n
def hitsLs (l : Located) (n a : Nat) : Prop := ∃ i b o, l = .ok (.ls i b o) ∧ i ≤ a ∧ a < i + n
def hitsWgt (l : Located) (n a : Nat) : Prop := ∃ i, l = .ok (.wgt i) ∧ i ≤ a ∧ a < i + n
/-- Every byte of memory outside the places reads as before. -/
def Elsewhere (s t : State) (ls : List Located) (n : Nat) : Prop :=
  (∀ a, (∀ l ∈ ls, ¬ hitsMem l n a) → t.mem.get a = s.mem.get a) ∧
  (∀ a, (∀ l ∈ ls, ¬ hitsLs l n a) → t.ls.get a = s.ls.get a) ∧
  (∀ a, (∀ l ∈ ls, ¬ hitsWgt l n a) → t.wgt.get a = s.wgt.get a)
def SameMemory (s t : State) : Prop := t.mem = s.mem ∧ t.ls = s.ls ∧ t.wgt = s.wgt
/-- The outcome of a scalar memory instruction of class l, or s, without fault: its part goes on with `f`; blocks, grids, operations and
other gangs are as they were. -/
def ScalarServed (s : State) (g : Gang) (m : BitVec 8) (inL : Bool) (f : Nat → Slice → Slice) (o : Outcome) (P : State → Prop) : Prop :=
  ∃ t g', o = .next t ∧ t.gang? g.id = some g' ∧ OthersSame s t g.id ∧ t.blocks = s.blocks ∧ t.grids = s.grids ∧ t.ops = s.ops ∧
    t.outputs = s.outputs ∧ PartRuns (g.setAccesses inL (served (g.accesses inL))) g' m (fun i sl => (f i sl).advance s.issueSize) ∧ P t
/-- The outcome of a lane memory instruction without fault: the run moves on, `h` changes the gang; v registers change as `vals` says;
no lane of the issuing slices is left to replay (R424). -/
def LaneServed (s : State) (g : Gang) (m : BitVec 8) (h : Gang → Gang) (vals : Nat → Nat → Option Word) (o : Outcome) (P : State → Prop) :
    Prop :=
  ∃ t g', o = .next t ∧ t.gang? g.id = some g' ∧ OthersSame s t g.id ∧ t.blocks = s.blocks ∧ t.grids = s.grids ∧ t.ops = s.ops ∧
    t.outputs = s.outputs ∧ g'.parts = g.parts ∧
    PartRuns { h g with
        v := g'.v, replay := g.replay &&& ~~~lanesOf m, replaySeq := g.replaySeq.filter (fun p => !m.getLsbD p.1)
        acq := g'.acq, qcount := retired s g } g' m (fun _ sl => runMoved sl) ∧
    (∀ n l, l < 32 → g'.vreg n l = (vals n l).getD (g.vreg n l)) ∧ P t
/-- What a load of `bytes` bytes leaves in register `k` of its destination (R274). -/
def loadedWord (bytes : Nat) (sext : Bool) (bs : List Byte) (k : Nat) : Word :=
  if bytes < 4 then
    (if sext then BitVec.ofInt 32 (BitVec.ofNat (8 * bytes) (ofLeBytes bs)).toInt else BitVec.ofNat 32 (ofLeBytes bs))
  else BitVec.ofNat 32 (ofLeBytes ((bs.drop (4 * k)).take 4))
/-- The registers from `d` of each lane that accessed, `n` of them. -/
def landed (locs : List (Nat × Nat × Located)) (d n : Nat) (val : Nat × Nat × Located → Nat → Word) (r l : Nat) : Option Word :=
  if d ≤ r ∧ r < d + n then (locs.find? fun x => x.1 == l).map fun x => val x (r - d) else none
/-- The bytes that a VLD answers: those of its place, or with .INV what the read-only cache holds for them (R274). -/
def vldBytes (s s1 : State) (g : Gang) (w : LaneWord) (x : Nat × Nat × Located) : List Byte :=
  if w.inv then (bytesAt s1 x.2.2 w.bytes).mapIdx fun i b => s.invByte g.id (x.2.1 + i) b else bytesAt s1 x.2.2 w.bytes

/-- R275, R276: the bytes that an atomic operation of lane `l` leaves where `old` stood. -/
def atomicAfter (g : Gang) (w : LaneWord) (l : Nat) (old : List Byte) : List Byte :=
  let data := g.operandBytes w.b l 0 w.bytes
  if w.sub = 7 then (if old = g.operandBytes w.b l (w.bytes / 4) w.bytes then data else old)
  else leBytes w.bytes (atomicStep w.sub w.fmt w.sg w.bytes (ofLeBytes old) (ofLeBytes data))
/-- The atomic operations of the lanes in order: the state after, and what each lane found. -/
def atomicRun (s : State) (g : Gang) (w : LaneWord) (locs : List (Nat × Nat × Located)) : State × List (Nat × List Byte) :=
  locs.foldl (fun u x => match x.2.2 with
    | .ok p => (u.1.writePlace p (atomicAfter g w x.1 (u.1.readPlace p w.bytes)) false, u.2 ++ [(x.1, u.1.readPlace p w.bytes)])
    | _ => u) (s, [])
/-- R277: the 128 bytes that a VATL leaves where `old` stood. -/
def lineAfter (g : Gang) (m : BitVec 8) (w : LaneWord) (old : List Byte) : List Byte :=
  (List.range 32).flatMap fun l =>
    let x := (old.drop (4 * l)).take 4
    if l ∈ participants g m w then leBytes 4 (atomicStep 0 w.fmt false 4 (ofLeBytes x) (g.operandWord w.b l 0).toNat) else x
/-- R278: the atomic-buffer entry of a lane. -/
def bufferedAs (g : Gang) (w : LaneWord) (x : Nat × Nat × Located) : AEntry :=
  ⟨w.space, x.2.1, w.sub, w.fmt, w.bytes, w.sg, ofLeBytes (g.operandBytes w.b x.1 0 w.bytes)⟩

end Sys2Proof.Claims

/-- R204, R205, R190, R338: LDS, LDP and STS whose accesses land in this package without fault: the words are loaded as memory stands,
the stores happen in ascending slice order, and no other byte changes. An access that meets the word of an arrival of the gang still in
flight waits for it. An access that is sent is no matter of this statement. -/
def Obligations.ScalarMemory : Prop :=
  ∀ (s s1 : State) (g : Gang) (m : BitVec 8) (gd : Guard) (d : Dst) (p : Pair) (r : Fin 31) (base : MemBase) (off : BitVec 7)
    (locs : List (Nat × Nat × Located)),
    ScalarAt s g m → Plain s g.id → s.determ g.id = false → (g.id.isControl = true → base.space = 0) →
    sliceAccesses g m gd base off ≠ [] → AllHere locs → s1.hasRoom (s1.requester g.id) 0 = true →
    (g.l < 63 → s.locateLanes g .load base.space 4 (sliceAccesses g m gd base off) = (s1, locs) →
      s1.arrivalMeets g.id 4 locs = true → exec (.lds gd d base off) s = .next (s1.waitPart g m .outstanding)) ∧
    (g.l < 63 → s.locateLanes g .load base.space 8 (sliceAccesses g m gd base off) = (s1, locs) →
      s1.arrivalMeets g.id 8 locs = true → exec (.ldp gd p base off) s = .next (s1.waitPart g m .outstanding)) ∧
    (g.s < 63 → s.locateLanes g .store base.space 4 (sliceAccesses g m gd base off) = (s1, locs) →
      s1.arrivalMeets g.id 4 locs = true → exec (.sts gd r base off) s = .next (s1.waitPart g m .outstanding)) ∧
    (g.l < 63 → (∀ a ∈ s1.arrivals, a.ofGang g.id = false) → InStep s1 g false 4 (locs.map (·.2.2)) →
      s.locateLanes g .load base.space 4 (sliceAccesses g m gd base off) = (s1, locs) →
      ScalarServed s g m true (fun i sl => match locs.find? fun x => x.1 == i with
          | some x => sl.setDst d (BitVec.ofNat 32 (ofLeBytes (bytesAt s1 x.2.2 4)))
          | none => sl) (exec (.lds gd d base off) s) (SameMemory s1)) ∧
    (g.l < 63 → (∀ a ∈ s1.arrivals, a.ofGang g.id = false) → InStep s1 g false 8 (locs.map (·.2.2)) →
      s.locateLanes g .load base.space 8 (sliceAccesses g m gd base off) = (s1, locs) →
      ScalarServed s g m true (fun i sl => match locs.find? fun x => x.1 == i with
          | some x => (sl.setReg (2 * p.val) (BitVec.ofNat 32 (ofLeBytes ((bytesAt s1 x.2.2 8).take 4)))).setReg (2 * p.val + 1)
              (BitVec.ofNat 32 (ofLeBytes ((bytesAt s1 x.2.2 8).drop 4)))
          | none => sl) (exec (.ldp gd p base off) s) (SameMemory s1)) ∧
    (g.s < 63 → (∀ a ∈ s1.arrivals, a.ofGang g.id = false) → InStep s1 g false 4 (locs.map (·.2.2)) →
      s.locateLanes g .store base.space 4 (sliceAccesses g m gd base off) = (s1, locs) →
      ScalarServed s g m false (fun _ sl => sl) (exec (.sts gd r base off) s) (fun t =>
        SameMemory (stored s1 g.id.isControl (locs.map fun x =>
          (x.2.2, leBytes 4 (match g.slice? x.1 with | some sl => sl.reg r.val | none => 0).toNat))) t ∧
        Elsewhere s1 t (locs.map fun x => x.2.2) 4))

/-- R268 to R274, R341: VLD and VST whose accesses land here without fault and are performed in the step, outside deterministic operation. A
release waits for the earlier accesses of its part's lane stream. -/
def Obligations.LaneMemory : Prop :=
  ∀ (s s1 : State) (g : Gang) (m : BitVec 8) (w : LaneWord) (locs : List (Nat × Nat × Located)),
    Plain s g.id → s.determ g.id = false → AllHere locs → InStep s1 g true w.bytes (locs.map (·.2.2)) →
    s1.hasRoom (s1.requester g.id) 0 = true →
    ((Instr.vld w).wf = true → LaneReady s g m (vNames w.d w.regs ++ vNames w.a (addrRegs w.space)) → g.l < 63 →
      s.locateLanes g .load w.space w.bytes (laneAccesses g w (participants g m w)) = (s1, locs) →
      LaneServed s g m (counted true (participants g m w)) (landed locs w.d.toNat w.regs fun x => loadedWord w.bytes (w.imm.getLsbD 0) (vldBytes s s1 g w x))
        (exec (.vld w) s) (SameMemory s1)) ∧
    ((Instr.vst w).wf = true → LaneReady s g m (vNames w.a (addrRegs w.space) ++ vNames w.b w.regs) → HeldRelease s g m w →
      participants g m w ≠ [] → exec (.vst w) s = .next (s.waitLane g m .outstanding)) ∧
    ((Instr.vst w).wf = true → LaneReady s g m (vNames w.a (addrRegs w.space) ++ vNames w.b w.regs) → g.s < 63 → ¬ HeldRelease s g m w →
      s.locateLanes g .store w.space w.bytes (laneAccesses g w (participants g m w)) = (s1, locs) →
      LaneServed s g m (counted false (participants g m w)) (fun _ _ => none) (exec (.vst w) s) (fun t =>
        SameMemory (stored s1 false (locs.map fun x => (x.2.2, g.operandBytes w.b x.1 0 w.bytes))) t ∧
        Elsewhere s1 t (locs.map fun x => x.2.2) w.bytes))

/-- R190, R275 to R279, R341: VATM, VRDM and VATL whose accesses land here without fault and are performed in the step, outside deterministic
operation, with no atomic-buffer entry held; a release waits for the earlier accesses of its part's lane stream: the lanes act in ascending order, VATM's d takes what each lane found, and no other byte changes.
VRDM.RLX and VATM.C change no memory: their values join the atomic buffer, and count as operations that have completed. -/
def Sys2Proof.Claims.AtomicsServed : Prop :=
  ∀ (s s1 : State) (g : Gang) (m : BitVec 8) (w : LaneWord) (locs : List (Nat × Nat × Located)),
    Plain s g.id → s.determ g.id = false → AllHere locs → s1.hasRoom (s1.requester g.id) 0 = true → g.l < 63 → g.s < 63 →
    (∀ o ∈ s.outstanding, o.owner ≠ .flush g.id) →
    ¬ HeldRelease s g m w → InStep s1 g true w.bytes (locs.map (·.2.2)) →
    ((Instr.vatm w).wf = true →
      LaneReady s g m (vNames w.d (w.bytes / 4) ++ vNames w.a (addrRegs w.space) ++ vNames w.b (atomicRegs w)) →
      s.locateLanes g .atomic w.space w.bytes (laneAccesses g w (issued g m w)) = (s1, locs) →
      (w.cflag = false → g.abuf = [] →
        LaneServed s g m (counted (w.d.toNat < 768) (issued g m w)) (fun r l => if w.d.toNat < 768 then landed locs w.d.toNat (w.bytes / 4)
            (fun x => loadedWord w.bytes false (((atomicRun s1 g w locs).2.find? fun y => y.1 == x.1).map (·.2) |>.getD [])) r l else none)
          (exec (.vatm w) s) (fun t =>
            SameMemory (atomicRun s1 g w locs).1 t ∧ Elsewhere s1 t (locs.map fun x => x.2.2) w.bytes)) ∧
      (w.cflag = true → s1.quadEntries g.id + locs.length ≤ 256 →
        LaneServed s g m (fun x => { counted (w.d.toNat < 768) (issued g m w) x with
            abuf := locs.foldl (fun l y => (joinEntry (bufferedAs g w y) l).getD (l ++ [bufferedAs g w y])) g.abuf })
          (fun _ _ => none) (exec (.vatm w) s) (SameMemory s1))) ∧
    ((Instr.vrdm w).wf = true → LaneReady s g m (vNames w.a (addrRegs w.space) ++ vNames w.b (w.bytes / 4)) →
      s.locateLanes g .reduce w.space w.bytes (laneAccesses g w (issued g m w)) = (s1, locs) →
      (w.order ≠ 0 → g.abuf = [] →
        LaneServed s g m (counted false (issued g m w)) (fun _ _ => none) (exec (.vrdm w) s) (fun t =>
          SameMemory (atomicRun s1 g w locs).1 t ∧ Elsewhere s1 t (locs.map fun x => x.2.2) w.bytes)) ∧
      (w.order = 0 → s1.quadEntries g.id + locs.length ≤ 256 →
        LaneServed s g m (fun x => { counted false (issued g m w) x with
            abuf := locs.foldl (fun l y => (joinEntry (bufferedAs g w y) l).getD (l ++ [bufferedAs g w y])) g.abuf })
          (fun _ _ => none) (exec (.vrdm w) s) (SameMemory s1))) ∧
    (∀ l loc, (Instr.vatl w).wf = true → LaneReady s g m (vNames w.a (addrRegs w.space) ++ vNames w.b 1) → replays g m = false →
      (participants g m w).head? = some l → g.laneAddr w.a w.space l % 128 = 0 →
      s.locateLanes g .reduce w.space 128 [(l, g.laneAddr w.a w.space l)] = (s1, locs) → locs = [(l, g.laneAddr w.a w.space l, loc)] →
      InStep s1 g true 128 [loc] →
      LaneServed s g m (counted false [l]) (fun _ _ => none) (exec (.vatl w) s) (fun t =>
        SameMemory (stored s1 false [(loc, lineAfter g m w (bytesAt s1 loc 128))]) t ∧ Elsewhere s1 t [loc] 128))

/-- R341: VATM and VRDM as releases wait while an earlier access of their part's lane stream is on its way. -/
def Sys2Proof.Claims.AtomicReleases : Prop :=
  ∀ (s : State) (g : Gang) (m : BitVec 8) (w : LaneWord),
    s.determ g.id = false → HeldRelease s g m w → issued g m w ≠ [] → g.abuf = [] → (∀ o ∈ s.outstanding, o.owner ≠ .flush g.id) →
    LaneReady s g m (vNames w.d (w.bytes / 4) ++ vNames w.a (addrRegs w.space) ++ vNames w.b (atomicRegs w)) →
    ((Instr.vatm w).wf = true → w.cflag = false → exec (.vatm w) s = .next (s.waitLane g m .outstanding)) ∧
    ((Instr.vrdm w).wf = true → exec (.vrdm w) s = .next (s.waitLane g m .outstanding))

/-- R190, R275, R276, R277, R278, R279, R341: both parts, each cited where it stands. -/
def Obligations.LaneAtomics : Prop := Claims.AtomicsServed ∧ Claims.AtomicReleases

namespace Sys2Proof.Claims

/-- The level that a located counter holds. -/
def levelAt (s : State) (g : Gang) (space addr : Nat) (l : Located) : Nat := match l with | .ok p => s.gaugeLevel g.id space addr p | _ => 0
/-- The base exponent and the largest level of a counter (R76, R140). -/
def gaugeScale (s : State) (g : Gang) : Nat := (s.gbase g.id).toNat % 8
def gaugeTop (s : State) (g : Gang) (space : Nat) : Nat := if space = 1 ∧ (s.gbase g.id).getLsbD 3 = true then 15 else 255
/-- Registers that a gauge instruction names. -/
def gaugeNames (w : LaneWord) (kind : Nat) : List Nat :=
  match kind with
  | 0 => vNames w.a (addrRegs w.space) ++ vNames w.b 1
  | 1 => vNames w.a (addrRegs w.space) ++ vNames w.b (addrRegs w.space)
  | 2 => vNames w.a (addrRegs w.space)
  | _ => vNames w.d 1 ++ vNames w.a (addrRegs w.space)
def gaugeInstr (w : LaneWord) (kind : Nat) : Instr := match kind with | 0 => .ginc w | 1 => .gmrg w | 2 => .gclr w | _ => .grd w

end Sys2Proof.Claims

/-- R76 to R78, R140 to R144, R281, R282: GINC, GMRG, GCLR and GRD (kinds 0 to 3) whose counters lie in this package, outside
deterministic operation. gauge_seq rises with an add or merge. GRD gives every lane its estimate and changes no memory; GCLR clears every
counter; one lane's add and merge give the level of R142 and R143 by the draws of R144, and set SAT where they saturate. No byte but
those of the counters, and for an add or merge the header's SAT, changes. That a merge draws with its destination's counter_id is the model's
choice (log 59). -/
def Obligations.GaugeOperations : Prop :=
  ∀ (s s1 : State) (g : Gang) (m : BitVec 8) (w : LaneWord) (kind : Nat) (locs : List (Nat × Nat × Located × Option (Nat × Located)))
    (gr : Grid) (b : Block),
    kind < 4 → (gaugeInstr w kind).wf = true → LaneReady s g m (gaugeNames w kind) → Plain s g.id → s.determ g.id = false →
    s.gridOf g.id = some gr → s.blockOf g.id = some b → gr.record.gaugeSz ≠ 0 → gr.record.gaugeSz ≤ gr.record.lsSz →
    replays g m = false → g.l < 63 → g.s < 63 → ¬ HeldRelease s g m w →
    s.locateGauges g w (if kind = 3 then 4 else 2) (kind = 1) (participants g m w) = (s1, locs) →
    AllHere (locs.map fun x => (x.1, x.2.1, x.2.2.1)) →
    (∀ x ∈ locs, ∀ y, x.2.2.2 = some y → ∃ p, y.2 = .ok p ∧ p.isRemote = false ∧ ∀ d o, p ≠ .reg d o) →
    (w.space = 0 → InStep s1 g true 1 (locs.flatMap fun x => x.2.2.1 :: (x.2.2.2.map (·.2)).toList) ∧
      s1.hasRoom (s1.requester g.id) 0 = true) →
    LaneServed s g m (fun x => { counted (kind = 3) (participants g m w) x with
        gaugeSeq := if kind ≤ 1 then (g.gaugeSeq + 1) % 2 ^ 32 else g.gaugeSeq })
      (fun r l => if kind = 3 ∧ r = w.d.toNat then
        (locs.find? fun x => x.1 == l).map fun x => gaugeRead (gaugeScale s1 g) (levelAt s1 g w.space x.2.1 x.2.2.1) else none)
      (exec (gaugeInstr w kind) s) (fun t =>
        (∀ a, (∀ x ∈ locs, ¬ hitsMem x.2.2.1 1 a) → t.mem.get a = s1.mem.get a) ∧ t.wgt = s1.wgt ∧
        (∀ a, (∀ x ∈ locs, ¬ hitsLs x.2.2.1 1 a) → ¬ (b.gaugeBase gr.record ≤ a ∧ a < b.gaugeBase gr.record + 4) →
          t.ls.get a = s1.ls.get a) ∧
        (kind = 3 → SameMemory s1 t) ∧
        (kind = 2 → ∀ x ∈ locs, levelAt t g w.space x.2.1 x.2.2.1 = 0) ∧
        (∀ x, kind = 0 → locs = [x] →
          let r := gaugeAdd (gaugeScale s1 g) (gaugeTop s1 g w.space) (levelAt s1 g w.space x.2.1 x.2.2.1) (g.operandWord w.b x.1 0).toNat
            (s1.gaugeDraw g.id w.space x.2.1 g.gaugeSeq x.1 0)
          levelAt t g w.space x.2.1 x.2.2.1 = r.1 ∧
            t.gbase g.id = if r.2 = true then s1.gbase g.id ||| 0x80000000 else s1.gbase g.id) ∧
        (∀ x y, kind = 1 → locs = [x] → x.2.2.2 = some y →
          let r := gaugeMerge (gaugeScale s1 g) (gaugeTop s1 g w.space) (levelAt s1 g w.space y.1 y.2) (levelAt s1 g w.space x.2.1 x.2.2.1)
            (fun j => if j < 255 then s1.gaugeDraw g.id w.space x.2.1 g.gaugeSeq x.1 j else 0)
          levelAt t g w.space x.2.1 x.2.2.1 = r.1 ∧
            t.gbase g.id = if r.2 = true then s1.gbase g.id ||| 0x80000000 else s1.gbase g.id))

/-! ## The epilogue unit -/

namespace Sys2Proof.Claims

/-- The epilogue unit is to run a word of operation `o`, a drain `x` of a gang of block `b`; a row that it begins holds no uncorrectable
error. -/
def DrainAt (s : State) (o : EngineOp) (x : DrainOp) (b : BlockId) : Prop :=
  s.issue.who = .epilogue o.id ∧ s.op? o.id = some o ∧ o.kind = .drain x ∧ o.gang.block? = some b ∧
    (x.word = 0 → s.slotError b x.slot (1024 * x.row) 1024 = none)
/-- x0 to x7 as a word of the program finds them: before a row x0 is the slot's row and the others are +0 (R327, R328). -/
def rowReg (s : State) (x : DrainOp) (b : BlockId) (r j : Nat) : Word :=
  if x.word = 0 then (if r = 0 then (s.slotMap b x.slot).get (256 * x.row + j) else 0) else x.reg r j
/-- The stores of the row so far. -/
def rowStores (x : DrainOp) : List (Nat × List Byte) := if x.word = 0 then [] else x.pend
/-- The word goes on: register `d` takes `f`, the other seven keep their values, `new` joins the row's stores, and of the machine
nothing but the drain has changed since `s`. -/
def DrainGoes (s : State) (o : EngineOp) (x : DrainOp) (b : BlockId) (d : Option (BitVec 3)) (f : Nat → Word)
    (new : List (Nat × List Byte)) (out : Outcome) : Prop :=
  ∃ t x', out = .next t ∧ t = { s with ops := t.ops } ∧ t.op? o.id = some { o with kind := .drain x' } ∧
    (∀ k, k ≠ o.id → t.op? k = s.op? k) ∧ x' = { x with word := x.word + 1, x := x'.x, pend := rowStores x ++ new } ∧
    ∀ r j, r < 8 → j < 256 → x'.reg r j = if d = some (BitVec.ofNat 3 r) then f j else rowReg s x b r j
end Sys2Proof.Claims

/-- R328, R330, R332, R333: the words that compute one row register from the registers, ENOP, and the stores of EST and ETRN, which are
laid down by EEND. -/
def Sys2Proof.Claims.EpilogueRegisters : Prop :=
  ∀ (s : State) (o : EngineOp) (x : DrainOp) (blk : BlockId) (d a b : BitVec 3) (n : BitVec 2) (f : BitVec 4) (md : BitVec 2) (sat : Bool),
    DrainAt s o x blk →
    DrainGoes s o x blk (some d) (fun j => eactE f.toNat (rowReg s x blk a.toNat j)) [] (exec (.eact d a f) s) ∧
    DrainGoes s o x blk (some d) (fun j => fmul32 (rowReg s x blk a.toNat j) (rowReg s x blk b.toNat j)) [] (exec (.emul d a b) s) ∧
    DrainGoes s o x blk (some d) (fun j => fadd32 (rowReg s x blk a.toNat j) (rowReg s x blk b.toNat j)) [] (exec (.eadd d a b) s) ∧
    DrainGoes s o x blk (some d) (fun j => BitVec.ofNat 32 (minMaxF (floatFmt 4) true (rowReg s x blk a.toNat j).toNat
      (rowReg s x blk b.toNat j).toNat)) [] (exec (.emax d a b) s) ∧
    DrainGoes s o x blk (some d) (fun j => BitVec.ofNat 32 (fcvtE (floatFmt 4) (floatFmt f.toNat) 0 false 0
      (fcvtE (floatFmt f.toNat) (floatFmt 4) md.toNat (if f = 7 then !sat else sat) 0 (rowReg s x blk a.toNat j).toNat))) []
      (exec (.ecvt d a md sat f) s) ∧
    DrainGoes s o x blk none (fun _ => 0) [] (exec .enop s) ∧
    (let w := fmtWidth f.toNat / 8
     let base := (x.params.getD n.toNat 0).toNat
     let p3 := (x.params.getD 3 0).toNat
     let elem (j : Nat) : List Byte := storedElem f.toNat (rowReg s x blk a.toNat j)
     (base % 64 = 0 →
      DrainGoes s o x blk none (fun _ => 0) [(base + 256 * w * x.row, (List.range 256).flatMap elem)] (exec (.est a n false f) s) ∧
      (p3 % 64 = 0 →
        DrainGoes s o x blk none (fun _ => 0) [(base + p3 * x.row, (List.range 256).flatMap elem)] (exec (.est a n true f) s)) ∧
      DrainGoes s o x blk none (fun _ => 0) ((List.range 256).map fun j => (base + w * (64 * j + x.row), elem j)) (exec (.etrn a n f) s)) ∧
     (base % 64 ≠ 0 → ∀ st, exec (.est a n st f) s = .next (s.failTile o 3 ⟨0x15, 7, 1, base⟩) ∧
      exec (.etrn a n f) s = .next (s.failTile o 3 ⟨0x15, 7, 1, base⟩)))

/-- R327, R330, R331, R335: the words that read the local store, and EEND. ELDV loads a vector by columns or one value for the row;
EBIA adds one; ESCL scales by the band scales of the two operands, 1 where there are none; EEND lays down the row's stores and begins the next
row. -/
def Sys2Proof.Claims.EpilogueMemory : Prop :=
  ∀ (s s1 : State) (o : EngineOp) (x : DrainOp) (blk : BlockId) (d a : BitVec 3) (n kind : BitVec 2) (bf16 : Bool) (off : BitVec 16)
    (bs : List Byte),
    DrainAt s o x blk →
    (let w := if kind.getLsbD 0 then 2 else 4
     let base := (x.params.getD n.toNat 0).toNat + off.toNat
     (kind.getLsbD 1 = true → base % w = 0 → s.engineReadAll o.gang 1 (base + w * x.row) w = (s1, .ok bs) → s1.ops = s.ops →
        (∀ j, s1.slotMap blk j = s.slotMap blk j) →
        DrainGoes s1 o x blk (some d) (fun _ => vecElem (kind.getLsbD 0) bs 0) [] (exec (.eldv d n kind off) s)) ∧
     (kind.getLsbD 1 = false → base % 16 = 0 → s.engineReadAll o.gang 1 base (256 * w) = (s1, .ok bs) → s1.ops = s.ops →
        (∀ j, s1.slotMap blk j = s.slotMap blk j) →
        DrainGoes s1 o x blk (some d) (fun j => vecElem (kind.getLsbD 0) bs j) [] (exec (.eldv d n kind off) s)) ∧
     (kind.getLsbD 1 = false → base % 16 ≠ 0 → exec (.eldv d n kind off) s = .next (s.failTile o 3 ⟨0x15, 7, 1, base⟩))) ∧
    (let w := if bf16 then 2 else 4
     let base := (x.params.getD n.toNat 0).toNat + off.toNat
     base % w = 0 → s.engineReadAll o.gang 1 base (256 * w) = (s1, .ok bs) → s1.ops = s.ops → (∀ j, s1.slotMap blk j = s.slotMap blk j) →
        DrainGoes s1 o x blk (some d) (fun j => fadd32 (rowReg s x blk a.toNat j) (vecElem bf16 bs j)) [] (exec (.ebia d a n bf16 off) s)) ∧
    (∀ (t : List State) (v : List (List Byte)), t.length = 5 → v.length = 5 →
      s.bandScale o x.aband 0 = (t.getD 0 s, .ok (v.getD 0 [])) →
      (∀ k, k < 4 → (t.getD k s).bandScale o x.bband k = (t.getD (k + 1) s, .ok (v.getD (k + 1) []))) →
      (t.getD 4 s).ops = s.ops → (∀ j, (t.getD 4 s).slotMap blk j = s.slotMap blk j) →
      DrainGoes (t.getD 4 s) o x blk (some d) (fun j => esclValue (rowReg s x blk a.toNat j) (ofLeBytes (v.getD 0 []))
        (ofLeBytes (v.getD (1 + j / 64) []))) [] (exec (.escl d a) s)) ∧
    (∀ k, s.bandScale o 0 k = (s, .ok [0x80, 0x3F])) ∧
    (s.storeRow o (rowStores x) = (s1, none) → s1.op? o.id = some o →
      ∃ t x', exec .eend s = .next t ∧ t = { s1 with ops := t.ops } ∧ t.op? o.id = some { o with kind := .drain x' } ∧
        (∀ k, k ≠ o.id → t.op? k = s1.op? k) ∧ x' = { x with row := x.row + 1, word := 0, x := x'.x, pend := [] }) ∧
    ∀ f, s.storeRow o (rowStores x) = (s1, some f) → exec .eend s = .next (s1.failTile o 3 f)

/-- R327, R328, R330, R331, R332, R333, R335: both parts, each cited where it stands. -/
def Obligations.EpilogueWords : Prop := Claims.EpilogueRegisters ∧ Claims.EpilogueMemory

/-! ## The supervisor group -/

namespace Sys2Proof.Claims

/-- The supervisor gang of a control core issues, its one slice `i` executing, and names are names: of gangs and of blocks. -/
def SupervisorAt (s : State) (g : Gang) (m : BitVec 8) (gd : Guard) (i : Nat) (sl : Slice) : Prop :=
  ScalarAt s g m ∧ g.id.isControl = true ∧ Leader g m gd i sl ∧ (s.blocks.map (·.id)).Nodup ∧ (s.gangs.map (·.id)).Nodup
/-- The issuing part has passed its instruction in `t`. -/
def Passed (s t : State) (g : Gang) (m : BitVec 8) : Prop :=
  ∃ g', t.gang? g.id = some g' ∧ PartRuns g g' m (fun _ sl => sl.advance s.issueSize)
/-- Block index `i` lies in the cohort of one of a list of indices. -/
def mateOf (gr : Grid) (l : List Nat) (i : Nat) : Bool := l.any fun j => i / gr.record.cohort == j / gr.record.cohort
/-- R227, column PREEMPT. -/
def preempted : BlockState → BlockState
  | .running => .halting
  | .pending => .saved
  | .placed => .saved
  | x => x
/-- R227, column RESUME, for blocks that do not halt. -/
def resumed : BlockState → BlockState
  | .halted => .running
  | .saved => .pending
  | x => x
/-- A gang of a block that runs again: a wait on a watched word ends, and its instruction re-executes (R48, R50). -/
def runsOn (x : Gang) : Gang :=
  { x with halted := false, stopped := false, slices := x.slices.map fun sl => match sl.wait with
      | some (.sync _ _ _) | some (.stamp _ _ _) => { sl with wait := none }
      | _ => sl }
/-- A gang as its record in an image gives it: a lane in REPLAY shows that its lane group performs its instruction again (log 68), and counter
t stands for the tile operations that are held for the gang (R464). -/
def loadedGang (s : State) (r : LaunchRec) (img : List Byte) (y : Gang) : Gang := ((y.load r img).marked).retile s
/-- A block marked for killing (R228). -/
def marked (y : Block) : Block :=
  match y.state with
  | .exited | .killed => y
  | .running => { y with state := .halting, killing := true }
  | _ => { y with killing := true }

end Sys2Proof.Claims

/-- R36, R223 to R225, R415: LAUNCH of a valid record queues a grid under a new handle with the record and a copy of its parameters, and
writes the handle to d. A record at an address that is not a multiple of 128 traps with cause 0x0C, INFO 1. -/
def Obligations.LaunchQueues : Prop :=
  ∀ (s : State) (g : Gang) (m : BitVec 8) (gd : Guard) (d : Dst) (a : Pair) (i : Nat) (sl : Slice),
    SupervisorAt s g m gd i sl →
    (sl.pair a % 128 ≠ 0 ∨ 2 ^ 56 ≤ sl.pair a →
      ∃ t, exec (.launch gd d a) s = .next t ∧ t = { s.takeTrap g.id (TrapInfo.plain 0x0C 1 0 i s.issue.words) with fetched := t.fetched }) ∧
    ∀ (s1 s2 s3 : State) (bs l ps : List Byte) (c : ControlCore),
      sl.pair a % 128 = 0 → sl.pair a < 2 ^ 56 → s.pageRead g.id (sl.pair a) 128 = (s1, .ok bs) → recordBad bs = none →
      s1.pageRead g.id (recPkgAddr bs) (2 * (parseRecord bs).spanSize) = (s2, .ok l) →
      let r : LaunchRec := { parseRecord bs with
        pkgList := (List.range (parseRecord bs).spanSize).map fun k => ofLeBytes ((l.drop (2 * k)).take 2) }
      r.bad s2.pkgId = none → s2.everFits r = true → s2.pageRead g.id (recParams bs).1 (recParams bs).2 = (s3, .ok ps) →
      (∀ die ∈ r.dies, (s3.grids.filter fun x => x.record.dies.contains die).length < 64) → g.id = .control c.die c.idx →
      s3.control? c.die c.idx = some c → s3.gang? g.id = some g → (r.spanSize = 0 ∨ r.pkgList.idxOf s3.pkgId ≠ 0) →
      let h : Word := BitVec.ofNat 32 (c.die * 2 ^ 28 + c.idx * 2 ^ 27 + c.launches % 2 ^ 27)
      ∃ t g' gr, exec (.launch gd d a) s = .next t ∧ t.gang? g.id = some g' ∧
        PartRuns g g' m (fun j x => (if j = i then x.setDst d h else x).advance s.issueSize) ∧
        t.grids = s3.grids ++ [gr] ∧ gr.handle = h ∧ gr.record = r ∧ gr.params = ps ∧ gr.next = 0 ∧ gr.held = [] ∧
        gr.quota = (if r.esQuota = 0 then 4 else r.esQuota) ∧
        t.control? c.die c.idx = some { c with launches := c.launches + 1 } ∧ t.blocks = s3.blocks ∧ t.mem = s3.mem

/-- R224, R235, R419: QUOTA sets the grid's quota from 1 to 7, 0 standing for 4; above 7 it traps with cause 0x0D, INFO 4, and on a handle
that names no grid with INFO 1. The kinds of PREEMPT, RESUME and KILL name their blocks as R223 says. On a compute core every instruction
of the group is of the wrong kind. -/
def Obligations.QuotaAndTargets : Prop :=
  ∀ (s : State) (g : Gang) (m : BitVec 8) (gd : Guard) (a b : Src) (i : Nat) (sl : Slice),
    (SupervisorAt s g m gd i sl →
      (∀ gr, s.grid? (sl.src a) = some gr → gr.handle = sl.src a → (sl.src b).toNat ≤ 7 →
        ∃ t g', exec (.quota gd a b) s = .next t ∧ t.gang? g.id = some g' ∧ OthersSame s t g.id ∧
          PartRuns g g' m (fun _ x => x.advance s.issueSize) ∧ t = { s with gangs := t.gangs, grids := t.grids } ∧
          t.grid? (sl.src a) = some { gr with quota := if sl.src b = 0 then 4 else (sl.src b).toNat } ∧
          ∀ k, k ≠ sl.src a → t.grid? k = s.grid? k) ∧
      (∀ gr, s.grid? (sl.src a) = some gr → 7 < (sl.src b).toNat →
        exec (.quota gd a b) s = .next (s.takeTrap g.id (TrapInfo.plain 0x0D 4 0 i s.issue.words))) ∧
      (s.grid? (sl.src a) = none →
        exec (.quota gd a b) s = .next (s.takeTrap g.id (TrapInfo.plain 0x0D 1 0 i s.issue.words)) ∧
        ∀ k, exec (.preempt gd k a) s = .next (s.takeTrap g.id (TrapInfo.plain 0x0D 1 0 i s.issue.words)) ∧
          exec (.resume gd k a) s = .next (s.takeTrap g.id (TrapInfo.plain 0x0D 1 0 i s.issue.words)) ∧
          exec (.kill gd k a) s = .next (s.takeTrap g.id (TrapInfo.plain 0x0D 1 0 i s.issue.words)))) ∧
    (∀ h gr, s.grid? h = some gr → s.target sl .grid h = .ok (gr, List.range gr.blockCount) ∧
      (gr.record.spanSize = 0 → s.target sl .span h = .error 10) ∧
      (gr.blockCount ≤ (sl.src b).toNat → s.target sl (.block b) h = .error 2 ∧ s.target sl (.cohort b) h = .error 2) ∧
      ((sl.src b).toNat < gr.blockCount → s.target sl (.block b) h = .ok (gr, [(sl.src b).toNat]) ∧
        ∃ l, s.target sl (.cohort b) h = .ok (gr, l) ∧ (0 < gr.record.cohort → ∀ k, k ∈ l ↔ mateOf gr [(sl.src b).toNat] k))) ∧
    (ScalarAt s g m → g.id.isControl = false →
      ∀ ins, (ins = .quota gd a b ∨ (∃ k, ins = .preempt gd k a ∨ ins = .resume gd k a ∨ ins = .kill gd k a) ∨
          (∃ x, ins = .ctxsv x ∨ ins = .ctxld x) ∨ ∃ d p, ins = .launch gd d p) →
        exec ins s = .next (s.takeTrap g.id (TrapInfo.plain 0x05 1 0 (lowestSlice m) s.issue.words)))

/-- R51, R227, R228, R234: PREEMPT, RESUME and KILL on blocks of a grid that is not a span. PREEMPT holds the undispatched cohorts of its
target, halts its running cohorts and saves blocks that await placement; RESUME frees held cohorts, runs halted blocks on in place and asks
for saved ones to be placed, and waits while one is halting; KILL marks every live block, halts the rest of their cohorts and waits, or goes
on where none is left. A block being killed is to RESUME as killed (R421). -/
def Obligations.PreemptResumeKill : Prop :=
  ∀ (s : State) (g : Gang) (m : BitVec 8) (gd : Guard) (k : Target) (a : Src) (i : Nat) (sl : Slice) (gr : Grid) (l : List Nat),
    SupervisorAt s g m gd i sl → s.target sl k (sl.src a) = .ok (gr, l) → s.grid? gr.handle = some gr → gr.record.spanSize = 0 →
    0 < gr.record.cohort →
    (∃ t gr', exec (.preempt gd k a) s = .next t ∧ Passed s t g m ∧ OthersSame s t g.id ∧ t.grid? gr.handle = some gr' ∧
      gr' = { gr with held := gr'.held } ∧
      (∀ j, j ∈ gr'.held ↔ j ∈ gr.held ∨ (j ∈ s.undispatched gr ∧ mateOf gr l j)) ∧
      ∀ b y, s.block? b = some y → ∃ y', t.block? b = some y' ∧ y' = { y with state := y'.state } ∧
        y'.state = if b.handle = gr.handle ∧ b.index ∈ l then preempted y.state
          else if b.handle = gr.handle ∧ mateOf gr l b.index ∧ y.state = .running then .halting else y.state) ∧
    ((∀ b ∈ s.blocks, b.id.handle = gr.handle → b.id.index ∈ l → b.killing = false →
        b.state ≠ .halting ∧ ¬ (b.state = .halted ∧ b.integrity = true)) →
      ∃ t gr', exec (.resume gd k a) s = .next t ∧ Passed s t g m ∧ t.grid? gr.handle = some gr' ∧
        (∀ j, j ∈ gr'.held ↔ j ∈ gr.held ∧ ¬ mateOf gr l j) ∧
        (∀ b y, s.block? b = some y → ∃ y', t.block? b = some y' ∧
          y'.state = (if b.handle = gr.handle ∧ b.index ∈ l ∧ y.killing = false then resumed y.state else y.state) ∧
          y' = { y with state := y'.state }) ∧
        ∀ x ∈ s.gangs, x.id ≠ g.id → ∃ x', t.gang? x.id = some x' ∧
          ((∃ b y, x.id.block? = some b ∧ s.block? b = some y ∧ y.state = .halted ∧ y.killing = false ∧ b.handle = gr.handle ∧ b.index ∈ l) →
            x' = runsOn x) ∧
          ((∀ b y, x.id.block? = some b → s.block? b = some y →
            ¬ (y.state = .halted ∧ y.killing = false ∧ b.handle = gr.handle ∧ b.index ∈ l)) → x' = x)) ∧
    ((∃ b ∈ s.blocks, b.id.handle = gr.handle ∧ b.id.index ∈ l ∧ b.state = .halting ∧ b.killing = false) →
      (∀ b ∈ s.blocks, b.id.handle = gr.handle → b.id.index ∈ l → b.killing = false → ¬ (b.state = .halted ∧ b.integrity = true)) →
      ∃ ids, exec (.resume gd k a) s = .next (s.waitPart g m (.halting ids))) ∧
    ((∃ b ∈ s.blocks, b.id.handle = gr.handle ∧ b.id.index ∈ l ∧ b.state ≠ .exited ∧ b.state ≠ .killed) →
      ∃ t g' gr', exec (.kill gd k a) s = .next t ∧ t.gang? g.id = some g' ∧ OthersSame s t g.id ∧
        PartRuns g g' m (fun _ x => waiting (.killed gr.handle l s.issueSize) x) ∧
        t.grid? gr.handle = some gr' ∧ (∀ j, j ∈ gr'.killedBlocks ↔ j ∈ gr.killedBlocks ∨ (j ∈ s.undispatched gr ∧ j ∈ l)) ∧
        ∀ b y, s.block? b = some y → t.block? b = some (if b.handle = gr.handle ∧ b.index ∈ l then marked y
          else if b.handle = gr.handle ∧ mateOf gr l b.index ∧ y.state = .running then { y with state := .halting } else y)) ∧
    ((∀ b ∈ s.blocks, b.id.handle = gr.handle → b.id.index ∈ l → (b.state = .exited ∨ b.state = .killed) ∧ b.freed = true) →
      ∃ t, exec (.kill gd k a) s = .next t ∧ Passed s t g m)

/-- R227, R229, R233, R420, R421: CTXSV of a halted block whose engine work is done writes its image at a multiple of 4 KiB and saves it,
and the block keeps the numbers of its accumulator slots for its next placement (R58); CTXLD of a placed block whose image passes the checks
loads it, and outside a span the cohort runs once every live block of it is loaded. A member of a span leaves that to the coordinator
(log 33). Other states of the block, and a block being killed, trap with cause 0x0D, INFO 3, and an address that is not a multiple of 4 KiB
with INFO 5. -/
def Obligations.ContextImages : Prop :=
  ∀ (s s1 : State) (g : Gang) (m : BitVec 8) (x : CtxForm) (i : Nat) (sl : Slice) (gr : Grid) (b : Block),
    SupervisorAt s g m x.g i sl → s.grid? (sl.src x.b) = some gr → (sl.reg x.i.val).toNat < gr.blockCount →
    s.block? ⟨gr.handle, (sl.reg x.i.val).toNat, false⟩ = some b → s.block? ⟨gr.handle, (sl.reg x.i.val).toNat, true⟩ = none → 0 < gr.record.cohort →
    (b.state = .halted → s.saveReady b = true → sl.pair x.a % 4096 = 0 → (∃ r, s.pageWrite g.id (sl.pair x.a) (s.imageOf gr b) = (s1, .ok r)) →
      s1.blocks = s.blocks → s1.gangs = s.gangs →
      ∃ t, exec (.ctxsv x) s = .next t ∧ Passed s t g m ∧ t.mem = s1.mem ∧ t.ls = s1.ls ∧
        t.block? b.id = some { b with state := .saved, integrity := false, accs := [], latch := [], race := [], saver := none,
                                      want := b.accs.map (·.1) } ∧
        (∀ k, k ≠ b.id → t.block? k = s.block? k)) ∧
    (b.state ≠ .exited → b.state ≠ .killed → (b.state ≠ .halted ∧ b.state ≠ .halting ∨ b.killing = true ∧ b.saver ≠ some g.id) →
      ∃ t : State, exec (.ctxsv x) s = .next (t.takeTrap g.id (TrapInfo.plain 0x0D 3 0 i s.issue.words)) ∧ t.mem = s.mem ∧ t.gangs = s.gangs) ∧
    (∀ img, b.state = .placed → b.killing = false → sl.pair x.a % 4096 = 0 → s.readImage g.id gr.record (sl.pair x.a) = (s1, .ok img) →
      s1.imageBad gr b img = none → s1.blocks = s.blocks → s1.gangs = s.gangs → s1.grids = s.grids → s1.cohorts = s.cohorts →
      ∃ t b', exec (.ctxld x) s = .next t ∧ Passed s t g m ∧ t.block? b.id = some b' ∧
        (gr.record.spanSize = 0 → b'.state = (if ∀ y ∈ s.blocks, y.id.handle = gr.handle → mateOf gr [b.id.index] y.id.index → y.id ≠ b.id →
          y.state ∈ [BlockState.loaded, .exited, .killed] then .running else .loaded)) ∧
        (gr.record.spanSize ≠ 0 → gr.member s1.pkgId ≠ 0 → b'.state = .loaded) ∧ b'.want = [] ∧ b'.integrity = false ∧
        b'.barriers.length = 16 ∧ b'.accs.map (·.1) = imageSlots img ∧
        (∀ y ∈ s.gangs, y.id.block? = some b.id →
          t.gang? y.id = some (if b'.state = .running then runsOn (loadedGang s1 gr.record img y) else loadedGang s1 gr.record img y)) ∧
        t.ls = s1.ls.write b.base ((img.drop (0x2000 + gr.record.gangs * gangBytes gr.record + 0x10000 * (imageSlots img).length)).take
          (0x1000 * gr.record.lsSz))) ∧
    (b.state ≠ .pending ∧ b.state ≠ .placed ∨ b.killing = true → exec (.ctxld x) s = .next (s.takeTrap g.id (TrapInfo.plain 0x0D 3 0 i s.issue.words))) ∧
    (b.state = .placed → b.killing = false → sl.pair x.a % 4096 ≠ 0 →
      exec (.ctxld x) s = .next (s.takeTrap g.id (TrapInfo.plain 0x0D 5 0 i s.issue.words)))

/-! ## Bring-up, registers, power and units -/

namespace Sys2Proof.Claims

/-- The device registers of die `die` at the listed offsets take the listed values; every other register of the package is as it
was. -/
def RegsSet (s t : State) (die : Nat) (l : List (Nat × DWord)) : Prop :=
  ∀ d off, off < 2 ^ 48 → t.devGet d off = if d = die then (lookupAt off l).getD (s.devGet d off) else s.devGet d off
/-- All that changes is device registers of one die, as listed. -/
def OnlyRegs (s t : State) (die : Nat) (l : List (Nat × DWord)) : Prop := t = { s with dev := t.dev } ∧ RegsSet s t die l
/-- The start of a control core (R385): its one gang is new and stands at an address, its record runs with a root. -/
def CoreStarts (t : State) (c : ControlCore) (root : Nat) (identity : Bool) (pc : VAddr) : Prop :=
  t.control? c.die c.idx = some { c with root := root, identity := identity, running := true } ∧
  ∃ g, t.gang? (.control c.die c.idx) = some g ∧ g.halted = false ∧ g.exited = false ∧
    ∃ sl, g.slices = [sl] ∧ sl.pc = pc ∧ sl.active = 15 ∧ sl.loops = [] ∧ sl.queue = [] ∧ sl.wait = none
/-- The state in which a pending supervisor image is verified. -/
def verifyingDone (s : State) : State := { s with boot := { s.boot with verifying := none } }
/-- A die after one change; the other dies, and everything else but `boot`, are as they were. -/
def OnlyDie (s t : State) (die : Nat) (d : Die) : Prop :=
  t = { s with dies := t.dies } ∧ t.die die = d ∧ ∀ k, k ≠ die → t.die k = s.die k
/-- Whether a TLB invalidation of R87 covers the `n` bytes at an address: kind 3 every address, else those of the page of the kind's size. -/
def covered (v : DWord) (a n : Nat) : Bool :=
  let size := if v.toNat / 2 ^ 14 % 4 = 0 then 0x10000 else if v.toNat / 2 ^ 14 % 4 = 1 then 0x200000 else 0x40000000
  let base := v.toNat / 2 ^ 16 % 2 ^ 40 * 2 ^ 16 / size * size
  v.toNat / 2 ^ 14 % 4 == 3 || (base < a + n && a < base + size)
/-- No trap window: events and trap records leave memory as it is (R394, R397). -/
def NoWindow (s : State) : Prop := ∀ die, (s.devGet die 0x6000).getLsbD 0 = false
/-- A test pass asks for its next step on a die: a forced one always, another while TESTCTL enables its kind and the unit takes work and has
none (R468, R469). -/
def Asks (s : State) (die : Nat) (p : TestPass) : Prop :=
  p.die = die ∧ (p.forced = true ∨ ∃ kind num steps, testUnit die p.u = some (kind, num, steps) ∧
    (s.devGet die 0xE000).getLsbD (kind - 1) = true ∧ s.fenced die p.u = false ∧ s.unitBusy die p.u = false)
/-- Nothing runs that a lost die could hold: no block, no request in flight, no row job, no gang. -/
def Idle (s : State) : Prop := s.blocks = [] ∧ s.outstanding = [] ∧ s.rowJobs = [] ∧ s.gangs = [] ∧ s.ops = []

end Sys2Proof.Claims

/-- R379 to R385: the steps of bring-up that the package takes itself: the inbound regions of the boot ROM, the images, the control cores. That
STAGE becomes 3 with the last near control core is the model's reading (log 11). -/
def Sys2Proof.Claims.BootSteps : Prop :=
  ∀ (s : State) (v : DWord),
    (∃ t, exec .powerOn s = .next t ∧
      t = { s with dies := s.dies.map fun d => { d with powered := true, inReset := false, timebaseOn := true, ticks := s.ticks },
                   controls := s.controls.map fun c => if c.die = 12 ∧ c.idx = 0 then { c with identity := true } else c,
                   boot := { s.boot with romRegions := [62, 63] }, dev := t.dev } ∧
      RegsSet s t 12 [(0x4000, 1), (0x4020, 0), (0x4028, 0), (0x4030, 0), (0x4038, 0),
        (0x23E0, 0x000CF00000000000), (0x23E8, 0x9E00000100000000), (0x23F0, 0), (0x23F8, 0x9E00040000000000)]) ∧
    (v ≠ 1 ∨ s.stage ≠ 1 → exec (.bootcmdWrite v) s = .next s) ∧
    (s.stage = 1 →
      (∀ c, s.headerCause 0 1 = some c → ∃ t, exec (.bootcmdWrite 1) s = .next t ∧ OnlyRegs s t 12 [(0x4000, BitVec.ofNat 64 (15 + 256 * c))]) ∧
      (∀ s1, s.verifyImage 0 1 = (s1, .error 5) → ∃ t, exec (.bootcmdWrite 1) s = .next t ∧ OnlyRegs s1 t 12 [(0x4000, 0x50F)]) ∧
      ∀ s1 img c, s.verifyImage 0 1 = (s1, .ok img) → s.control? 12 0 = some c →
        ∃ t, exec (.bootcmdWrite 1) s = .next t ∧ t.stage = 2 ∧ t.boot = { s.boot with firmware := some img } ∧ t.mem = s1.mem ∧
          CoreStarts t c 0 true (BitVec.ofNat 56 (img.loadPa + img.entry))) ∧
    (s.boot.verifying.isSome = true → exec (.sbverifyWrite v) s = .next s) ∧
    (s.boot.verifying = none → ∃ t, exec (.sbverifyWrite v) s = .next t ∧
      t = { s with dev := t.dev, boot := { s.boot with verifying := some v.toNat } } ∧ RegsSet s t 12 [(0x4010, 1)]) ∧
    (∀ pa s1, s.boot.verifying = some pa →
      (∀ c, (verifyingDone s).verifyImage pa 2 = (s1, .error c) →
        ∃ t, exec .sbverifyDone s = .next t ∧ OnlyRegs s1 t 12 [(0x4010, BitVec.ofNat 64 (0x80 + c))]) ∧
      ∀ img, (verifyingDone s).verifyImage pa 2 = (s1, .ok img) →
        ∃ t, exec .sbverifyDone s = .next t ∧ t = { s1 with dev := t.dev, boot := { s1.boot with supervisor := some img } } ∧
          RegsSet s1 t 12 [(0x4010, 2)]) ∧
    ∀ c, s.control? (v.toNat / 16 % 16) (v.toNat % 2) = some c →
      (s.boot.supervisor = none ∨ c.running = true → exec (.ccstartWrite v) s = .next s) ∧
      ∀ img, s.boot.supervisor = some img → c.running = false → v.toNat / 16 % 16 < 8 →
        ∃ t, exec (.ccstartWrite v) s = .next t ∧
          CoreStarts t c (v.toNat / 2 ^ 16 * 2 ^ 16) false (BitVec.ofNat 56 (img.loadPa + img.entry)) ∧
          t.boot = s.boot ∧ t.mem = s.mem ∧
          ((s.controls.map fun x => (x.die, x.idx)).Nodup → (∀ x ∈ s.controls, x.die < 8 → x.running = true ∨ x = c) →
            t.stage = if s.stage = 2 then 3 else s.stage) ∧
          (∀ x ∈ s.controls, x.die < 8 → x.running = false → (x.die, x.idx) ≠ (c.die, c.idx) → t.stage = s.stage)

/-- R381 to R383: a header that fails a check ends the verification with the first cause and changes nothing. Otherwise the payload is
copied to LOADPA; a payload whose SHA-256 is not DIGEST is cause 5 and leaves MEASURE; an accepted image extends MEASURE once. -/
def Sys2Proof.Claims.ImagesAreVerified : Prop :=
  ∀ (s : State) (pa kind : Nat),
    (∀ c, s.headerCause pa kind = some c → s.verifyImage pa kind = (s, .error c)) ∧
    (s.headerCause pa kind = none →
      let load := s.mem.readNat (pa + 0x10) 8
      let payload := s.mem.read (pa + 0x400) (s.mem.readNat (pa + 0x20) 4)
      let digest := s.mem.read (pa + 0x40) 32
      (sha256 payload ≠ digest → s.verifyImage pa kind = ({ s with mem := s.mem.write load payload }, .error 5)) ∧
      (sha256 payload = digest → ∃ t, s.verifyImage pa kind =
          (t, .ok ⟨load, s.mem.readNat (pa + 0x18) 8, s.mem.readNat (pa + 8) 4⟩) ∧
        t = { s with mem := s.mem.write load payload, dev := t.dev } ∧
        t.devBytes 0x4020 4 = sha256 (s.devBytes 0x4020 4 ++ leBytes 1 kind ++ leBytes 4 (s.mem.readNat (pa + 8) 4) ++ digest) ∧
        ∀ d off, off < 2 ^ 48 → (d ≠ 12 ∨ off < 0x4020 ∨ 0x4040 ≤ off) → t.devGet d off = s.devGet d off)) ∧
    (s.mem.readNat pa 4 ≠ 0x4B473942 → s.headerCause pa kind = some 1) ∧
    (s.headerCause pa kind = none → s.mem.readNat (pa + 8) 4 ≥ Config.minSvn kind ∧ s.mem.readNat (pa + 0x200) 4 = 65537 ∧
      Config.keyHashes.contains (sha256 (s.mem.read (pa + 0x80) 384 ++ s.mem.read (pa + 0x200) 4)) = true)

/-- R379, R380, R381, R382, R383, R384, R385: both parts, each cited where it stands. -/
def Obligations.BringUp : Prop := Claims.BootSteps ∧ Claims.ImagesAreVerified

/-- R6, R75, R87, R384, R386, R388, R472, R473, R476: writes of device registers and the attestation, translation invalidation, test passes,
fences and monitors that they start; and the refresh of MGMT. -/
def Obligations.RegisterSteps : Prop :=
  ∀ (s : State) (die off : Nat) (v : DWord) (u : Nat),
    (regExists die off = false → exec (.registerWrite die off v) s = .next s) ∧
    (off = 0x4000 ∨ 0x4020 ≤ off ∧ off < 0x4040 ∨ 0x4100 ≤ off ∧ off < 0x4300 ∨ 0x5000 ≤ off ∧ off < 0x5100 ∨ 0x7000 ≤ off ∧ off < 0x70A0 →
      exec (.registerWrite die off v) s = .next s) ∧
    (∀ m, regExists die off = true → svMask off = some m →
      ∃ t, exec (.registerWrite die off v) s = .next t ∧ t = { s with dev := t.dev, boot := t.boot } ∧ RegsSet s t die [(off, v &&& m)] ∧
        t.boot = { s.boot with romRegions := if 0x2000 ≤ off ∧ off < 0x2400 then s.boot.romRegions.filter (· != (off - 0x2000) / 16)
                     else s.boot.romRegions }) ∧
    (0x4040 ≤ off → off < 0x4060 → ∃ t, exec (.registerWrite 12 off v) s = .next t ∧ OnlyRegs s t 12 [(off, v)]) ∧
    (die < 12 → ∃ t, exec (.retconsWrite die v) s = .next t ∧ OnlyRegs s t die [(0x158, v &&& 0xFFFFFFFF)]) ∧
    (v ≠ 1 ∨ s.boot.attesting.isSome = true → exec (.attreqWrite v) s = .next s) ∧
    (s.boot.attesting = none → ∃ t, exec (.attreqWrite 1) s = .next t ∧
      t = { s with dev := t.dev, boot := { s.boot with attesting := some (s.devBytes 0x4040 4 ++ s.devBytes 0x4020 4) } } ∧
      RegsSet s t 12 [(0x4060, 1)]) ∧
    (∀ bs : List Byte, s.boot.attesting = some bs → bs.length = 64 → ∃ t, exec .attestationReportDone s = .next t ∧
      t = { s with dev := t.dev, boot := { s.boot with attesting := none } } ∧ t.devGet 12 0x4060 = 0 ∧
      t.devBytes 0x4100 16 = bs ++ leBytes 2 s.pkgId ++ leBytes 1 ((s.devGet 12 0x1000).toNat / 2 ^ 24 % 256) ++ List.replicate 5 (0 : Byte) ++
        leBytes 4 (match s.boot.firmware with | some x => x.svn | none => 0) ++
        leBytes 4 (match s.boot.supervisor with | some x => x.svn | none => 0) ++ leBytes 8 (s.timebase 12).toNat ++ List.replicate 40 (0 : Byte) ∧
      ∀ d k, k < 2 ^ 48 → (d ≠ 12 ∨ k ≠ 0x4060 ∧ (k < 0x4100 ∨ 0x4300 ≤ k)) → t.devGet d k = s.devGet d k) ∧
    (∃ t, exec .mgmtRefresh s = .next t ∧ t = { s with dev := t.dev } ∧ t.devGet 12 0x5038 = s.timebase 12 ∧
      t.devGet 12 0x5030 = BitVec.ofNat 64 s.boot.stretches ∧
      ∀ d k, k < 2 ^ 48 → (d ≠ 12 ∨ k < 0x5000 ∨ 0x5040 ≤ k) → t.devGet d k = s.devGet d k) ∧
    (die < 8 ∨ die = 12 → exec (.tlbinvWrite die v) s =
      .next { s with invalidations := s.invalidations ++ [⟨die, v &&& 0x00FFFFFFFFFFC000, false, []⟩] }) ∧
    (∀ p : Invalidation, s.invalidations.find? (fun q => q.die == die && s.invDue q) = some p →
      ∃ t, exec (.tlbInvalidationComplete die) s = .next t ∧ t = { s with invalidations := t.invalidations, tlb := t.tlb } ∧
        (∀ e, e ∈ t.tlb ↔ e ∈ s.tlb ∧ ¬ (e.die = die ∧ covered p.v e.base e.size = true)) ∧
        (s.outstanding = [] → s.arrivals = [] → t.invalidations = s.invalidations.erase p) ∧
        (p.effective = false → (∃ o ∈ s.outstanding, o.src.die = die ∧ o.space = 0 ∧ covered p.v o.addr 1 = true) →
          ∃ l, t.invalidations = s.invalidations.map (fun x => if x = p then { p with effective := true, waits := l } else x) ∧
            ∀ k, k ∈ l ↔ ∃ o ∈ s.outstanding, o.src.die = die ∧ o.space = 0 ∧ covered p.v o.addr 1 = true ∧ k = (o.src, o.tsn))) ∧
    ((∀ p ∈ s.invalidations, p.die ≠ die) → exec (.tlbInvalidationComplete die) s = .next s) ∧
    (v.getLsbD 31 = true → (s.devGet die 0xE008).getLsbD 31 = false → (testUnit die (v.toNat % 2 ^ 16)).isSome = true →
      die < 13 → ∃ t, exec (.testreqWrite die v) s = .next t ∧
        t = { s with dev := t.dev, passes := s.passes.filter (fun p => !(p.die == die && p.u == v.toNat % 2 ^ 16)) ++
          [⟨die, v.toNat % 2 ^ 16, 0, true, true, false, false, s.clock⟩] } ∧
        RegsSet s t die [(0xE008, 0x80000000 ||| (s.devGet die 0xE008 &&& 0x40000000))]) ∧
    (v.getLsbD 31 = false ∨ (s.devGet die 0xE008).getLsbD 31 = true → exec (.testreqWrite die v) s = .next s) ∧
    ((s.devGet die 0xE008).getLsbD 31 = false → (testUnit die u).isSome = true →
      (s.unitBusy die u = true → s.fences.contains (die, u) = false →
        exec (.unitfenceFence die u) s = .next { s with fences := s.fences ++ [(die, u)] }) ∧
      (s.unitBusy die u = false → s.fenced die u = false → ∃ t, exec (.unitfenceFence die u) s = .next t ∧ t.fenced die u = true ∧
        t.mem = s.mem ∧ t.gangs = s.gangs ∧ t.fences = s.fences.filter (· != (die, u)) ∧
        ∀ b x, s.block? b = some x → t.block? b =
          some (if (t.fenceBlocks die u).contains b && x.state == .running then { x with state := .halting } else x)) ∧
      exec (.unitfenceLift die u) s = .next { s with passes := s.passes.filter (fun p => !(p.die == die && p.u == u)) ++
        [⟨die, u, 0, true, false, true, false, s.clock⟩] }) ∧
    ((s.devGet die 0xE008).getLsbD 31 = true → exec (.unitfenceLift die u) s = .next s) ∧
    (u < 16 → die < 13 → ∃ t, exec (.monctlClear die u) s = .next t ∧ t = { s with dev := t.dev, monitors := t.monitors } ∧
      RegsSet s t die [(0xE100 + 8 * u, s.devGet die (0xE100 + 8 * u) &&& 0x1FF)] ∧
      t.monitor die u = { Monitor.empty die u with last := (t.monitor die u).last } ∧
      ∀ d k, (d, k) ≠ (die, u) → t.monitor d k = s.monitor d k)

/-- R68, R21, R387, R400, R440, R450, R451, R467 to R477: power and temperature, refresh windows, tests, scrubbing and monitors. What a lost
die takes with it is stated of an idle package. That memories keep their contents while a die has no power, and over JUNCTION_OVER_115C, is the
model's choice (log 22), as are one P4 arbiter for each die (log 69) and how an error in an unscrubbed register file is numbered (log 23). -/
def Obligations.PowerAndUnits : Prop :=
  ∀ (s : State) (die u : Nat),
    s.dies.length = 13 → die < 13 →
    (∃ t, exec (.diePowerLoss die) s = .next t ∧
      t = { s with dies := t.dies, controls := s.controls.map fun c => if c.die = die then { c with running := false } else c } ∧
      t.die die = { s.die die with powered := false, timebaseOn := false } ∧ ∀ k, k ≠ die → t.die k = s.die k) ∧
    ((s.die die).powered = true → exec (.dieWake die) s = .next s) ∧
    ((s.die die).powered = false → Idle s → ∃ t, exec (.dieWake die) s = .next t ∧
      t.die die = { s.die die with powered := true, inReset := false, inc := (s.die die).inc + 1, timebaseOn := true, ticks := s.ticks } ∧
      (∀ k, k ≠ die → t.die k = s.die k) ∧ (∀ c ∈ t.controls, c.die = die → c.running = false) ∧
      t.tlb = s.tlb.filter (fun e => e.die != die) ∧ SameMemory s t ∧ t.dev = s.dev ∧
      t.outputs = s.outputs ++ [.incarnation die ((s.die die).inc + 1)]) ∧
    ((s.die die).powered = false → exec (.dieReset die) s = .next s) ∧
    ((s.die die).powered = true → Idle s → ∃ t, exec (.dieReset die) s = .next t ∧
      t.die die = { s.die die with inc := (s.die die).inc + 1, stretched := false, refresh := none, p4 := 0 } ∧
      (∀ k, k ≠ die → t.die k = s.die k) ∧ (∀ c ∈ t.controls, c.die = die → c.running = false) ∧
      t.tlb = s.tlb.filter (fun e => e.die != die) ∧ SameMemory s t ∧
      (∀ off, off < 2 ^ 48 → (die < 8 ∨ die = 12) → t.devGet die off = devReset off) ∧
      (∀ d off, d ≠ die → off < 0x8000 → t.devGet d off = s.devGet d off) ∧
      t.outputs = s.outputs ++ [.incarnation die ((s.die die).inc + 1)]) ∧
    ((s.die die).stretched = true → exec (.junctionOver100c die) s = .next s) ∧
    ((s.die die).stretched = false → ∃ t, exec (.junctionOver100c die) s = .next t ∧
      t = { s with dies := t.dies, boot := { s.boot with stretches := s.boot.stretches + 1 } } ∧
      t.die die = { s.die die with stretched := true } ∧ ∀ k, k ≠ die → t.die k = s.die k) ∧
    (∃ t, exec (.junctionBelow95c die) s = .next t ∧ OnlyDie s t die { s.die die with stretched := false }) ∧
    (∃ t, exec .junctionOver115c s = .next t ∧ t.stage = 0 ∧ t.gangs = [] ∧ t.blocks = [] ∧ t.grids = [] ∧ t.ops = [] ∧ SameMemory s t ∧
      (∀ k, k < 13 → (t.die k).powered = false ∧ (t.die k).inReset = true ∧ (t.die k).timebaseOn = (k == 12)) ∧ t.ticks = s.ticks ∧
      ∀ d off, off < 2 ^ 48 → t.devGet d off = devReset off) ∧
    (∃ t, exec (.wgtRefreshWindowStart die u) s = .next t ∧ OnlyDie s t die { s.die die with refresh := some u }) ∧
    ((s.die die).refresh = some u → ∃ t, exec (.wgtRefreshWindowEnd die u) s = .next t ∧ OnlyDie s t die { s.die die with refresh := none }) ∧
    ((s.die die).refresh ≠ some u → exec (.wgtRefreshWindowEnd die u) s = .next s) ∧
    ((s.die die).p4 < 4096 ∨ (∀ p ∈ s.passes, ¬ Asks s die p) ∧ (∀ m ∈ s.migrations, m.uses die = false) →
      exec (.p4StarvationGrant die) s = .next s) ∧
    (4096 ≤ (s.die die).p4 →
      (∀ p ∈ s.passes, Asks s die p → (∀ q ∈ s.passes, Asks s die q → q = p ∨ p.since < q.since) →
        (∀ m ∈ s.migrations, m.uses die = true → p.since ≤ m.since) → ∃ t, exec (.p4StarvationGrant die) s = .next t ∧
        t = { s with dies := t.dies, passes := s.passes.map fun x => if x = p then { p with granted := true } else x } ∧
        t.die die = { s.die die with p4 := 0 } ∧ ∀ k, k ≠ die → t.die k = s.die k) ∧
      ∀ m n, s.migrations.find? (fun x => x.uses die) = some m → s.migrations[n]? = some m →
        (∀ p ∈ s.passes, Asks s die p → m.since < p.since) → (∀ k, k ≠ die → m.uses k = true → (s.die k).p4 = 0) →
        exec (.p4StarvationGrant die) s = exec (.migrationComplete n) s) ∧
    (∀ arr granule, exec (.scrubRead arr die granule .clean) s = .next s) ∧
    (∀ arr granule, arr ∉ [EccArray.localStore, .l2, .wgtStore, .hbm] →
      s.devGet die 0x7040 ≠ BitVec.allOnes 64 → ∃ t, exec (.scrubRead arr die granule .corrected) s = .next t ∧
        OnlyRegs s t die [(0x7040, s.devGet die 0x7040 + 1)]) ∧
    (∀ g, (s.gangs.filter fun x => s.gangDie x.id == die)[u / 24576]? = some g → s.gang? g.id = some g →
      ∃ t g', exec (.scrubRead .regFile die u .uncorrectable) s = .next t ∧ OnlyGang s t g' ∧ g' = { g with bad := g'.bad } ∧
        ∀ k, k ∈ g'.bad ↔ k ∈ g.bad ∨ k = u % 24576) ∧
    (∀ arr granule, arr ∈ [EccArray.localStore, .l2, .wgtStore, .hbm] →
      (s.devGet die 0x7098 ≠ BitVec.allOnes 64 → ∃ t, exec (.scrubRead arr die granule .corrected) s = .next t ∧
        OnlyRegs s t die [(0x7098, s.devGet die 0x7098 + 1)]) ∧
      (NoWindow s → s.poison.contains (arr, die, granule) = false → exec (.scrubRead arr die granule .uncorrectable) s =
        .next { s with poison := s.poison ++ [(arr, die, granule)] })) ∧
    (let c := s.devGet die (0xE100 + 8 * u)
     let now := (s.devGet die (0x7000 + 8 * (c.toNat % 256 - 16))).toNat
     (16 ≤ u ∨ c.getLsbD 8 = false ∨ c.toNat % 256 < 16 → exec (.monitorInterval die u) s = .next s) ∧
     (u < 16 → c.getLsbD 8 = true → 16 ≤ c.toNat % 256 → ∃ t, exec (.monitorInterval die u) s = .next t ∧
       t = { s with monitors := t.monitors } ∧
       t.monitor die u = { (s.monitor die u).sample (now - (s.monitor die u).last) with last := now } ∧
       ∀ d k, (d, k) ≠ (die, u) → t.monitor d k = s.monitor d k)) ∧
    ∀ kind num steps, testUnit die u = some (kind, num, steps) →
      ((s.devGet die 0xE000).getLsbD (kind - 1) = false → ∀ r, exec (.idleTestStep die u r) s = .next s) ∧
      ((s.devGet die 0xE000).getLsbD (kind - 1) = true → s.fenced die u = false → s.unitBusy die u = false → s.pass? die u = none →
        s.devGet die 0x7080 ≠ BitVec.allOnes 64 → ∃ t, exec (.idleTestStep die u .pass) s = .next t ∧
          t.pass? die u = some ⟨die, u, 1, false, false, false, false, s.clock⟩ ∧ RegsSet s t die [(0x7080, s.devGet die 0x7080 + 1)] ∧ SameMemory s t) ∧
      ((s.pass? die u = none → ∀ r, exec (.forcedPassStep die u r) s = .next s) ∧
       ∀ p, s.pass? die u = some p → p.forced = true → s.devGet die 0x7080 ≠ BitVec.allOnes 64 →
        (p.step + 1 < steps → ∃ t, exec (.forcedPassStep die u .pass) s = .next t ∧ t.pass? die u = some { p with step := p.step + 1, granted := false, since := s.clock } ∧
          RegsSet s t die [(0x7080, s.devGet die 0x7080 + 1)] ∧ SameMemory s t) ∧
        (steps ≤ p.step + 1 → ∃ t, exec (.forcedPassStep die u .pass) s = .next t ∧ t.pass? die u = none ∧ t.suspect die u = false ∧
          t.fenced die u = (s.fenced die u && !p.lift) ∧ SameMemory s t) ∧
        (NoWindow s → p.step < 4096 → ∃ t, exec (.forcedPassStep die u .mismatch) s = .next t ∧ t.pass? die u = none ∧
          t.fenced die u = true ∧ (t.devGet die (0x20000 + 8 * u)).toNat / 2 ^ 48 % 2 ^ 12 = p.step ∧ SameMemory s t))

/-! ## Runs, wakes, dispatch, arrivals, translation -/

namespace Sys2Proof.Claims

/-- A slice that can start its next run does so (R29); a mask of LMASK takes effect then (R30). -/
def startedRun (sl : Slice) : Slice :=
  match sl.queue with
  | [] => sl
  | r :: rest => if sl.cur.isNone && waitReady sl.lwait then { sl with queue := rest, cur := some ⟨r, r.index⟩, active := r.mask.getD sl.active } else sl
/-- Bytes of the instruction that the end of a wait completes; none where the part executes its instruction again (R48). -/
def completes : Wait → Option Nat
  | .barrierDone _ n => some n
  | .drainDone => some 4
  | .killed _ _ n => some n
  | .yield _ => some 4
  | _ => none
/-- A slice of a part that wakes. -/
def woken (s : State) (g : Gang) (m : BitVec 8) (w : Wait) (sl : Slice) : Slice :=
  let x : Slice := { sl with wait := none, lwait := match sl.lwait with | some k => if s.waitOver g m k then none else some k | none => none }
  match completes w with
  | some n => x.advance n
  | none => x
def awake (sl : Slice) : Slice := { sl with wait := none }
/-- Another part, `p` of gang `x`, waits for the same condition as part `m` of `g`, which readies both at once (R48, R286): the end of a
barrier's phase in one cohort, a word named by one watch entry of a core, a handle of one cohort. -/
def WakesWith (s : State) (g : Gang) (m : BitVec 8) (w : Wait) (x : Gang) (p : BitVec 8) : Prop :=
  x ∈ s.gangs ∧ p ∈ x.parts ∧ ¬ (x.id = g.id ∧ p = m) ∧ s.canWake x = true ∧ s.wakeDue x p = true ∧
    ∃ v, x.partWait p = some v ∧ s.sameCause g.id w x.id v = true
/-- The word that an arrival leaves at a place of this package (R79). -/
def ArrivesAt (s t : State) (p : Place) (n : Nat) : Prop :=
  ∀ bs, arriveWord (s.readPlace p 16) n = some bs → t.readPlace p 16 = bs ∧ Elsewhere s t [.ok p] 16
/-- No entry of a die's own TLB translates an address in a context. -/
def Untranslated (s : State) (die cd cc va : Nat) : Prop :=
  ∀ e ∈ s.tlb, e.die = die → e.core = none → e.ctxDie = cd → e.ctxCore = cc → ¬ (e.base ≤ va ∧ va < e.base + e.size)
/-- A gang after the migration of the page whose entry lies at `pte` was abandoned: what waited on the page goes on (R427). -/
def released (pte : Nat) (g : Gang) : Gang :=
  let free (w : Wait) : Wait := if w = .migration pte then .inPlace pte else w
  { g with slices := g.slices.map fun sl => { sl with wait := sl.wait.map free, lwait := sl.lwait.map free } }
/-- A place in device memory or a local store. -/
def InMemory (p : Place) : Prop := (∃ pa h, p = .mem pa h) ∨ ∃ i b o, p = .ls i b o
/-- A block as it is dispatched (R23, R230). -/
def FreshBlock (b : Block) : Prop :=
  b.state = .running ∧ b.barriers = List.replicate 16 Barrier.empty ∧ b.accs = [] ∧ b.latch = [] ∧ b.issued = false ∧ b.freed = false ∧ b.killing = false
/-- A gang as it is dispatched. -/
def FreshGang (r : LaunchRec) (g : Gang) : Prop :=
  g.l = 0 ∧ g.s = 0 ∧ g.c = 0 ∧ g.t = 0 ∧ g.batch = 0 ∧ g.sealed = [] ∧ g.halted = false ∧ g.exited = false ∧
  g.parts = [BitVec.ofNat 8 (2 ^ r.slices - 1)] ∧ g.slices.length = r.slices ∧
  ∀ sl ∈ g.slices, sl.pc = r.entry ∧ sl.active = 15 ∧ sl.loops = [] ∧ sl.queue = [] ∧ sl.cur = none ∧ sl.exited = false ∧ sl.wait = none
/-- The retire ring's next slot on a die (R75). -/
def retireSlot (s : State) (die : Nat) : Nat :=
  (s.devGet die 0x140).toNat + 8 * ((s.devGet die 0x150).toNat % 2 ^ (s.devGet die 0x148).toNat)

end Sys2Proof.Claims

/-- R29, R48, R286, R289, R290, R298: RUN_START, the end of waits, the parts that one condition wakes together, the second tests of WAIT and MWAIT, which execute again, and the end of YIELD's
16 cycles. That WAITC with a limit of 0 for l or s also waits for the part's queued runs is the model's reading (log 55). -/
def Obligations.PartsGoOn : Prop :=
  ∀ (s : State) (g : Gang) (m : BitVec 8),
    s.gang? g.id = some g →
    (s.gangLive g = true → ∃ t g', exec (.runStart g.id m) s = .next t ∧ OnlyGang s t g' ∧ g'.parts = g.parts ∧
      PartRuns g g' m (fun _ sl => startedRun sl)) ∧
    (∀ w, s.canWake g = true → g.partWait m = some w → s.wakeDue g m = true → (∀ x p, ¬ WakesWith s g m w x p) →
      ∃ t g', exec (.partWake g.id m) s = .next t ∧ t.gang? g.id = some g' ∧ OthersSame s t g.id ∧ Quiet s t ∧
        PartRuns { g with arrived := match w with | .barrierDone b _ => g.arrived &&& ~~~(1#16 <<< b) | _ => g.arrived, acq := g'.acq } g' m
          (fun _ sl => woken s g m w sl)) ∧
    (∀ w x p, s.canWake g = true → g.partWait m = some w → s.wakeDue g m = true → WakesWith s g m w x p → s.gang? x.id = some x →
      ∃ t g' x', exec (.partWake g.id m) s = .next t ∧ t.gang? g.id = some g' ∧ g'.partWait m = none ∧
        t.gang? x.id = some x' ∧ x'.partWait p = none ∧ Quiet s t) ∧
    (∀ l sc c t, s.determ g.id = false → g.partWait m = some (.counters l sc c t) →
      (s.wakeDue g m = true ↔ g.l ≤ l ∧ g.s ≤ sc ∧ g.c ≤ c ∧ g.t ≤ t ∧
        (l = 0 ∨ sc = 0 → ∀ i sl, i < 8 → m.getLsbD i = true → g.slice? i = some sl → sl.queue = [] ∧ sl.cur = none))) ∧
    (s.canWake g = false → exec (.partWake g.id m) s = .next s) ∧
    (∀ w, s.canWake g = true → s.determ g.id = false → g.partWait m = some w → ((∃ sp a v, w = .sync sp a v) ∨ ∃ sp a v, w = .stamp sp a v) →
      ∃ t g', exec (.watchRetest g.id m) s = .next t ∧ exec (.stampReread g.id m) s = .next t ∧ OnlyGang s t g' ∧
        PartRuns g g' m (fun _ sl => waiting .rewatch sl)) ∧
    (∀ l, s.canWake g = true → g.partWait m = some (.yield l) →
      ∃ t g', exec (.yieldTimeout g.id m) s = .next t ∧ OnlyGang s t g' ∧ PartRuns g g' m (fun _ sl => (awake sl).advance 4)) ∧
    ((∀ l, g.partWait m ≠ some (.yield l)) → exec (.yieldTimeout g.id m) s = .next s)

/-- R23, R39 to R42, R49, R60, R355: the next cohort of a grid that has its turn and room is dispatched, of a deterministic grid not before
every distributor of DIEMASK serves it: one new block a spot with its gangs, its partition zero. A satisfied dependency is noted; a time
slice that expires adds 1 to the stamp at EVSTAMP. -/
def Obligations.GridsAreServed : Prop :=
  ∀ (s s1 : State) (h : Word) (gr : Grid),
    s.grid? h = some gr →
    (∀ (c : Nat) (rest : List Nat) (l : List Spot),
      gr.record.spanSize = 0 → gr.record.redun = false → 1 ≤ gr.record.cohort → gr.record.cohort ≤ 16 → gr.admits = true →
      (gr.record.determ = true → gr.phase = .notStarted → ∀ d ∈ gr.record.dies, (s.served d).contains gr.handle = true) →
      s.pendingCohorts gr = [] → s.readyCohorts gr = c :: rest →
      let is := (s.undispatched gr).filter fun i => i / gr.record.cohort == c
      s.choosePlaces gr is (gr.record.firstDies.filter fun d => (s.served d).contains gr.handle) = some [(false, l)] →
      ∃ t new gs, exec (.blockDispatch h) s = .next t ∧ t.blocks = s.blocks ++ new ∧ t.gangs = s.gangs ++ gs ∧
        new.map (·.id) = is.map (fun i => ⟨h, i, false⟩) ∧ (∀ b ∈ new, FreshBlock b) ∧
        gs.map (·.id) = (new.flatMap fun b => (List.range gr.record.gangs).map fun n => GangId.compute b.id n) ∧
        (∀ g ∈ gs, FreshGang gr.record g) ∧
        (∀ b ∈ new, ∀ a, b.base ≤ a → a < b.base + 4096 * gr.record.lsSz → t.ls.get a = 0) ∧
        t.grid? h = some { gr with next := gr.next + is.length, timerOn := gr.timerOn || gr.record.sliceLen != 0 } ∧ t.mem = s.mem ∧
        t.cohorts = s.cohorts ++ [⟨h, c, false, [], 0, 0, 0⟩]) ∧
    (s.dispatchPlan gr = none → exec (.blockDispatch h) s = .next s) ∧
    (gr.depMet = true → exec (.dependencyReread h) s = .next s) ∧
    (∀ p, gr.depMet = false → gr.isEarly = false → (s.outstanding.any fun o => o.owner == .device h) = false → s.poison = [] →
      s.deviceLocate gr (.word false) gr.record.depWord 16 = (s1, .ok p) → InMemory p → s1.poison = [] →
      (Satisfied false gr.record.depGen.toNat (s1.readPlace p 16) →
        exec (.dependencyReread h) s = .next (s1.setGrid { gr with depMet := true })) ∧
      (¬ Satisfied false gr.record.depGen.toNat (s1.readPlace p 16) → exec (.dependencyReread h) s = .next s1)) ∧
    (gr.timerOn = false ∨ gr.record.sliceLen = 0 ∨ gr.record.evStamp = 0 → exec (.sliceTimerExpiry h) s = .next s) ∧
    ∀ pa k, gr.timerOn = true → gr.record.sliceLen ≠ 0 → gr.record.evStamp ≠ 0 →
      (∃ b ∈ s.blocks, b.id.handle = h ∧ b.state = .running) →
      s.deviceLocate gr (.word true) gr.record.evStamp 8 = (s1, .ok (.mem pa k)) → s1.poison = [] →
      exec (.sliceTimerExpiry h) s = .next { s1 with mem := s1.mem.write pa (leBytes 8 ((s1.mem.readNat pa 8 + 1) % 2 ^ 64)) }

/-- R73, R74, R79, R85, R86, R288, R338, R427, R428: a gang's arrival reaches its word once the arrivals before it at that word, and with
.REL every earlier scalar access of its gang, are performed; a walk fills the TLB of the die; a migration ends, or is abandoned and what
waited goes on at the old location. What a migration lets through outside the gangs is left to a state without grids and blocks. -/
def Obligations.ArrivalsWalksMigrations : Prop :=
  ∀ (s : State) (n : Nat),
    (∀ (a : Arrival) (gid : GangId) (g : Gang) (p : Place), s.arrivals[n]? = some a → a.src = some gid → a.op = none → a.place = some p →
      InMemory p →
      (s.arrivalTurn a (s.arrivals.take n) = true ↔
        (a.rel = true → s.scalarSent gid = false ∧ ∀ x ∈ s.arrivals.take n, ¬ (x.src = some gid ∧ x.op = none)) ∧
        (∀ x ∈ s.arrivals.take n, x.src = some gid → x.op = none → ∀ q, x.place = some q → p ≠ q ∧ p.meets 16 q 16 = false) ∧
        s.flightMeets gid false p 16 = false ∧ s.hasRoom (s.requester gid) 1 = true) ∧
      (s.arrivalTurn a (s.arrivals.take n) = false → exec (.syncWordArrival n) s = .next s) ∧
      (s.arrivalTurn a (s.arrivals.take n) = true → s.gang? gid = some g → Plain s gid → s.memOk = true →
        p.die (s.gangDie gid) = s.gangDie gid → s.reachesKilled gid a.space = false →
        (arriveWord (s.readPlace p 16) a.n).isSome = true →
        ∃ t, exec (.syncWordArrival n) s = .next t ∧ ArrivesAt s t p a.n ∧ t.arrivals = s.arrivals.eraseIdx n ∧ t.gangs = s.gangs ∧
          t.blocks = s.blocks)) ∧
    (s.arrivals[n]? = none → exec (.syncWordArrival n) s = .next s) ∧
    (∀ (die cd cc : Nat) (va : VAddr) (s1 : State) (l : Leaf), Untranslated s die cd cc va.toNat →
      s.walk die cd cc va.toNat = (s1, .leaf l) → s1.tlb = s.tlb →
      paKind (l.pa va.toNat) ≠ .none → pteMig l.pte = false → pteFar l.pte = false →
      (s.tlb.filter fun e => e.die == die && e.core.isNone).length < 8192 →
      let new : TlbEntry := ⟨die, none, cd, cc, l.base, l.size, l.pte, l.ptePa⟩
      ∃ t, exec (.walkComplete die cd cc va) s = .next t ∧ t = { s1 with tlb := t.tlb } ∧ new ∈ t.tlb ∧
        (∀ e ∈ t.tlb, e = new ∨ e ∈ s.tlb) ∧
        ∀ e ∈ s.tlb, (e.core ≠ none ∨ e.die ≠ die ∨ e.ctxDie ≠ cd ∨ e.ctxCore ≠ cc ∨ e.base ≠ l.base) → e ∈ t.tlb) ∧
    (∀ (die cd cc : Nat) (va : VAddr) (s1 : State) (x : Walked), Untranslated s die cd cc va.toNat →
      s.walk die cd cc va.toNat = (s1, x) → (∀ l, x ≠ .leaf l) → exec (.walkComplete die cd cc va) s = .next s1) ∧
    (∀ (die cd cc : Nat) (va : VAddr), (∀ x ∈ s.controls, ¬ (x.die = cd ∧ x.idx = cc)) →
      s.walk die cd cc va.toNat = (s, .fault ⟨0x10, 0, 0, va.toNat⟩)) ∧
    ∀ (m : Migration), s.migrations[n]? = some m → s.grids = [] → s.blocks = [] → s.heldMerges = [] →
      (m.failed = none → s.migrationBad m = none → s.retireFull m.retireDie = true →
        ∃ t, exec (.migrationComplete n) s = .next t ∧ t = { s with dies := t.dies }) ∧
      (m.failed = none → s.migrationBad m = none → s.landsIn m = false → s.retireFull m.retireDie = false → s.mem.wf = true → m.size = 0x10000 →
        (m.oldFrame + m.size ≤ m.frame ∨ m.frame + m.size ≤ m.oldFrame) →
        (m.ptePa + 8 ≤ retireSlot s m.retireDie ∨ retireSlot s m.retireDie + 8 ≤ m.ptePa) →
        ∃ t, exec (.migrationComplete n) s = .next t ∧ t.migrations = s.migrations.erase m ∧
          t.mem.readNat m.ptePa 8 = ((m.oldPte &&& 0xFDEFFFF000000000) ||| (if m.demote then 0x0200000000000000 else 0) |||
            BitVec.ofNat 64 (m.frame / 2 ^ 16)).toNat ∧
          t.mem.readNat (retireSlot s m.retireDie) 8 = m.oldFrame % 2 ^ 64 ∧
          (t.devGet m.retireDie 0x150).toNat = ((s.devGet m.retireDie 0x150).toNat + 1) % 2 ^ 32 ∧
          (∀ a, a < m.size → ¬ (m.ptePa ≤ m.frame + a ∧ m.frame + a < m.ptePa + 8) →
            ¬ (retireSlot s m.retireDie ≤ m.frame + a ∧ m.frame + a < retireSlot s m.retireDie + 8) →
            t.mem.get (m.frame + a) = s.mem.get (m.oldFrame + a)) ∧
          ∀ a, (a < m.frame ∨ m.frame + m.size ≤ a) → ¬ (m.ptePa ≤ a ∧ a < m.ptePa + 8) →
            ¬ (retireSlot s m.retireDie ≤ a ∧ a < retireSlot s m.retireDie + 8) → t.mem.get a = s.mem.get a) ∧
      (∀ cause, NoWindow s → s.mem.wf = true → m.size = 0x10000 →
        let die := if m.demote then m.far else m.oldPte.toNat / 2 ^ 53 % 8
        (s.retireFull die = true → ∃ t, exec (.migrationAbandon n cause) s = .next t ∧
          t.migrations = s.migrations.map (fun x => if x = m then { m with failed := some cause.toNat } else x) ∧ t.mem = s.mem ∧
          t.gangs = s.gangs ∧ t.dev = s.dev) ∧
        (s.retireFull die = false → (m.ptePa + 8 ≤ retireSlot s die ∨ retireSlot s die + 8 ≤ m.ptePa) →
        ∃ t, exec (.migrationAbandon n cause) s = .next t ∧ t.migrations = s.migrations.erase m ∧
          t.mem.readNat m.ptePa 8 = m.oldPte.toNat ∧ t.mem.readNat (retireSlot s die) 8 = (m.frame + 1) % 2 ^ 64 ∧
          t.inPlace = s.inPlace ++ [m.ptePa] ∧ t.gangs = s.gangs.map (released m.ptePa)))

/-! ## Links, requests and the host -/

namespace Sys2Proof.Claims

/-- A module that exists (R442). -/
def moduleExists (die m : Nat) : Bool := m < (if die < 8 then 24 else if die < 12 then 4 else if die = 12 then 80 else 0)
/-- A count rises by 1 and never wraps (R400). -/
def up (v : DWord) : DWord := if v = BitVec.allOnes 64 then v else v + 1
/-- The request `o` ends, counted as performed (R294), and what it was fetched for has its answer: bytes, or a fault. It and its reply are no
longer on their way. -/
def Answered (s t : State) (o : Outgoing) (g : GangId) (code : Bool) (bs : List Byte) (f : Option AccFault) : Prop :=
  t = { s with outstanding := s.outstanding.erase o, fetched := s.fetched ++ [⟨g, o.addr, code, bs, f⟩], retired := t.retired,
               cohorts := t.cohorts, flights := t.flights, modules := t.modules, monitors := t.monitors }
/-- The state of a Grender port after three replays of one flit have failed (R452). -/
def downTrained (st : Nat) : Nat := if st = 2 then 3 else if st = 3 then 4 else 7
/-- The offset of a Grender port's register. -/
def portReg (n : Nat) : Nat := 0xB000 + 0x20 * n
/-- The state that a request finds once ACKTSN has been taken (R98). -/
def acked (f : Filter) (t : BitVec 16) : Filter := { f with acked := t, done := f.done.filter fun p => (p.1 - t).toNat < 256 }

end Sys2Proof.Claims

/-- R98, R100, R446, R447, R451: what die 12 does with a request of another package. Before any plane has a key there is none. ACKTSN is taken of
every request of the current incarnation, dropped ones too. A request for a migrating page waits, and later ones of the same die to the
same line wait behind it (R73, R99). -/
def Sys2Proof.Claims.RequestsFromOutside : Prop :=
  ∀ (s : State),
    (∀ r : Request, r.src.pkg ≠ s.pkgId → (∀ n, n < 32 → (s.devGet 12 (0xB000 + 0x20 * n)).toNat / 2 ^ 8 % 2 ^ 4 = 0) →
      exec (.requestAtTarget r) s = .next s) ∧
    (s.anyKey = true → ∀ (r : Request) (f : Filter), r.src.pkg ≠ s.pkgId →
      s.filters.find? (fun x => x.die == 12 && x.src == r.src) = some f →
      (f.inc = r.inc →
        (256 ≤ (r.tsn - f.acked).toNat → ∃ t, exec (.requestAtTarget r) s = .next t ∧
          t = { s with dev := t.dev, filters := t.filters } ∧ t.devGet 12 0x7060 = up (s.devGet 12 0x7060) ∧ acked f r.acktsn ∈ t.filters) ∧
        ((r.tsn - f.acked).toNat < 256 →
          (∀ b, f.done.find? (fun p => p.1 == r.tsn) = some (r.tsn, b) → ∃ t, exec (.requestAtTarget r) s = .next t ∧
            t = { s with dev := t.dev, filters := t.filters, outputs := s.outputs ++ [.reply ⟨r.src, r.tsn, r.inc, b⟩] } ∧
            t.devGet 12 0x7058 = up (s.devGet 12 0x7058) ∧ acked f r.acktsn ∈ t.filters) ∧
          (f.done.find? (fun p => p.1 == r.tsn) = none →
            ((∃ q, .requestAtTarget q ∈ s.parked ∧ q.src.pkg = r.src.pkg ∧ q.src.die = r.src.die ∧ q.addr.plane = r.addr.plane) →
              exec (.requestAtTarget r) s = .next { s with parked := s.parked ++ [.requestAtTarget r] }) ∧
            ((∀ i ∈ s.parked, r.mustFollow i = false) →
              (∀ s1, s.executeRequest r = (s1, .wait) →
                exec (.requestAtTarget r) s = .next { s1 with parked := s1.parked ++ [.requestAtTarget r] }) ∧
              ∀ s1 b, s.executeRequest r = (s1, .reply b) → ∃ t, exec (.requestAtTarget r) s = .next t ∧
                t = { s1 with filters := t.filters, outputs := s1.outputs ++ [.reply ⟨r.src, r.tsn, r.inc, b⟩] } ∧
                acked { f with done := f.done ++ [(r.tsn, b)] } r.acktsn ∈ t.filters)))) ∧
      (f.inc ≠ r.inc → (f.inc - r.inc).toNat < 2 ^ 15 →
        ∃ t, exec (.requestAtTarget r) s = .next t ∧ t = { s with dev := t.dev } ∧ t.devGet 12 0x7060 = up (s.devGet 12 0x7060))) ∧
    ∀ r : Request, s.supports r.op = false → s.executeRequest r = (s, .reply .notSupported)

/-- R98, R446, R451: what a die of this package does with a request of another of its dies that has come over the links to a place of its own:
a die in reset or without power refuses it, a request of an older incarnation or one acknowledged is dropped, one answered before is answered
again and not performed; of the machine's memory and gangs none of these changes anything. That requests within the package are held on
their way, and by which steps they arrive, is the model's form of them (log 66). -/
def Sys2Proof.Claims.RequestsFromInside : Prop :=
  ∀ (s : State) (r : Request) (f : Flight) (p : Place),
    r.src.pkg = s.pkgId → s.requestFlight? r = some (f, p) → f.out.dest ≠ f.out.src.die →
    let b := f.out.dest
    let still (t : State) : Prop := SameMemory s t ∧ t.gangs = s.gangs ∧ t.outstanding = s.outstanding
    let answers (t : State) (x : ReplyBody) : Prop := still t ∧ ∃ y ∈ t.flights, y.out = f.out ∧ y.reply = some x
    ((s.die b).powered = false ∨ (s.die b).inReset = true → ∃ t, exec (.requestAtTarget r) s = .next t ∧ answers t (.error 0x51 2)) ∧
    ((s.die b).powered = true → (s.die b).inReset = false → ∀ x, s.filters.find? (fun y => y.die == b && y.src == f.out.src) = some x →
      (x.inc ≠ f.inc → (x.inc - f.inc).toNat < 2 ^ 15 → ∃ t, exec (.requestAtTarget r) s = .next t ∧ still t ∧
        t.devGet b 0x7060 = up (s.devGet b 0x7060) ∧ t.flights = s.flights.erase f) ∧
      (x.inc = f.inc → 256 ≤ (f.out.tsn - x.acked).toNat → ∃ t, exec (.requestAtTarget r) s = .next t ∧ still t ∧
        t.devGet b 0x7060 = up (s.devGet b 0x7060) ∧ t.flights = s.flights.erase f ∧ acked x f.acktsn ∈ t.filters) ∧
      (x.inc = f.inc → (f.out.tsn - x.acked).toNat < 256 → ∀ y, x.done.find? (fun q => q.1 == f.out.tsn) = some (f.out.tsn, y) →
        ∃ t, exec (.requestAtTarget r) s = .next t ∧ answers t y ∧ t.devGet b 0x7058 = up (s.devGet b 0x7058) ∧
          acked x f.acktsn ∈ t.filters)) ∧
    ∀ q : Request, q.src.pkg = s.pkgId → s.requestFlight? q = none → exec (.requestAtTarget q) s = .next s

/-- R98, R443, R449 to R451: a requester with a reply from outside the package, a late or stale reply, a timeout and a host's answer. A die
without power takes none; a reply for which the link from die 12 is not active waits there. The request of an instruction fetch stands for
what a requester's owner does with an answer; its requester holds fewer than 256. -/
def Sys2Proof.Claims.RepliesAndTimeouts : Prop :=
  ∀ (s : State),
    (∀ r : Reply, (s.die r.dst.die).powered = false → exec (.replyAtRequester r) s = .next s) ∧
    (∀ r : Reply, (s.die r.dst.die).powered = true → s.replyFlight? r = none → (∀ a, s.linkActive 12 r.dst.die a = false) →
      exec (.replyAtRequester r) s = .next { s with parked := s.parked ++ [.replyAtRequester r] }) ∧
    (∀ r : Reply, (s.die r.dst.die).powered = true → s.replyFlight? r = none → (∀ a, s.linkActive 12 r.dst.die a = true) →
      (r.inc ≠ (s.die r.dst.die).inc → ∃ t, exec (.replyAtRequester r) s = .next t ∧ t = { s with dev := t.dev, modules := t.modules } ∧
        t.devGet r.dst.die 0x7030 = up (s.devGet r.dst.die 0x7030)) ∧
      (r.inc = (s.die r.dst.die).inc →
        (∀ o g code, s.outstanding.find? (fun x => x.src == r.dst && x.tsn == r.tsn) = some o → o.owner = .fetch g code → s.hasRoom o.src 1 = true →
          (∀ bs, r.body = .data bs → ∃ t, exec (.replyAtRequester r) s = .next t ∧ Answered s t o g code.isSome bs none ∧ t.retired = s.retired) ∧
          (∀ c i, r.body = .error c i → ∃ t, exec (.replyAtRequester r) s = .next t ∧
            Answered s t o g code.isSome [] (some ⟨c.toNat, i.toNat, o.space, o.addr⟩) ∧ t.retired = s.retired)) ∧
        ((∀ o ∈ s.outstanding, ¬ (o.src = r.dst ∧ o.tsn = r.tsn)) →
          ((r.dst, r.tsn) ∈ s.retired → ∃ t, exec (.replyAtRequester r) s = .next t ∧ t = { s with dev := t.dev, modules := t.modules } ∧
            t.devGet r.dst.die 0x7050 = up (s.devGet r.dst.die 0x7050)) ∧
          ((r.dst, r.tsn) ∉ s.retired → ∃ t, exec (.replyAtRequester r) s = .next t ∧ t = { s with modules := t.modules })))) ∧
    (∀ (q : Requester) (tsn : BitVec 16),
      ((s.die q.die).powered = false → exec (.requestTimeout q tsn) s = .next s) ∧
      (∀ o g code, (s.die q.die).powered = true → s.outstanding.find? (fun x => x.src == q && x.tsn == tsn) = some o → o.owner = .fetch g code →
        s.hasRoom o.src 1 = true →
        ∃ t, exec (.requestTimeout q tsn) s = .next t ∧ Answered s t o g code.isSome [] (some ⟨0x51, 1, o.space, o.addr⟩) ∧
          t.retired = s.retired ++ [(o.src, o.tsn)]) ∧
      ((∀ o ∈ s.outstanding, ¬ (o.src = q ∧ o.tsn = tsn)) → exec (.requestTimeout q tsn) s = .next s)) ∧
    ∀ (tag : Nat) (bs : List Byte),
      (∀ o g code, s.outstanding.find? (fun x => x.target == 512 && x.tag == tag) = some o → o.owner = .fetch g code → s.hasRoom o.src 1 = true →
        ∃ t, exec (.hostWindowRmaResponse tag (.data bs)) s = .next t ∧ Answered s t o g code.isSome bs none ∧ t.retired = s.retired) ∧
      ((∀ o ∈ s.outstanding, o.target ≠ 512) →
        (∀ q tsn, s.retired = [(q, tsn)] → tag = tsn.toNat + 2 ^ 16 * (q.agent + 2 ^ 8 * q.die) →
          ∃ t, exec (.hostWindowRmaResponse tag (.data bs)) s = .next t ∧ t = { s with dev := t.dev } ∧
            t.devGet q.die 0x7050 = up (s.devGet q.die 0x7050)) ∧
        (s.retired = [] → exec (.hostWindowRmaResponse tag (.data bs)) s = .next s))

/-- R98, R100, R443, R446, R447, R449, R450, R451: the three parts, each cited where it stands. -/
def Obligations.RequestsAndReplies : Prop := Claims.RequestsFromOutside ∧ Claims.RequestsFromInside ∧ Claims.RepliesAndTimeouts

/-- R88 to R91, R380, R459: an inbound RMA is checked whole, performed and acknowledged, or answered with the first error class; a write for
a migrating page waits, and one of its ROD context waits behind it (R73, R90). While the boot ROM waits for BOOTCMD, or has failed, every
region but those it opened is refused. An unsupported request is answered so; an abandoned context is noted. -/
def Obligations.HostRequests : Prop :=
  ∀ (s : State) (key : DWord) (off : Nat) (data : List Byte) (rod : Option Nat) (port w code : Nat),
    let i := key.toNat % 64
    let hi := (s.devGet 12 (0x2008 + 16 * i)).toNat
    let src := hi / 2 ^ 61 % 4
    let write := Instr.inboundRmaWrite ⟨key, rod⟩ off data
    let read := Instr.inboundRmaRead key off data.length
    let sends (l : List Output) : State := { s with outputs := s.outputs ++ l }
    ((∃ c k o d, .inboundRmaWrite ⟨k, some c⟩ o d ∈ s.parked ∧ rod = some c) →
      exec write s = .next { s with parked := s.parked ++ [write] }) ∧
    ((∀ x ∈ s.parked, rmaMustFollow rod x = false) →
     (i ∈ s.boot.romRegions →
       (key.toNat / 2 ^ 32 ≠ hi % 2 ^ 32 → exec write s = .next (sends [.rmaError 1]) ∧ exec read s = .next (sends [.rmaError 1])) ∧
       (key.toNat / 2 ^ 32 = hi % 2 ^ 32 → hi / 2 ^ 32 % 2 ^ 18 * 2 ^ 16 < off + data.length →
         exec write s = .next (sends [.rmaError 2]) ∧ exec read s = .next (sends [.rmaError 2])) ∧
       (key.toNat / 2 ^ 32 = hi % 2 ^ 32 → off + data.length ≤ hi / 2 ^ 32 % 2 ^ 18 * 2 ^ 16 →
         (i = 63 → exec write s = .next { s with mem := s.mem.write off data, outputs := s.outputs ++ [.rmaDone []] } ∧
           exec read s = .next (sends [.rmaDone (s.mem.read off data.length)])) ∧
         (i = 62 →
           (off + data.length ≤ 0x4008 ∨ 0x4010 ≤ off → exec write s = .next (sends [.rmaDone []])) ∧
           exec read s = .next (sends [.rmaDone ((List.range data.length).map fun k =>
             if 0x4000 ≤ off + k ∧ off + k < 0x6000 then (s.regBytes 12 (off + k) 1).headD 0 else 0)])))) ∧
     (i ∉ s.boot.romRegions →
       (s.stage = 1 ∨ s.stage = 15 → exec write s = .next (sends [.rmaError 1]) ∧ exec read s = .next (sends [.rmaError 1])) ∧
       (s.stage ≠ 1 → s.stage ≠ 15 →
        (hi / 2 ^ 63 = 0 ∨ src = 1 ∨ src = 3 ∨ hi % 2 ^ 32 ≠ key.toNat / 2 ^ 32 →
          exec write s = .next (sends [.rmaError 1]) ∧ exec read s = .next (sends [.rmaError 1])) ∧
        (hi / 2 ^ 63 = 1 → src = 0 ∨ src = 2 → hi % 2 ^ 32 = key.toNat / 2 ^ 32 →
          (hi / 2 ^ 32 % 2 ^ 18 * 2 ^ 16 < off + data.length →
            exec write s = .next (sends [.rmaError 2]) ∧ exec read s = .next (sends [.rmaError 2])) ∧
          (off + data.length ≤ hi / 2 ^ 32 % 2 ^ 18 * 2 ^ 16 →
            (hi / 2 ^ 59 % 2 = 0 → exec write s = .next (sends [.rmaError 3])) ∧
            (hi / 2 ^ 60 % 2 = 0 → exec read s = .next (sends [.rmaError 3])))) ∧
        (∀ s1 l, s.rmaCheck key off data.length true = (s1, .ok l) → exec write s = .next ((s1.rmaWrite l data).emit (.rmaDone []))) ∧
        (∀ s1, s.rmaCheck key off data.length true = (s1, .wait) → exec write s = .next { s1 with parked := s1.parked ++ [write] }) ∧
        (∀ s1, s.rmaCheck key off data.length false = (s1, .wait) → exec read s = .next { s1 with parked := s1.parked ++ [read] }) ∧
        ∀ s1 l, s.rmaCheck key off data.length false = (s1, .ok l) →
          exec read s = .next { s1 with outputs := s1.outputs ++ [.rmaDone (l.flatMap fun p => s1.readPlace p.1 p.2)] }))) ∧
    exec .ueUnsupportedRequest s = .next (sends [.notSupported]) ∧
    (NoWindow s → (∀ o ∈ s.outstanding, ¬ (o.target = 512 ∧ o.plane = w)) →
      ∃ t, exec (.ueContextAbandoned port w code) s = .next t ∧ t = { s with abandoned := t.abandoned } ∧ ∀ k, k ∈ t.abandoned ↔ k ∈ s.abandoned ∨ k = w)

/-- R442, R443, R463: what the two ends of a UCIe module do with a failed flit, a request to send again, acknowledgements, the replay timer
and the end of a retraining. An end that discards, while nothing is sent to it again, hears neither acknowledgement nor request. A module that fails is stated with nothing outstanding, whose end it could be. -/
def Sys2Proof.Claims.ModuleSteps : Prop :=
  ∀ (s : State) (die m n : Nat) (bad : BitVec 64),
    let reg := 0x8000 + 0x40 * m
    let p := modulePeer die m
    let preg := 0x8000 + 0x40 * p.2
    let me := s.module die m
    let other := s.module p.1 p.2
    let st := (s.devGet die reg).toNat % 8
    let pst := (s.devGet p.1 preg).toNat % 8
    let hears : Prop := pst ≠ 1 ∧ pst ≠ 7 ∧ (me.discarding = false ∨ other.again = true)
    let fails := if other.again then other.replays + 1 else 0
    moduleExists die m = true →
    (st = 1 ∨ st = 7 ∨ me.discarding = true ∧ other.again = false →
      ∃ t, exec (.flitCrcFail die m) s = .next t ∧ OnlyRegs s t die [(reg + 0x10, up (s.devGet die (reg + 0x10)))]) ∧
    (st ≠ 1 → st ≠ 7 → me.discarding = false ∨ other.again = true →
      (fails < 3 →
        ∃ t, exec (.flitCrcFail die m) s = .next t ∧ t = { s with dev := t.dev, modules := t.modules, outputs := s.outputs ++ [.retry die m] } ∧
          RegsSet s t die [(reg + 0x10, up (s.devGet die (reg + 0x10)))] ∧ t.module die m = { me with discarding := true } ∧
          t.module p.1 p.2 = { other with replays := fails, again := false }) ∧
      (3 ≤ fails → (s.devGet die reg).toNat / 2 ^ 8 % 2 ^ 8 ≠ 32 →
        ∃ t, exec (.flitCrcFail die m) s = .next t ∧ (t.devGet die reg).toNat % 8 = 1 ∧ (t.devGet p.1 preg).toNat % 8 = 1 ∧
          t.devGet die (reg + 0x18) = up (s.devGet die (reg + 0x18)) ∧ t.devGet p.1 (preg + 0x18) = up (s.devGet p.1 (preg + 0x18))) ∧
      (3 ≤ fails → (s.devGet die reg).toNat / 2 ^ 8 % 2 ^ 8 = 32 → s.outstanding = [] →
        ∃ t, exec (.flitCrcFail die m) s = .next t ∧ (t.devGet die reg).toNat % 8 = 7 ∧ (t.devGet p.1 preg).toNat % 8 = 7)) ∧
    (st ≠ 1 → st ≠ 7 → me.flits ≠ [] → ∃ t, exec (.replayTimerExpiry die m) s = .next t ∧ (hears → exec (.retryRequest die m) s = .next t) ∧
      t = { s with dev := t.dev, modules := t.modules, flights := t.flights, outputs := s.outputs ++ [.flits die m me.flits] } ∧
      t.module die m = { me with again := true } ∧ (∀ d k, (d, k) ≠ (die, m) → t.module d k = s.module d k) ∧
      (∀ f ∈ s.flights, f ∈ t.flights) ∧
      (t.devGet die (reg + 8)).toNat = min ((s.devGet die (reg + 8)).toNat + me.flits.length) (2 ^ 64 - 1)) ∧
    (st = 1 ∨ st = 7 → exec (.replayTimerExpiry die m) s = .next s) ∧
    (st = 1 ∨ st = 7 ∨ ¬ hears → exec (.retryRequest die m) s = .next s ∧ exec (.flitAck die m n) s = .next s) ∧
    (st ≠ 1 → st ≠ 7 → hears → 0 < n → ∃ t, exec (.flitAck die m n) s = .next t ∧ t = { s with modules := t.modules } ∧
      t.module die m = { me with flits := me.flits.drop n, again := me.again && n < me.flits.length, replays := 0 } ∧
      ∀ d k, (d, k) ≠ (die, m) → t.module d k = s.module d k) ∧
    (st ≠ 1 → exec (.retrainComplete die m bad) s = .next s) ∧
    (st = 1 →
      (∀ k, k < 64 → bad.getLsbD k = true → (∀ j, j < k → bad.getLsbD j = false) → bad.toNat / 2 ^ 32 = 0 ∨ bad.toNat % 2 ^ 32 = 0 →
        ∃ t, exec (.retrainComplete die m bad) s = .next t ∧ t.gangs = s.gangs ∧ t.outstanding = s.outstanding ∧
          t.devGet die reg = BitVec.ofNat 64 ((if bad.toNat / 2 ^ 32 = 0 then 4 else 3) + 2 ^ 8 * 32 + 2 ^ 16 * k) ∧
          t.devGet p.1 preg = t.devGet die reg) ∧
      (bad.toNat / 2 ^ 32 ≠ 0 → bad.toNat % 2 ^ 32 ≠ 0 → s.outstanding = [] → ∃ t, exec (.retrainComplete die m bad) s = .next t ∧
        (t.devGet die reg).toNat % 8 = 7 ∧ (t.devGet p.1 preg).toNat % 8 = 7))

/-- R99, R100, R452 to R454, R460: failures of flits at Grender ports, key rotation, planes reported failed, and CXL ports. Requests that
a failed plane or port would send again or end are left out. -/
def Sys2Proof.Claims.PortSteps : Prop :=
  ∀ (s : State) (die m n : Nat),
    let st := (s.devGet 12 (portReg n)).toNat
    let more := (s.port n).fails + 1
    (32 ≤ n ∨ st % 8 = 7 → exec (.grenderFlitFail n) s = .next s ∧ exec (.grenderAuthFail n) s = .next s ∧ exec (.keyRotation n) s = .next s) ∧
    (n < 32 → st % 8 ≠ 7 →
      (more < 4 →
        (∃ t, exec (.grenderFlitFail n) s = .next t ∧ t = { s with dev := t.dev, ports := t.ports } ∧
          RegsSet s t 12 (if Config.farEnd s.clock then [(portReg n + 8, up (s.devGet 12 (portReg n + 8)))]
            else [(portReg n + 0x10, up (s.devGet 12 (portReg n + 0x10)))]) ∧
          (t.port n).fails = if Config.sameFlit s.clock then more else 1) ∧
        (∃ t, exec (.grenderAuthFail n) s = .next t ∧ t = { s with dev := t.dev, ports := t.ports } ∧
          RegsSet s t 12 [(0x7068, up (s.devGet 12 0x7068)), (portReg n + 0x10, up (s.devGet 12 (portReg n + 0x10)))] ∧
          (t.port n).fails = if Config.sameFlit s.clock then more else 1)) ∧
      (4 ≤ more → Config.sameFlit s.clock = true → (downTrained (st % 8) = 7 → s.outstanding = []) →
        (∃ t, exec (.grenderFlitFail n) s = .next t ∧ (t.devGet 12 (portReg n)).toNat % 8 = downTrained (st % 8) ∧ (t.port n).fails = 0) ∧
        (∃ t, exec (.grenderAuthFail n) s = .next t ∧ (t.devGet 12 (portReg n)).toNat % 8 = downTrained (st % 8) ∧ (t.port n).fails = 0)) ∧
      (let old := st / 2 ^ 8 % 2 ^ 4
       (st / 2 ^ 12 % 2 = 1 → exec (.keyRotation n) s = .next s) ∧
       (st / 2 ^ 12 % 2 = 0 → ∃ t, exec (.keyRotation n) s = .next t ∧ OnlyRegs s t 12 [(portReg n, BitVec.ofNat 64
         (st % 8 + 2 ^ 8 * (if old = 15 then 1 else old + 1) + (if old = 0 then 0 else 2 ^ 12)))]))) ∧
    (∀ pkg, (s.devGet 12 (portReg n)).toNat / 2 ^ 8 % 2 ^ 4 = 0 ∨ st % 8 = 7 ∨ (n, pkg) ∈ s.badPlanes → s.planeUsable n pkg = false) ∧
    ((n, m) ∈ s.badPlanes → exec (.switchPortFailed n m) s = .next s) ∧
    ((n, m) ∉ s.badPlanes → (∀ o ∈ s.outstanding, ¬ (o.plane = n ∧ o.target = m)) →
      exec (.switchPortFailed n m) s = .next { s with badPlanes := s.badPlanes ++ [(n, m)] }) ∧
    (8 ≤ die → die < 12 → n < 4 →
      let off := 0xC000 + 0x20 * n
      let used (x : Migration) : Prop := inPort die n (if x.demote then x.frame else x.oldFrame) = true
      ((s.devGet die off).toNat % 4 = 3 → exec (.cxlPortFail die n) s = .next s) ∧
      ((s.devGet die off).toNat % 4 ≠ 3 → ∃ t, exec (.cxlPortFail die n) s = .next t ∧ t.devGet die off = 3 ∧ t.gangs = s.gangs ∧
        t.outstanding = s.outstanding ∧ t.migrations.length = s.migrations.length ∧
        ∀ (k : Nat) (x : Migration), s.migrations[k]? = some x →
          (used x → ∃ c, t.migrations[k]? = some { x with failed := some c }) ∧ (¬ used x → t.migrations[k]? = some x)))

/-- R99, R100, R442 to R445, R452 to R454, R460, R463: both parts, each cited where it stands. -/
def Obligations.LinkFailures : Prop := Claims.ModuleSteps ∧ Claims.PortSteps

/-! ## Spans -/

namespace Sys2Proof.Claims

/-- The members of a span other than this package, by index. -/
def others (s : State) (x : Span) : List Nat := (List.range x.members.length).filter fun m => x.members.getD m 0 != s.pkgId
/-- A list of outputs follows those of `s`. -/
def Sends (s t : State) (l : List Output) : Prop := t.outputs = s.outputs ++ l
/-- The coordinator's message to every other member, each on its plane (R99). -/
def toMembers (s : State) (x : Span) (f : Nat → ControlMsg) : List Output := (others s x).flatMap fun m => s.controlTo (x.members.getD m 0) (f m)
/-- One message to every other package of a grid's span. -/
def toAll (s : State) (gr : Grid) (m : ControlMsg) : List Output := (gr.record.pkgList.filter (· != s.pkgId)).flatMap fun p => s.controlTo p m
/-- The acknowledgements of a round with one more. -/
def withAck (x : Span) (m : Nat) : Span := { x with acked := x.acked.filter (· != m) ++ [m] }
/-- A running block of the grid begins to halt. -/
def haltOf (gr : Grid) (b : BlockId) (x : Block) : Block := if b.handle = gr.handle ∧ x.state = .running then { x with state := .halting } else x
/-- A loaded block of the grid runs. -/
def goOf (gr : Grid) (b : BlockId) (x : Block) : Block := if b.handle = gr.handle ∧ x.state = .loaded then { x with state := .running } else x
/-- The member of a grid goes on: its gangs may issue, its window is open, and what was loaded runs (R45, R53, R65, R227). -/
def Goes (s t : State) (gr : Grid) : Prop :=
  t.grid? gr.handle = some { gr with spanPlaced := true, windowOpen := true } ∧ ∀ b x, s.block? b = some x → t.block? b = some (goOf gr b x)
/-- The member of a grid stops (R51): its blocks begin to halt, its gangs issue no more. -/
def Stops (s t : State) (gr : Grid) : Prop :=
  t.grid? gr.handle = some { gr with stopIssued := true } ∧ (∀ b x, s.block? b = some x → t.block? b = some (haltOf gr b x)) ∧
  ∀ g ∈ s.gangs, (∃ b ∈ s.blocks, b.id.handle = gr.handle ∧ g.id.block? = some b.id) → t.gang? g.id = some { g with stopped := true }

/-- Nothing more is known of barrier `b`'s phase in a span. -/
def Cleared (t : State) (k : SpanKey) (b : BitVec 4) : Prop := (k, b.toNat) ∉ t.spanArrived ∧ t.spanFlushed k b.toNat = none
/-- What a message of a span barrier says is noted, and nothing else changes. -/
def Noted (s t : State) (k : SpanKey) (b : Nat) : SpanBarrierMsg → Prop
  | .othersArrived | .complete => t = { s with spanArrived := t.spanArrived } ∧ ∀ p, p ∈ t.spanArrived ↔ p ∈ s.spanArrived ∨ p = (k, b)
  | .flush => t = { s with spanFlush := t.spanFlush } ∧ t.spanFlushed k b = some ((s.spanFlushed k b).getD false)
  | .flushed => t = { s with spanFlush := t.spanFlush } ∧ t.spanFlushed k b = (s.spanFlushed k b).map fun _ => true
/-- A member with no gang left has nothing to flush, and has arrived in a next phase too (R286). -/
def Absent (s : State) (k : SpanKey) (b : BitVec 4) : Prop :=
  (∃ t, exec (.spanBarrierCombine k b .complete) s = .next t ∧
    t = { s with spanArrived := t.spanArrived, spanFlush := t.spanFlush, outputs := s.outputs ++ s.controlTo k.coord (.spanBarrier k b.toNat .othersArrived) } ∧
    Cleared t k b) ∧
  exec (.spanBarrierCombine k b .flush) s = .next { s with outputs := s.outputs ++ s.controlTo k.coord (.spanBarrier k b.toNat .flushed) } ∧
  exec (.spanBarrierCombine k b .othersArrived) s = .next s ∧ exec (.spanBarrierCombine k b .flushed) s = .next s

end Sys2Proof.Claims

/-- R45, R112, R226, R458: reservations at a member and the rounds of a coordinator. That the coordinator waits for every answer before it
judges them is the model's choice (log 50). -/
def Obligations.SpanReservations : Prop :=
  ∀ (s : State) (k : SpanKey) (n : Nat) (yes : Bool),
    let telling (u : State) (m : ControlMsg) : Outcome := .next { u with outputs := s.outputs ++ s.controlTo k.coord m }
    let asked : State := { s with reserveQueue := s.reserveQueue.filter (· != k) }
    (k.coord ≠ s.pkgId →
      ((∀ gr, s.spanGrid? k = some gr → s.spanWaiting gr = false) → exec (.spanReserveRequest k) s = telling asked (.spanAnswer k false)) ∧
      (∀ gr, s.spanGrid? k = some gr → s.spanWaiting gr = true →
        (∀ p, s.reservation = none → s.choosePlaces gr (s.spanBlocks gr) gr.record.firstDies = some p →
          exec (.spanReserveRequest k) s = telling { asked with reservation := some ⟨k, gr.handle, p⟩ } (.spanAnswer k true)) ∧
        (s.reservation = none → s.choosePlaces gr (s.spanBlocks gr) gr.record.firstDies = none →
          exec (.spanReserveRequest k) s = telling asked (.spanAnswer k false)) ∧
        ∀ v, s.reservation = some v →
          (v.key = k → exec (.spanReserveRequest k) s = telling asked (.spanAnswer k true)) ∧
          (k.coord < v.key.coord ∨ k.coord = v.key.coord ∧ k.spanId < v.key.spanId → s.reserveQueue.contains k = false →
            exec (.spanReserveRequest k) s = .next { s with reserveQueue := s.reserveQueue ++ [k] }) ∧
          (v.key.coord < k.coord ∨ k.coord = v.key.coord ∧ v.key.spanId < k.spanId →
            exec (.spanReserveRequest k) s = telling asked (.spanAnswer k false)))) ∧
    (∀ x, s.span? k = some x → x.round = .reserve → (∀ a ∈ x.answers, a.1 ≠ n) →
      ((∃ m, m < x.members.length ∧ m ≠ n ∧ ∀ a ∈ x.answers, a.1 ≠ m) →
        ∃ t, exec (.spanReserveAnswer k n yes) s = .next t ∧ t = { s with spans := t.spans } ∧
          t.span? k = some { x with answers := x.answers ++ [(n, yes)] }) ∧
      ((∀ m, m < x.members.length → m = n ∨ ∃ a ∈ x.answers, a.1 = m) →
        (yes = true → (∀ a ∈ x.answers, a.2 = true) → ∃ t y, exec (.spanReserveAnswer k n yes) s = .next t ∧
          Sends s t (toMembers s x (.spanCommit k)) ∧ t.span? k = some y ∧ y.round = .commit ∧ y.acked = []) ∧
        (yes = false ∨ (∃ a ∈ x.answers, a.2 = false) → ∃ t y, exec (.spanReserveAnswer k n yes) s = .next t ∧
          Sends s t (toMembers s x (.spanRelease k)) ∧ t.span? k = some y ∧ y.round = .release ∧
          t.reservation = s.reservation.filter (fun v => v.key != k) ∧ t.blocks = s.blocks))) ∧
    (∀ x gr, s.span? k = some x → x.round = .retry → s.grid? x.handle = some gr → gr.spanKey = k → gr.record.pkgList = x.members →
      ∃ t, exec (.spanRetryTimer k) s = .next t ∧ ∀ m ∈ others s x, ∀ o ∈ s.controlTo (x.members.getD m 0) (.spanReserve k m), o ∈ t.outputs) ∧
    ((∀ x, s.span? k = some x → x.round ≠ .retry) → exec (.spanRetryTimer k) s = .next s) ∧
    ((∀ v, s.reservation = some v → v.key ≠ k) → exec (.spanCommit k) s = telling s (.spanCommitAck k .commit)) ∧
    (∀ v gr, s.reservation = some v → v.key = k → s.spanGrid? k = some gr → s.grid? gr.handle = some gr →
      ∃ t gr', exec (.spanCommit k) s = .next t ∧ t.reservation = none ∧ Sends s t (s.controlTo k.coord (.spanCommitAck k .commit)) ∧
        t.grid? gr.handle = some gr' ∧ gr'.windowOpen = (s.pendingCohorts gr).isEmpty ∧ gr'.stopIssued = false ∧ gr'.spanPlaced = false) ∧
    exec (.spanRelease k) s = telling { s with reservation := s.reservation.filter (fun v => v.key != k) } (.spanCommitAck k .release)

/-- R45, R51, R53, R65, R66, R227, R228, R286, R431, R458: acknowledgements, loads, timeouts, stop-issue, kills and barriers of a span. The
messages by which members learn that all are placed, or loaded, are the model's (log 33). -/
def Obligations.SpanRounds : Prop :=
  ∀ (s : State) (k : SpanKey) (n : Nat), (s.blocks.map (·.id)).Nodup → (s.gangs.map (·.id)).Nodup →
    (∀ x a, s.span? k = some x → (x.round = .commit ∧ a = .commit ∨ x.round = .release ∧ a = .release) →
      ((∃ m ∈ others s x, m ≠ n ∧ m ∉ x.acked) → ∃ t, exec (.commitAcknowledged k ⟨n, a⟩) s = .next t ∧ t = { s with spans := t.spans } ∧
        t.span? k = some (withAck x n)) ∧
      ((∀ m ∈ others s x, m = n ∨ m ∈ x.acked) →
        (x.round = .release → ∃ t, exec (.commitAcknowledged k ⟨n, a⟩) s = .next t ∧ t = { s with spans := t.spans } ∧
          t.span? k = some { withAck x n with round := .retry }) ∧
        (∀ gr, x.round = .commit → s.grid? x.handle = some gr →
          (s.spanReloads x.handle = false → ∃ t, exec (.commitAcknowledged k ⟨n, a⟩) s = .next t ∧
            t.span? k = some { withAck x n with round := .placed, loaded := [] } ∧ Goes s t gr ∧ Sends s t (toMembers s x (.spanReady k))) ∧
          ((∃ b ∈ s.blocks, b.id.handle = gr.handle ∧ b.state = .placed) → ∃ t, exec (.commitAcknowledged k ⟨n, a⟩) s = .next t ∧
            t = { s with spans := t.spans } ∧ t.span? k = some { withAck x n with round := .placed })))) ∧
    (∀ x gr, s.span? k = some x → x.round = .placed → s.grid? x.handle = some gr →
      let y : Span := { x with loaded := x.loaded.filter (· != n) ++ [n] }
      ((∃ m ∈ others s x, m ≠ n ∧ m ∉ x.loaded) → ∃ t, exec (.commitAcknowledged k ⟨n, .loaded⟩) s = .next t ∧ t = { s with spans := t.spans } ∧
        t.span? k = some y) ∧
      ((∀ m ∈ others s x, m = n ∨ m ∈ x.loaded) → (∀ b ∈ s.blocks, b.id.handle = gr.handle → b.state ≠ .exited → b.state ≠ .killed → b.state = .loaded) →
        ∃ t, exec (.commitAcknowledged k ⟨n, .loaded⟩) s = .next t ∧ t.span? k = some { x with loaded := [] } ∧ Goes s t gr ∧
          Sends s t (toMembers s x (.spanReady k)))) ∧
    (∀ gr, s.spanGrid? k = some gr → s.grid? gr.handle = some gr → ∃ t, exec (.commitAcknowledged k ⟨n, .ready⟩) s = .next t ∧ Goes s t gr ∧ Sends s t []) ∧
    (∀ x, s.span? k = some x → x.round = .stop →
      ((∃ m ∈ others s x, m ≠ n ∧ m ∉ x.acked) → ∃ t, exec (.stopIssueAck k n) s = .next t ∧ t = { s with spans := t.spans } ∧
        t.span? k = some (withAck x n)) ∧
      (∀ gr, (∀ m ∈ others s x, m = n ∨ m ∈ x.acked) → s.grid? x.handle = some gr → ∃ t, exec (.stopIssueAck k n) s = .next t ∧
        t.span? k = some { withAck x n with round := .placed } ∧ t.grid? x.handle = some { gr with windowOpen := false })) ∧
    (∀ x, s.span? k = some x → x.round = .reserve → exec (.spanMessageTimeout k n) s = exec (.spanReserveAnswer k n false) s) ∧
    (∀ x msg, s.span? k = some x → n ∉ x.acked →
      (x.round = .commit ∧ msg = ControlMsg.spanCommit k n ∨ x.round = .release ∧ msg = ControlMsg.spanRelease k n ∨
        x.round = .stop ∧ msg = ControlMsg.spanStop k n) →
      ((lookupAt n x.attempts).getD 1 < 8 → ∃ t, exec (.spanMessageTimeout k n) s = .next t ∧
        t.span? k = some { x with attempts := insertAt n ((lookupAt n x.attempts).getD 1 + 1) x.attempts } ∧
        Sends s t (s.controlTo (x.members.getD n 0) msg)) ∧
      (∀ gr, 8 ≤ (lookupAt n x.attempts).getD 1 → NoWindow s → s.grid? x.handle = some gr → gr.spanKey = k →
        ∃ t gr', exec (.spanMessageTimeout k n) s = .next t ∧ Sends s t (toAll s gr (.spanKill k)) ∧ t.grid? x.handle = some gr' ∧
          gr'.spanKilled = true ∧ gr'.windowOpen = false ∧ ∀ b y, s.block? b = some y → t.block? b = some (if b.handle = gr.handle then marked y else y))) ∧
    (s.spanGrid? k = none → exec (.spanStopIssue k) s = .next { s with outputs := s.outputs ++ s.controlTo k.coord (.spanStopAck k) } ∧
      exec (.spanKillMessage k) s = .next s ∧ exec (.commitAcknowledged k ⟨n, .ready⟩) s = .next s ∧
      ∀ b, Absent s k b) ∧
    ∀ gr, s.spanGrid? k = some gr → s.grid? gr.handle = some gr →
      (gr.member s.pkgId ≠ 0 → ∃ t, exec (.spanStopIssue k) s = .next t ∧ Sends s t (s.controlTo k.coord (.spanStopAck k)) ∧ Stops s t gr) ∧
      (∀ x, gr.member s.pkgId = 0 → gr.stopIssued = false → s.span? k = some x → x.handle = gr.handle → others s x ≠ [] →
        ∃ t, exec (.spanStopIssue k) s = .next t ∧ Sends s t (toMembers s x (.spanStop k)) ∧ Stops s t gr ∧
          t.span? k = some { x with round := .stop, acked := [], attempts := [] }) ∧
      (gr.spanKilled = false → (∃ b ∈ s.blocks, b.id.handle = gr.handle ∧ b.state = .running) →
        ∃ t gr', exec (.spanKillMessage k) s = .next t ∧ t.grid? gr.handle = some gr' ∧ gr'.spanKilled = true ∧ gr'.windowOpen = false ∧
          Sends s t [] ∧ ∀ b x, s.block? b = some x → t.block? b = some (if b.handle = gr.handle then marked x else x)) ∧
      ∀ (b : BitVec 4) (msg : SpanBarrierMsg),
        (s.spanExited gr = true →
          (gr.member s.pkgId ≠ 0 → Absent s k b) ∧
          (gr.member s.pkgId = 0 →
            (msg = .othersArrived → gr.record.determ = false → s.spanFlushed k b.toNat = none →
              ∃ t, exec (.spanBarrierCombine k b msg) s = .next t ∧ t = { s with outputs := t.outputs, spanArrived := t.spanArrived, spanFlush := t.spanFlush } ∧
                Sends s t (toAll s gr (.spanBarrier k b.toNat .flush)) ∧ (k, b.toNat) ∈ t.spanArrived ∧ t.spanFlushed k b.toNat = some false) ∧
            (msg = .othersArrived ∧ gr.record.determ = true ∨
                msg = .flushed ∧ (k, b.toNat) ∈ s.spanArrived ∧ (s.spanFlushed k b.toNat).isSome = true →
              ∃ t, exec (.spanBarrierCombine k b msg) s = .next t ∧ t = { s with outputs := t.outputs, spanArrived := t.spanArrived, spanFlush := t.spanFlush } ∧
                Sends s t (toAll s gr (.spanBarrier k b.toNat .complete)) ∧ Cleared t k b))) ∧
        (s.spanExited gr = false →
          (gr.record.determ = true ∧ gr.phase = .executing ∨
            ∀ x ∈ s.blocks, x.id.handle = gr.handle → x.freed = false → (x.barrier b.toNat).scope ≠ 5) →
          ∃ t, exec (.spanBarrierCombine k b msg) s = .next t ∧ Noted s t k b.toNat msg) ∧
        ∀ x, s.spanExited gr = false → ¬ (gr.record.determ = true ∧ gr.phase = .executing) →
          s.blocks.find? (fun y => y.id.handle == gr.handle && !y.freed && (y.barrier b.toNat).scope == 5) = some x →
          s.block? x.id = some x → x.barriers.length = 16 → s.allArrived x b.toNat 5 = true →
          s.grid? x.id.handle = some gr → gr.spanKey = k → (∀ g ∈ s.gangs, g.abuf = []) → s.outstanding = [] → x ∈ s.barrierBlocks x 5 →
          (∀ y ∈ s.barrierBlocks x 5, y.barriers.length = 16) →
          let ends (t : State) : Prop := Cleared t k b ∧
            ∀ y ∈ s.barrierBlocks x 5, t.block? y.id = some (y.setBarrier b.toNat ⟨!(y.barrier b.toNat).phase, 0, 0, 7⟩)
          (gr.member s.pkgId = 0 → msg = .othersArrived → gr.record.determ = false → s.spanFlushed k b.toNat = none →
            ∃ t, exec (.spanBarrierCombine k b msg) s = .next t ∧ Sends s t (toAll s gr (.spanBarrier k b.toNat .flush)) ∧
              t.spanFlushed k b.toNat = some false ∧ t.blocks = s.blocks ∧ t.gangs = s.gangs) ∧
          (gr.member s.pkgId = 0 → msg = .othersArrived ∧ gr.record.determ = true ∨
              msg = .flushed ∧ gr.record.determ = false ∧ (s.spanFlushed k b.toNat).isSome = true →
            ∃ t, exec (.spanBarrierCombine k b msg) s = .next t ∧ Sends s t (toAll s gr (.spanBarrier k b.toNat .complete)) ∧ ends t) ∧
          (gr.member s.pkgId ≠ 0 → msg = .flush → gr.record.determ = false → (k, b.toNat) ∉ s.spanArrived → s.spanFlushed k b.toNat ≠ some true →
            ∃ t, exec (.spanBarrierCombine k b msg) s = .next t ∧ Sends s t (s.controlTo k.coord (.spanBarrier k b.toNat .flushed)) ∧
              t.spanFlushed k b.toNat = some true ∧ t.blocks = s.blocks ∧ t.gangs = s.gangs) ∧
          (gr.member s.pkgId ≠ 0 → msg = .complete → ∃ t, exec (.spanBarrierCombine k b msg) s = .next t ∧ Sends s t [] ∧ ends t)

/-! ## Engines at work -/

namespace Sys2Proof.Claims

/-- Operation `o` is the machine's and has not ended; its gang is `g`, whose grid keeps plain accesses. -/
def Working (s : State) (o : EngineOp) (g : Gang) : Prop :=
  s.op? o.id = some o ∧ o.complete = false ∧ o.waiting = false ∧ s.gang? o.gang = some g
/-- The record of an operation that has ended. -/
def ended (o : EngineOp) : EngineOp := { o with complete := true, waiting := false }
/-- A sub-request to this package is answered: the reply is kept for its merge. -/
def Replies (s t : State) (op : Nat) (inc : BitVec 16) (l : List SubBody) : Prop :=
  t.subReplies = s.subReplies ++ l.map fun y => (op, SubReply.mk inc y)
/-- The records of a gather whose positions `ps` are answered. -/
def answeredBy (x : GatherOp) (ps : List Nat) : GatherOp := { x with left := x.left.filter fun p => !ps.contains p }

end Sys2Proof.Claims

/-- R80 to R82, R305 to R308, R322 to R334: a copy's unit and end, a batch's end, and the ends of tile operations, drains and EPLD. -/
def Obligations.EnginesWork : Prop :=
  ∀ (s s1 s2 : State) (o : EngineOp) (g : Gang),
    (∀ (c : CopyOp) (bs : List Byte) (p : Place), Working s o g → o.kind = .copy c → c.landed.length < c.units → c.reduce = false → c.mark ≠ 1 →
      c.data = none → s.copyRead o.gang c.sspace (c.src + 16 * s.copyUnit o.gang c) = (s1, .ok bs) → bs.length = 16 →
      s1.issuedLocate o.gang .store c.dspace (c.dst + 16 * s.copyUnit o.gang c) 16 = (s2, .ok p) → InMemory p →
      s2.engineLeaves o.gang p = false → Plain s2 o.gang → s2.memOk = true →
      s2.gang? o.gang = some g → s2.op? o.id = some o →
      ∃ t c', exec (.copyPieceLanded o.id) s = .next t ∧ t.readPlace p 16 = bs ∧ Elsewhere s2 t [.ok p] 16 ∧
        t.op? o.id = some { o with kind := .copy c' } ∧ c'.landed = c.landed ++ [s.copyUnit o.gang c] ∧
        c' = { c with landed := c'.landed, last := c'.last, piece := c'.piece } ∧ t.gangs = s2.gangs ∧ t.blocks = s2.blocks) ∧
    (∀ c, Working s o g → o.kind = .copy c → s.copyDone o c = true →
      (c.mark ≠ 2 → ∃ t, exec (.copyComplete o.id) s = .next t ∧ t.op? o.id = some (ended o) ∧ SameMemory s t ∧ t.gangs = s.gangs) ∧
      (∀ p, c.mark = 2 → c.stamped = false → s.issuedLocate o.gang .stamp c.dspace c.markAddr 8 = (s1, .ok p) → InMemory p →
        s1.engineLeaves o.gang p = false → Plain s1 o.gang → s1.memOk = true → s1.gang? o.gang = some g → s1.op? o.id = some o →
        ∃ t, exec (.copyComplete o.id) s = .next t ∧ t.readPlace p 8 = leBytes 8 c.stamp.toNat ∧ Elsewhere s1 t [.ok p] 8 ∧
          t.op? o.id = some (ended { o with kind := .copy { c with stamped := true } }))) ∧
    (∀ c, s.op? o.id = some o → o.kind = .copy c → s.copyDone o c = false → exec (.copyComplete o.id) s = .next s) ∧
    (s.gang? g.id = some g →
      (s.batchDone g = false → exec (.batchComplete g.id) s = .next s) ∧
      (∀ b, s.batchEnded b = true ↔ ∀ i ∈ b.ops, ∀ y, s.op? i = some y → y.complete = true ∧ s.opOutstanding i = false) ∧
      ∀ b rest, g.sealed = b :: rest →
        let g' := if s.batchEnded b then { g with sealed := rest, c := g.c - 1 } else g
        let u (l : List Nat) : State :=
          { s.setGang g' with ops := s.ops.filter fun y => !((if s.batchEnded b then b.ops else []) ++ l).contains y.id }
        ((∀ z ∈ g.sealed, s.batchEnded z = true → ∀ i ∈ z.ops, ∀ y, s.op? i = some y → y.fault = none) →
          exec (.batchComplete g.id) s = .next (if s.batchEnded b then u [] else s)) ∧
        ∀ pre z post l i l' y t, g.sealed = pre ++ z :: post → s.batchEnded z = true → z.ops = l ++ i :: l' →
          (∀ z' ∈ pre, s.batchEnded z' = true → ∀ j ∈ z'.ops, ∀ y, s.op? j = some y → y.fault = none) →
          (∀ j ∈ l, ∀ y, s.op? j = some y → y.fault = none) → s.op? i = some y → y.fault = some t →
          exec (.batchComplete g.id) s = .next ((u z.ops).takeTrap g.id t)) ∧
    (∀ blk, s.op? o.id = some o → s.blockOf o.gang = some blk → s.gang? o.gang = some g → s.tileDue o = true →
      (s.engines blk.die blk.core ≠ [] →
        (∀ k, o.kind = .tile (.zero k) → ∃ t b', exec (.tileOperationComplete o.id) s = .next t ∧ t.block? blk.id = some b' ∧
          b' = { blk with accs := b'.accs } ∧ (∀ j, lookupAt j b'.accs = if j = k then some WordMap.zero else lookupAt j blk.accs) ∧
          t.ops = s.ops.filter (fun y => y.id != o.id) ∧ t.gang? o.gang = some { g with tq := g.tq.finish o.id } ∧ SameMemory s t) ∧
        (∀ k a bs, o.kind = .tile (.load k a) → s.engineReadAll o.gang 1 a 65536 = (s1, .ok bs) → bs.length = 65536 → s1.block? blk.id = some blk →
          s1.gang? o.gang = some g → s1.ops = s.ops →
          ∃ t w, exec (.tileOperationComplete o.id) s = .next t ∧ lookupAt k (match t.block? blk.id with | some y => y.accs | none => []) = some w ∧
            (∀ e, e < 16384 → w.get e = BitVec.ofNat 32 (ofLeBytes ((bs.drop (4 * e)).take 4))) ∧
            t.gang? o.gang = some { g with tq := g.tq.finish o.id } ∧ SameMemory s1 t) ∧
        ∀ solo ms w, o.kind = .tile (.product solo ms w) →
          ((∀ k ∈ o.kind.slots, s.slotError blk.id k 0 65536 = none) →
            exec (.tileOperationComplete o.id) s = .next (s.tileProductRun o blk solo ms w)) ∧
          ∀ k f rest, o.kind.slots = k :: rest → s.slotError blk.id k 0 65536 = some f →
            exec (.tileOperationComplete o.id) s = .next (s.failTile o 2 f)) ∧
      (s.engines blk.die blk.core = [] → ∀ x, o.kind = .tile x → exec (.tileOperationComplete o.id) s = .next s) ∧
      (∀ x, o.kind = .drain x → x.raw = false → 64 ≤ x.row → o.gang.block? = some blk.id →
        ∃ t b', exec (.drainComplete o.id) s = .next t ∧ t.block? blk.id = some b' ∧
          (∀ j, lookupAt j b'.accs = if x.zero = true ∧ j = x.slot then some WordMap.zero else lookupAt j blk.accs) ∧
          t.ops = s.ops.filter (fun y => y.id != o.id) ∧ t.gang? o.gang = some { g with tq := g.tq.finish o.id } ∧ SameMemory s t)) ∧
    (∀ x, s.op? o.id = some o → o.kind = .drain x → s.tileDue o = false → exec (.drainComplete o.id) s = .next s) ∧
    ∀ a bs, Working s o g → o.kind = .epld a (some bs) → o.fault = none →
      (∀ prog, checkProgram 0 (wordsOfBytes 32 bs) = .ok prog → ∃ t, exec (.epldCheckComplete o.id) s = .next t ∧
        t.ops = s.ops.filter (fun y => y.id != o.id) ∧ t.gang? o.gang = some { g with tq := g.tq.finish o.id } ∧ SameMemory s t) ∧
      ∀ n, checkProgram 0 (wordsOfBytes 32 bs) = .error n → ∃ t : State, exec (.epldCheckComplete o.id) s =
        .next (t.takeTrap o.gang (TrapInfo.plain 0x43 n 3 o.slice o.words)) ∧ t.ops = s.ops.filter (fun y => y.id != o.id) ∧
        t.gang? o.gang = some { g with tq := g.tq.finish o.id }

/-- R107 to R111, R310 to R313, R374, R375: the fold, the partition, the row engines, the merge and the end of a gather, where the tables,
the requests and the rows are this package's own. -/
def Obligations.GatherWorks : Prop :=
  ∀ (s s1 : State) (o : EngineOp) (g : Gang) (x : GatherOp) (r : SubReq) (n : Nat),
    (Working s o g → o.kind = .gather x → s.sluiceHeld = false → (x.scad = true → s.scadBehind o = false) →
      (x.unsent = none → s.sluiceLive = true → ∃ t x' l, exec (.sluiceFold o.id) s = .next t ∧ t.op? o.id = some { o with kind := .gather x' } ∧
        (∀ p, p ∈ x'.failed ↔ p ∈ x.failed ∨ p ∈ x.left ∧ p < x.indices.length ∧ descRowCount x.desc ≤ x.indices.getD p 0) ∧
        (∀ p, p ∈ x'.left ↔ p ∈ x.left ∧ ¬ (p < x.indices.length ∧ descRowCount x.desc ≤ x.indices.getD p 0)) ∧
        x'.unsent = some l ∧ (∀ k, k ∈ l ↔ ∃ p, p < x.indices.length ∧ x.indices.getD p 0 < descRowCount x.desc ∧
          k = x.pkgs.getD (rowPkg x.desc (x.indices.getD p 0)) 0) ∧ SameMemory s t) ∧
      (∀ rest, x.unsent = some (s.pkgId :: rest) → x.scad = false → s.hasRoom s.sluice 1 = true →
        ∃ t q, exec (.sluiceFold o.id) s = .next t ∧ t.op? o.id = some { o with kind := .gather { x with unsent := some rest } } ∧
          t.subOwn = s.subOwn ++ [q] ∧ q.desc = x.desc ∧ q.op = o.id ∧ q.src.pkg = s.pkgId ∧
          (∀ y ∈ q.items, ∀ p, p ∈ y.positions ↔ p ∈ x.positionsOf s.pkgId ∧ x.indices.getD p 0 = y.index) ∧
          ∀ p ∈ x.positionsOf s.pkgId, ∃ y ∈ q.items, y.index = x.indices.getD p 0)) ∧
    (r.src.pkg = s.pkgId → r ∈ s.subOwn →
      (s.registered r.desc = false → ∃ t, exec (.subRequestPartition r) s = .next t ∧ t.subOwn = s.subOwn.erase r ∧ t.rowJobs = s.rowJobs ∧
        Replies s t r.op r.inc [.failed (r.items.flatMap (·.positions))]) ∧
      (s.registered r.desc = true → r.mode = 0 →
        (∀ y ∈ r.items, s.rowEngineLive (rowHome r.desc y.index).1 = true ∧ s.dieRefuses 12 (rowHome r.desc y.index).1 = none) →
        ∃ t, exec (.subRequestPartition r) s = .next t ∧ t.subOwn = s.subOwn.erase r ∧ t.subReplies = s.subReplies ∧
          ∀ j, j ∈ t.rowJobs ↔ j ∈ s.rowJobs ∨ ∃ y ∈ r.items, j = ⟨(rowHome r.desc y.index).1, { r with items := [y] }⟩)) ∧
    (∀ j y rest, s.rowJobs[n]? = some j → j.r.items = y :: rest → j.r.src.pkg = s.pkgId → s.rowEngineLive j.die = false →
      ∃ t, exec (if j.r.scad then .scadRowAdd n else .rowFetch n) s = .next t ∧ t.rowJobs = s.rowJobs.eraseIdx n ∧ SameMemory s t ∧
        Replies s t j.r.op j.r.inc [.failed (j.r.items.flatMap (·.positions))]) ∧
    (∀ j y rest, s.rowJobs[n]? = some j → j.r.items = y :: rest → j.r.src.pkg = s1.pkgId → s.rowEngineLive j.die = true →
      s.rowEngineHeld j.die = false →
      (j.r.scad = false → j.r.mode = 0 →
        (∀ bs away, s.readRow j.die j.r.desc y.index = (s1, .ok bs away) → ∃ t, exec (.rowFetch n) s = .next t ∧
          t.rowJobs = s1.rowJobs.eraseIdx n ∧ Replies s1 t j.r.op j.r.inc [.row y.positions bs] ∧ SameMemory s1 t ∧
          t.devGet j.die 0x7018 = if away then up (s1.devGet j.die 0x7018) else s1.devGet j.die 0x7018) ∧
        (s.readRow j.die j.r.desc y.index = (s1, .fail) → ∃ t, exec (.rowFetch n) s = .next t ∧ t.rowJobs = s1.rowJobs.eraseIdx n ∧
          Replies s1 t j.r.op j.r.inc [.failed y.positions] ∧ SameMemory s1 t)) ∧
      (j.r.scad = true → (∀ pa, s.locateRow j.die j.r.desc y.index 6 = (s1, some [.mem pa j.die], false) → ∃ t, exec (.scadRowAdd n) s = .next t ∧
          t.rowJobs = s1.rowJobs.eraseIdx n ∧ Replies s1 t j.r.op j.r.inc [.added y.positions] ∧ t.ls = s1.ls ∧ t.wgt = s1.wgt ∧
          t.mem = s1.mem.write pa ((y.rows.foldl (scadElems (descFmt j.r.desc)) (s1.mem.read pa 16)).take 16)) ∧
        (s.locateRow j.die j.r.desc y.index 6 = (s1, none, false) → ∃ t, exec (.scadRowAdd n) s = .next t ∧
          t.rowJobs = s1.rowJobs.eraseIdx n ∧ Replies s1 t j.r.op j.r.inc [.failed y.positions] ∧ SameMemory s1 t))) ∧
    (Working s o g → o.kind = .gather x → ∀ ps : List Nat, ps ≠ [] → (∀ p ∈ ps, p ∈ x.left) →
      (∃ t, exec (.gatherReplyMerge o.id ⟨(s.die 12).inc, .added ps⟩) s = .next t ∧ t.op? o.id = some { o with kind := .gather (answeredBy x ps) } ∧ SameMemory s t) ∧
      (∃ t, exec (.gatherReplyMerge o.id ⟨(s.die 12).inc, .failed ps⟩) s = .next t ∧ SameMemory s t ∧
        t.op? o.id = some { o with kind := .gather { answeredBy x ps with failed := x.failed ++ ps } }) ∧
      (∀ vals, ∃ t, exec (.gatherReplyMerge o.id ⟨(s.die 12).inc, .partialSum ps vals⟩) s = .next t ∧ SameMemory s t ∧
        t.op? o.id = some { o with kind := .gather { answeredBy x ps with partials := x.partials ++ [⟨ps.headD 0 / 2 ^ x.glog, ps, vals⟩] } }) ∧
      ∀ p bs, ps = [p] → s.subReplies.contains (o.id, ⟨(s.die 12).inc, .row ps bs⟩) = false →
        s.gatherWrite o (x.tile + descRowBytes x.desc * p) bs = (s1, none) → s1.op? o.id = some o → ∃ t,
        exec (.gatherReplyMerge o.id ⟨(s.die 12).inc, .row ps bs⟩) s = .next t ∧ SameMemory s1 t ∧
          t.op? o.id = some { o with kind := .gather (answeredBy x ps) }) ∧
    (∀ rep, s.subReplies.contains (n, rep) = false →
      (rep.inc ≠ (s.die 12).inc → ∃ t, exec (.gatherReplyMerge n rep) s = .next t ∧ OnlyRegs s t 12 [(0x7030, up (s.devGet 12 0x7030))]) ∧
      (rep.inc = (s.die 12).inc → s.op? n = none →
        ((∀ p ∈ answered rep.body, (n, p) ∉ s.retiredSubs) → exec (.gatherReplyMerge n rep) s = .next s) ∧
        ∀ p ∈ answered rep.body, (n, p) ∈ s.retiredSubs → ∃ t, exec (.gatherReplyMerge n rep) s = .next t ∧
          OnlyRegs s t 12 [(0x7050, up (s.devGet 12 0x7050))])) ∧
    (s.op? o.id = some o → o.kind = .gather x →
      (s.gatherDone o x = false → exec (.gatherComplete o.id) s = .next s) ∧
      (s.gatherDone o x = true → x.mark = false → x.mode = 0 → x.failed = [] → x.scad = false ∨ s1.shadowOf o.gang = none →
        s.gatherWrite o x.maskAddr (List.replicate 64 0) = (s1, none) → s1.op? o.id = some o →
        ∃ t, exec (.gatherComplete o.id) s = .next t ∧ SameMemory s1 t ∧ t.op? o.id = some (ended o)))

/-! ## The ends of gangs and blocks, and deterministic operation -/

namespace Sys2Proof.Claims

/-- No barrier of the package is in a phase: none completes by itself. -/
def NoPhases (s : State) : Prop := ∀ b ∈ s.blocks, b.latch = [] ∧ ∀ k, (b.barrier k).scope = 7
/-- A slice of a halted block: the waits of a barrier and of a watched word survive (R52, R227, R398). -/
def haltedSlice (sl : Slice) : Slice :=
  { sl with
    lwait := none
    wait := match sl.wait with
      | some (.barrier b n) => some (.barrier b n)
      | some (.barrierDone b n) => some (.barrierDone b n)
      | some (.sync sp a v) => some (.sync sp a v)
      | some (.stamp sp a v) => some (.stamp sp a v)
      | _ => none }

end Sys2Proof.Claims

/-- R35, R38, R42, R50, R227, R228: the exit of a gang and its block, the freeing of an exited block and the end of its grid, and the end of a
halt. -/
def Obligations.GangsAndBlocksEnd : Prop :=
  ∀ (s : State) (g : Gang) (b : Block) (gr : Grid),
    (s.blocks.map (·.id)).Nodup → (s.gangs.map (·.id)).Nodup →
    (s.gang? g.id = some g → s.exitDue g = false → exec (.gangExit g.id) s = .next s) ∧
    (s.gang? g.id = some g → s.exitDue g = true → g.openOps = [] → g.abuf = [] → s.outstanding = [] →
      (∀ d i c, g.id = .control d i → s.control? d i = some c → ∃ t, exec (.gangExit g.id) s = .next t ∧
        t.gang? g.id = some { g with exited := true } ∧ t.control? d i = some { c with running := false } ∧ OthersSame s t g.id ∧ SameMemory s t) ∧
      (∀ n, g.id = .compute b.id n → s.block? b.id = some b → s.grid? b.id.handle = some gr → NoPhases s →
        ∃ t b', exec (.gangExit g.id) s = .next t ∧ t.gang? g.id = some { g with exited := true } ∧ OthersSame s t g.id ∧ SameMemory s t ∧
          t.block? b.id = some b' ∧
          b'.state = (if ∀ x ∈ s.gangs, x.id.block? = some b.id → x.id ≠ g.id → x.exited = true then .exited else b.state) ∧
          b' = { b with state := b'.state, signalled := b'.signalled, accs := if b'.state = .exited then [] else b.accs })) ∧
    (s.block? b.id = some b → s.grid? b.id.handle = some gr →
      (b.state ≠ .exited ∨ b.freed = true ∨ s.blockQuiet b.id = false → exec (.blockResourcesFree b.id) s = .next s) ∧
      (b.state = .exited → b.freed = false → s.blockQuiet b.id = true →
        ((∃ x ∈ s.blocks, x.id ≠ b.id ∧ x.id.handle = b.id.handle ∧ x.freed = false) → ∃ t, exec (.blockResourcesFree b.id) s = .next t ∧
          t.block? b.id = some { b with freed := true, accs := [], latch := [], race := [] } ∧
          t.ops = s.ops.filter (fun o => o.gang.block? != some b.id) ∧ t.gangs = s.gangs ∧ t.grids = s.grids ∧ SameMemory s t) ∧
        ((∀ x ∈ s.blocks, x.id.handle = b.id.handle → (x.state = .exited ∨ x.state = .killed) ∧ (x.id = b.id ∨ x.freed = true) ∧ x.saver = none) →
          s.undispatched gr = [] → (∀ a ∈ s.arrivals, a.handle ≠ b.id.handle) → (∀ w ∈ s.heldWrites, w.handle ≠ b.id.handle) →
          s.outstanding = [] → gr.record.csAddr = 0 →
          ∃ t, exec (.blockResourcesFree b.id) s = .next t ∧ t.grid? b.id.handle = none ∧ (∀ x ∈ t.blocks, x.id.handle ≠ b.id.handle) ∧
            (∀ x ∈ t.gangs, ∀ k, x.id.block? = some k → k.handle ≠ b.id.handle) ∧ SameMemory s t))) ∧
    (s.block? b.id = some b → s.grid? b.id.handle = some gr →
      (s.haltDue b = false → exec (.haltComplete b.id) s = .next s) ∧
      (s.haltDue b = true → s.committing b.id = false → b.state = .halting → (∀ x ∈ s.gangs, x.abuf = []) →
        (b.killing = false → (∃ x ∈ s.gangs, x.id.block? = some b.id ∧ x.exited = false) →
          ∃ t, exec (.haltComplete b.id) s = .next t ∧ t.block? b.id = some { b with state := .halted, latch := [] } ∧ SameMemory s t ∧
            (∀ x ∈ s.gangs, x.id.block? = some b.id → t.gang? x.id = some { x with slices := x.slices.map haltedSlice }) ∧
            ∀ x ∈ s.gangs, x.id.block? ≠ some b.id → t.gang? x.id = some x) ∧
        (b.killing = true → NoPhases s → (∃ x ∈ s.blocks, x.id ≠ b.id ∧ x.id.handle = b.id.handle ∧ x.freed = false) →
          ∃ t b', exec (.haltComplete b.id) s = .next t ∧ t.block? b.id = some b' ∧ b'.state = .killed ∧ b'.freed = true ∧ b'.accs = [] ∧
            SameMemory s t ∧ (∀ x ∈ s.gangs, x.id.block? = some b.id → t.gang? x.id = some { x with exited := true, abuf := [], qbuf := [], ended := none }) ∧
            (b.signalled = false → b.id.shadow = false → gr.record.sigWord ≠ 0 → ∃ a, t.arrivals = s.arrivals ++ [a] ∧
              a.addr = gr.record.sigWord ∧ a.n = 1 ∧ a.handle = b.id.handle))))

/-- R353 to R362, R413: the rounds of a deterministic grid. A round starts once the phase before it is over; a quantum ends at Q instructions;
the commit phase starts once every quantum has ended; a slot performs what its gang has buffered, in gang_index order; a pair whose
signatures differ traps, and the rounds stop. -/
def Obligations.Rounds : Prop :=
  ∀ (s : State) (h : Word) (gr : Grid) (g : Gang),
    s.grid? h = some gr → s.gang? g.id = some g →
    (s.roundDue gr = false → exec (.roundStart h) s = .next s) ∧
    (s.roundDue gr = true → gr.phase = .committing → NoPhases s → ∃ t, exec (.roundStart h) s = .next t ∧ t = { s with grids := t.grids } ∧
      t.grid? h = some { gr with phase := .between, committed := [] } ∧ ∀ k, k ≠ h → t.grid? k = s.grid? k) ∧
    (s.roundDue gr = true → gr.phase ≠ .committing → ∃ t gr', exec (.roundStart h) s = .next t ∧ SameMemory s t ∧ t.grid? h = some gr' ∧
      gr' = { gr with phase := .executing, round := if gr.phase = .notStarted then 0 else gr.round + 1,
                      image := some (s.mem, s.ls, s.wgt), committed := [] } ∧
      ((∀ sl ∈ g.slices, sl.wait = none) → g.id.ofGrid h = true → s.inRounds g = true → g.ended = none →
        ∃ g', t.gang? g.id = some g' ∧ g'.quant = gr'.round ∧ g'.qcount = 0 ∧ g'.slices = g.slices ∧ g'.qbuf = g.qbuf) ∧
      ∀ m sp a v p, s.gangs = [g] → g.id.ofGrid h = true → s.inRounds g = true → g.ended = none → g.parts = [m] →
        g.partWait m = some (.sync sp a v) → (s.locate g.id (.word false) sp a 16).2 = .ok p → p.isRemote = false → s.poison = [] →
        ∃ g', t.gang? g.id = some g' ∧ g'.quant = gr'.round ∧
          (Satisfied false v.toNat (s.readPlace p 16) → ∀ j x, m.getLsbD j = true → g.slice? j = some x → g'.slice? j = some (waiting .held x)) ∧
          (¬ Satisfied false v.toNat (s.readPlace p 16) → g'.slices = g.slices)) ∧
    (s.quantumDue g = true → ∃ t g', exec (.quantumCountExpiry g.id) s = .next t ∧ t.gang? g.id = some g' ∧ g' = { g with ended := some .plain } ∧
      OthersSame s t g.id ∧ SameMemory s t ∧ t.grids = s.grids) ∧
    (s.quantumDue g = false → exec (.quantumCountExpiry g.id) s = .next s) ∧
    (s.commitDue gr = true → ∃ t, exec (.commitPhaseStart h) s = .next t ∧ t = { s with grids := t.grids } ∧
      t.grid? h = some { gr with phase := .committing, image := none, committed := if gr.phase = .stopped then gr.committed else [] } ∧ ∀ k, k ≠ h → t.grid? k = s.grid? k) ∧
    (s.commitDue gr = false → exec (.commitPhaseStart h) s = .next s) ∧
    (∀ b n, g.id = .compute b n → b.handle = h → b.shadow = false →
      (s.nextSlot gr = none → exec (.commitSlot g.id) s = .next s) ∧
      (s.nextSlot gr = some g → g.halted = false → gr.record.redun = false → NoPhases s → g.qbuf = [] → g.abuf = [] → g.ended = some .plain →
        ∃ t, exec (.commitSlot g.id) s = .next t ∧ t.gang? g.id = some { g with ended := none } ∧ OthersSame s t g.id ∧ SameMemory s t ∧
          t.grid? h = some { gr with committed := gr.committed ++ [g.id.index] }) ∧
      (s.nextSlot gr = some g → g.halted = true → gr.record.redun = false → ∃ t, exec (.commitSlot g.id) s = .next t ∧
        t = { s with grids := t.grids } ∧ t.grid? h = some { gr with committed := gr.committed ++ [g.id.index] }) ∧
      (∀ q : Gang, s.nextSlot gr = some g → gr.record.redun = true → q.id = .compute ⟨h, b.index, true⟩ n → s.gang? q.id = some q →
        g.halted = false → q.halted = false → g.trapping = none → q.trapping = none → g.signature ≠ q.signature →
        ∃ t gr' g' q', exec (.commitSlot g.id) s = .next t ∧ t.grid? h = some gr' ∧ gr'.phase = .stopped ∧
          gr'.committed = gr.committed ∧ t.gang? g.id = some g' ∧ g'.halted = true ∧ g'.qbuf = g.qbuf ∧ t.gang? q.id = some q' ∧
          q'.halted = true ∧ q'.qbuf = q.qbuf) ∧
      ∀ (e : QEntry) (s1 : State) (p : Place), s.nextSlot gr = some g → g.halted = false → gr.record.redun = false → NoPhases s → g.qbuf = [e] →
        g.abuf = [] → g.ended = some .plain → e.kind = 5 → s.issuedLocate g.id (.word true) e.space e.addr 16 = (s1, .ok p) → InMemory p →
        Plain s1 g.id → s1.memOk = true → s1.gang? g.id = some g → s1.grid? h = some gr → s1.blocks = s.blocks →
        (arriveWord (s1.readPlace p 16) (ofLeBytes (e.bytes.take 4))).isSome = true →
        ∃ t, exec (.commitSlot g.id) s = .next t ∧ ArrivesAt s1 t p (ofLeBytes (e.bytes.take 4)) ∧
          t.gang? g.id = some { g with qbuf := [], ended := none } ∧
          t.grid? h = some { gr with committed := gr.committed ++ [g.id.index] })

/-! ## Steps, reset, the encoding -/

namespace Sys2Proof.Claims

/-- The instruction's words are a scalar word, with or without its literal, or an epilogue word. -/
def scalarDecodes (i : Instr) (ws : List Word) : Prop :=
  ws ≠ [] ∧ decodeScalar (ws.headD 0) (ws.getD 1 0) = .ok i ∧ ws.length = (if hasLiteral (ws.headD 0) then 2 else 1)
/-- The turn of a stream's gang comes after a time: every part of it became ready later, or the gang has issued since (R47). -/
def Later (l : List Stream) (t : Nat) (x : Stream) : Prop :=
  (∀ z ∈ l, z.gang.id = x.gang.id → t < z.since) ∨ ∃ z ∈ l, z.gang.id = x.gang.id ∧ t < z.after
/-- A stream comes before another in the order of their slot (R46, R47): P2 before P3, then the gang that became ready earlier and has not
issued since the other became ready; of one gang, the part that became ready earlier, then the one with the lower slice. -/
def Before (l : List Stream) (s : State) (y x : Stream) : Prop :=
  s.gangClass y.gang.id < s.gangClass x.gang.id ∨
  s.gangClass y.gang.id = s.gangClass x.gang.id ∧
    (y.gang.id = x.gang.id ∧ (y.since < x.since ∨ y.since = x.since ∧ lowestSlice y.mask < lowestSlice x.mask) ∨
     y.gang.id ≠ x.gang.id ∧ Later l y.since x ∧ ∀ w ∈ l, w.gang.id = y.gang.id → Later l w.after x)

/-- R46 to R48: of the streams of a quadrant's slot, none issues while another of that slot comes before it. -/
def SlotsInOrder (u : State) : Prop :=
  ∀ (lane : Bool) (x y : Stream), x ∈ u.streams lane → y ∈ u.streams lane → x.gang.id.isControl = false → y.gang.id.isControl = false →
    u.quadrant y.gang.id = u.quadrant x.gang.id → Before (u.streams lane) u y x →
    (∀ z ∈ u.streams lane, z.gang.id = x.gang.id → z.mask = x.mask → z.since = x.since) →
    (if lane then Choice.lane x.gang.id x.mask else Choice.scalar x.gang.id x.mask) ∉ u.choices

end Sys2Proof.Claims

/-- R46 to R48, R170, R171, R179, R208, R401, R403: a step lets time move on and performs one of the things that may happen; a part, a lane
stream and an epilogue unit perform the instruction whose words they fetch; a word that is no instruction traps its gang with cause
0x03 and R402's INFO, a fetch that faults with its own cause. Streams issue in R46's order; which of several other things happens
is free (log 3), and so is which words of code a core still holds (log 28): both are the model's choice. -/
def Obligations.StepRuns : Prop :=
  ∀ (s u v : State), u = s.tick →
    u = { s with clock := s.clock + 1, ticks := u.ticks, dies := u.dies } ∧
    (u.choices = [] → step s = .next u) ∧
    (u.choices ≠ [] → ∃ c ∈ u.choices, step s = u.run c) ∧
    (∀ c, u.choices = [c] → step s = u.run c) ∧
    (∀ c t, u.perform c = .next t → u.run c = .next (t.settled c)) ∧
    (u.forced ≠ [] → u.choices = u.forced.map .event) ∧ SlotsInOrder u ∧
    (∀ g lane m, u.perform (.ready g lane m) = .next (u.markReady g lane m)) ∧
    (∀ i, u.perform (.event i) = exec i { u with issue := ⟨.none, []⟩ }) ∧
    (∀ i l, u.inputs = i :: l → u.perform .input = exec i { u with inputs := l, issue := ⟨.none, []⟩ }) ∧
    (∀ n i t, u.parked[n]? = some i → exec i { u with parked := u.parked.take n, issue := ⟨.none, []⟩ } = .next t →
      u.perform (.parked n) = .next { t with parked := t.parked ++ u.parked.drop (n + 1) }) ∧
    (∀ (g : Gang) (m : BitVec 8) (sl : Slice), u.gang? g.id = some g → g.slice? (lowestSlice m) = some sl →
      (∀ ws : List Word, u.fetchScalar g.id m sl.pc.toNat = (v, .ok ws) →
        let at_ := v.atIssue g.id (.scalar g.id m) m sl.pc.toNat ws
        (∀ i, decodeScalar (ws.headD 0) (ws.getD 1 0) = .ok i → u.perform (.scalar g.id m) = exec i at_) ∧
        ∀ n, decodeScalar (ws.headD 0) (ws.getD 1 0) = .error n →
          u.perform (.scalar g.id m) = .next (at_.takeTrap g.id (TrapInfo.plain 0x03 n 0 (lowestSlice m) ws))) ∧
      ∀ c n a, u.fetchScalar g.id m sl.pc.toNat = (v, .fault c n a) →
        u.perform (.scalar g.id m) = .next (v.takeTrap g.id ⟨c, 0, lowestSlice m, n, 0, a, 0, []⟩)) ∧
    (∀ (g : Gang) (m : BitVec 8), u.gang? g.id = some g →
      (∀ ws : List Word, u.fetchLane g.id m (g.laneIndex m) = (v, .ok ws) →
        let at_ := v.atIssue g.id (.lane g.id m) (g.partOf m) (v.laneAddrOf g.id (g.laneIndex m)) ws
        (∀ i, decodeLane (laneBits (ws.headD 0) (ws.getD 1 0) (ws.getD 2 0)) = .ok i → u.perform (.lane g.id m) = exec i at_) ∧
        ∀ n, decodeLane (laneBits (ws.headD 0) (ws.getD 1 0) (ws.getD 2 0)) = .error n →
          u.perform (.lane g.id m) = .next (at_.trapLane g m 0x03 n (g.activeLanes (g.partOf m)) none)) ∧
      ∀ c n a, u.fetchLane g.id m (g.laneIndex m) = (v, .fault c n a) →
        u.perform (.lane g.id m) = .next ({ v with issue := ⟨.lane g.id m, []⟩ }.trapLane g m c n (g.activeLanes (g.partOf m)) a)) ∧
    (∀ (o : EngineOp) (w : Word) (i : Instr), u.op? o.id = some o → u.drainWord o = some w → decodeEpi w = some i →
      u.perform (.epilogue o.id) = exec i { u with issue := ⟨.epilogue o.id, [w]⟩ }) ∧
    ∀ (g : GangId) (stream : Bool × BitVec 8) (l : Leaf) (va : Nat),
      (∀ p, u.codeHeld g stream (l.pa va) = none → (∀ f ∈ u.fetched, ¬ (f.gang = g ∧ f.addr = va ∧ f.code = true)) →
        u.genPlace (u.gangDie g) l .load va 4 = .ok p → p.isRemote = false → u.linkActive (u.gangDie g) (p.die (u.gangDie g)) p.addr = true →
        u.poison = [] →
        (u.codeWord g stream l va).2 = .ok [BitVec.ofNat 32 (ofLeBytes ((u.readPlace p 4).take 4))]) ∧
      ∀ w, u.codeHeld g stream (l.pa va) = some w → u.codeWord g stream l va = (u, .ok [w]) ∧
        ∃ e ∈ u.heldCode, e.lane = stream.1 ∧ e.pa = l.pa va ∧ e.word = w

/-- R173 to R179, R191, R284, R299: words written out field by field from the tables, and the words that the manual's listing gives,
decode to the instructions that they stand for; a BRQ whose mode is assigned to nothing is none, with INFO 1 (R174, R402). That LMASK's
register form leaves bits [3:0] free, so that 0xA405070F is an instruction, is the model's reading (log 12). -/
def Obligations.DecodeSamples : Prop :=
  decodeScalar (0b000001#6 ++ 0b00011#5 ++ 0b00001#5 ++ 0b00010#5 ++ 0b111#3 ++ 0b0#1 ++ 0b0000001#7) 0 =
    .ok (.sub ⟨⟨7, false⟩, .reg 3, .reg 1, .reg 2⟩) ∧
  decodeScalar 0xF0864100 0 = .ok (.copy ⟨⟨1, false⟩, 4, 6, 2⟩) ∧
  decodeScalar 0xCBFC010F 0 = .ok (.waitc ⟨1, false⟩ 15 15 0 15) ∧
  decodeScalar 0xB3000700 0 = .ok (.bar ⟨7, false⟩ .both none 0) ∧
  decodeScalar 0x9009070A 0 = .ok (.loop ⟨7, false⟩ (.reg 9) 10) ∧
  decodeScalar 0x48410703 0 = .ok (.qnot ⟨7, false⟩ 2 1) ∧
  decodeScalar 0x94000200 0 = .ok (.exit ⟨2, false⟩) ∧
  decodeScalar 0xA4050700 0 = .ok (.lmaskReg ⟨7, false⟩ (.reg 5)) ∧
  decodeScalar 0xA405070F 0 = .ok (.lmaskReg ⟨7, false⟩ (.reg 5)) ∧
  decodeScalar 0x88600701 0 = .ok (.brq ⟨7, false⟩ .any 3 1) ∧
  decodeScalar 0x8B000700 0 = .error 1 ∧
  decodeLane (laneBits 0x00072020 0x3FFFFF00 0x50000200) = .ok (.vld ⟨0, 0, 8, 3, 1023, 1023, 0, 0, 0, 0, 7, 0x2020⟩) ∧
  decodeLane (laneBits 0x00070000 0x9FFFFF00 0x26040500) = .ok (.frcp ⟨0, 4, 20, 9, 1023, 1023, 0, 0, 0, 0, 7, 0⟩) ∧
  decodeEpi (0b00110#5 ++ 0b011#3 ++ 0b001#3 ++ 0b010#3 ++ 0b00#2 ++ 0x0000#16) = some (.eadd 3 1 2)

/-- R170 to R178, R191, R192: every well-formed scalar instruction, with every operand, has words, one or with its literal two, that
decode to it; every well-formed epilogue instruction has one word that decodes to it. -/
def Obligations.ScalarRoundTrip : Prop :=
  ∀ i : Instr, i.wf = true →
    (∀ ws, encodeScalar i = some ws → scalarDecodes i ws ∧ encode i = ws) ∧
    (∀ w, encodeEpi i = some w → decodeEpi w = some i ∧ encode i = [w])

/-- R179 to R189: every well-formed lane instruction has three words that decode to it, and every lane word that decodes to an instruction
is the one word of that instruction. -/
def Obligations.LaneRoundTrip : Prop :=
  (∀ i : Instr, i.wf = true → ∀ op w, i.lane? = some (op, w) →
    ∃ w0 w1 w2, encode i = [w0, w1, w2] ∧ decodeLane (laneBits w0 w1 w2) = .ok i) ∧
  ∀ (x : LaneBits) (i : Instr), decodeLane x = .ok i → i.wf = true ∧ encodeLane i = some x

/-- R12, R378, R379, R384: the package before auxiliary power. No die runs, no gang exists, no memory is listed, and STAGE is 0. Values that the
manual does not give are the model's (log 4, 10). -/
def Obligations.ResetState : Prop :=
  State.reset.memOk = true ∧ State.reset.stage = 0 ∧ State.reset.gangs = [] ∧ State.reset.blocks = [] ∧ State.reset.grids = [] ∧
  (∀ k, k < 13 → (State.reset.die k).powered = false ∧ (State.reset.die k).inReset = true ∧ (State.reset.die k).timebaseOn = false) ∧
  (∀ c ∈ State.reset.controls, c.running = false) ∧ State.reset.controls.length = 18 ∧
  (∀ die off, State.reset.devGet die off = devReset off) ∧
  step State.reset = .next { State.reset with clock := 1 } ∧ State.reset.ticks = 0 ∧ State.reset.boot.romRegions = [] ∧
  State.reset.inputs = [] ∧ State.reset.outputs = []

/-- The memories of the package (HBM and far tier, local stores, weight stores) keep their one canonical form whatever
happens: whichever of the things that may happen happens, from any state in which they have it. -/
def Obligations.MemoryStaysCanonical : Prop :=
  (∀ s t : State, s.memOk = true → step s = .next t → t.memOk = true) ∧
  ∀ (s t : State) (i : Instr), s.memOk = true → exec i s = .next t → t.memOk = true
end

