-- ==== Sys2Proof/Laws/Memory.lean ====
section
/-! SUPPORT. Laws of memory: reading after writing, and that every memory operation keeps the canonical form. -/
set_option Elab.async false
namespace Sys2Proof.Machine

/-! ## The canonical form -/

/-- Every listed address of a memory is at least `a`. -/
def Memory.above (a : Nat) (m : Memory) : Prop := ∀ c ∈ m, a ≤ c.1

theorem Memory.wf_cons (c : Host.Cell) (m : Memory) :
    Memory.wf (c :: m) = true ↔ c.2 ≠ Memory.unlisted ∧ Memory.above (c.1 + 1) m ∧ Memory.wf m = true := by
  induction m generalizing c with
  | nil => simp [Memory.wf, Memory.above]
  | cons d m ih =>
    simp only [Memory.wf, Bool.and_eq_true, bne_iff_ne, decide_eq_true_eq]
    rw [ih d]
    simp only [Memory.above, List.mem_cons, forall_eq_or_imp]
    constructor
    · rintro ⟨⟨h1, h2⟩, h3, h4, h5⟩
      exact ⟨h1, ⟨h2, fun x hx => by have := h4 x hx; omega⟩, h3, h4, h5⟩
    · rintro ⟨h1, ⟨h2, -⟩, h3, h4, h5⟩
      exact ⟨⟨h1, h2⟩, h3, h4, h5⟩

theorem Memory.wf_nil : Memory.wf [] = true := rfl

theorem Memory.above_set {k a : Nat} {b : Byte} {m : Memory} (hk : k ≤ a) (h : Memory.above k m) :
    Memory.above k (Memory.set m a b) := by
  induction m with
  | nil => unfold Memory.set; split <;> simp [Memory.above, hk]
  | cons c m ih =>
    have hc : k ≤ c.1 := h c (by simp)
    have hm : Memory.above k m := fun x hx => h x (by simp [hx])
    unfold Memory.set
    split_ifs <;> simp only [Memory.above, List.mem_cons, forall_eq_or_imp]
    · exact ⟨hc, hm⟩
    · exact ⟨hk, hc, hm⟩
    · exact hm
    · exact ⟨hk, hm⟩
    · exact ⟨hc, ih hm⟩

theorem Memory.wf_set {m : Memory} (h : m.wf = true) (a : Nat) (b : Byte) : (Memory.set m a b).wf = true := by
  induction m with
  | nil => unfold Memory.set; split_ifs with hb <;> simp [Memory.wf, hb]
  | cons c m ih =>
    obtain ⟨h1, h2, h3⟩ := (Memory.wf_cons c m).1 h
    unfold Memory.set
    split_ifs with hlt hb heq hb2
    · exact h
    · refine (Memory.wf_cons _ _).2 ⟨hb, ?_, h⟩
      intro x hx
      rcases List.mem_cons.1 hx with rfl | hx
      · exact hlt
      · have := h2 x hx; show a + 1 ≤ x.1; omega
    · exact h3
    · exact (Memory.wf_cons _ _).2 ⟨hb2, heq ▸ h2, h3⟩
    · exact (Memory.wf_cons _ _).2 ⟨h1, Memory.above_set (by omega) h2, ih h3⟩

theorem Memory.wf_write {m : Memory} (h : m.wf = true) (a : Nat) (bs : List Byte) : (m.write a bs).wf = true := by
  induction bs generalizing m a with
  | nil => exact h
  | cons b bs ih => exact ih (Memory.wf_set h a b) (a + 1)

theorem Memory.wf_filter {m : Memory} (h : m.wf = true) (p : Host.Cell → Bool) : Memory.wf (m.filter p) = true := by
  induction m with
  | nil => rfl
  | cons c m ih =>
    obtain ⟨h1, h2, h3⟩ := (Memory.wf_cons c m).1 h
    rw [List.filter_cons]
    split_ifs
    · exact (Memory.wf_cons _ _).2 ⟨h1, fun x hx => h2 x (List.mem_of_mem_filter hx), ih h3⟩
    · exact ih h3

theorem Memory.wf_clear {m : Memory} (h : m.wf = true) (a n : Nat) : (m.clear a n).wf = true := Memory.wf_filter h _

/-! ## Reading -/

theorem Memory.get_above {m : Memory} {k a : Nat} (h : Memory.above k m) (ha : a < k) : m.get a = Memory.unlisted := by
  induction m with
  | nil => rfl
  | cons c m ih =>
    have hc : k ≤ c.1 := h c (by simp)
    unfold Memory.get
    rw [if_neg (by omega)]
    exact ih fun x hx => h x (by simp [hx])

theorem Memory.get_set {m : Memory} (h : m.wf = true) (a x : Nat) (b : Byte) :
    (Memory.set m a b).get x = if x = a then b else m.get x := by
  induction m with
  | nil =>
    unfold Memory.set
    by_cases hb : b = Memory.unlisted
    · rw [if_pos hb]; simp [Memory.get, hb]
    · rw [if_neg hb]; simp only [Memory.get]; by_cases hx : a = x
      · simp [hx]
      · simp [hx, Ne.symm hx]
  | cons c m ih =>
    obtain ⟨-, h2, h3⟩ := (Memory.wf_cons c m).1 h
    unfold Memory.set
    split_ifs with hlt hb hx hx heq hb hx hx hx
    · subst hx
      have : Memory.get m x = Memory.unlisted := Memory.get_above h2 (by omega)
      simp only [Memory.get]; rw [if_neg (by omega), this, hb]
    · rfl
    · subst hx; simp [Memory.get]
    · rw [Memory.get, if_neg (by simpa using Ne.symm hx)]
    · subst hx; rw [Memory.get_above h2 (by omega), hb]
    · rw [Memory.get, if_neg (by omega)]
    · subst hx; simp [Memory.get]
    · rw [Memory.get, if_neg (by simpa using Ne.symm hx), Memory.get, if_neg (by omega)]
    · subst hx; rw [Memory.get, if_neg (by omega), ih h3, if_pos rfl]
    · rw [Memory.get, Memory.get, ih h3, if_neg hx]

/-- A byte outside a write reads as before. -/
theorem Memory.get_write_outside {m : Memory} (h : m.wf = true) {a x : Nat} {bs : List Byte} (hx : x < a ∨ a + bs.length ≤ x) :
    (m.write a bs).get x = m.get x := by
  induction bs generalizing m a with
  | nil => rfl
  | cons b bs ih =>
    rw [List.length_cons] at hx
    show (Memory.write (m.set a b) (a + 1) bs).get x = _
    rw [ih (Memory.wf_set h a b) (by omega), Memory.get_set h, if_neg (by omega)]

/-- A byte inside a write reads as the byte written there. -/
theorem Memory.get_write_inside {m : Memory} (h : m.wf = true) (a : Nat) {bs : List Byte} {i : Nat} (hi : i < bs.length) :
    (m.write a bs).get (a + i) = bs[i] := by
  induction bs generalizing m a i with
  | nil => exact absurd hi (Nat.not_lt_zero _)
  | cons b bs ih =>
    show (Memory.write (m.set a b) (a + 1) bs).get (a + i) = _
    cases i with
    | zero => rw [Memory.get_write_outside (Memory.wf_set h a b) (by omega), Memory.get_set h, if_pos (by omega)]; rfl
    | succ i =>
      have := ih (Memory.wf_set h a b) (a + 1) (i := i) (by simpa using hi)
      rw [show a + (i + 1) = a + 1 + i by omega, this]; rfl

/-- Reading the bytes just written. -/
theorem Memory.read_write {m : Memory} (h : m.wf = true) (a : Nat) (bs : List Byte) :
    (m.write a bs).read a bs.length = bs := by
  unfold Memory.read
  apply List.ext_getElem
  · simp
  · intro i h1 h2
    simp only [List.getElem_map, List.getElem_range]
    exact Memory.get_write_inside h a h2

theorem Memory.get_clear {m : Memory} (a n x : Nat) (h : m.wf = true) :
    (m.clear a n).get x = if a ≤ x ∧ x < a + n then Memory.unlisted else m.get x := by
  induction m with
  | nil => simp [Memory.clear, Memory.get]
  | cons c m ih =>
    obtain ⟨-, h2, h3⟩ := (Memory.wf_cons c m).1 h
    have ih := ih h3
    unfold Memory.clear at ih ⊢
    rw [List.filter_cons]
    split_ifs with hp hx hx
    · simp only [Memory.get]
      have : c.1 ≠ x := by simp at hp; omega
      rw [if_neg this, ih, if_pos hx]
    · simp only [Memory.get]; rw [ih, if_neg hx]
    · rw [ih, if_pos hx]
    · rw [ih, if_neg hx]
      simp only [Memory.get]
      have : c.1 ≠ x := by simp at hp; omega
      rw [if_neg this]

/-- Two memories in the canonical form that read alike are equal. -/
theorem Memory.ext {m n : Memory} (hm : m.wf = true) (hn : n.wf = true) (h : ∀ a, m.get a = n.get a) : m = n := by
  induction m generalizing n with
  | nil =>
    cases n with
    | nil => rfl
    | cons d n =>
      have := h d.1
      simp only [Memory.get, if_pos] at this
      exact absurd this.symm ((Memory.wf_cons d n).1 hn).1
  | cons c m ih =>
    obtain ⟨h1, h2, h3⟩ := (Memory.wf_cons c m).1 hm
    cases n with
    | nil =>
      have := h c.1
      simp only [Memory.get, if_pos] at this
      exact absurd this h1
    | cons d n =>
      obtain ⟨k1, k2, k3⟩ := (Memory.wf_cons d n).1 hn
      have hcd : c.1 = d.1 := by
        by_contra hne
        rcases Nat.lt_or_gt_of_ne hne with hlt | hgt
        · have e := h c.1
          simp only [Memory.get, if_pos] at e
          rw [if_neg (Ne.symm hne), Memory.get_above k2 (by omega)] at e
          exact h1 e
        · have e := h d.1
          simp only [Memory.get, if_pos] at e
          rw [if_neg hne, Memory.get_above h2 (by omega)] at e
          exact k1 e.symm
      have hc : c = d := by
        have e := h c.1
        simp only [Memory.get, if_pos, hcd] at e
        exact Prod.ext hcd e
      subst hc
      congr 1
      refine ih h3 k3 fun a => ?_
      by_cases ha : a ≤ c.1
      · rw [Memory.get_above h2 (by omega), Memory.get_above k2 (by omega)]
      · have e := h a
        simp only [Memory.get] at e
        rwa [if_neg (by omega), if_neg (by omega)] at e

/-! ## Numbers in bytes -/

theorem leBytes_length (n v : Nat) : (leBytes n v).length = n := by
  induction n generalizing v with
  | zero => rfl
  | succ n ih => simp [leBytes, ih]

theorem ofLeBytes_leBytes (n v : Nat) : ofLeBytes (leBytes n v) = v % 256 ^ n := by
  induction n generalizing v with
  | zero => simp [leBytes, ofLeBytes, Nat.mod_one]
  | succ n ih =>
    simp only [leBytes, ofLeBytes, ih]
    have h1 : (BitVec.ofNat 8 v).toNat = v % 256 := by simp
    rw [h1, Nat.pow_succ, Nat.mul_comm (256 ^ n) 256, Nat.mod_mul]

/-- A number of `n` bytes read after it is written. -/
theorem Memory.readNat_write {m : Memory} (h : m.wf = true) (a n v : Nat) :
    (m.write a (leBytes n v)).readNat a n = v % 256 ^ n := by
  have := Memory.read_write h a (leBytes n v)
  rw [leBytes_length] at this
  rw [Memory.readNat, this, ofLeBytes_leBytes]

/-! ## Word maps -/

theorem lookupAt_insertAt {α : Type} (k j : Nat) (x : α) (l : List (Nat × α)) :
    lookupAt j (insertAt k x l) = if j = k then some x else lookupAt j l := by
  induction l with
  | nil => simp only [insertAt, lookupAt]; by_cases h : k = j <;> simp [h, eq_comm]
  | cons p l ih =>
    unfold insertAt
    by_cases hj : j = k
    · subst hj
      rw [if_pos rfl] at ih ⊢
      split_ifs with h1 h2
      · simp only [lookupAt, if_pos]
      · simp only [lookupAt, if_pos]
      · simp only [lookupAt, if_neg (Ne.symm h2), ih]
    · have hk : ¬ k = j := Ne.symm hj
      split_ifs with h1 h2
      · simp only [lookupAt, if_neg hk]
      · subst h2; simp only [lookupAt, if_neg hk]
      · simp only [lookupAt, ih, if_neg hj]

@[simp] theorem WordMap.get_set_same (m : WordMap) (k : Nat) (w : Word) : (m.set k w).get k = w := by
  simp [WordMap.get, WordMap.set, lookupAt_insertAt]

theorem WordMap.get_set_other (m : WordMap) {k j : Nat} (h : j ≠ k) (w : Word) : (m.set k w).get j = m.get j := by
  simp [WordMap.get, WordMap.set, lookupAt_insertAt, h]

theorem WordMap.get_set (m : WordMap) (k j : Nat) (w : Word) : (m.set k w).get j = if j = k then w else m.get j := by
  by_cases h : j = k
  · subst h; simp
  · rw [WordMap.get_set_other m h, if_neg h]

/-! ## Device registers -/

theorem State.devGet_devSet (s : State) (die off : Nat) (v : DWord) (die' off' : Nat) :
    (s.devSet die off v).devGet die' off' = if devKey die' off' = devKey die off then v else s.devGet die' off' := by
  unfold State.devGet State.devSet
  simp only [lookupAt_insertAt]
  split_ifs <;> simp

@[simp] theorem State.devGet_devSet_same (s : State) (die off : Nat) (v : DWord) : (s.devSet die off v).devGet die off = v := by
  simp [State.devGet_devSet]

end Sys2Proof.Machine
end

