-- ==== Sys2Proof/Laws/PerInstr.lean ====
section
/-! SUPPORT. The per-instruction family Words: how many words the encoding of each well-formed instruction has. A scalar
instruction has one, or two with its literal (R170, R171), a lane instruction three (R179), an epilogue instruction one (R191), and a
step that is no instruction word none. -/
set_option Elab.async false
namespace Sys2Proof.Laws.Words
open Sys2Proof

/-- The numbers of words that the manual allows the kind of an instruction. -/
def allowed (i : Instr) : List Nat :=
  if i.lane?.isSome then [3] else if (encodeEpi i).isSome then [1] else if (encodeScalar i).isSome then [1, 2] else [0]

/-- A well-formed instruction is encoded in a number of words that its kind allows. -/
def Statement (i : Instr) : Prop := i.wf = true → (encode i).length ∈ allowed i

/-- The literals that a source, two sources, a memory base and a sync-word address append (R171). -/
def Few (l : List Word) : Prop := l.length ≤ 1

theorem few_src (a : Src) : Few (srcLit a) := by cases a <;> simp [Few, srcLit]
theorem few_two (a b : Src) (h : (!Machine.twoLits a b) = true) : Few (srcLit a ++ srcLit b) := by
  cases a <;> cases b <;> simp_all [Few, srcLit, Machine.twoLits]
theorem few_base (m : MemBase) : Few (memBaseBits m).2.2 := by
  cases m <;> simp only [memBaseBits] <;> first | exact few_src _ | exact Nat.zero_le _

/-- A scalar instruction is its word and at most one literal. -/
theorem scalar_words {l : List Word} (op : BitVec 6) (d a b : BitVec 5) (g : Guard) (fn : BitVec 7) (h : Few l) :
    (encS op d a b g fn l).length ∈ [1, 2] := by
  simp only [Few] at h
  simp only [encS, List.length_cons, List.mem_cons, List.not_mem_nil, or_false]
  omega

/-- A scalar instruction without a literal. -/
theorem bare {n : Nat} : n ∈ [n, n + 1] := List.mem_cons_self
/-- A lane or epilogue instruction, or a step. -/
theorem only {n : Nat} : n ∈ [n] := List.mem_cons_self

theorem reg (x : AluReg) (fn : BitVec 7) (h : x.wf = true) : (encReg x fn).length ∈ [1, 2] :=
  scalar_words _ _ _ _ _ _ (few_two x.a x.b h)
theorem un (x : AluUn) (fn : BitVec 7) : (encUn x fn).length ∈ [1, 2] := scalar_words _ _ _ _ _ _ (few_src x.a)
theorem imm (x : AluImm) (op : BitVec 6) : (encImm x op).length ∈ [1, 2] := scalar_words _ _ _ _ _ _ (few_src x.a)
theorem ctx (x : CtxForm) (fn : BitVec 7) : (encCtx x fn).length ∈ [1, 2] := scalar_words _ _ _ _ _ _ (few_src x.b)
theorem target (g : Guard) (k : Target) (a : Src) (fn : BitVec 7) (h : ∀ b, k = .block b ∨ k = .cohort b → (!Machine.twoLits a b) = true) :
    (encTarget g k a fn).length ∈ [1, 2] := by
  refine scalar_words _ _ _ _ _ _ ?_
  cases k with
  | block b => exact few_two a b (h b (.inl rfl))
  | cohort b => exact few_two a b (h b (.inr rfl))
  | grid => simpa [targetBits] using few_src a
  | span => simpa [targetBits] using few_src a
theorem sync_src (a : SyncAddr) (n : Src) (h : ∀ x, a = .loc x → (!Machine.twoLits x n) = true) :
    Few ((syncAddrBits a).2.2 ++ srcLit n) := by
  cases a with
  | loc x => exact few_two x n (h x rfl)
  | gen p => exact few_src n
  | pol p => exact few_src n
theorem sync_pair (a : SyncAddr) (v : PairOrLit) (h : ∀ x w, a = .loc (.lit x) → v ≠ .lit w) :
    Few ((syncAddrBits a).2.2 ++ (pairOrLitBits v).2) := by
  rcases a with _ | (_ | _) | _ <;> rcases v with _ | _ <;> simp_all [Few, syncAddrBits, pairOrLitBits, srcLit]

end Sys2Proof.Laws.Words

namespace Sys2Proof.Laws
open Sys2Proof Words

theorem Words.add (x : AluReg) : Statement (.add x) := fun h => reg x _ h
theorem Words.sub (x : AluReg) : Statement (.sub x) := fun h => reg x _ h
theorem Words.mul (x : AluReg) : Statement (.mul x) := fun h => reg x _ h
theorem Words.mulh (x : AluReg) : Statement (.mulh x) := fun h => reg x _ h
theorem Words.mulhn (x : AluReg) : Statement (.mulhn x) := fun h => reg x _ h
theorem Words.and (x : AluReg) : Statement (.and x) := fun h => reg x _ h
theorem Words.or (x : AluReg) : Statement (.or x) := fun h => reg x _ h
theorem Words.xor (x : AluReg) : Statement (.xor x) := fun h => reg x _ h
theorem Words.andn (x : AluReg) : Statement (.andn x) := fun h => reg x _ h
theorem Words.shl (x : AluReg) : Statement (.shl x) := fun h => reg x _ h
theorem Words.shr (x : AluReg) : Statement (.shr x) := fun h => reg x _ h
theorem Words.sra (x : AluReg) : Statement (.sra x) := fun h => reg x _ h
theorem Words.min (x : AluReg) : Statement (.min x) := fun h => reg x _ h
theorem Words.max (x : AluReg) : Statement (.max x) := fun h => reg x _ h
theorem Words.minn (x : AluReg) : Statement (.minn x) := fun h => reg x _ h
theorem Words.maxn (x : AluReg) : Statement (.maxn x) := fun h => reg x _ h
theorem Words.clz (x : AluUn) : Statement (.clz x) := fun _ => un x _
theorem Words.popc (x : AluUn) : Statement (.popc x) := fun _ => un x _
theorem Words.mov (x : AluUn) : Statement (.mov x) := fun _ => un x _
theorem Words.addImm (x : AluImm) : Statement (.addImm x) := fun _ => imm x _
theorem Words.subImm (x : AluImm) : Statement (.subImm x) := fun _ => imm x _
theorem Words.mulImm (x : AluImm) : Statement (.mulImm x) := fun _ => imm x _
theorem Words.andImm (x : AluImm) : Statement (.andImm x) := fun _ => imm x _
theorem Words.orImm (x : AluImm) : Statement (.orImm x) := fun _ => imm x _
theorem Words.xorImm (x : AluImm) : Statement (.xorImm x) := fun _ => imm x _
theorem Words.shlImm (x : AluImm) : Statement (.shlImm x) := fun _ => imm x _
theorem Words.shrImm (x : AluImm) : Statement (.shrImm x) := fun _ => imm x _
theorem Words.sraImm (x : AluImm) : Statement (.sraImm x) := fun _ => imm x _
theorem Words.minImm (x : AluImm) : Statement (.minImm x) := fun _ => imm x _
theorem Words.maxImm (x : AluImm) : Statement (.maxImm x) := fun _ => imm x _
theorem Words.minnImm (x : AluImm) : Statement (.minnImm x) := fun _ => imm x _
theorem Words.maxnImm (x : AluImm) : Statement (.maxnImm x) := fun _ => imm x _
theorem Words.cmpReg (g : Guard) (q : BitVec 3) (a : Src) (b : Src) (c : Cond) : Statement (.cmpReg g q a b c) :=
  fun h => scalar_words _ _ _ _ _ _ (few_two a b h)
theorem Words.cmpImm (g : Guard) (q : BitVec 3) (a : Src) (c : Cond) (i : BitVec 7) : Statement (.cmpImm g q a c i) :=
  fun _ => scalar_words _ _ _ _ _ _ (few_src a)
theorem Words.qand (x : QBin) : Statement (.qand x) := fun _ => bare
theorem Words.qor (x : QBin) : Statement (.qor x) := fun _ => bare
theorem Words.qxor (x : QBin) : Statement (.qxor x) := fun _ => bare
theorem Words.qnot (g : Guard) (q : BitVec 3) (x : BitVec 3) : Statement (.qnot g q x) := fun _ => bare
theorem Words.sel (g : Guard) (d : Dst) (a : Src) (b : Src) (q : BitVec 3) : Statement (.sel g d a b q) :=
  fun h => scalar_words _ _ _ _ _ _ (few_two a b h)
theorem Words.liImm (g : Guard) (d : Dst) (i : BitVec 7) : Statement (.liImm g d i) := fun _ => bare
theorem Words.liLiteral (g : Guard) (d : Dst) (w : Word) : Statement (.liLiteral g d w) :=
  fun _ => scalar_words 0x14 (dstBits d) 31 0 g 0 (l := [w]) (Nat.le_refl 1)
theorem Words.lds (g : Guard) (d : Dst) (base : MemBase) (off : BitVec 7) : Statement (.lds g d base off) :=
  fun _ => scalar_words _ _ _ _ _ _ (few_base base)
theorem Words.sts (g : Guard) (d : Fin 31) (base : MemBase) (off : BitVec 7) : Statement (.sts g d base off) :=
  fun _ => scalar_words _ _ _ _ _ _ (few_base base)
theorem Words.ldp (g : Guard) (d : Pair) (base : MemBase) (off : BitVec 7) : Statement (.ldp g d base off) :=
  fun _ => scalar_words _ _ _ _ _ _ (few_base base)
theorem Words.srd (g : Guard) (d : Dst) (r : Fin 27) : Statement (.srd g d r) := fun _ => bare
theorem Words.swr (g : Guard) (a : Src) (r : Fin 27) : Statement (.swr g a r) :=
  fun _ => scalar_words _ _ _ _ _ _ (few_src a)
theorem Words.br (g : Guard) (off : BitVec 22) : Statement (.br g off) := fun _ => bare
theorem Words.call (g : Guard) (off : BitVec 22) : Statement (.call g off) := fun _ => bare
theorem Words.brq (g : Guard) (m : BrqMode) (q : BitVec 3) (off : BitVec 17) : Statement (.brq g m q off) := fun _ => bare
theorem Words.ret (g : Guard) (a : Src) : Statement (.ret g a) := fun _ => scalar_words _ _ _ _ _ _ (few_src a)
theorem Words.loop (g : Guard) (a : Src) (n : BitVec 12) : Statement (.loop g a n) :=
  fun _ => scalar_words _ _ _ _ _ _ (few_src a)
theorem Words.exit (g : Guard) : Statement (.exit g) := fun _ => bare
theorem Words.nop (g : Guard) : Statement (.nop g) := fun _ => bare
theorem Words.regang (g : Guard) (m : BitVec 8) : Statement (.regang g m) := fun _ => bare
theorem Words.lrun (g : Guard) (a : Src) (cm1 : BitVec 12) : Statement (.lrun g a cm1) :=
  fun _ => scalar_words _ _ _ _ _ _ (few_src a)
theorem Words.lmaskReg (g : Guard) (a : Src) : Statement (.lmaskReg g a) :=
  fun _ => scalar_words _ _ _ _ _ _ (few_src a)
theorem Words.lmaskImm (g : Guard) (m : BitVec 4) : Statement (.lmaskImm g m) := fun _ => bare
theorem Words.bar (g : Guard) (p : Phase) (count : Option Src) (b : BitVec 4) : Statement (.bar g p count b) := by
  intro _
  cases count with
  | none => exact bare
  | some a => exact scalar_words _ _ _ _ _ _ (few_src a)
theorem Words.barc (g : Guard) (p : Phase) (b : BitVec 4) : Statement (.barc g p b) := fun _ => bare
theorem Words.bars (g : Guard) (p : Phase) (b : BitVec 4) : Statement (.bars g p b) := fun _ => bare
theorem Words.arrive (g : Guard) (s : Scope) (rel : Bool) (a : SyncAddr) (n : Src) : Statement (.arrive g s rel a n) :=
  fun h => scalar_words _ _ _ _ _ _ (sync_src a n (by rintro x rfl; exact h))
theorem Words.wait (g : Guard) (s : Scope) (a : SyncAddr) (gen : Src) : Statement (.wait g s a gen) :=
  fun h => scalar_words _ _ _ _ _ _ (sync_src a gen (by rintro x rfl; exact h))
theorem Words.mwait (g : Guard) (s : Scope) (a : SyncAddr) (v : PairOrLit) : Statement (.mwait g s a v) :=
  fun h => scalar_words _ _ _ _ _ _ (sync_pair a v (by rintro x w rfl rfl; exact Bool.noConfusion h))
theorem Words.waitc (g : Guard) (l : BitVec 4) (s : BitVec 4) (c : BitVec 4) (t : BitVec 4) : Statement (.waitc g l s c t) :=
  fun _ => bare
theorem Words.seal (g : Guard) : Statement (.seal g) := fun _ => bare
theorem Words.fence (g : Guard) (s : Scope) (o : FenceOrder) : Statement (.fence g s o) := fun _ => bare
theorem Words.fencem (g : Guard) (o : FenceOrder) (a : Src) : Statement (.fencem g o a) :=
  fun _ => scalar_words _ _ _ _ _ _ (few_src a)
theorem Words.drain (g : Guard) (s : DrainScope) : Statement (.drain g s) := fun _ => bare
theorem Words.give (g : Guard) (d : Fin 31) (a : Src) (b : Src) : Statement (.give g d a b) :=
  fun h => scalar_words _ _ _ _ _ _ (few_two a b h)
theorem Words.take (g : Guard) (a : Src) : Statement (.take g a) := fun _ => scalar_words _ _ _ _ _ _ (few_src a)
theorem Words.detach (g : Guard) (a : Src) : Statement (.detach g a) := fun _ => scalar_words _ _ _ _ _ _ (few_src a)
theorem Words.qend (g : Guard) : Statement (.qend g) := fun _ => bare
theorem Words.yield (g : Guard) : Statement (.yield g) := fun _ => bare
theorem Words.copy (x : CopyForm) : Statement (.copy x) := fun _ => bare
theorem Words.copyr (x : CopyForm) : Statement (.copyr x) := fun _ => bare
theorem Words.gath (x : GathForm) : Statement (.gath x) := fun _ => bare
theorem Words.scad (x : GathForm) : Statement (.scad x) := fun _ => bare
theorem Words.pftL2 (g : Guard) (a : Pair) (b : Fin 31) : Statement (.pftL2 g a b) := fun _ => bare
theorem Words.pftPromote (g : Guard) (a : Pair) : Statement (.pftPromote g a) := fun _ => bare
theorem Words.pftDemote (g : Guard) (a : Pair) : Statement (.pftDemote g a) := fun _ => bare
theorem Words.mxa (x : MxaForm) : Statement (.mxa x) := fun _ => bare
theorem Words.mxaSolo (x : MxaForm) : Statement (.mxaSolo x) := fun _ => bare
theorem Words.mxz (g : Guard) (d : Fin 31) : Statement (.mxz g d) := fun _ => bare
theorem Words.mxld (g : Guard) (d : Fin 31) (a : Fin 31) : Statement (.mxld g d a) := fun _ => bare
theorem Words.mxst (g : Guard) (d : Pair) (a : Pair) (b : Group) : Statement (.mxst g d a b) := fun _ => bare
theorem Words.epld (g : Guard) (a : Pair) : Statement (.epld g a) := fun _ => bare
theorem Words.trap (g : Guard) (code : BitVec 10) : Statement (.trap g code) := fun _ => bare
theorem Words.bkpt (g : Guard) : Statement (.bkpt g) := fun _ => bare
theorem Words.invi (g : Guard) (s : InviScope) (sec : InviSection) : Statement (.invi g s sec) := fun _ => bare
theorem Words.launch (g : Guard) (d : Dst) (a : Pair) : Statement (.launch g d a) := fun _ => bare
theorem Words.preempt (g : Guard) (k : Target) (a : Src) : Statement (.preempt g k a) :=
  fun h => target g k a _ (by rintro b (rfl | rfl) <;> exact h)
theorem Words.resume (g : Guard) (k : Target) (a : Src) : Statement (.resume g k a) :=
  fun h => target g k a _ (by rintro b (rfl | rfl) <;> exact h)
theorem Words.kill (g : Guard) (k : Target) (a : Src) : Statement (.kill g k a) :=
  fun h => target g k a _ (by rintro b (rfl | rfl) <;> exact h)
theorem Words.ctxsv (x : CtxForm) : Statement (.ctxsv x) := fun _ => ctx x _
theorem Words.ctxld (x : CtxForm) : Statement (.ctxld x) := fun _ => ctx x _
theorem Words.quota (g : Guard) (a : Src) (b : Src) : Statement (.quota g a b) :=
  fun h => scalar_words _ _ _ _ _ _ (few_two a b h)
theorem Words.vadd (w : LaneWord) : Statement (.vadd w) := fun _ => only
theorem Words.vsub (w : LaneWord) : Statement (.vsub w) := fun _ => only
theorem Words.vmul (w : LaneWord) : Statement (.vmul w) := fun _ => only
theorem Words.vmulh (w : LaneWord) : Statement (.vmulh w) := fun _ => only
theorem Words.vmad (w : LaneWord) : Statement (.vmad w) := fun _ => only
theorem Words.vabs (w : LaneWord) : Statement (.vabs w) := fun _ => only
theorem Words.vneg (w : LaneWord) : Statement (.vneg w) := fun _ => only
theorem Words.vmin (w : LaneWord) : Statement (.vmin w) := fun _ => only
theorem Words.vmax (w : LaneWord) : Statement (.vmax w) := fun _ => only
theorem Words.vand (w : LaneWord) : Statement (.vand w) := fun _ => only
theorem Words.vor (w : LaneWord) : Statement (.vor w) := fun _ => only
theorem Words.vxor (w : LaneWord) : Statement (.vxor w) := fun _ => only
theorem Words.vnot (w : LaneWord) : Statement (.vnot w) := fun _ => only
theorem Words.vshl (w : LaneWord) : Statement (.vshl w) := fun _ => only
theorem Words.vshr (w : LaneWord) : Statement (.vshr w) := fun _ => only
theorem Words.vsra (w : LaneWord) : Statement (.vsra w) := fun _ => only
theorem Words.vrot (w : LaneWord) : Statement (.vrot w) := fun _ => only
theorem Words.vclz (w : LaneWord) : Statement (.vclz w) := fun _ => only
theorem Words.vpopc (w : LaneWord) : Statement (.vpopc w) := fun _ => only
theorem Words.vbfx (w : LaneWord) : Statement (.vbfx w) := fun _ => only
theorem Words.vbfi (w : LaneWord) : Statement (.vbfi w) := fun _ => only
theorem Words.vprm (w : LaneWord) : Statement (.vprm w) := fun _ => only
theorem Words.vdot4 (w : LaneWord) : Statement (.vdot4 w) := fun _ => only
theorem Words.vcmp (w : LaneWord) : Statement (.vcmp w) := fun _ => only
theorem Words.vsel (w : LaneWord) : Statement (.vsel w) := fun _ => only
theorem Words.vmov (w : LaneWord) : Statement (.vmov w) := fun _ => only
theorem Words.vli (w : LaneWord) : Statement (.vli w) := fun _ => only
theorem Words.fadd (w : LaneWord) : Statement (.fadd w) := fun _ => only
theorem Words.fsub (w : LaneWord) : Statement (.fsub w) := fun _ => only
theorem Words.fmul (w : LaneWord) : Statement (.fmul w) := fun _ => only
theorem Words.ffma (w : LaneWord) : Statement (.ffma w) := fun _ => only
theorem Words.fmin (w : LaneWord) : Statement (.fmin w) := fun _ => only
theorem Words.fmax (w : LaneWord) : Statement (.fmax w) := fun _ => only
theorem Words.frcp (w : LaneWord) : Statement (.frcp w) := fun _ => only
theorem Words.frsq (w : LaneWord) : Statement (.frsq w) := fun _ => only
theorem Words.fsqrt (w : LaneWord) : Statement (.fsqrt w) := fun _ => only
theorem Words.fex2 (w : LaneWord) : Statement (.fex2 w) := fun _ => only
theorem Words.flg2 (w : LaneWord) : Statement (.flg2 w) := fun _ => only
theorem Words.fsin (w : LaneWord) : Statement (.fsin w) := fun _ => only
theorem Words.fcos (w : LaneWord) : Statement (.fcos w) := fun _ => only
theorem Words.fcmp (w : LaneWord) : Statement (.fcmp w) := fun _ => only
theorem Words.fcls (w : LaneWord) : Statement (.fcls w) := fun _ => only
theorem Words.fcvt (w : LaneWord) : Statement (.fcvt w) := fun _ => only
theorem Words.frnd (w : LaneWord) : Statement (.frnd w) := fun _ => only
theorem Words.f2i (w : LaneWord) : Statement (.f2i w) := fun _ => only
theorem Words.i2f (w : LaneWord) : Statement (.i2f w) := fun _ => only
theorem Words.vshf (w : LaneWord) : Statement (.vshf w) := fun _ => only
theorem Words.vbal (w : LaneWord) : Statement (.vbal w) := fun _ => only
theorem Words.vred (w : LaneWord) : Statement (.vred w) := fun _ => only
theorem Words.vscn (w : LaneWord) : Statement (.vscn w) := fun _ => only
theorem Words.vbcs (w : LaneWord) : Statement (.vbcs w) := fun _ => only
theorem Words.vld (w : LaneWord) : Statement (.vld w) := fun _ => only
theorem Words.vst (w : LaneWord) : Statement (.vst w) := fun _ => only
theorem Words.vatm (w : LaneWord) : Statement (.vatm w) := fun _ => only
theorem Words.vrdm (w : LaneWord) : Statement (.vrdm w) := fun _ => only
theorem Words.vatl (w : LaneWord) : Statement (.vatl w) := fun _ => only
theorem Words.ginc (w : LaneWord) : Statement (.ginc w) := fun _ => only
theorem Words.grd (w : LaneWord) : Statement (.grd w) := fun _ => only
theorem Words.gmrg (w : LaneWord) : Statement (.gmrg w) := fun _ => only
theorem Words.gclr (w : LaneWord) : Statement (.gclr w) := fun _ => only
theorem Words.kand (w : LaneWord) : Statement (.kand w) := fun _ => only
theorem Words.kor (w : LaneWord) : Statement (.kor w) := fun _ => only
theorem Words.kxor (w : LaneWord) : Statement (.kxor w) := fun _ => only
theorem Words.knot (w : LaneWord) : Statement (.knot w) := fun _ => only
theorem Words.eldv (d : BitVec 3) (n : BitVec 2) (kind : BitVec 2) (off : BitVec 16) : Statement (.eldv d n kind off) :=
  fun _ => only
theorem Words.escl (d : BitVec 3) (a : BitVec 3) : Statement (.escl d a) := fun _ => only
theorem Words.ebia (d : BitVec 3) (a : BitVec 3) (n : BitVec 2) (bf16 : Bool) (off : BitVec 16) : Statement (.ebia d a n bf16 off) :=
  fun _ => only
theorem Words.eact (d : BitVec 3) (a : BitVec 3) (f : BitVec 4) : Statement (.eact d a f) := fun _ => only
theorem Words.emul (d : BitVec 3) (a : BitVec 3) (b : BitVec 3) : Statement (.emul d a b) := fun _ => only
theorem Words.eadd (d : BitVec 3) (a : BitVec 3) (b : BitVec 3) : Statement (.eadd d a b) := fun _ => only
theorem Words.emax (d : BitVec 3) (a : BitVec 3) (b : BitVec 3) : Statement (.emax d a b) := fun _ => only
theorem Words.ecvt (d : BitVec 3) (a : BitVec 3) (m : BitVec 2) (s : Bool) (f : BitVec 4) : Statement (.ecvt d a m s f) :=
  fun _ => only
theorem Words.est (a : BitVec 3) (n : BitVec 2) (stride : Bool) (f : BitVec 4) : Statement (.est a n stride f) :=
  fun _ => only
theorem Words.etrn (a : BitVec 3) (n : BitVec 2) (f : BitVec 4) : Statement (.etrn a n f) := fun _ => only
theorem Words.enop : Statement .enop := fun _ => only
theorem Words.eend : Statement .eend := fun _ => only
theorem Words.powerOn : Statement .powerOn := fun _ => only
theorem Words.bootcmdWrite (v : DWord) : Statement (.bootcmdWrite v) := fun _ => only
theorem Words.sbverifyWrite (v : DWord) : Statement (.sbverifyWrite v) := fun _ => only
theorem Words.sbverifyDone : Statement .sbverifyDone := fun _ => only
theorem Words.attreqWrite (v : DWord) : Statement (.attreqWrite v) := fun _ => only
theorem Words.attestationReportDone : Statement .attestationReportDone := fun _ => only
theorem Words.ccstartWrite (v : DWord) : Statement (.ccstartWrite v) := fun _ => only
theorem Words.tlbinvWrite (die : Nat) (v : DWord) : Statement (.tlbinvWrite die v) := fun _ => only
theorem Words.tlbInvalidationComplete (die : Nat) : Statement (.tlbInvalidationComplete die) := fun _ => only
theorem Words.testreqWrite (die : Nat) (v : DWord) : Statement (.testreqWrite die v) := fun _ => only
theorem Words.unitfenceFence (die : Nat) (u : Nat) : Statement (.unitfenceFence die u) := fun _ => only
theorem Words.unitfenceLift (die : Nat) (u : Nat) : Statement (.unitfenceLift die u) := fun _ => only
theorem Words.registerWrite (die : Nat) (off : Nat) (v : DWord) : Statement (.registerWrite die off v) := fun _ => only
theorem Words.diePowerLoss (die : Nat) : Statement (.diePowerLoss die) := fun _ => only
theorem Words.dieWake (die : Nat) : Statement (.dieWake die) := fun _ => only
theorem Words.dieReset (die : Nat) : Statement (.dieReset die) := fun _ => only
theorem Words.inboundRmaWrite (w : RmaFrom) (off : Nat) (data : List Byte) : Statement (.inboundRmaWrite w off data) :=
  fun _ => only
theorem Words.inboundRmaRead (key : DWord) (off : Nat) (len : Nat) : Statement (.inboundRmaRead key off len) := fun _ => only
theorem Words.ueUnsupportedRequest : Statement .ueUnsupportedRequest := fun _ => only
theorem Words.ueContextAbandoned (port : Nat) (window : Nat) (code : Nat) : Statement (.ueContextAbandoned port window code) :=
  fun _ => only
theorem Words.requestAtTarget (r : Request) : Statement (.requestAtTarget r) := fun _ => only
theorem Words.replyAtRequester (r : Reply) : Statement (.replyAtRequester r) := fun _ => only
theorem Words.requestTimeout (q : Requester) (tsn : BitVec 16) : Statement (.requestTimeout q tsn) := fun _ => only
theorem Words.flitCrcFail (die : Nat) (m : Nat) : Statement (.flitCrcFail die m) := fun _ => only
theorem Words.retryRequest (die : Nat) (m : Nat) : Statement (.retryRequest die m) := fun _ => only
theorem Words.flitAck (die : Nat) (m : Nat) (n : Nat) : Statement (.flitAck die m n) := fun _ => only
theorem Words.replayTimerExpiry (die : Nat) (m : Nat) : Statement (.replayTimerExpiry die m) := fun _ => only
theorem Words.retrainComplete (die : Nat) (m : Nat) (badLanes : BitVec 64) : Statement (.retrainComplete die m badLanes) :=
  fun _ => only
theorem Words.grenderFlitFail (port : Nat) : Statement (.grenderFlitFail port) := fun _ => only
theorem Words.switchPortFailed (plane : Nat) (pkg : Nat) : Statement (.switchPortFailed plane pkg) := fun _ => only
theorem Words.spanReserveRequest (k : SpanKey) : Statement (.spanReserveRequest k) := fun _ => only
theorem Words.spanReserveAnswer (k : SpanKey) (member : Nat) (yes : Bool) : Statement (.spanReserveAnswer k member yes) :=
  fun _ => only
theorem Words.spanCommit (k : SpanKey) : Statement (.spanCommit k) := fun _ => only
theorem Words.spanRelease (k : SpanKey) : Statement (.spanRelease k) := fun _ => only
theorem Words.spanRetryTimer (k : SpanKey) : Statement (.spanRetryTimer k) := fun _ => only
theorem Words.spanMessageTimeout (k : SpanKey) (member : Nat) : Statement (.spanMessageTimeout k member) := fun _ => only
theorem Words.spanStopIssue (k : SpanKey) : Statement (.spanStopIssue k) := fun _ => only
theorem Words.stopIssueAck (k : SpanKey) (member : Nat) : Statement (.stopIssueAck k member) := fun _ => only
theorem Words.blockDispatch (handle : Word) : Statement (.blockDispatch handle) := fun _ => only
theorem Words.dependencyReread (handle : Word) : Statement (.dependencyReread handle) := fun _ => only
theorem Words.runStart (g : GangId) (m : BitVec 8) : Statement (.runStart g m) := fun _ => only
theorem Words.partWake (g : GangId) (m : BitVec 8) : Statement (.partWake g m) := fun _ => only
theorem Words.watchRetest (g : GangId) (m : BitVec 8) : Statement (.watchRetest g m) := fun _ => only
theorem Words.stampReread (g : GangId) (m : BitVec 8) : Statement (.stampReread g m) := fun _ => only
theorem Words.yieldTimeout (g : GangId) (m : BitVec 8) : Statement (.yieldTimeout g m) := fun _ => only
theorem Words.syncWordArrival (n : Nat) : Statement (.syncWordArrival n) := fun _ => only
theorem Words.batchComplete (g : GangId) : Statement (.batchComplete g) := fun _ => only
theorem Words.copyPieceLanded (op : Nat) : Statement (.copyPieceLanded op) := fun _ => only
theorem Words.copyComplete (op : Nat) : Statement (.copyComplete op) := fun _ => only
theorem Words.sluiceFold (op : Nat) : Statement (.sluiceFold op) := fun _ => only
theorem Words.subRequestPartition (r : SubReq) : Statement (.subRequestPartition r) := fun _ => only
theorem Words.rowFetch (n : Nat) : Statement (.rowFetch n) := fun _ => only
theorem Words.scadRowAdd (n : Nat) : Statement (.scadRowAdd n) := fun _ => only
theorem Words.gatherReplyMerge (op : Nat) (r : SubReply) : Statement (.gatherReplyMerge op r) := fun _ => only
theorem Words.gatherComplete (op : Nat) : Statement (.gatherComplete op) := fun _ => only
theorem Words.tileOperationComplete (op : Nat) : Statement (.tileOperationComplete op) := fun _ => only
theorem Words.drainComplete (op : Nat) : Statement (.drainComplete op) := fun _ => only
theorem Words.epldCheckComplete (op : Nat) : Statement (.epldCheckComplete op) := fun _ => only
theorem Words.migrationComplete (n : Nat) : Statement (.migrationComplete n) := fun _ => only
theorem Words.gangExit (g : GangId) : Statement (.gangExit g) := fun _ => only
theorem Words.blockResourcesFree (b : BlockId) : Statement (.blockResourcesFree b) := fun _ => only
theorem Words.haltComplete (b : BlockId) : Statement (.haltComplete b) := fun _ => only
theorem Words.roundStart (handle : Word) : Statement (.roundStart handle) := fun _ => only
theorem Words.quantumCountExpiry (g : GangId) : Statement (.quantumCountExpiry g) := fun _ => only
theorem Words.commitPhaseStart (handle : Word) : Statement (.commitPhaseStart handle) := fun _ => only
theorem Words.commitSlot (g : GangId) : Statement (.commitSlot g) := fun _ => only
theorem Words.drainSweepComplete (g : GangId) (otherSent : Nat) (otherDone : Nat) : Statement (.drainSweepComplete g otherSent otherDone) :=
  fun _ => only
theorem Words.forcedPassStep (die : Nat) (u : Nat) (r : StepResult) : Statement (.forcedPassStep die u r) := fun _ => only
theorem Words.hostWindowRmaResponse (tag : Nat) (body : ReplyBody) : Statement (.hostWindowRmaResponse tag body) :=
  fun _ => only
theorem Words.spanKillMessage (k : SpanKey) : Statement (.spanKillMessage k) := fun _ => only
theorem Words.spanBarrierCombine (k : SpanKey) (b : BitVec 4) (m : SpanBarrierMsg) : Statement (.spanBarrierCombine k b m) :=
  fun _ => only
theorem Words.commitAcknowledged (k : SpanKey) (a : MemberAck) : Statement (.commitAcknowledged k a) :=
  fun _ => only
theorem Words.wgtRefreshWindowStart (die : Nat) (bank : Nat) : Statement (.wgtRefreshWindowStart die bank) := fun _ => only
theorem Words.wgtRefreshWindowEnd (die : Nat) (bank : Nat) : Statement (.wgtRefreshWindowEnd die bank) := fun _ => only
theorem Words.idleTestStep (die : Nat) (u : Nat) (r : StepResult) : Statement (.idleTestStep die u r) := fun _ => only
theorem Words.scrubRead (arr : EccArray) (die : Nat) (granule : Nat) (r : ScrubResult) : Statement (.scrubRead arr die granule r) :=
  fun _ => only
theorem Words.monitorInterval (die : Nat) (n : Nat) : Statement (.monitorInterval die n) := fun _ => only
theorem Words.retconsWrite (die : Nat) (v : DWord) : Statement (.retconsWrite die v) := fun _ => only
theorem Words.monctlClear (die : Nat) (n : Nat) : Statement (.monctlClear die n) := fun _ => only
theorem Words.junctionOver100c (die : Nat) : Statement (.junctionOver100c die) := fun _ => only
theorem Words.junctionBelow95c (die : Nat) : Statement (.junctionBelow95c die) := fun _ => only
theorem Words.junctionOver115c : Statement .junctionOver115c := fun _ => only
theorem Words.keyRotation (port : Nat) : Statement (.keyRotation port) := fun _ => only
theorem Words.p4StarvationGrant (die : Nat) : Statement (.p4StarvationGrant die) := fun _ => only
theorem Words.walkComplete (die : Nat) (ctxDie : Nat) (ctxCore : Nat) (va : VAddr) : Statement (.walkComplete die ctxDie ctxCore va) :=
  fun _ => only
theorem Words.migrationAbandon (n : Nat) (cause : BitVec 8) : Statement (.migrationAbandon n cause) := fun _ => only
theorem Words.sliceTimerExpiry (handle : Word) : Statement (.sliceTimerExpiry handle) := fun _ => only
theorem Words.mgmtRefresh : Statement .mgmtRefresh := fun _ => only
theorem Words.grenderAuthFail (port : Nat) : Statement (.grenderAuthFail port) := fun _ => only
theorem Words.cxlPortFail (die : Nat) (port : Nat) : Statement (.cxlPortFail die port) := fun _ => only

end Sys2Proof.Laws
end

