-- ==== Sys2Proof/Laws/State.lean ====
section
/-! SUPPORT. Laws of the state's updates: what each leaves unchanged, field by field, and what a lookup finds after it. -/
set_option Elab.async false
namespace Sys2Proof.Machine

/-! ## Frames of the updates -/

@[simp] theorem State.setGang_frame (s : State) (g : Gang) :
    (s.setGang g).clock = s.clock ∧ (s.setGang g).ticks = s.ticks ∧ (s.setGang g).inputs = s.inputs ∧
    (s.setGang g).outputs = s.outputs ∧ (s.setGang g).issue = s.issue ∧ (s.setGang g).pkgId = s.pkgId ∧
    (s.setGang g).mem = s.mem ∧ (s.setGang g).ls = s.ls ∧ (s.setGang g).wgt = s.wgt ∧ (s.setGang g).dev = s.dev ∧
    (s.setGang g).dies = s.dies ∧ (s.setGang g).boot = s.boot ∧ (s.setGang g).controls = s.controls ∧
    (s.setGang g).grids = s.grids ∧ (s.setGang g).blocks = s.blocks ∧ (s.setGang g).cohorts = s.cohorts ∧
    (s.setGang g).ops = s.ops ∧ (s.setGang g).nextOp = s.nextOp ∧ (s.setGang g).arrivals = s.arrivals ∧
    (s.setGang g).outstanding = s.outstanding ∧ (s.setGang g).remote = s.remote ∧ (s.setGang g).fetched = s.fetched ∧
    (s.setGang g).retired = s.retired ∧ (s.setGang g).tsns = s.tsns ∧ (s.setGang g).filters = s.filters ∧
    (s.setGang g).subOwn = s.subOwn ∧ (s.setGang g).rowJobs = s.rowJobs ∧ (s.setGang g).subReplies = s.subReplies ∧
    (s.setGang g).subSeen = s.subSeen ∧ (s.setGang g).badPlanes = s.badPlanes ∧ (s.setGang g).tlb = s.tlb ∧
    (s.setGang g).invalidations = s.invalidations ∧ (s.setGang g).migrations = s.migrations ∧
    (s.setGang g).inPlace = s.inPlace ∧ (s.setGang g).heldWrites = s.heldWrites ∧
    (s.setGang g).heldMerges = s.heldMerges ∧ (s.setGang g).ready = s.ready ∧ (s.setGang g).parked = s.parked ∧
    (s.setGang g).modules = s.modules ∧ (s.setGang g).ports = s.ports ∧ (s.setGang g).reservation = s.reservation ∧
    (s.setGang g).reserveQueue = s.reserveQueue ∧ (s.setGang g).spans = s.spans ∧
    (s.setGang g).spanArrived = s.spanArrived ∧ (s.setGang g).monitors = s.monitors ∧ (s.setGang g).passes = s.passes ∧
    (s.setGang g).fences = s.fences ∧ (s.setGang g).poison = s.poison ∧ (s.setGang g).roCache = s.roCache ∧
    (s.setGang g).heldCode = s.heldCode ∧ (s.setGang g).abandoned = s.abandoned ∧
    (s.setGang g).flights = s.flights ∧ (s.setGang g).flight = s.flight ∧ (s.setGang g).retiredSubs = s.retiredSubs ∧ (s.setGang g).spanFlush = s.spanFlush ∧ (s.setGang g).unwatched = s.unwatched := by
  simp [State.setGang]

@[simp] theorem State.setBlock_frame (s : State) (b : Block) :
    (s.setBlock b).clock = s.clock ∧ (s.setBlock b).ticks = s.ticks ∧ (s.setBlock b).inputs = s.inputs ∧
    (s.setBlock b).outputs = s.outputs ∧ (s.setBlock b).issue = s.issue ∧ (s.setBlock b).pkgId = s.pkgId ∧
    (s.setBlock b).mem = s.mem ∧ (s.setBlock b).ls = s.ls ∧ (s.setBlock b).wgt = s.wgt ∧ (s.setBlock b).dev = s.dev ∧
    (s.setBlock b).dies = s.dies ∧ (s.setBlock b).boot = s.boot ∧ (s.setBlock b).controls = s.controls ∧
    (s.setBlock b).grids = s.grids ∧ (s.setBlock b).cohorts = s.cohorts ∧ (s.setBlock b).gangs = s.gangs ∧
    (s.setBlock b).ops = s.ops ∧ (s.setBlock b).nextOp = s.nextOp ∧ (s.setBlock b).arrivals = s.arrivals ∧
    (s.setBlock b).outstanding = s.outstanding ∧ (s.setBlock b).remote = s.remote ∧ (s.setBlock b).fetched = s.fetched ∧
    (s.setBlock b).retired = s.retired ∧ (s.setBlock b).tsns = s.tsns ∧ (s.setBlock b).filters = s.filters ∧
    (s.setBlock b).subOwn = s.subOwn ∧ (s.setBlock b).rowJobs = s.rowJobs ∧ (s.setBlock b).subReplies = s.subReplies ∧
    (s.setBlock b).subSeen = s.subSeen ∧ (s.setBlock b).badPlanes = s.badPlanes ∧ (s.setBlock b).tlb = s.tlb ∧
    (s.setBlock b).invalidations = s.invalidations ∧ (s.setBlock b).migrations = s.migrations ∧
    (s.setBlock b).inPlace = s.inPlace ∧ (s.setBlock b).heldWrites = s.heldWrites ∧
    (s.setBlock b).heldMerges = s.heldMerges ∧ (s.setBlock b).ready = s.ready ∧ (s.setBlock b).parked = s.parked ∧
    (s.setBlock b).modules = s.modules ∧ (s.setBlock b).ports = s.ports ∧ (s.setBlock b).reservation = s.reservation ∧
    (s.setBlock b).reserveQueue = s.reserveQueue ∧ (s.setBlock b).spans = s.spans ∧
    (s.setBlock b).spanArrived = s.spanArrived ∧ (s.setBlock b).monitors = s.monitors ∧
    (s.setBlock b).passes = s.passes ∧ (s.setBlock b).fences = s.fences ∧ (s.setBlock b).poison = s.poison ∧
    (s.setBlock b).roCache = s.roCache ∧ (s.setBlock b).heldCode = s.heldCode ∧
    (s.setBlock b).abandoned = s.abandoned ∧
    (s.setBlock b).flights = s.flights ∧ (s.setBlock b).flight = s.flight ∧ (s.setBlock b).retiredSubs = s.retiredSubs ∧ (s.setBlock b).spanFlush = s.spanFlush ∧ (s.setBlock b).unwatched = s.unwatched := by
  simp [State.setBlock]

@[simp] theorem State.setGrid_frame (s : State) (g : Grid) :
    (s.setGrid g).clock = s.clock ∧ (s.setGrid g).ticks = s.ticks ∧ (s.setGrid g).inputs = s.inputs ∧
    (s.setGrid g).outputs = s.outputs ∧ (s.setGrid g).issue = s.issue ∧ (s.setGrid g).pkgId = s.pkgId ∧
    (s.setGrid g).mem = s.mem ∧ (s.setGrid g).ls = s.ls ∧ (s.setGrid g).wgt = s.wgt ∧ (s.setGrid g).dev = s.dev ∧
    (s.setGrid g).dies = s.dies ∧ (s.setGrid g).boot = s.boot ∧ (s.setGrid g).controls = s.controls ∧
    (s.setGrid g).blocks = s.blocks ∧ (s.setGrid g).cohorts = s.cohorts ∧ (s.setGrid g).gangs = s.gangs ∧
    (s.setGrid g).ops = s.ops ∧ (s.setGrid g).nextOp = s.nextOp ∧ (s.setGrid g).arrivals = s.arrivals ∧
    (s.setGrid g).outstanding = s.outstanding ∧ (s.setGrid g).remote = s.remote ∧ (s.setGrid g).fetched = s.fetched ∧
    (s.setGrid g).retired = s.retired ∧ (s.setGrid g).tsns = s.tsns ∧ (s.setGrid g).filters = s.filters ∧
    (s.setGrid g).subOwn = s.subOwn ∧ (s.setGrid g).rowJobs = s.rowJobs ∧ (s.setGrid g).subReplies = s.subReplies ∧
    (s.setGrid g).subSeen = s.subSeen ∧ (s.setGrid g).badPlanes = s.badPlanes ∧ (s.setGrid g).tlb = s.tlb ∧
    (s.setGrid g).invalidations = s.invalidations ∧ (s.setGrid g).migrations = s.migrations ∧
    (s.setGrid g).inPlace = s.inPlace ∧ (s.setGrid g).heldWrites = s.heldWrites ∧
    (s.setGrid g).heldMerges = s.heldMerges ∧ (s.setGrid g).ready = s.ready ∧ (s.setGrid g).parked = s.parked ∧
    (s.setGrid g).modules = s.modules ∧ (s.setGrid g).ports = s.ports ∧ (s.setGrid g).reservation = s.reservation ∧
    (s.setGrid g).reserveQueue = s.reserveQueue ∧ (s.setGrid g).spans = s.spans ∧
    (s.setGrid g).spanArrived = s.spanArrived ∧ (s.setGrid g).monitors = s.monitors ∧ (s.setGrid g).passes = s.passes ∧
    (s.setGrid g).fences = s.fences ∧ (s.setGrid g).poison = s.poison ∧ (s.setGrid g).roCache = s.roCache ∧
    (s.setGrid g).heldCode = s.heldCode ∧ (s.setGrid g).abandoned = s.abandoned ∧
    (s.setGrid g).flights = s.flights ∧ (s.setGrid g).flight = s.flight ∧ (s.setGrid g).retiredSubs = s.retiredSubs ∧ (s.setGrid g).spanFlush = s.spanFlush ∧ (s.setGrid g).unwatched = s.unwatched := by
  simp [State.setGrid]

@[simp] theorem State.setOp_frame (s : State) (o : EngineOp) :
    (s.setOp o).clock = s.clock ∧ (s.setOp o).ticks = s.ticks ∧ (s.setOp o).inputs = s.inputs ∧
    (s.setOp o).outputs = s.outputs ∧ (s.setOp o).issue = s.issue ∧ (s.setOp o).pkgId = s.pkgId ∧
    (s.setOp o).mem = s.mem ∧ (s.setOp o).ls = s.ls ∧ (s.setOp o).wgt = s.wgt ∧ (s.setOp o).dev = s.dev ∧
    (s.setOp o).dies = s.dies ∧ (s.setOp o).boot = s.boot ∧ (s.setOp o).controls = s.controls ∧
    (s.setOp o).grids = s.grids ∧ (s.setOp o).blocks = s.blocks ∧ (s.setOp o).cohorts = s.cohorts ∧
    (s.setOp o).gangs = s.gangs ∧ (s.setOp o).nextOp = s.nextOp ∧ (s.setOp o).arrivals = s.arrivals ∧
    (s.setOp o).outstanding = s.outstanding ∧ (s.setOp o).remote = s.remote ∧ (s.setOp o).fetched = s.fetched ∧
    (s.setOp o).retired = s.retired ∧ (s.setOp o).tsns = s.tsns ∧ (s.setOp o).filters = s.filters ∧
    (s.setOp o).subOwn = s.subOwn ∧ (s.setOp o).rowJobs = s.rowJobs ∧ (s.setOp o).subReplies = s.subReplies ∧
    (s.setOp o).subSeen = s.subSeen ∧ (s.setOp o).badPlanes = s.badPlanes ∧ (s.setOp o).tlb = s.tlb ∧
    (s.setOp o).invalidations = s.invalidations ∧ (s.setOp o).migrations = s.migrations ∧
    (s.setOp o).inPlace = s.inPlace ∧ (s.setOp o).heldWrites = s.heldWrites ∧ (s.setOp o).heldMerges = s.heldMerges ∧
    (s.setOp o).ready = s.ready ∧ (s.setOp o).parked = s.parked ∧ (s.setOp o).modules = s.modules ∧
    (s.setOp o).ports = s.ports ∧ (s.setOp o).reservation = s.reservation ∧ (s.setOp o).reserveQueue = s.reserveQueue ∧
    (s.setOp o).spans = s.spans ∧ (s.setOp o).spanArrived = s.spanArrived ∧ (s.setOp o).monitors = s.monitors ∧
    (s.setOp o).passes = s.passes ∧ (s.setOp o).fences = s.fences ∧ (s.setOp o).poison = s.poison ∧
    (s.setOp o).roCache = s.roCache ∧ (s.setOp o).heldCode = s.heldCode ∧ (s.setOp o).abandoned = s.abandoned ∧
    (s.setOp o).flights = s.flights ∧ (s.setOp o).flight = s.flight ∧ (s.setOp o).retiredSubs = s.retiredSubs ∧ (s.setOp o).spanFlush = s.spanFlush ∧ (s.setOp o).unwatched = s.unwatched := by
  simp [State.setOp]

@[simp] theorem State.setControl_frame (s : State) (c : ControlCore) :
    (s.setControl c).clock = s.clock ∧ (s.setControl c).ticks = s.ticks ∧ (s.setControl c).inputs = s.inputs ∧
    (s.setControl c).outputs = s.outputs ∧ (s.setControl c).issue = s.issue ∧ (s.setControl c).pkgId = s.pkgId ∧
    (s.setControl c).mem = s.mem ∧ (s.setControl c).ls = s.ls ∧ (s.setControl c).wgt = s.wgt ∧
    (s.setControl c).dev = s.dev ∧ (s.setControl c).dies = s.dies ∧ (s.setControl c).boot = s.boot ∧
    (s.setControl c).grids = s.grids ∧ (s.setControl c).blocks = s.blocks ∧ (s.setControl c).cohorts = s.cohorts ∧
    (s.setControl c).gangs = s.gangs ∧ (s.setControl c).ops = s.ops ∧ (s.setControl c).nextOp = s.nextOp ∧
    (s.setControl c).arrivals = s.arrivals ∧ (s.setControl c).outstanding = s.outstanding ∧
    (s.setControl c).remote = s.remote ∧ (s.setControl c).fetched = s.fetched ∧ (s.setControl c).retired = s.retired ∧
    (s.setControl c).tsns = s.tsns ∧ (s.setControl c).filters = s.filters ∧ (s.setControl c).subOwn = s.subOwn ∧
    (s.setControl c).rowJobs = s.rowJobs ∧ (s.setControl c).subReplies = s.subReplies ∧
    (s.setControl c).subSeen = s.subSeen ∧ (s.setControl c).badPlanes = s.badPlanes ∧ (s.setControl c).tlb = s.tlb ∧
    (s.setControl c).invalidations = s.invalidations ∧ (s.setControl c).migrations = s.migrations ∧
    (s.setControl c).inPlace = s.inPlace ∧ (s.setControl c).heldWrites = s.heldWrites ∧
    (s.setControl c).heldMerges = s.heldMerges ∧ (s.setControl c).ready = s.ready ∧ (s.setControl c).parked = s.parked ∧
    (s.setControl c).modules = s.modules ∧ (s.setControl c).ports = s.ports ∧
    (s.setControl c).reservation = s.reservation ∧ (s.setControl c).reserveQueue = s.reserveQueue ∧
    (s.setControl c).spans = s.spans ∧ (s.setControl c).spanArrived = s.spanArrived ∧
    (s.setControl c).monitors = s.monitors ∧ (s.setControl c).passes = s.passes ∧ (s.setControl c).fences = s.fences ∧
    (s.setControl c).poison = s.poison ∧ (s.setControl c).roCache = s.roCache ∧ (s.setControl c).heldCode = s.heldCode ∧
    (s.setControl c).abandoned = s.abandoned ∧
    (s.setControl c).flights = s.flights ∧ (s.setControl c).flight = s.flight ∧ (s.setControl c).retiredSubs = s.retiredSubs ∧ (s.setControl c).spanFlush = s.spanFlush ∧ (s.setControl c).unwatched = s.unwatched := by
  simp [State.setControl]

@[simp] theorem State.setDie_frame (s : State) (d : Nat) (f : Die → Die) :
    (s.setDie d f).clock = s.clock ∧ (s.setDie d f).ticks = s.ticks ∧ (s.setDie d f).inputs = s.inputs ∧
    (s.setDie d f).outputs = s.outputs ∧ (s.setDie d f).issue = s.issue ∧ (s.setDie d f).pkgId = s.pkgId ∧
    (s.setDie d f).mem = s.mem ∧ (s.setDie d f).ls = s.ls ∧ (s.setDie d f).wgt = s.wgt ∧ (s.setDie d f).dev = s.dev ∧
    (s.setDie d f).boot = s.boot ∧ (s.setDie d f).controls = s.controls ∧ (s.setDie d f).grids = s.grids ∧
    (s.setDie d f).blocks = s.blocks ∧ (s.setDie d f).cohorts = s.cohorts ∧ (s.setDie d f).gangs = s.gangs ∧
    (s.setDie d f).ops = s.ops ∧ (s.setDie d f).nextOp = s.nextOp ∧ (s.setDie d f).arrivals = s.arrivals ∧
    (s.setDie d f).outstanding = s.outstanding ∧ (s.setDie d f).remote = s.remote ∧ (s.setDie d f).fetched = s.fetched ∧
    (s.setDie d f).retired = s.retired ∧ (s.setDie d f).tsns = s.tsns ∧ (s.setDie d f).filters = s.filters ∧
    (s.setDie d f).subOwn = s.subOwn ∧ (s.setDie d f).rowJobs = s.rowJobs ∧ (s.setDie d f).subReplies = s.subReplies ∧
    (s.setDie d f).subSeen = s.subSeen ∧ (s.setDie d f).badPlanes = s.badPlanes ∧ (s.setDie d f).tlb = s.tlb ∧
    (s.setDie d f).invalidations = s.invalidations ∧ (s.setDie d f).migrations = s.migrations ∧
    (s.setDie d f).inPlace = s.inPlace ∧ (s.setDie d f).heldWrites = s.heldWrites ∧
    (s.setDie d f).heldMerges = s.heldMerges ∧ (s.setDie d f).ready = s.ready ∧ (s.setDie d f).parked = s.parked ∧
    (s.setDie d f).modules = s.modules ∧ (s.setDie d f).ports = s.ports ∧ (s.setDie d f).reservation = s.reservation ∧
    (s.setDie d f).reserveQueue = s.reserveQueue ∧ (s.setDie d f).spans = s.spans ∧
    (s.setDie d f).spanArrived = s.spanArrived ∧ (s.setDie d f).monitors = s.monitors ∧
    (s.setDie d f).passes = s.passes ∧ (s.setDie d f).fences = s.fences ∧ (s.setDie d f).poison = s.poison ∧
    (s.setDie d f).roCache = s.roCache ∧ (s.setDie d f).heldCode = s.heldCode ∧
    (s.setDie d f).abandoned = s.abandoned ∧
    (s.setDie d f).flights = s.flights ∧ (s.setDie d f).flight = s.flight ∧ (s.setDie d f).retiredSubs = s.retiredSubs ∧ (s.setDie d f).spanFlush = s.spanFlush ∧ (s.setDie d f).unwatched = s.unwatched := by
  simp [State.setDie]

@[simp] theorem State.setCohort_frame (s : State) (c : Cohort) :
    (s.setCohort c).clock = s.clock ∧ (s.setCohort c).ticks = s.ticks ∧ (s.setCohort c).inputs = s.inputs ∧
    (s.setCohort c).outputs = s.outputs ∧ (s.setCohort c).issue = s.issue ∧ (s.setCohort c).pkgId = s.pkgId ∧
    (s.setCohort c).mem = s.mem ∧ (s.setCohort c).ls = s.ls ∧ (s.setCohort c).wgt = s.wgt ∧ (s.setCohort c).dev = s.dev ∧
    (s.setCohort c).dies = s.dies ∧ (s.setCohort c).boot = s.boot ∧ (s.setCohort c).controls = s.controls ∧
    (s.setCohort c).grids = s.grids ∧ (s.setCohort c).blocks = s.blocks ∧ (s.setCohort c).gangs = s.gangs ∧
    (s.setCohort c).ops = s.ops ∧ (s.setCohort c).nextOp = s.nextOp ∧ (s.setCohort c).arrivals = s.arrivals ∧
    (s.setCohort c).outstanding = s.outstanding ∧ (s.setCohort c).remote = s.remote ∧
    (s.setCohort c).fetched = s.fetched ∧ (s.setCohort c).retired = s.retired ∧ (s.setCohort c).tsns = s.tsns ∧
    (s.setCohort c).filters = s.filters ∧ (s.setCohort c).subOwn = s.subOwn ∧ (s.setCohort c).rowJobs = s.rowJobs ∧
    (s.setCohort c).subReplies = s.subReplies ∧ (s.setCohort c).subSeen = s.subSeen ∧
    (s.setCohort c).badPlanes = s.badPlanes ∧ (s.setCohort c).tlb = s.tlb ∧
    (s.setCohort c).invalidations = s.invalidations ∧ (s.setCohort c).migrations = s.migrations ∧
    (s.setCohort c).inPlace = s.inPlace ∧ (s.setCohort c).heldWrites = s.heldWrites ∧
    (s.setCohort c).heldMerges = s.heldMerges ∧ (s.setCohort c).ready = s.ready ∧ (s.setCohort c).parked = s.parked ∧
    (s.setCohort c).modules = s.modules ∧ (s.setCohort c).ports = s.ports ∧ (s.setCohort c).reservation = s.reservation ∧
    (s.setCohort c).reserveQueue = s.reserveQueue ∧ (s.setCohort c).spans = s.spans ∧
    (s.setCohort c).spanArrived = s.spanArrived ∧ (s.setCohort c).monitors = s.monitors ∧
    (s.setCohort c).passes = s.passes ∧ (s.setCohort c).fences = s.fences ∧ (s.setCohort c).poison = s.poison ∧
    (s.setCohort c).roCache = s.roCache ∧ (s.setCohort c).heldCode = s.heldCode ∧
    (s.setCohort c).abandoned = s.abandoned ∧
    (s.setCohort c).flights = s.flights ∧ (s.setCohort c).flight = s.flight ∧ (s.setCohort c).retiredSubs = s.retiredSubs ∧ (s.setCohort c).spanFlush = s.spanFlush ∧ (s.setCohort c).unwatched = s.unwatched := by
  simp [State.setCohort]

@[simp] theorem State.emit_frame (s : State) (o : Output) :
    (s.emit o).clock = s.clock ∧ (s.emit o).ticks = s.ticks ∧ (s.emit o).inputs = s.inputs ∧ (s.emit o).issue = s.issue ∧
    (s.emit o).pkgId = s.pkgId ∧ (s.emit o).mem = s.mem ∧ (s.emit o).ls = s.ls ∧ (s.emit o).wgt = s.wgt ∧
    (s.emit o).dev = s.dev ∧ (s.emit o).dies = s.dies ∧ (s.emit o).boot = s.boot ∧ (s.emit o).controls = s.controls ∧
    (s.emit o).grids = s.grids ∧ (s.emit o).blocks = s.blocks ∧ (s.emit o).cohorts = s.cohorts ∧
    (s.emit o).gangs = s.gangs ∧ (s.emit o).ops = s.ops ∧ (s.emit o).nextOp = s.nextOp ∧
    (s.emit o).arrivals = s.arrivals ∧ (s.emit o).outstanding = s.outstanding ∧ (s.emit o).remote = s.remote ∧
    (s.emit o).fetched = s.fetched ∧ (s.emit o).retired = s.retired ∧ (s.emit o).tsns = s.tsns ∧
    (s.emit o).filters = s.filters ∧ (s.emit o).subOwn = s.subOwn ∧ (s.emit o).rowJobs = s.rowJobs ∧
    (s.emit o).subReplies = s.subReplies ∧ (s.emit o).subSeen = s.subSeen ∧ (s.emit o).badPlanes = s.badPlanes ∧
    (s.emit o).tlb = s.tlb ∧ (s.emit o).invalidations = s.invalidations ∧ (s.emit o).migrations = s.migrations ∧
    (s.emit o).inPlace = s.inPlace ∧ (s.emit o).heldWrites = s.heldWrites ∧ (s.emit o).heldMerges = s.heldMerges ∧
    (s.emit o).ready = s.ready ∧ (s.emit o).parked = s.parked ∧ (s.emit o).modules = s.modules ∧
    (s.emit o).ports = s.ports ∧ (s.emit o).reservation = s.reservation ∧ (s.emit o).reserveQueue = s.reserveQueue ∧
    (s.emit o).spans = s.spans ∧ (s.emit o).spanArrived = s.spanArrived ∧ (s.emit o).monitors = s.monitors ∧
    (s.emit o).passes = s.passes ∧ (s.emit o).fences = s.fences ∧ (s.emit o).poison = s.poison ∧
    (s.emit o).roCache = s.roCache ∧ (s.emit o).heldCode = s.heldCode ∧ (s.emit o).abandoned = s.abandoned ∧
    (s.emit o).flights = s.flights ∧ (s.emit o).flight = s.flight ∧ (s.emit o).retiredSubs = s.retiredSubs ∧ (s.emit o).spanFlush = s.spanFlush ∧ (s.emit o).unwatched = s.unwatched := by
  simp [State.emit]

@[simp] theorem State.devSet_frame (s : State) (d o : Nat) (v : DWord) :
    (s.devSet d o v).clock = s.clock ∧ (s.devSet d o v).ticks = s.ticks ∧ (s.devSet d o v).inputs = s.inputs ∧
    (s.devSet d o v).outputs = s.outputs ∧ (s.devSet d o v).issue = s.issue ∧ (s.devSet d o v).pkgId = s.pkgId ∧
    (s.devSet d o v).mem = s.mem ∧ (s.devSet d o v).ls = s.ls ∧ (s.devSet d o v).wgt = s.wgt ∧
    (s.devSet d o v).dies = s.dies ∧ (s.devSet d o v).boot = s.boot ∧ (s.devSet d o v).controls = s.controls ∧
    (s.devSet d o v).grids = s.grids ∧ (s.devSet d o v).blocks = s.blocks ∧ (s.devSet d o v).cohorts = s.cohorts ∧
    (s.devSet d o v).gangs = s.gangs ∧ (s.devSet d o v).ops = s.ops ∧ (s.devSet d o v).nextOp = s.nextOp ∧
    (s.devSet d o v).arrivals = s.arrivals ∧ (s.devSet d o v).outstanding = s.outstanding ∧
    (s.devSet d o v).remote = s.remote ∧ (s.devSet d o v).fetched = s.fetched ∧ (s.devSet d o v).retired = s.retired ∧
    (s.devSet d o v).tsns = s.tsns ∧ (s.devSet d o v).filters = s.filters ∧ (s.devSet d o v).subOwn = s.subOwn ∧
    (s.devSet d o v).rowJobs = s.rowJobs ∧ (s.devSet d o v).subReplies = s.subReplies ∧
    (s.devSet d o v).subSeen = s.subSeen ∧ (s.devSet d o v).badPlanes = s.badPlanes ∧ (s.devSet d o v).tlb = s.tlb ∧
    (s.devSet d o v).invalidations = s.invalidations ∧ (s.devSet d o v).migrations = s.migrations ∧
    (s.devSet d o v).inPlace = s.inPlace ∧ (s.devSet d o v).heldWrites = s.heldWrites ∧
    (s.devSet d o v).heldMerges = s.heldMerges ∧ (s.devSet d o v).ready = s.ready ∧ (s.devSet d o v).parked = s.parked ∧
    (s.devSet d o v).modules = s.modules ∧ (s.devSet d o v).ports = s.ports ∧
    (s.devSet d o v).reservation = s.reservation ∧ (s.devSet d o v).reserveQueue = s.reserveQueue ∧
    (s.devSet d o v).spans = s.spans ∧ (s.devSet d o v).spanArrived = s.spanArrived ∧
    (s.devSet d o v).monitors = s.monitors ∧ (s.devSet d o v).passes = s.passes ∧ (s.devSet d o v).fences = s.fences ∧
    (s.devSet d o v).poison = s.poison ∧ (s.devSet d o v).roCache = s.roCache ∧ (s.devSet d o v).heldCode = s.heldCode ∧
    (s.devSet d o v).abandoned = s.abandoned ∧
    (s.devSet d o v).flights = s.flights ∧ (s.devSet d o v).flight = s.flight ∧ (s.devSet d o v).retiredSubs = s.retiredSubs ∧ (s.devSet d o v).spanFlush = s.spanFlush ∧ (s.devSet d o v).unwatched = s.unwatched := by
  simp [State.devSet]

/-! ## Lookups -/

theorem find_replaceFirst {α : Type} (p : α → Bool) (x : α) (l : List α) (hx : p x = true) :
    (replaceFirst p x l).find? p = (l.find? p).map fun _ => x := by
  induction l with
  | nil => rfl
  | cons y l ih =>
    unfold replaceFirst
    split_ifs with h
    · simp [hx, h]
    · simp [h, ih]

theorem find_replaceFirst_other {α : Type} (p q : α → Bool) (x : α) (l : List α) (hx : q x = false)
    (h : ∀ y, p y = true → q y = false) : (replaceFirst p x l).find? q = l.find? q := by
  induction l with
  | nil => rfl
  | cons y l ih =>
    unfold replaceFirst
    split_ifs with hp
    · simp [hx, h y hp]
    · simp only [List.find?_cons, ih]

theorem replaceFirst_length {α : Type} (p : α → Bool) (x : α) (l : List α) : (replaceFirst p x l).length = l.length := by
  induction l with
  | nil => rfl
  | cons y l ih => unfold replaceFirst; split_ifs <;> simp [ih]

theorem State.gang?_id {s : State} {k : GangId} {g : Gang} (h : s.gang? k = some g) : g.id = k := by
  have := List.find?_some h
  simpa using this

/-- A gang that is there is replaced. -/
theorem State.gang?_setGang_same {s : State} {g g' : Gang} (h : s.gang? g'.id = some g) : (s.setGang g').gang? g'.id = some g' := by
  unfold State.gang? State.setGang at *
  simp only
  rw [find_replaceFirst _ _ _ (by simp), h]; rfl

theorem State.gang?_setGang_other (s : State) {g' : Gang} {k : GangId} (h : k ≠ g'.id) : (s.setGang g').gang? k = s.gang? k := by
  unfold State.gang? State.setGang
  apply find_replaceFirst_other
  · simpa using Ne.symm h
  · intro y hy; simp only [beq_iff_eq] at hy; simpa [hy] using Ne.symm h

theorem State.block?_setBlock_same {s : State} {b b' : Block} (h : s.block? b'.id = some b) :
    (s.setBlock b').block? b'.id = some b' := by
  unfold State.block? State.setBlock at *
  simp only
  rw [find_replaceFirst _ _ _ (by simp), h]; rfl

theorem State.block?_setBlock_other (s : State) {b' : Block} {k : BlockId} (h : k ≠ b'.id) :
    (s.setBlock b').block? k = s.block? k := by
  unfold State.block? State.setBlock
  apply find_replaceFirst_other
  · simpa using Ne.symm h
  · intro y hy; simp only [beq_iff_eq] at hy; simpa [hy] using Ne.symm h

theorem State.grid?_setGrid_same {s : State} {g g' : Grid} (h : s.grid? g'.handle = some g) :
    (s.setGrid g').grid? g'.handle = some g' := by
  unfold State.grid? State.setGrid at *
  simp only
  rw [find_replaceFirst _ _ _ (by simp), h]; rfl

theorem State.op?_setOp_same {s : State} {o o' : EngineOp} (h : s.op? o'.id = some o) : (s.setOp o').op? o'.id = some o' := by
  unfold State.op? State.setOp at *
  simp only
  rw [find_replaceFirst _ _ _ (by simp), h]; rfl

/-! ## Slices and parts -/

@[simp] theorem Gang.mapPart_id (g : Gang) (m : BitVec 8) (f : Nat → Slice → Slice) : (g.mapPart m f).id = g.id := rfl
@[simp] theorem Gang.settle_id (g : Gang) (m : BitVec 8) : (g.settle m).id = g.id := rfl
@[simp] theorem Gang.runPart_id (g : Gang) (m : BitVec 8) (f : Nat → Slice → Slice) : (g.runPart m f).id = g.id := rfl
@[simp] theorem Gang.settle_slice (g : Gang) (m : BitVec 8) (i : Nat) : (g.settle m).slice? i = g.slice? i := rfl

/-- A change of a part changes the slices of the part and no other. -/
theorem Gang.slice?_mapPart (g : Gang) (m : BitVec 8) (f : Nat → Slice → Slice) (i : Nat) :
    (g.mapPart m f).slice? i = (g.slice? i).map fun sl => if bit m i then f i sl else sl := by
  unfold Gang.mapPart Gang.slice?
  simp

theorem Gang.slice?_runPart (g : Gang) (m : BitVec 8) (f : Nat → Slice → Slice) (i : Nat) :
    (g.runPart m f).slice? i = (g.slice? i).map fun sl => if bit m i then f i sl else sl := by
  unfold Gang.runPart
  rw [Gang.settle_slice, Gang.slice?_mapPart]

/-- A part's instruction changes nothing of the gang but its slices and its parts. -/
theorem Gang.runPart_frame (g : Gang) (m : BitVec 8) (f : Nat → Slice → Slice) :
    g.runPart m f = { g with slices := (g.runPart m f).slices, parts := (g.runPart m f).parts } := rfl

/-- The state after a scalar instruction that the issuing part performs. -/
theorem withScalar_issue {s : State} {g : Gang} {m : BitVec 8} (k : Gang → BitVec 8 → State)
    (hw : s.issue.who = .scalar g.id m) (hg : s.gang? g.id = some g) : withScalar s k = .next (k g m) := by
  simp [withScalar, State.scalarIssuer, hw, hg]

theorem withLane_issue {s : State} {g : Gang} {m : BitVec 8} (k : Gang → BitVec 8 → State)
    (hw : s.issue.who = .lane g.id m) (hg : s.gang? g.id = some g) : withLane s k = .next (k g m) := by
  simp [withLane, State.laneIssuer, hw, hg]

/-! ## Slices -/

/-- The end check of the loop stack and the next address are all that an advance changes. -/
theorem Slice.advance_frame (sl : Slice) (n : Nat) :
    sl.advance n = { sl with pc := (sl.advance n).pc, loops := (sl.advance n).loops } := by
  unfold Slice.advance
  split <;> simp_all

theorem Slice.advance_pc (sl : Slice) (n : Nat) (h : sl.loops = []) : (sl.advance n).pc = sl.nextPc n := by
  unfold Slice.advance
  rw [h]

@[simp] theorem Slice.advance_keeps (sl : Slice) (n : Nat) :
    (sl.advance n).regs = sl.regs ∧ (sl.advance n).q = sl.q ∧ (sl.advance n).active = sl.active ∧ (sl.advance n).k = sl.k ∧
    (sl.advance n).exited = sl.exited ∧ (sl.advance n).queue = sl.queue ∧ (sl.advance n).cur = sl.cur ∧
    (sl.advance n).nextMask = sl.nextMask ∧ (sl.advance n).pending = sl.pending ∧ (sl.advance n).pendingPc = sl.pendingPc ∧
    (sl.advance n).wait = sl.wait ∧ (sl.advance n).lwait = sl.lwait := by
  rw [Slice.advance_frame]; simp

end Sys2Proof.Machine
end

