-- ==== Sys2Proof/Tests/Slice0.lean ====
section
/-! SUPPORT. Tests: words written out from the encoding tables of the manual and the words of its listings, ill-formed terms, single
steps with results taken from the manual, and a witness for the hypotheses of every statement. -/
set_option Elab.async false
namespace Sys2Proof.Tests
open Sys2Proof Sys2Proof.Machine

/-! ## Decoding: words from the tables of R170 to R192, R219, R223, R284, R299, R329 -/

/-- A scalar word: opcode, d, a, b, guard, negate, function (R170). -/
def sw (op : BitVec 6) (d a b : BitVec 5) (g : BitVec 3) (n : BitVec 1) (f : BitVec 7) : Word := op ++ d ++ a ++ b ++ g ++ n ++ f
/-- A word and the literal after it are the words of an instruction. -/
def isScalar (w lit : Word) (i : Instr) : Bool := match decodeScalar w lit with | .ok j => j == i | .error _ => false
/-- A word is refused with an INFO of R402. -/
def isBad (w : Word) (info : Nat) : Bool := match decodeScalar w 0 with | .ok _ => false | .error n => n == info
def always : Guard := ⟨7, false⟩
/-- Function codes of opcode 0x01, each with d = s3, a = s1, b = s2. -/
def aluIs (f : BitVec 7) (i : AluReg → Instr) : Bool :=
  isScalar (sw 0b000001 0b00011 0b00001 0b00010 0b111 0b0 f) 0 (i ⟨always, .reg 3, .reg 1, .reg 2⟩)
/-- One-source functions, the literal as source and d discarded. -/
def unIs (f : BitVec 7) (i : AluUn → Instr) : Bool :=
  isScalar (sw 0b000001 0b11111 0b11111 0b00000 0b010 0b1 f) 77 (i ⟨⟨2, true⟩, .discard, .lit 77⟩)
/-- Immediate forms, d = s30, a = s4, imm7 = 0011101. -/
def immIs (op : BitVec 6) (i : AluImm → Instr) : Bool :=
  isScalar (sw op 0b11110 0b00100 0b00000 0b111 0b0 0b0011101) 0 (i ⟨always, .reg 30, .reg 4, 0b0011101⟩)

theorem test_decode_alu :
    (aluIs 0x00 .add && aluIs 0x01 .sub && aluIs 0x02 .mul && aluIs 0x03 .mulh && aluIs 0x04 .mulhn && aluIs 0x08 .and &&
     aluIs 0x09 .or && aluIs 0x0A .xor && aluIs 0x0B .andn && aluIs 0x10 .shl && aluIs 0x11 .shr && aluIs 0x12 .sra &&
     aluIs 0x18 .min && aluIs 0x19 .max && aluIs 0x1A .minn && aluIs 0x1B .maxn &&
     unIs 0x20 .clz && unIs 0x21 .popc && unIs 0x28 .mov) = true := by decide
theorem test_decode_immediate :
    (immIs 0x02 .addImm && immIs 0x03 .subImm && immIs 0x04 .mulImm && immIs 0x05 .andImm && immIs 0x06 .orImm && immIs 0x07 .xorImm &&
     immIs 0x08 .shlImm && immIs 0x09 .shrImm && immIs 0x0A .sraImm && immIs 0x0B .minImm && immIs 0x0C .maxImm &&
     immIs 0x0D .minnImm && immIs 0x0E .maxnImm) = true := by decide
theorem test_decode_predicates :
    (isScalar (sw 0x10 0b00101 0b00001 0b11111 7 0 0b0000100) 9 (.cmpReg always 5 (.reg 1) (.lit 9) .ltn) &&
     isScalar (sw 0x11 0b00110 0b00001 0b00011 7 0 0b1000000) 0 (.cmpImm always 6 (.reg 1) .le 64) &&
     isScalar (sw 0x12 0b00001 0b00010 0b00011 7 0 0b0000000) 0 (.qand ⟨always, 1, 2, 3⟩) &&
     isScalar (sw 0x12 0b00001 0b00010 0b00011 7 0 0b0000001) 0 (.qor ⟨always, 1, 2, 3⟩) &&
     isScalar (sw 0x12 0b00001 0b00010 0b00011 7 0 0b0000010) 0 (.qxor ⟨always, 1, 2, 3⟩) &&
     isScalar 0x48410703 0 (.qnot always 2 1) &&
     isScalar (sw 0x13 0b00001 0b00010 0b00011 7 0 0b0000110) 0 (.sel always (.reg 1) (.reg 2) (.reg 3) 6) &&
     isScalar (sw 0x14 0b00001 0b00000 0b00000 7 0 0b1111111) 0 (.liImm always (.reg 1) 127) &&
     isScalar (sw 0x14 0b00001 0b11111 0b00000 7 0 0b0000000) 0x08000028 (.liLiteral always (.reg 1) 0x08000028)) = true := by decide
theorem test_decode_memory :
    (isScalar (sw 0x18 0b00001 0b00010 0b00000 7 0 0b1111111) 0 (.lds always (.reg 1) (.gen 1) 127) &&
     isScalar (sw 0x19 0b00001 0b11111 0b00100 7 0 0b0000001) 640 (.sts always 1 (.loc (.lit 640)) 1) &&
     isScalar (sw 0x1A 0b11100 0b00011 0b10000 7 0 0b0000010) 0 (.ldp always 14 (.con (.reg 3)) 2) &&
     isScalar (sw 0x1C 0b00001 0b00000 0b00000 7 0 0b0011010) 0 (.srd always (.reg 1) 26) &&
     isScalar (sw 0x1D 0b00000 0b00010 0b00000 7 0 0b0010111) 0 (.swr always (.reg 2) 0x17)) = true := by decide
theorem test_decode_flow :
    (isScalar (sw 0x20 0b11111 0b11111 0b11111 7 0 0b1111111) 0 (.br always 0x3FFFFF) &&
     isScalar (sw 0x21 0b00000 0b00000 0b00001 7 0 0b0000010) 0 (.call always 130) &&
     isScalar (sw 0x22 0b01011 0b00000 0b00001 7 0 0b0000010) 0 (.brq always .all 3 130) &&
     isScalar (sw 0x23 0b00000 0b11110 0b00000 7 0 0b0000000) 0 (.ret always (.reg 30)) &&
     isScalar 0x9009070A 0 (.loop always (.reg 9) 10) && isScalar 0x94000200 0 (.exit ⟨2, false⟩) &&
     isScalar (sw 0x26 0 0 0 7 0 0) 0 (.nop always) && isScalar (sw 0x27 0 0b00001 0b10100 7 0 0) 0 (.regang always 0b00001101) &&
     isScalar (sw 0x28 0b00001 0b11111 0 7 0 0b0000010) 0 (.lrun always (.lit 0) 130) &&
     isScalar 0xA4050700 0 (.lmaskReg always (.reg 5)) && isScalar (sw 0x29 0 0 0 7 0 0b1001111) 0 (.lmaskImm always 15)) = true := by
  decide
theorem test_decode_sync :
    (isScalar 0xB3000700 0 (.bar always .both none 0) && isScalar (sw 0x2C 0b01100 0b00010 0 7 0 0b0001111) 0 (.bar always .near (some (.reg 2)) 15) &&
     isScalar (sw 0x2D 0b10000 0 0 7 0 3) 0 (.barc always .far 3) && isScalar (sw 0x2E 0b11000 0 0 7 0 4) 0 (.bars always .both 4) &&
     isScalar (sw 0x2F 0b10110 0b00010 0b00001 7 0 0b0000000) 0 (.arrive always .span true (.gen 1) (.reg 1)) &&
     isScalar (sw 0x30 0b10000 0b00011 0b11111 7 0 0b0010000) 5 (.wait always .pkg (.loc (.reg 3)) (.lit 5)) &&
     isScalar (sw 0x31 0b11000 0b00010 0b00100 7 0 0b0100000) 0 (.mwait always .sys (.pol 1) (.pair 2)) &&
     isScalar 0xCBFC010F 0 (.waitc ⟨1, false⟩ 15 15 0 15) && isScalar (sw 0x33 0 0 0 7 0 0) 0 (.seal always) &&
     isScalar (sw 0x34 0b01011 0 0 7 0 0) 0 (.fence always .cohort .ar) && isScalar (sw 0x35 0b00010 0b00001 0 7 0 0) 0 (.fencem always .rel (.reg 1)) &&
     isScalar (sw 0x36 0b01000 0 0 7 0 0) 0 (.drain always .cohort) &&
     isScalar (sw 0x37 0b00001 0b00010 0b00011 7 0 0) 0 (.give always 1 (.reg 2) (.reg 3)) &&
     isScalar (sw 0x38 0 0b00001 0 7 0 0) 0 (.take always (.reg 1)) && isScalar (sw 0x39 0 0b00001 0 7 0 0) 0 (.detach always (.reg 1)) &&
     isScalar (sw 0x3A 0 0 0 7 0 0) 0 (.qend always) && isScalar (sw 0x3B 0 0 0 7 0 0) 0 (.yield always)) = true := by decide
theorem test_decode_engine :
    (isScalar 0xF0864100 0 (.copy ⟨⟨1, false⟩, 4, 6, 2⟩) && isScalar 0xF0824700 0 (.copy ⟨always, 4, 2, 2⟩) &&
     isScalar (sw 0x3C 0b00100 0b00110 0b11000 7 0 1) 0 (.copyr ⟨always, 4, 6, 6⟩) &&
     isScalar (sw 0x3C 0b00100 0b00110 0b00100 7 0 2) 0 (.gath ⟨always, 2, 3, 1⟩) &&
     isScalar (sw 0x3C 0b00100 0b00110 0b00100 7 0 3) 0 (.scad ⟨always, 2, 3, 1⟩) &&
     isScalar (sw 0x3C 0b00000 0b00110 0b11110 7 0 4) 0 (.pftL2 always 3 30) &&
     isScalar (sw 0x3C 0b00001 0b00110 0 7 0 4) 0 (.pftPromote always 3) && isScalar (sw 0x3C 0b00010 0b00110 0 7 0 4) 0 (.pftDemote always 3) &&
     isScalar (sw 0x3C 0b01010 0b01100 0b01101 7 0 8) 0 (.mxa ⟨always, 5, 12, 13⟩) && isScalar 0xF14C6F09 0 (.mxaSolo ⟨always, 5, 12, 13⟩) &&
     isScalar 0xF1C0070A 0 (.mxz always 14) && isScalar (sw 0x3C 0b01110 0b00001 0 7 0 0x0B) 0 (.mxld always 14 1) &&
     isScalar 0xF1D0A70C 0 (.mxst always 7 8 5) && isScalar 0xF010070D 0 (.epld always 8)) = true := by decide
theorem test_decode_system :
    (isScalar (sw 0x3D 0 0b10000 0b00001 7 0 0) 0 (.trap always 513) && isScalar (sw 0x3D 0 0 0 7 0 1) 0 (.bkpt always) &&
     isScalar (sw 0x3D 0b11110 0 0 7 0 2) 0 (.invi always .pkg .both) &&
     isScalar (sw 0x3E 0b00001 0b00010 0 7 0 0) 0 (.launch always (.reg 1) 1) &&
     isScalar (sw 0x3E 0b00000 0b00010 0 7 0 1) 0 (.preempt always .grid (.reg 2)) &&
     isScalar (sw 0x3E 0b01000 0b00010 0b11111 7 0 2) 3 (.resume always (.block (.lit 3)) (.reg 2)) &&
     isScalar (sw 0x3E 0b10000 0b00010 0b00011 7 0 3) 0 (.kill always (.cohort (.reg 3)) (.reg 2)) &&
     isScalar (sw 0x3E 0b11000 0b00010 0 7 0 3) 0 (.kill always .span (.reg 2)) &&
     isScalar (sw 0x3E 0b00001 0b00010 0b11111 7 0 4) 6 (.ctxsv ⟨always, 1, 1, .lit 6⟩) &&
     isScalar (sw 0x3E 0b00001 0b00010 0b00011 7 0 5) 0 (.ctxld ⟨always, 1, 1, .reg 3⟩) &&
     isScalar (sw 0x3E 0 0b00010 0b00011 7 0 6) 0 (.quota always (.reg 2) (.reg 3))) = true := by decide
theorem test_decode_epilogue :
    (decodeEpi 0x11000000 == some (.escl 1 0) && decodeEpi 0x19200000 == some (.ebia 1 1 0 false 0) && decodeEpi 0x21200000 == some (.eact 1 1 0) &&
     decodeEpi 0x41200005 == some (.ecvt 1 1 0 false 5) && decodeEpi 0x48240005 == some (.est 1 1 false 5) && decodeEpi 0xF8000000 == some .eend &&
     decodeEpi (0b00001#5 ++ 0b010#3 ++ 0b011#3 ++ 0b000#3 ++ 0b11#2 ++ 0x0040#16) == some (.eldv 2 3 3 0x40) &&
     decodeEpi (0b00101#5 ++ 0b011#3 ++ 0b001#3 ++ 0b010#3 ++ 0b00#2 ++ 0#16) == some (.emul 3 1 2) &&
     decodeEpi (0b00110#5 ++ 0b011#3 ++ 0b001#3 ++ 0b010#3 ++ 0b00#2 ++ 0#16) == some (.eadd 3 1 2) &&
     decodeEpi (0b00111#5 ++ 0b011#3 ++ 0b001#3 ++ 0b010#3 ++ 0b00#2 ++ 0#16) == some (.emax 3 1 2) &&
     decodeEpi (0b01010#5 ++ 0b000#3 ++ 0b111#3 ++ 0b010#3 ++ 0b00#2 ++ 8#16) == some (.etrn 7 2 8) &&
     decodeEpi (0b01011#5 ++ 0#27) == some .enop && decodeEpi 0 == none) = true := by decide

/-- A lane word: the opcode and the fields of R179 from bit 95 down to bit 0. -/
def laneIs (op : BitVec 8) (i : LaneWord → Instr) (w : LaneWord) : Bool :=
  let x : BitVec (8 + 4 + 4 + 10 + 10 + 10 + 10 + 6 + 6 + 6 + 2 + 4 + 16) :=
    op ++ w.variant ++ w.format ++ w.d ++ w.a ++ w.b ++ w.c ++ w.am ++ w.bm ++ w.cm ++ w.ws ++ w.guard ++ w.imm
  match decodeLane x with | .ok j => j == i w | .error _ => false
/-- v8 from v1, v2 and v3 in a 32-bit format, no modifiers, guard k7. -/
def l3 (v f : BitVec 4) : LaneWord := ⟨v, f, 8, 1, 2, 3, 0, 0, 0, 0, 7, 0⟩
def l2 (v f : BitVec 4) : LaneWord := ⟨v, f, 8, 1, 2, 1023, 0, 0, 0, 0, 7, 0⟩
def l1 (v f : BitVec 4) : LaneWord := ⟨v, f, 8, 1, 1023, 1023, 0, 0, 0, 0, 7, 0⟩

theorem test_decode_lane_integer :
    (laneIs 0x01 .vadd (l2 3 2) && laneIs 0x02 .vsub (l2 1 0) && laneIs 0x03 .vmul (l2 0 1) && laneIs 0x04 .vmulh (l2 1 0) &&
     laneIs 0x05 .vmad (l3 1 3) && laneIs 0x06 .vabs (l1 1 0) && laneIs 0x07 .vneg (l1 0 0) && laneIs 0x08 .vmin (l2 1 0) &&
     laneIs 0x09 .vmax (l2 0 0) && laneIs 0x0A .vand (l2 0 0) && laneIs 0x0B .vor (l2 0 0) && laneIs 0x0C .vxor (l2 8 0) &&
     laneIs 0x0D .vnot (l1 0 0) && laneIs 0x0E .vshl (l2 2 0) && laneIs 0x0F .vshr (l2 0 0) && laneIs 0x10 .vsra (l2 1 0) &&
     laneIs 0x11 .vrot (l2 0 1) && laneIs 0x12 .vclz (l1 0 2) && laneIs 0x13 .vpopc (l1 0 3) && laneIs 0x14 .vbfx (l3 1 0) &&
     laneIs 0x15 .vbfi (l3 0 0) && laneIs 0x16 .vprm (l3 0 0) && laneIs 0x17 .vdot4 (l3 3 2) &&
     laneIs 0x18 .vcmp ⟨5, 1, 6, 1, 2, 5, 0, 0, 0, 0, 7, 0⟩ && laneIs 0x19 .vsel ⟨0, 0, 8, 1, 2, 7, 0, 0, 0, 0, 0b1001, 0⟩ &&
     laneIs 0x1A .vmov ⟨0, 7, 3, 9, 1023, 1023, 0x22, 0, 0, 0, 7, 0⟩ &&
     laneIs 0x1B .vli ⟨0, 0, 6, 1022, 1023, 1023, 0, 0, 0, 2, 7, 0xBF80⟩) = true := by decide
theorem test_decode_lane_float :
    (laneIs 0x20 .fadd (l2 0 4) && laneIs 0x21 .fsub (l2 0 5) && laneIs 0x22 .fmul ⟨0, 7, 8, 1, 2, 1023, 0, 0, 0, 0, 7, 0x9000⟩ &&
     laneIs 0x23 .ffma (l3 0 6) && laneIs 0x24 .fmin (l2 0 8) && laneIs 0x25 .fmax (l2 0 4) &&
     laneIs 0x26 .frcp ⟨0, 4, 20, 9, 1023, 1023, 0, 0, 0, 0, 7, 0⟩ && laneIs 0x27 .frsq (l1 0 4) &&
     laneIs 0x28 .fsqrt ⟨0, 4, 8, 1, 1023, 1023, 0, 0, 0, 0, 7, 0x6000⟩ && laneIs 0x29 .fex2 (l1 0 4) && laneIs 0x2A .flg2 (l1 0 4) &&
     laneIs 0x2B .fsin (l1 0 4) && laneIs 0x2C .fcos (l1 0 4) && laneIs 0x2D .fcmp ⟨4, 4, 6, 1, 2, 7, 0, 0, 0, 0, 7, 0⟩ &&
     laneIs 0x2E .fcls ⟨0, 4, 0, 1, 1023, 511, 0, 0, 0, 0, 7, 0⟩ && laneIs 0x2F .fcvt ⟨0, 5, 8, 1, 1023, 1, 0, 0, 0, 0, 7, 0⟩ &&
     laneIs 0x30 .frnd (l1 0 4) && laneIs 0x31 .f2i ⟨0, 4, 8, 1, 1023, 0, 0, 0, 0, 0, 7, 0⟩ &&
     laneIs 0x32 .i2f ⟨5, 5, 8, 1, 1023, 1, 0, 0, 0, 0, 7, 0⟩) = true := by decide
theorem test_decode_lane_cross :
    (laneIs 0x40 .vshf ⟨0, 0, 8, 1, 2, 3, 0, 0, 0, 0, 7, 0⟩ && laneIs 0x41 .vbal ⟨0, 0, 8, 1023, 1023, 2, 0, 0, 0, 0, 7, 0⟩ &&
     laneIs 0x42 .vred ⟨0, 4, 8, 1, 1023, 2, 0, 0, 0, 0, 7, 0⟩ && laneIs 0x43 .vscn ⟨5, 0, 8, 1, 1023, 5, 0, 0, 0, 0, 7, 0⟩ &&
     laneIs 0x44 .vbcs ⟨0, 0, 8, 1, 1023, 1, 0, 0, 0, 0, 7, 0⟩ && laneIs 0x60 .kand ⟨0, 0, 6, 1, 2, 1023, 0, 0, 0, 0, 7, 0⟩ &&
     laneIs 0x61 .kor ⟨0, 0, 6, 1, 2, 1023, 0, 0, 0, 0, 7, 0⟩ && laneIs 0x62 .kxor ⟨0, 0, 6, 1, 2, 1023, 0, 0, 0, 0, 7, 0⟩ &&
     laneIs 0x63 .knot ⟨0, 0, 6, 7, 1023, 1023, 0, 0, 0, 0, 7, 0⟩) = true := by decide
/-- Space LOC and width 32 in imm16; order .RLX. -/
theorem test_decode_lane_memory :
    (decodeLane (laneBits 0x00072020 0x3FFFFF00 0x50000200) = .ok (.vld ⟨0, 0, 8, 3, 1023, 1023, 0, 0, 0, 0, 7, 0x2020⟩)) ∧
    (laneIs 0x51 .vst ⟨0, 0, 1023, 1, 2, 1023, 0, 0, 0, 0, 7, 0x2010⟩ && laneIs 0x52 .vatm ⟨0, 0, 1023, 1, 2, 1023, 0, 0, 0, 0, 7, 0x2090⟩ &&
     laneIs 0x53 .vrdm ⟨0, 4, 1023, 2, 4, 1023, 0, 0, 0, 0, 7, 0b0001001000010000⟩ &&
     laneIs 0x54 .vatl ⟨0, 4, 1023, 2, 4, 1023, 0, 0, 0, 0, 7, 0b0000000000010000⟩ &&
     laneIs 0x58 .ginc ⟨0, 0, 1023, 1, 2, 1023, 0, 0, 0, 0, 7, 0x2000⟩ && laneIs 0x59 .grd ⟨0, 0, 8, 1, 1023, 1023, 0, 0, 0, 0, 7, 0x2000⟩ &&
     laneIs 0x5A .gmrg ⟨0, 0, 1023, 1, 2, 1023, 0, 0, 0, 0, 7, 0x2000⟩ &&
     laneIs 0x5B .gclr ⟨0, 0, 1023, 1, 1023, 1023, 0, 0, 0, 0, 7, 0x2000⟩) = true := by
  exact ⟨rfl, by decide⟩

/-! ## Words that are no instruction (R189, R402), and ill-formed terms -/

theorem test_illegal_scalar :
    (isBad 0 1 && isBad (sw 0x01 0 0 0 7 0 0x05) 1 && isBad (sw 0x02 0 0 1 7 0 0) 2 && isBad (sw 0x08 0 0 0 7 0 32) 3 &&
     isBad (sw 0x10 0 0 0 7 0 6) 3 && isBad (sw 0x01 0 31 31 7 0 0) 4 && isBad (sw 0x3C 0 1 0 7 0 2) 4 && isBad (sw 0x24 0 1 0 7 0 0) 3) =
      true := by decide
theorem test_illformed_scalar :
    ((Instr.add ⟨always, .reg 1, .lit 1, .lit 2⟩).wf || (Instr.shlImm ⟨always, .reg 1, .reg 2, 32⟩).wf ||
     (Instr.cmpReg always 1 (.lit 1) (.lit 2) .eq).wf || (Instr.sel always (.reg 1) (.lit 1) (.lit 2) 0).wf ||
     (Instr.give always 1 (.lit 1) (.lit 2)).wf || (Instr.quota always (.lit 1) (.lit 2)).wf || (Instr.srd always (.reg 1) 0x10).wf ||
     (Instr.swr always (.lit 1) 0x14).wf || (Instr.loop always (.reg 1) 0).wf || (Instr.arrive always .pkg false (.loc (.lit 0)) (.lit 1)).wf ||
     (Instr.wait always .pkg (.loc (.lit 0)) (.lit 1)).wf || (Instr.mwait always .pkg (.loc (.lit 0)) (.lit 1)).wf ||
     (Instr.preempt always (.block (.lit 1)) (.lit 2)).wf || (Instr.resume always (.cohort (.lit 1)) (.lit 2)).wf ||
     (Instr.kill always (.block (.lit 1)) (.lit 2)).wf) = false := by decide
theorem test_illformed_others :
    ((Instr.sts always 0 (.con (.reg 0)) 0).wf || (Instr.eact 0 0 6).wf || (Instr.ecvt 0 0 0 false 4).wf || (Instr.est 0 3 true 4).wf || (Instr.est 0 0 false 9).wf || (Instr.etrn 0 0 3).wf ||
     (Instr.tlbinvWrite 13 0).wf || (Instr.monctlClear 0 16).wf || (Instr.flitCrcFail 13 0).wf || (Instr.gangExit (.control 8 0)).wf ||
     (Instr.runStart (.compute ⟨0, 0, false⟩ 32) 1).wf || (Instr.vadd (l2 1 4)).wf || (Instr.vsra (l2 0 0)).wf || (Instr.fadd (l2 0 0)).wf) =
      false := by decide

/-! ## Single steps on a small state: one gang of one slice in one block -/

/-- A gang of one slice whose slice is changed. -/
def gangOf (f : Slice → Slice) : Gang :=
  let g := firstGang firstGangId 0
  { g with slices := g.slices.map f }
/-- The package with one gang, and a part of it issuing words. -/
def scalarState (g : Gang) (ws : List Word) : State := { (State.reset.withCode 0).withGang g [] with issue := ⟨.scalar g.id 1, ws⟩ }
/-- The same, slice 0 holding registers. -/
def withRegs (l : List (Nat × Word)) : State := scalarState (gangOf fun sl => l.foldl (fun x p => x.setReg p.1 p.2) sl) [0]
/-- Slice 0 after a step. -/
def sliceAfter (o : Outcome) : Option Slice := match o with | .next t => (t.gang? firstGangId).bind fun g => g.slice? 0 | _ => none
def regAfter (o : Outcome) (n : Nat) : Option Word := (sliceAfter o).map fun sl => sl.reg n
def pcAfter (o : Outcome) : Option VAddr := (sliceAfter o).map fun sl => sl.pc
/-- The gang after a step. -/
def gangAfter (o : Outcome) : Option Gang := match o with | .next t => t.gang? firstGangId | _ => none
/-- s3 after a register form on s1 and s2. -/
def alu (i : AluReg → Instr) (x y : Word) : Option Word := regAfter (exec (i ⟨always, .reg 3, .reg 1, .reg 2⟩) (withRegs [(1, x), (2, y)])) 3

theorem test_alu_add_sub_mul : alu .add 0xFFFFFFFF 2 = some 1 ∧ alu .sub 1 2 = some 0xFFFFFFFF ∧ alu .mul 0x10001 0x10001 = some 0x20001 := by
  decide
theorem test_alu_mulh : alu .mulh 0xFFFFFFFF 2 = some 0xFFFFFFFF ∧ alu .mulhn 0xFFFFFFFF 2 = some 1 := by decide
theorem test_alu_bits : alu .and 0xF0 0x3C = some 0x30 ∧ alu .or 0xF0 0x3C = some 0xFC ∧ alu .xor 0xF0 0x3C = some 0xCC ∧ alu .andn 0xF0 0x3C = some 0xC0 := by
  decide
theorem test_alu_shifts : alu .shl 1 32 = some 0 ∧ alu .shr 0x80000000 31 = some 1 ∧ alu .sra 0x80000000 40 = some 0xFFFFFFFF := by decide
theorem test_alu_minmax :
    alu .min 0xFFFFFFFF 1 = some 0xFFFFFFFF ∧ alu .max 0xFFFFFFFF 1 = some 1 ∧ alu .minn 0xFFFFFFFF 1 = some 1 ∧ alu .maxn 0xFFFFFFFF 1 = some 0xFFFFFFFF := by
  decide
theorem test_alu_one_source :
    regAfter (exec (.clz ⟨always, .reg 3, .reg 1⟩) (withRegs [(1, 1)])) 3 = some 31 ∧
    regAfter (exec (.popc ⟨always, .reg 3, .lit 0xF0F⟩) (withRegs [])) 3 = some 8 ∧
    regAfter (exec (.mov ⟨always, .reg 1, .reg 1⟩) (withRegs [(1, 9)])) 1 = some 9 := by decide
/-- imm7 127 is −1 for ADD and 127 for MINN (R176). -/
theorem test_alu_immediate :
    regAfter (exec (.addImm ⟨always, .reg 3, .reg 1, 127⟩) (withRegs [(1, 1)])) 3 = some 0 ∧
    regAfter (exec (.minnImm ⟨always, .reg 3, .reg 1, 127⟩) (withRegs [(1, 0xFFFFFFFF)])) 3 = some 127 := by decide
/-- A false guard changes nothing but the address (R28, R172). -/
theorem test_guard_false :
    regAfter (exec (.add ⟨⟨7, true⟩, .reg 3, .reg 1, .reg 1⟩) (withRegs [(1, 1), (3, 5)])) 3 = some 5 ∧
    pcAfter (exec (.add ⟨⟨7, true⟩, .reg 3, .reg 1, .reg 1⟩) (withRegs [(1, 1), (3, 5)])) = some 0x10004 := by decide
theorem test_cmp :
    ((sliceAfter (exec (.cmpReg always 5 (.reg 1) (.reg 2) .lt) (withRegs [(1, 0xFFFFFFFF), (2, 1)]))).map fun sl => sl.q) = some 0x20 ∧
    ((sliceAfter (exec (.cmpImm always 0 (.reg 1) .ltn 1) (withRegs [(1, 0xFFFFFFFF)]))).map fun sl => sl.q) = some 0 := by decide
theorem test_li : regAfter (exec (.liImm always (.reg 3) 0x40) (withRegs [])) 3 = some 0xFFFFFFC0 ∧
    regAfter (exec (.liLiteral always (.reg 3) 0xDEADBEEF) (withRegs [])) 3 = some 0xDEADBEEF := by decide
theorem test_branch :
    pcAfter (exec (.br always 0x3FFFFF) (withRegs [])) = some 0x10000 ∧ regAfter (exec (.call always 3) (withRegs [])) 30 = some 0x10004 ∧
    pcAfter (exec (.call always 3) (withRegs [])) = some 0x10010 ∧ pcAfter (exec (.ret always (.reg 1)) (withRegs [(1, 0x20000)])) = some 0x20000 := by
  decide
theorem test_loop : ((sliceAfter (exec (.loop always (.reg 1) 2) (withRegs [(1, 5)]))).map fun sl => sl.loops) = some [⟨0x10004, 0x1000C, 5⟩] ∧
    pcAfter (exec (.loop always (.reg 1) 2) (withRegs [])) = some 0x1000C := by decide
theorem test_exit : ((sliceAfter (exec (.exit always) (withRegs []))).map fun sl => sl.exited) = some true := by decide
theorem test_lrun : ((sliceAfter (exec (.lrun always (.reg 1) 22) (withRegs [(1, 23)]))).map fun sl => sl.queue.map fun r => (r.index, r.count)) =
    some [(23, 23)] := by decide
theorem test_special : regAfter (exec (.srd always (.reg 3) 0x0C) (withRegs [(3, 7)])) 3 = some 0 ∧
    ((gangAfter (exec (.swr always (.reg 1) 0x18) (withRegs [(1, 0xF)]))).map fun g => g.crew) = some 0xF := by decide
theorem test_seal : ((gangAfter (exec (.seal always) (withRegs []))).map fun g => (g.c, g.batch, g.sealed.length)) = some (1, 1, 1) := by decide
/-- TRAP stops the gang at its next instruction (R220). -/
theorem test_trap : pcAfter (exec (.trap always 513) (withRegs [])) = some 0x10004 ∧
    ((gangAfter (exec (.trap always 513) (withRegs []))).map fun g => g.halted) = some true := by decide
/-- A supervisor instruction on a compute core traps where it stands (R405). -/
theorem test_wrong_core : pcAfter (exec (.quota always (.reg 1) (.reg 2)) (withRegs [])) = some 0x10000 ∧
    ((gangAfter (exec (.quota always (.reg 1) (.reg 2)) (withRegs []))).map fun g => g.halted) = some true := by decide
/-- BAR of a block of one gang completes at once: its phase flips (R285, R286). -/
theorem test_barrier : (match exec (.bar always .near none 3) (withRegs []) with
    | .next t => (t.block? firstBlock).map fun b => (b.barrier 3).phase | _ => none) = some true := by decide
theorem test_store : (match exec (.sts always 1 (.loc (.reg 2)) 1) (withRegs [(1, 0x11223344), (2, 60)]) with
    | .next t => t.ls.read 64 4 | _ => []) = [0x44, 0x33, 0x22, 0x11] := by decide
set_option maxRecDepth 8000 in
theorem test_load : regAfter (exec (.lds always (.reg 3) (.loc (.reg 2)) 1) { withRegs [(2, 60)] with ls := [⟨64, 7⟩, ⟨67, 0x80⟩] }) 3 = some 0x80000007 := by
  decide +kernel

/-- The lane stream of slice 0 issues: a run of two instructions, v1 and v2 the same in every lane. -/
def laneState (x y : Word) : State :=
  let g := gangOf fun sl => { sl with cur := some ⟨⟨0, 2, sl.regs, 0xF, none⟩, 0⟩, active := 0xF }
  let g := (List.range 4).foldl (fun g l => (g.setVreg 1 l x).setVreg 2 l y) g
  { (State.reset.withCode 0).withGang g [] with issue := ⟨.lane g.id 1, [0, 0, 0]⟩ }
def laneAfter (i : Instr) (x y : Word) : Option Word := (gangAfter (exec i (laneState x y))).map fun g => g.vreg 8 3

/-- The manual's table for VADD.I8.SAT, .I8 and .N8.SAT (section 9). -/
theorem test_lane_vadd :
    laneAfter (.vadd (l2 3 2)) 0x7F8001FF 0x01807F01 = some 0x7F807F00 ∧ laneAfter (.vadd (l2 1 2)) 0x7F8001FF 0x01807F01 = some 0x80008000 ∧
    laneAfter (.vadd (l2 2 2)) 0x7F8001FF 0x01807F01 = some 0x80FF80FF := by decide
theorem test_lane_shift : laneAfter (.vshl (l2 3 0)) 0x40000000 1 = some 0x7FFFFFFF ∧ laneAfter (.vrot (l2 0 1)) 0x80010001 0x00010011 = some 0x00030002 := by
  decide
theorem test_lane_fadd : laneAfter (.fadd (l2 0 4)) 0x3F800000 0x40000000 = some 0x40400000 := by decide
theorem test_lane_ffma : laneAfter (.ffma ⟨0, 5, 8, 1, 2, 1, 0, 0, 0, 0, 7, 0⟩) 0x3F803F80 0x40004000 = some 0x40404040 := by decide
theorem test_lane_cross : laneAfter (.vred ⟨1, 0, 8, 1, 1023, 0, 0, 0, 0, 0, 7, 0⟩) 5 0 = some 20 ∧ laneAfter (.vscn ⟨1, 0, 8, 1, 1023, 0, 0, 0, 0, 0, 7, 0⟩) 5 0 = some 20 := by
  decide
theorem test_lane_store : (match exec (.vst ⟨0, 0, 1023, 1023, 1, 1023, 0, 0, 0, 0, 7, 0x2010⟩) (laneState 0x0A0B0C0D 0) with
    | .next t => t.ls.read 0 5 | _ => []) = [0x0D, 0x0C, 0x0B, 0x0A, 0] := by decide
theorem test_power_on : (match exec .powerOn State.reset with | .next t => (t.stage, (t.die 3).powered) | _ => (0, false)) = (1, true) := by decide

/-! ## Witnesses: states and operands that meet the hypotheses of each statement, clause by clause -/
open Sys2Proof.Claims

/-- A gang of `n` slices, numbered `num` in the block, registers zero. -/
def mkGang (num n : Nat) (f : Nat → Slice → Slice) : Gang :=
  let g := newGang (.compute firstBlock num) 0 0 n 0 (BitVec.ofNat 56 codeBase)
  { g with v := WordMap.zero, slices := g.slices.mapIdx fun i sl => f i { sl with regs := WordMap.zero, q := 0, k := 0xF0000000 } }
/-- A block of the grid `r`, with the gangs. -/
def mkState (r : LaunchRec) (gs : List Gang) (who : Issuer) (ws : List Word) : State :=
  { State.reset.withCode 0 with
    grids := [{ firstGrid with record := r }], blocks := [firstBlockRec], cohorts := [Cohort.mk firstHandle 0 false [] 0 0 0], gangs := gs,
    issue := ⟨who, ws⟩ }
def sId (n : Nat) : GangId := .compute firstBlock n
/-- Part `m` of the first of the gangs issues a word. -/
def partState (gs : List Gang) (m : BitVec 8) : State := mkState firstRecord gs (.scalar (sId 0) m) [0]
/-- What holds of every slice in the list holds by number. -/
theorem slices_all {g : Gang} {P : Nat → Slice → Prop} (h : ∀ p ∈ g.slices.zipIdx, P p.2 p.1) (i : Nat) (sl : Slice) (hi : g.slice? i = some sl) :
    P i sl := by
  have : (sl, i) ∈ g.slices.zipIdx := by
    rw [List.mem_zipIdx_iff_getElem?]; exact hi
  exact h _ this
/-- What holds of every executing slice. -/
theorem executes_all {g : Gang} {m : BitVec 8} {gd : Guard} {P : Nat → Slice → Prop}
    (h : ∀ p ∈ g.slices.zipIdx, m.getLsbD p.2 = true → guardTrue gd p.1 = true → P p.2 p.1) (i : Nat) (sl : Slice)
    (hi : Executes g m gd i sl) : P i sl := slices_all (P := fun i sl => m.getLsbD i = true → guardTrue gd sl = true → P i sl) h i sl hi.2.2.1 hi.2.1 hi.2.2.2
/-- The same, under one or two conditions on the number. -/
theorem slices_part {g : Gang} {A : Nat → Prop} {P : Nat → Slice → Prop} (h : ∀ p ∈ g.slices.zipIdx, A p.2 → P p.2 p.1) (i : Nat) (sl : Slice)
    (ha : A i) (hi : g.slice? i = some sl) : P i sl := slices_all (P := fun i sl => A i → P i sl) h i sl hi ha
theorem slices_two {g : Gang} {A B : Nat → Prop} {P : Nat → Slice → Prop} (h : ∀ p ∈ g.slices.zipIdx, A p.2 → B p.2 → P p.2 p.1) (i : Nat)
    (sl : Slice) (ha : A i) (hb : B i) (hi : g.slice? i = some sl) : P i sl := slices_part (P := fun i sl => B i → P i sl) h i sl ha hi hb
/-- No slice executes below number 0. -/
theorem none_below {P : Nat → Slice → Prop} : ∀ j sl', j < 0 → P j sl' := fun _ _ h => absurd h (Nat.not_lt_zero _)
def idGang (n : Nat) : Gang := mkGang 0 n fun _ sl => sl

theorem witness_scalarResults :
    (∃ s g m i gd d f, ScalarAt s g m ∧ Instr.wf i = true ∧ aluResult i = some (gd, d, f)) ∧
    ∃ s g m i gd q f, ScalarAt s g m ∧ Instr.wf i = true ∧ predResult i = some (gd, q, f) :=
  ⟨⟨partState [idGang 2] 3, idGang 2, 3, .add ⟨always, .discard, .reg 1, .lit 5⟩, _, _, _, ⟨rfl, rfl⟩, rfl, rfl⟩,
   ⟨partState [idGang 2] 3, idGang 2, 3, .cmpImm always 7 (.reg 1) .len 127, _, _, _, ⟨rfl, rfl⟩, rfl, rfl⟩⟩

theorem witness_controlFlow :
    (∃ s g m i gd f, ScalarAt s g m ∧ flowTaken s.issueSize i = some (gd, f)) ∧
    (∃ s g m gd mode q, ScalarAt s g m ∧ brqGoes mode (brqVotes g m gd q)) ∧
    ∃ s g m gd mode q, ScalarAt s g m ∧ ¬ brqGoes mode (brqVotes g m gd q) :=
  ⟨⟨partState [idGang 2] 3, idGang 2, 3, .br always 0x200000, _, _, ⟨rfl, rfl⟩, rfl⟩,
   ⟨partState [idGang 2] 3, idGang 2, 3, always, .none, 0, ⟨rfl, rfl⟩, by unfold brqGoes; decide⟩,
   ⟨partState [idGang 2] 3, idGang 2, 3, always, .all, 0, ⟨rfl, rfl⟩, by unfold brqGoes; decide⟩⟩

/-- A level whose body is the word at the code's address. -/
def level (n : Word) : LoopLevel := ⟨0x10000, 0x10004, n⟩
def levels (n : Nat) (c : Word) : Gang := mkGang 0 1 fun _ sl => ({ sl with loops := List.replicate n (level c) } : Slice).setReg 1 5
theorem witness_loops :
    (∃ sl : Slice, sl.loops = []) ∧
    (∃ (sl : Slice) (l : LoopLevel) (ls : List LoopLevel) (n : Nat), sl.loops = l :: ls ∧
      ¬ (l.start.toNat ≤ sl.pc.toNat % 2 ^ 32 ∧ sl.pc.toNat % 2 ^ 32 < l.stop.toNat ∧ l.stop.toNat ≤ sl.pc.toNat % 2 ^ 32 + n)) ∧
    (∃ (sl : Slice) (l : LoopLevel) (ls : List LoopLevel) (n : Nat), sl.loops = l :: ls ∧ l.start.toNat ≤ sl.pc.toNat % 2 ^ 32 ∧
      sl.pc.toNat % 2 ^ 32 < l.stop.toNat ∧ l.stop.toNat ≤ sl.pc.toNat % 2 ^ 32 + n ∧ 0 < n ∧ 1 < l.count.toNat) ∧
    (∃ (sl : Slice) (l : LoopLevel) (ls : List LoopLevel) (n : Nat), sl.loops = l :: ls ∧ l.start.toNat ≤ sl.pc.toNat % 2 ^ 32 ∧
      sl.pc.toNat % 2 ^ 32 < l.stop.toNat ∧ l.stop.toNat ≤ sl.pc.toNat % 2 ^ 32 + n ∧ 0 < n ∧ l.count.toNat ≤ 1) ∧
    (∃ s g m gd a, ScalarAt s g m ∧ ∀ i sl, Executes g m gd i sl → ¬ (Slice.src sl a ≠ 0 ∧ 4 ≤ sl.loops.length)) ∧
    ∃ s g m gd a i, ScalarAt s g m ∧ LowestFailing g m gd (fun sl => Slice.src sl a ≠ 0 ∧ 4 ≤ sl.loops.length) i :=
  ⟨⟨_, (rfl : (newSlice 0 0 0x10000).loops = [])⟩,
   ⟨{ newSlice 0 0 0x10000 with loops := [level 2] }, _, _, 3, rfl, by decide⟩,
   ⟨{ newSlice 0 0 0x10000 with loops := [level 2] }, _, _, 4, rfl, by decide⟩,
   ⟨{ newSlice 0 0 0x10000 with loops := [level 1] }, _, _, 8, rfl, by decide⟩,
   ⟨partState [levels 3 1] 1, levels 3 1, 1, always, .reg 1, ⟨rfl, rfl⟩, executes_all (by decide)⟩,
   ⟨partState [levels 4 1] 1, levels 4 1, 1, always, .reg 1, 0, ⟨rfl, rfl⟩, _, ⟨by decide, rfl, rfl, rfl⟩, by decide, none_below⟩⟩

/-- An arrival of 1 on its way to the word at LOC offset 64, whose target is 3. -/
def flying : Arrival := ⟨some (.ls 64 firstBlock 64), 1, 64, 1, some (sId 0), none, firstHandle, none, [0], 0, 0, false⟩
/-- Slice 1 waits at a REGANG of mask 3, or has exited, or is still to come. -/
def regangGang (k : Nat) : Gang := mkGang 0 2 fun i sl =>
  if i = 0 then sl else if k = 0 then { sl with pending := 3, pendingPc := 0x10000 } else if k = 1 then { sl with exited := true } else sl
/-- Slice 1 waits at a REGANG elsewhere. -/
def elsewhere : Gang := mkGang 0 2 fun i sl => if i = 0 then sl else { sl with pending := 3, pendingPc := 0x20000 }
theorem witness_exitEndsSlices : (∃ s g m, ScalarAt s g m ∧ ∀ sl ∈ g.slices, sl.pending = 0) ∧
    ∃ s g m gd, ScalarAt s g m ∧ (∃ i sl, Executes g m gd i sl ∧ ∃ x ∈ g.slices, x.pending ≠ 0 ∧ x.pending.getLsbD i = true) ∧
      s.gangOutstanding g.id = true :=
  ⟨⟨partState [idGang 2] 1, idGang 2, 1, ⟨rfl, rfl⟩, by decide⟩,
   { partState [regangGang 0] 1 with arrivals := [flying] }, regangGang 0, 1, always, ⟨rfl, rfl⟩, ⟨0, _, ⟨by decide, rfl, rfl, rfl⟩, by decide⟩, by decide⟩
/-- A part of both slices whose mask leaves out slice 1; and slice 1 waiting with mask 3 at another address, or at this one. -/
theorem witness_regang_traps :
    (∃ s g m gd, ScalarAt s g m ∧ (∀ i sl, ¬ Executes g m gd i sl) ∧ ∀ x ∈ g.slices, Slice.pending x = 0) ∧
    (∀ mask : BitVec 8, mask = 0 ∨ mask = 2 ∨ mask = 5 → ∃ s g m gd sl, ScalarAt s g m ∧ Executes g m gd 0 sl ∧ regangFault g mask 0 sl 1) ∧
    (∃ s g m gd sl, ScalarAt s g m ∧ Executes g m gd 1 sl ∧ regangFault g 1 1 sl 1 ∧
      ∀ j sl' k', j < 1 → Executes g m gd j sl' → ¬ regangFault g 1 j sl' k') ∧
    (∃ s g m gd sl, ScalarAt s g m ∧ Executes g m gd 0 sl ∧ regangFault g 3 0 sl 2) ∧
    ∃ s g m gd sl, ScalarAt s g m ∧ Executes g m gd 0 sl ∧ regangFault g 1 0 sl 3 := by
  refine ⟨⟨partState [idGang 2] 3, idGang 2, 3, ⟨7, true⟩, ⟨rfl, rfl⟩, executes_all (P := fun _ _ => False) (by decide), by decide⟩,
    fun mask h => ⟨partState [idGang 2] 3, idGang 2, 3, always, _, ⟨rfl, rfl⟩, ⟨by decide, rfl, rfl, rfl⟩, .inl ⟨rfl, ?_⟩⟩,
    ⟨partState [idGang 2] 3, idGang 2, 3, always, _, ⟨rfl, rfl⟩, ⟨by decide, rfl, rfl, rfl⟩, .inl ⟨rfl, by decide⟩, fun j sl' k' hj _ => ?_⟩,
    ⟨partState [elsewhere] 1, elsewhere, 1, always, _, ⟨rfl, rfl⟩, ⟨by decide, rfl, rfl, rfl⟩, .inr (.inl ⟨rfl, by decide, by decide⟩)⟩,
    partState [regangGang 0] 1, regangGang 0, 1, always, _, ⟨rfl, rfl⟩, ⟨by decide, rfl, rfl, rfl⟩, .inr (.inr ⟨rfl, by decide, by decide, by decide⟩)⟩
  · obtain rfl | rfl | rfl := h <;> decide
  · obtain rfl : j = 0 := by omega
    have hw : ∀ x ∈ (idGang 2).slices, x.pending = 0 := by decide
    rintro (⟨-, h⟩ | ⟨-, -, x, hx, h, -⟩ | ⟨-, -, -, x, hx, h, -⟩)
    · exact absurd h (by decide)
    · exact h (hw x hx)
    · exact h (hw x hx)
theorem witness_regang :
    (∀ k, k < 2 → ScalarAt (partState [regangGang k] 1) (regangGang k) 1 ∧ (1 : BitVec 8) &&& 3 = 1 ∧
      (∀ i sl, (1 : BitVec 8).getLsbD i → (regangGang k).slice? i = some sl →
        guardTrue always sl = true ∧ sl.exited = false ∧ sl.queue = [] ∧ sl.cur = none ∧ sl.pending = 0 ∧ sl.pc = 0x10000) ∧
      (∀ i sl, (3 : BitVec 8).getLsbD i = false → (regangGang k).slice? i = some sl → sl.pending = 0) ∧
      ∀ i sl, (3 : BitVec 8).getLsbD i → (1 : BitVec 8).getLsbD i = false → (regangGang k).slice? i = some sl →
        sl.exited = true ∧ sl.pending = 0 ∨ sl.exited = false ∧ sl.pending = 3 ∧ sl.pendingPc = 0x10000 ∧ sl.queue = [] ∧ sl.cur = none) ∧
    (∀ k, k < 3 → (partState [regangGang k] 1).gangOutstanding (regangGang k).id = false ∧
      ({ partState [regangGang k] 1 with arrivals := [flying] } : State).gangOutstanding (regangGang k).id = true) ∧
    (ScalarAt (partState [regangGang 2] 1) (regangGang 2) 1 ∧
      (∀ i sl, (1 : BitVec 8).getLsbD i → (regangGang 2).slice? i = some sl →
        guardTrue always sl = true ∧ sl.exited = false ∧ sl.queue = [] ∧ sl.cur = none ∧ sl.pending = 0 ∧ sl.pc = 0x10000) ∧
      (∀ i sl, (3 : BitVec 8).getLsbD i → (1 : BitVec 8).getLsbD i = false → (regangGang 2).slice? i = some sl →
        sl.pending = 0 ∨ sl.pending = 3 ∧ sl.pendingPc = 0x10000) ∧
      ∃ i sl, i < 8 ∧ (3 : BitVec 8).getLsbD i ∧ (1 : BitVec 8).getLsbD i = false ∧ (regangGang 2).slice? i = some sl ∧ sl.exited = false ∧
        sl.pending = 0) ∧
    ∃ s g m gd i sl, ScalarAt s g m ∧ Executes g m gd i sl ∧ (∀ j sl', j < i → ¬ Executes g m gd j sl') ∧
      (∀ mask : BitVec 8, mask = 0 ∨ mask = 2 ∨ mask = 4 → mask = 0 ∨ mask.getLsbD i = false ∨ 2 ^ g.slices.length ≤ mask.toNat) := by
  refine ⟨fun k hk => ?_, by decide, ⟨⟨rfl, rfl⟩, slices_part (by decide), slices_two (by decide), 1, _, by decide, rfl, rfl, rfl, rfl, rfl⟩,
    partState [idGang 2] 1, idGang 2, 1, always, 0, _, ⟨rfl, rfl⟩, ⟨by decide, rfl, rfl, rfl⟩, none_below, by decide⟩
  have : k = 0 ∨ k = 1 := by omega
  obtain rfl | rfl := this <;>
    exact ⟨⟨rfl, rfl⟩, rfl, slices_part (by decide), slices_part (by decide), slices_two (by decide)⟩

/-- Slices whose lane queues hold `n` runs, s1 holding a lane index. -/
def queued (n : Nat) (idx : Word) : Gang :=
  mkGang 0 2 fun _ sl => ({ sl with queue := List.replicate n ⟨0, 1, WordMap.zero, 1, none⟩ } : Slice).setReg 1 idx
theorem witness_laneRuns :
    (∃ s g m gd a, ScalarAt s g m ∧ g.id.isControl = false ∧ ∀ i sl, Executes g m gd i sl → (Slice.src sl a).toNat < 2 ^ 24 ∧ sl.queue.length < 4) ∧
    (∃ s g m gd a, ScalarAt s g m ∧ g.id.isControl = false ∧ (∀ i sl, Executes g m gd i sl → (Slice.src sl a).toNat < 2 ^ 24) ∧
      ∃ i sl, Executes g m gd i sl ∧ 4 ≤ sl.queue.length) ∧
    ∃ s g m gd a i, ScalarAt s g m ∧ g.id.isControl = false ∧ LowestFailing g m gd (fun sl => 2 ^ 24 ≤ (Slice.src sl a).toNat) i :=
  ⟨⟨partState [queued 3 0xFFFFFF] 3, queued 3 0xFFFFFF, 3, always, .reg 1, ⟨rfl, rfl⟩, rfl, executes_all (by decide)⟩,
   ⟨partState [queued 4 0xFFFFFF] 3, queued 4 0xFFFFFF, 3, always, .reg 1, ⟨rfl, rfl⟩, rfl, executes_all (by decide), 0, _,
     ⟨by decide, rfl, rfl, rfl⟩, by decide⟩,
   ⟨partState [queued 0 0x1000000] 3, queued 0 0x1000000, 3, always, .reg 1, 0, ⟨rfl, rfl⟩, rfl, _, ⟨by decide, rfl, rfl, rfl⟩, by decide, none_below⟩⟩

/-- A grid with a gauge area. -/
def gaugeRecord : LaunchRec := { firstRecord with gaugeSz := 1 }
theorem witness_specialRegisters :
    (∃ s g m gd a r i, ScalarAt s g m ∧ LowestFailing g m gd (swrRefused s g a r) i) ∧
    (∃ s g m gd, ScalarAt s g m ∧ ∀ i sl, ¬ Executes g m gd i sl) ∧
    (∃ s g m gd a i sl, ScalarAt s g m ∧ (∀ i sl, Executes g m gd i sl → ¬ swrRefused s g a 0x17 sl) ∧ HighestExecuting g m gd i sl) ∧
    ∃ s g m gd a i sl gr b, ScalarAt s g m ∧ (∀ r, r = 0x14 ∨ r = 0x15 ∨ r = 0x16 → ∀ i sl, Executes g m gd i sl → ¬ swrRefused s g a r sl) ∧
      HighestExecuting g m gd i sl ∧ s.gridOf g.id = some gr ∧ s.blockOf g.id = some b ∧ gr.record.gaugeSz ≠ 0 := by
  refine ⟨⟨partState [idGang 2] 3, idGang 2, 3, always, .reg 1, 0x13, 0, ⟨rfl, rfl⟩, _, ⟨by decide, rfl, rfl, rfl⟩, .inl (by decide), none_below⟩,
    ⟨partState [idGang 2] 3, idGang 2, 3, ⟨7, true⟩, ⟨rfl, rfl⟩, executes_all (P := fun _ _ => False) (by decide)⟩,
    ⟨partState [idGang 2] 3, idGang 2, 3, always, .reg 1, 1, _, ⟨rfl, rfl⟩, executes_all ?_, ⟨by decide, rfl, rfl, rfl⟩, ?_⟩,
    ⟨mkState gaugeRecord [idGang 1] (.scalar (sId 0) 1) [0], idGang 1, 1, always, .reg 2, 0, _, _, _, ⟨rfl, rfl⟩, fun r hr => executes_all ?_,
      ⟨⟨by decide, rfl, rfl, rfl⟩, ?_⟩, rfl, rfl, by decide⟩⟩
  · intro p hp _ _
    have h0 : Slice.src p.1 (.reg 1) = 0 := by
      simpa using List.all_eq_true.1 (show (idGang 2).slices.zipIdx.all (fun p => Slice.src p.1 (.reg 1) == 0) = true by decide) p hp
    simp [swrRefused, h0]
  · intro j sl h h'; have := h'.2.2.1; have : j < 2 := (List.getElem?_eq_some_iff.1 this).1; omega
  · intro p hp _ _
    have : (idGang 1).slices.zipIdx.all (fun p => Slice.src p.1 (.reg 2) == 0) = true := by decide
    have := List.all_eq_true.1 this p hp
    have h0 : Slice.src p.1 (.reg 2) = 0 := by simpa using this
    rintro (h | ⟨_, h⟩ | ⟨_, h⟩ | ⟨_, h⟩ | ⟨_, h⟩)
    · rcases hr with rfl | rfl | rfl <;> exact h (by decide)
    · exact h (by rw [h0]; decide)
    · exact h (by rw [h0]; decide)
    · exact h (by rw [h0]; decide)
    · exact absurd (h _ rfl) (by decide)
  · intro j sl h h'; have := h'.2.2.1; have : j < 1 := (List.getElem?_eq_some_iff.1 this).1; omega

theorem witness_systemGroup :
    (∃ s g m gd i sl, ScalarAt s g m ∧ Executes g m gd i sl ∧ ∀ j sl', j < i → ¬ Executes g m gd j sl') ∧
    (∃ s g m gd e, ScalarAt s g m ∧ (∀ i sl, Executes g m gd i sl → sl.queue = [] ∧ sl.cur = none) ∧ (∃ i sl, Executes g m gd i sl) ∧
      e ∈ State.heldCode s ∧ Discards .scal e ∧ ¬ Discards .lane e) ∧
    (∃ s g m gd, ScalarAt s g m ∧ ∃ i sl, Executes g m gd i sl ∧ ¬ (sl.queue = [] ∧ sl.cur = none)) ∧
    ∃ s g m gd, ScalarAt s g m ∧ ∀ i sl, ¬ Executes g m gd i sl :=
  ⟨⟨partState [idGang 2] 3, idGang 2, 3, always, 0, _, ⟨rfl, rfl⟩, ⟨by decide, rfl, rfl, rfl⟩, none_below⟩,
   ⟨{ partState [idGang 2] 3 with heldCode := [⟨0, 0, false, 0x10000, 0, []⟩] }, idGang 2, 3, always, ⟨0, 0, false, 0x10000, 0, []⟩, ⟨rfl, rfl⟩, executes_all (by decide),
     ⟨0, _, by decide, rfl, rfl, rfl⟩, List.mem_singleton_self _, by unfold Discards; decide, by unfold Discards; decide⟩,
   ⟨partState [queued 1 0] 3, queued 1 0, 3, always, ⟨rfl, rfl⟩, 0, _, ⟨by decide, rfl, rfl, rfl⟩, by decide⟩,
   partState [idGang 2] 3, idGang 2, 3, ⟨7, true⟩, ⟨rfl, rfl⟩, executes_all (P := fun _ _ => False) (by decide)⟩

theorem witness_trapRecordLayout : ∃ t : TrapInfo, ∃ w, t.cause < 256 ∧ t.src < 16 ∧ t.slice < 8 ∧ t.info < 2 ^ 16 ∧
    t.addr = some (7, 2 ^ 56 - 1) ∧ t.laneIdx < 2 ^ 24 ∧ t.words[2]? = some w :=
  ⟨⟨255, 15, 7, 0xFFFF, 0xFFFFFFFF, some (7, 2 ^ 56 - 1), 0xFFFFFF, [1, 2, 3]⟩, 3, by decide, by decide, by decide, by decide, rfl, by decide, rfl⟩

/-- The die's trap window is enabled, its stamp disabled (R394, R396). -/
def windowState : State := (partState [idGang 1] 1).devSet 0 0x6000 0x100001
theorem witness_trapHalts : ∃ (s : State) (g : Gang) (b : BlockId) (n : Nat) (x : Block) (gr : Grid),
    g.id = .compute b n ∧ s.gang? g.id = some g ∧ s.block? b = some x ∧ x.state = .running ∧ s.grid? b.handle = some gr ∧
    g.trapping = none ∧ s.issuing g.id = false ∧ gr.record.redun = false ∧ s.mem.wf = true ∧ n < 32 ∧ x.core < 16 ∧ x.slot < 8 ∧ (s.devGet x.die 0x6000).getLsbD 0 = true ∧
    (s.devGet g.id.stampCore.1 (0x6008 + 8 * g.id.stampCore.2)).getLsbD 0 = false :=
  ⟨windowState, idGang 1, firstBlock, 0, firstBlockRec, _, rfl, rfl, rfl, rfl, rfl, rfl, by decide, rfl, by decide, by decide, by decide, by decide, by decide, by decide⟩
/-- A load of slice 0 of the gang that has not been answered: its registers wait. -/
def unanswered : RemoteWait := ⟨0, sId 0, false, 1, [0], 0, false, [], true, 4, none, 0⟩
def heldTrap : TrapInfo := TrapInfo.plain 0x10 0 0 0 [0]
theorem witness_trapWaits :
    (∃ (s : State) (g : Gang) (t : TrapInfo) (b : BlockId) (n : Nat) (x : Block), s.gang? g.id = some g ∧ g.trapping = none ∧ s.issuing g.id = true ∧
      disposition t.cause ≠ .kill ∧ g.id = .compute b n ∧ s.block? b = some x ∧ x.state = .running) ∧
    ∃ (s : State) (g : Gang) (t : TrapInfo), s.gang? g.id = some g ∧ g.trapping = some t ∧ s.issuing g.id = false ∧ (s.gangs.map (·.id)).Nodup ∧
      ∀ k ∈ s.gangs, k.id ≠ g.id → k.trapping = none :=
  ⟨⟨{ windowState with remote := [unanswered] }, idGang 1, heldTrap, firstBlock, 0, firstBlockRec, rfl, rfl, by decide, by decide, rfl, rfl, rfl⟩,
   ⟨partState [{ idGang 1 with trapping := some heldTrap }] 1, { idGang 1 with trapping := some heldTrap }, heldTrap, rfl, rfl, by decide, by decide, by decide⟩⟩

theorem witness_trapConsequences :
    (∃ (s : State) (g : Gang) (b : BlockId) (n : Nat) (gr : Grid) (cause : Nat) (y : Block), g.id = .compute b n ∧ s.gang? g.id = some g ∧
      g.trapping = none ∧ s.issuing g.id = false ∧ s.grid? b.handle = some gr ∧ gr.record.redun = false ∧ gr.record.spanSize = 0 ∧ s.latchPeers g.id = [] ∧ disposition cause = .kill ∧
      s.block? b = some y ∧ y.state ≠ .exited ∧ y.state ≠ .killed) ∧
    ∃ (s : State) (g : Gang) (d i : Nat) (c : ControlCore), g.id = .control d i ∧ s.gang? g.id = some g ∧ s.control? d i = some c ∧
      g.trapping = none ∧ s.issuing g.id = false :=
  ⟨⟨windowState, idGang 1, firstBlock, 0, _, 0x5A, _, rfl, rfl, rfl, by decide, rfl, rfl, rfl, by decide, by decide, rfl, by decide, by decide⟩,
   ⟨State.reset.withFetchWord 32 0xF8000006, firstGang (.control 12 0) 12, 12, 0, _, rfl, rfl, rfl, rfl, by decide⟩⟩

/-- The leader or the lowest executing slice is slice 0. -/
theorem leader_zero {g : Gang} {m : BitVec 8} {gd : Guard} {sl : Slice} (h : Executes g m gd 0 sl) : Leader g m gd 0 sl := ⟨h, none_below⟩
theorem wholeGang_of {g : Gang} {m : BitVec 8} {gd : Guard} (hp : g.parts.length ≤ 1) (h : ∃ i sl, Executes g m gd i sl)
    (ha : ((List.range 8).all fun i => !m.getLsbD i || (match g.slice? i with | some sl => guardTrue gd sl | none => false)) = true) :
    WholeGang g m gd := by
  refine ⟨hp, h, fun i hi hm => ?_⟩
  have := List.all_eq_true.1 ha i (List.mem_range.2 hi)
  rw [hm] at this
  cases hs : g.slice? i with
  | none => rw [hs] at this; simp at this
  | some sl => rw [hs] at this; exact ⟨sl, rfl, by simpa using this⟩
/-- A pair from its second half. -/
theorem pair_of {α β : Type} {x : α × β} {b : β} (h : x.2 = b) : x = (x.1, b) := by rw [← h]
theorem read_of {x : State × EngAcc} {l : List Byte} (h : (match x.2 with | .ok y => y == l | _ => false) = true) : x = (x.1, .ok l) := by
  obtain ⟨u, e⟩ := x
  cases e <;> simp_all
theorem plain_of {s : State} {g : GangId} {gr : Grid} (hg : s.gridOf g = some gr) (hp : s.poison = []) (hr : gr.record.race = false)
    (hi : gr.image = none) : Plain s g :=
  ⟨hp, fun x hx => by rw [hg] at hx; obtain rfl := Option.some.inj hx; exact ⟨hr, hi⟩⟩

/-- A gang that has arrived at barrier 0 in phase `ph`. -/
def arrivedAs (ph : BitVec 16) : Gang := { idGang 1 with arrived := 1, arrPhase := ph }
/-- A grid of four gangs to a block. -/
def crowdRecord : LaunchRec := { firstRecord with gangs := 4 }
def crowd : State := mkState crowdRecord [idGang 1, mkGang 1 1 fun _ sl => sl, mkGang 2 1 fun _ sl => sl, mkGang 3 1 fun _ sl => sl] (.scalar (sId 0) 1) [0]
theorem whole_one {gs : Gang} (h : gs.parts = [1]) (hs : gs.slices = (idGang 1).slices) : WholeGang gs 1 always :=
  wholeGang_of (by rw [h]; decide) ⟨0, _, by decide, rfl, by unfold Gang.slice?; rw [hs]; rfl, rfl⟩ (by unfold Gang.slice?; rw [hs]; decide)
theorem witness_barrierCompletion : ∃ s g m i gd p b scope fixed x,
    ScalarAt s g m ∧ barrierForm s g i = some (gd, p, b, scope, fixed) ∧ scope ≠ 5 ∧ p ≠ .far ∧ WholeGang g m gd ∧ CanArrive s g x b scope fixed ∧
    ((s.barrierBlocks x scope).map (·.id)).Nodup ∧ (∀ y ∈ s.barrierBlocks x scope, s.block? y.id = some y ∧ y.barriers.length = 16) ∧
    x ∈ s.barrierBlocks x scope ∧ (∀ k ∈ s.gangs, k.abuf = [] ∧ s.gang? k.id = some k) ∧ fixed = 0 ∧
    ∀ y ∈ s.barrierBlocks x scope, ∀ k ∈ s.blockGangs y.id, k.id ≠ g.id → k.exited = true ∨ k.arrived.getLsbD b.toNat = true ∧
      k.arrPhase.getLsbD b.toNat = (y.barrier b.toNat).phase ∧ ((y.barrier b.toNat).scope = scope ∨ y.id = x.id) :=
  ⟨partState [idGang 1] 1, idGang 1, 1, .bar always .both none 0, _, _, _, _, _, firstBlockRec, ⟨rfl, rfl⟩, rfl, by decide, by decide,
   whole_one rfl rfl, ⟨rfl, rfl, rfl, by decide, by decide, rfl, rfl, rfl, by decide, rfl, .inl rfl⟩, by decide, by decide, by decide, by decide, rfl, by decide⟩
theorem counted_form {s : State} {g : Gang} {p : Phase} {a : Src} {b : BitVec 4} {gr : Grid} {q : Nat × Slice} (ho : g.operandSlice = some q)
    (h1 : 1 ≤ (q.2.src a).toNat) (hg : s.gridOf g.id = some gr) (h2 : (q.2.src a).toNat ≤ gr.record.gangs) :
    barrierForm s g (.bar always p (some a) b) = some (always, p, b, 1, (q.2.src a).toNat) := by
  unfold barrierForm
  simp only [ho, Option.bind_some]
  exact if_pos ⟨h1, gr, hg, h2⟩
theorem witness_barrierCompletion_counted : ∃ s g m i gd p b scope fixed x,
    ScalarAt s g m ∧ barrierForm s g i = some (gd, p, b, scope, fixed) ∧ CanArrive s g x b scope fixed ∧ fixed ≠ 0 ∧
    fixed = (x.barrier (BitVec.toNat b)).arrivals + 1 :=
  ⟨partState [idGang 1] 1, idGang 1, 1, .bar always .both (some (.lit 1)) 0, _, _, _, _, _, firstBlockRec, ⟨rfl, rfl⟩,
   counted_form rfl (by decide) rfl (by decide), ⟨rfl, rfl, rfl, by decide, by decide, rfl, rfl, rfl, by decide, rfl, .inl rfl⟩, by decide, by decide⟩
theorem witness_barrierWaits :
    (∃ s g m i gd p b scope fixed x, ScalarAt s g m ∧ barrierForm s g i = some (gd, p, b, scope, fixed) ∧ p ≠ .far ∧ WholeGang g m gd ∧
      CanArrive s g x b scope fixed ∧ fixed = 0 ∧ StillMissing s g x b scope) ∧
    (∃ s g m i gd p b scope fixed x, ScalarAt s g m ∧ barrierForm s g i = some (gd, p, b, scope, fixed) ∧ p ≠ .far ∧ WholeGang g m gd ∧
      CanArrive s g x b scope fixed ∧ fixed ≠ 0 ∧ (x.barrier (BitVec.toNat b)).arrivals + 1 < fixed) ∧
    (∃ s g m i gd b scope fixed, ScalarAt s g m ∧ barrierForm s g i = some (gd, .far, b, scope, fixed) ∧ WholeGang g m gd ∧
      g.arrived.getLsbD (BitVec.toNat b) = false) ∧
    (∃ s g m i gd p b scope fixed, ScalarAt s g m ∧ barrierForm s g i = some (gd, p, b, scope, fixed) ∧ WholeGang g m gd ∧ p ≠ .far ∧
      g.arrived.getLsbD (BitVec.toNat b) = true) ∧
    (∃ s g m i gd b scope fixed x, ScalarAt s g m ∧ barrierForm s g i = some (gd, .far, b, scope, fixed) ∧ WholeGang g m gd ∧
      s.blockOf g.id = some x ∧ g.arrived.getLsbD (BitVec.toNat b) = true ∧ g.qbuf = [] ∧
      (x.barrier (BitVec.toNat b)).phase = g.arrPhase.getLsbD (BitVec.toNat b)) ∧
    ∃ s g m i gd b scope fixed x, ScalarAt s g m ∧ barrierForm s g i = some (gd, .far, b, scope, fixed) ∧ WholeGang g m gd ∧
      s.blockOf g.id = some x ∧ g.arrived.getLsbD (BitVec.toNat b) = true ∧ g.qbuf = [] ∧
      (x.barrier (BitVec.toNat b)).phase ≠ g.arrPhase.getLsbD (BitVec.toNat b) :=
  ⟨⟨crowd, idGang 1, 1, .barc always .near 0, _, _, _, _, _, firstBlockRec, ⟨rfl, rfl⟩, rfl, by decide, whole_one rfl rfl,
     ⟨rfl, rfl, rfl, by decide, by decide, rfl, rfl, rfl, by decide, rfl, .inl rfl⟩, rfl, firstBlockRec, by decide, mkGang 1 1 fun _ sl => sl, by decide, by decide, rfl, by decide⟩,
   ⟨crowd, idGang 1, 1, .bar always .both (some (.lit 2)) 0, _, _, _, _, _, firstBlockRec, ⟨rfl, rfl⟩, counted_form rfl (by decide) rfl (by decide), by decide,
     whole_one rfl rfl, ⟨rfl, rfl, rfl, by decide, by decide, rfl, rfl, rfl, by decide, rfl, .inl rfl⟩, by decide, by decide⟩,
   ⟨partState [idGang 1] 1, idGang 1, 1, .bar always .far none 15, _, _, _, _, ⟨rfl, rfl⟩, rfl, whole_one rfl rfl, by decide⟩,
   ⟨partState [arrivedAs 0] 1, arrivedAs 0, 1, .bar always .both none 0, _, _, _, _, _, ⟨rfl, rfl⟩, rfl, whole_one rfl rfl, by decide, by decide⟩,
   ⟨partState [arrivedAs 0] 1, arrivedAs 0, 1, .bar always .far none 0, _, _, _, _, _, ⟨rfl, rfl⟩, rfl, whole_one rfl rfl, rfl, by decide, rfl, by decide⟩,
   ⟨partState [arrivedAs 1] 1, arrivedAs 1, 1, .bar always .far none 0, _, _, _, _, _, ⟨rfl, rfl⟩, rfl, whole_one rfl rfl, rfl, by decide, rfl, by decide⟩⟩

/-- s1 = 64, s2 = 1, s3 = 68, s4 = 2^13, s5 = 0. -/
def wordGang : Gang := mkGang 0 1 fun _ sl => (((sl.setReg 1 64).setReg 2 1).setReg 3 68).setReg 4 0x2000
def wordState : State := { partState [wordGang] 1 with ls := [(64, 3)] }
theorem witness_arriveSends :
    (∃ s g m gd a n i sl s1 p, ScalarAt s g m ∧ Leader g m gd i sl ∧ s.determ g.id = false ∧
      State.locate s g.id (.word true) (SyncAddr.space a) (Slice.syncAddr sl a) 16 = (s1, .ok p) ∧ p.isRemote = false ∧ Slice.src sl n ≠ 0) ∧
    (∃ s g m gd a n i sl s1 p, ScalarAt s g m ∧ Leader g m gd i sl ∧ s.determ g.id = false ∧
      State.locate s g.id (.word true) (SyncAddr.space a) (Slice.syncAddr sl a) 16 = (s1, .ok p) ∧ p.isRemote = false ∧ Slice.src sl n = 0) ∧
    ∃ s g m gd a i sl s1 f, ScalarAt s g m ∧ Leader g m gd i sl ∧ s.determ g.id = false ∧
      State.locate s g.id (.word true) (SyncAddr.space a) (Slice.syncAddr sl a) 16 = (s1, .fault f) :=
  ⟨⟨wordState, wordGang, 1, always, .loc (.reg 1), .reg 2, 0, _, _, .ls 64 firstBlock 64, ⟨rfl, rfl⟩, leader_zero ⟨by decide, rfl, rfl, rfl⟩, by decide,
     pair_of (by decide), rfl, by decide⟩,
   ⟨wordState, wordGang, 1, always, .loc (.reg 1), .reg 5, 0, _, _, .ls 64 firstBlock 64, ⟨rfl, rfl⟩, leader_zero ⟨by decide, rfl, rfl, rfl⟩, by decide,
     pair_of (by decide), rfl, by decide⟩,
   ⟨wordState, wordGang, 1, always, .loc (.reg 3), 0, _, _, _, ⟨rfl, rfl⟩, leader_zero ⟨by decide, rfl, rfl, rfl⟩, by decide, pair_of rfl⟩⟩

theorem witness_syncWordArrivals :
    (∃ (bs : List Byte) (n : Nat), bs.length = 16 ∧ 0 < n ∧ ofLeBytes ((bs.drop 4).take 4) + n < ofLeBytes (bs.take 4)) ∧
    (∃ (bs : List Byte) (n : Nat), bs.length = 16 ∧ 0 < n ∧ ofLeBytes ((bs.drop 4).take 4) + n = ofLeBytes (bs.take 4)) ∧
    (∃ (bs : List Byte) (n : Nat), bs.length = 16 ∧ 0 < n ∧ ofLeBytes (bs.take 4) = 0) ∧
    ∃ (bs : List Byte) (n : Nat), bs.length = 16 ∧ 0 < n ∧ ofLeBytes (bs.take 4) < ofLeBytes ((bs.drop 4).take 4) + n ∧ ofLeBytes (bs.take 4) ≠ 0 :=
  ⟨⟨leBytes 4 3 ++ leBytes 4 1 ++ leBytes 8 0, 1, by decide⟩, ⟨leBytes 4 3 ++ leBytes 4 1 ++ leBytes 8 0, 2, by decide⟩,
   ⟨leBytes 16 0, 1, by decide⟩, ⟨leBytes 4 3 ++ leBytes 4 1 ++ leBytes 8 0, 3, by decide⟩⟩

theorem witness_waitsOnWords : ∀ ok : Bool,
    (∃ s g m i gd a v k sl s1 p, ScalarAt s g m ∧ waitForm i = some (gd, a, false, v) ∧ Leader g m gd k sl ∧ Plain s g.id ∧
      s.locate g.id (.word false) a.space (sl.syncAddr a) 16 = (s1, .ok p) ∧ p.isRemote = false ∧ g.partWait m ≠ some .held ∧ s1.arrivalAt g.id p 16 = false ∧
      s1.flightMeets g.id false p 16 = false ∧ (Satisfied false (v sl) (s.readPlace p 16) ↔ ok = true) ∧ ∀ die off, p ≠ .reg die off) ∧
    ∃ s g m i gd a v k sl s1 p, ScalarAt s g m ∧ waitForm i = some (gd, a, true, v) ∧ Leader g m gd k sl ∧ Plain s g.id ∧
      s.locate g.id (.word false) a.space (sl.syncAddr a) 8 = (s1, .ok p) ∧ p.isRemote = false ∧ g.partWait m ≠ some .held ∧ s1.arrivalAt g.id p 8 = false ∧
      s1.flightMeets g.id false p 8 = false ∧ (Satisfied true (v sl) (s.readPlace p 8) ↔ ok = true) ∧ ∀ die off, p ≠ .reg die off := fun ok =>
  ⟨⟨wordState, wordGang, 1, .wait always .block (.loc (.reg 1)) (.reg (if ok then 5 else 2)), _, _, _, 0, _, _, .ls 64 firstBlock 64, ⟨rfl, rfl⟩, rfl,
     leader_zero ⟨by decide, rfl, rfl, rfl⟩, plain_of rfl rfl rfl rfl, pair_of (by decide), rfl, by decide, by decide, rfl,
     by unfold Satisfied; cases ok <;> decide, fun _ _ h => Place.noConfusion h⟩,
   match ok with
   | true => ⟨wordState, wordGang, 1, .mwait always .block (.loc (.reg 1)) (.lit 0), _, _, _, 0, _, _, .ls 64 firstBlock 64, ⟨rfl, rfl⟩, rfl,
     leader_zero ⟨by decide, rfl, rfl, rfl⟩, plain_of rfl rfl rfl rfl, pair_of (by decide), rfl, by decide, by decide, rfl,
     by unfold Satisfied; decide, fun _ _ h => Place.noConfusion h⟩
   | false => ⟨wordState, wordGang, 1, .mwait always .block (.loc (.reg 1)) (.pair 1), _, _, _, 0, _, _, .ls 64 firstBlock 64, ⟨rfl, rfl⟩, rfl,
     leader_zero ⟨by decide, rfl, rfl, rfl⟩, plain_of rfl rfl rfl rfl, pair_of (by decide), rfl, by decide, by decide, rfl,
     by unfold Satisfied; decide, fun _ _ h => Place.noConfusion h⟩⟩

/-- The clauses of an arrival, and of another access, of the gang's own on its way to the word; and a part whose wait was over as its round
started. -/
def loadFlight : Flight :=
  ⟨⟨⟨0, 0, 0⟩, 9, 0, 0, 64, 1, .load 4, .scalar 0 (sId 0) 0 (some 1) 1, .here (.ls 64 firstBlock 64)⟩, 0, 0, sId 0, SyncUse.unchecked, 0, true, none⟩
def heldWordGang : Gang := { wordGang with slices := wordGang.slices.map (waiting .held) }
theorem witness_waitsOnWords_held :
    (∃ s g m i gd a v k sl s1 p, ScalarAt s g m ∧ waitForm i = some (gd, a, false, v) ∧ Leader g m gd k sl ∧ Plain s g.id ∧
      s.locate g.id (.word false) a.space (sl.syncAddr a) 16 = (s1, .ok p) ∧ p.isRemote = false ∧ g.partWait m ≠ some .held ∧ s1.arrivalAt g.id p 16 = true) ∧
    (∃ s g m i gd a v k sl s1 p, ScalarAt s g m ∧ waitForm i = some (gd, a, false, v) ∧ Leader g m gd k sl ∧ Plain s g.id ∧
      s.locate g.id (.word false) a.space (sl.syncAddr a) 16 = (s1, .ok p) ∧ p.isRemote = false ∧ g.partWait m ≠ some .held ∧
      s1.flightMeets g.id false p 16 = true) ∧
    ∃ s g m gd k sl, ScalarAt s g m ∧ Leader g m gd k sl ∧ g.partWait m = some .held ∧ (∃ i a v, waitForm i = some (gd, a, false, v)) ∧
      ∃ a, (Slice.src sl a).toNat < 256 :=
  ⟨⟨{ wordState with arrivals := [flying] }, wordGang, 1, .wait always .block (.loc (.reg 1)) (.reg 5), _, _, _, 0, _, _, .ls 64 firstBlock 64, ⟨rfl, rfl⟩, rfl,
     leader_zero ⟨by decide, rfl, rfl, rfl⟩, plain_of rfl rfl rfl rfl, pair_of (by decide), rfl, by decide, by decide⟩,
   ⟨{ wordState with flights := [loadFlight] }, wordGang, 1, .wait always .block (.loc (.reg 1)) (.reg 5), _, _, _, 0, _, _, .ls 64 firstBlock 64, ⟨rfl, rfl⟩, rfl,
     leader_zero ⟨by decide, rfl, rfl, rfl⟩, plain_of rfl rfl rfl rfl, pair_of (by decide), rfl, by decide, by decide⟩,
   ⟨partState [heldWordGang] 1, heldWordGang, 1, always, 0, _, ⟨rfl, rfl⟩, leader_zero ⟨by decide, rfl, rfl, rfl⟩, by decide,
     ⟨.wait always .block (.loc (.reg 1)) (.reg 5), _, _, rfl⟩, .reg 2, by decide⟩⟩

/-- `n` sealed batches are held, counter c at `n`. -/
def sealedGang (n : Nat) : Gang := { idGang 1 with sealed := List.replicate n ⟨0, []⟩, c := n }
theorem witness_countersAndBatches :
    (∃ s g m gd, ScalarAt s g m ∧ (∃ i sl, Executes g m gd i sl) ∧ g.partWait m ≠ some .held ∧ g.l ≤ 0 ∧ g.s ≤ 0 ∧ g.c ≤ 0 ∧ g.t ≤ 0 ∧ g.sealed.length < 15 ∧
      ∀ i sl, i < 8 → BitVec.getLsbD m i = true → g.slice? i = some sl → sl.queue = [] ∧ sl.cur = none) ∧
    (∃ s g m gd, ScalarAt s g m ∧ (∃ i sl, Executes g m gd i sl) ∧ g.partWait m ≠ some .held ∧ ¬ g.c ≤ 13 ∧ g.sealed.length < 15) ∧
    (∃ s g m gd, ScalarAt s g m ∧ (∃ i sl, Executes g m gd i sl) ∧ g.partWait m ≠ some .held ∧ g.l ≤ 0 ∧ g.s ≤ 0 ∧ g.c ≤ 0 ∧ g.t ≤ 0 ∧
      ¬ ∀ i sl, i < 8 → BitVec.getLsbD m i = true → g.slice? i = some sl → sl.queue = [] ∧ sl.cur = none) ∧
    ∃ s g m gd, ScalarAt s g m ∧ (∃ i sl, Executes g m gd i sl) ∧ g.partWait m ≠ some .held ∧ 15 ≤ g.sealed.length :=
  ⟨⟨partState [idGang 1] 1, idGang 1, 1, always, ⟨rfl, rfl⟩, ⟨0, _, by decide, rfl, rfl, rfl⟩, by decide, by decide, by decide, by decide, by decide, by decide,
     slices_two (by decide)⟩,
   ⟨partState [sealedGang 14] 1, sealedGang 14, 1, always, ⟨rfl, rfl⟩, ⟨0, _, by decide, rfl, rfl, rfl⟩, by decide⟩,
   ⟨partState [queued 1 0] 3, queued 1 0, 3, always, ⟨rfl, rfl⟩, ⟨0, _, by decide, rfl, rfl, rfl⟩, by decide, by decide, by decide, by decide, by decide,
     fun h => absurd (h 0 _ (by decide) (by decide) rfl).1 (by decide)⟩,
   ⟨partState [sealedGang 15] 1, sealedGang 15, 1, always, ⟨rfl, rfl⟩, ⟨0, _, by decide, rfl, rfl, rfl⟩, by decide⟩⟩

theorem witness_fencesPass :
    (∃ s g m gd a i sl, ScalarAt s g m ∧ Leader g m gd i sl ∧ g.abuf = [] ∧ (∀ j x, m.getLsbD j → g.slice? j = some x → x.queue = [] ∧ x.cur = none) ∧
      s.outstanding = [] ∧ (∀ a ∈ s.arrivals, a.src ≠ some g.id) ∧ (¬ ∃ r ∈ s.remote, r.gang = g.id ∧ r.clsL = true) ∧ (Slice.src sl a).toNat < 2 ^ 13) ∧
    (∃ s g m gd a i sl, ScalarAt s g m ∧ Leader g m gd i sl ∧ g.abuf = [] ∧ (Slice.src sl a).toNat < 2 ^ 13 ∧
      ∃ j x, j < 8 ∧ m.getLsbD j ∧ g.slice? j = some x ∧ ¬ (x.queue = [] ∧ x.cur = none)) ∧
    (∀ load : Bool, ∃ s g m gd a i sl, ScalarAt s g m ∧ Leader g m gd i sl ∧ g.abuf = [] ∧ (∀ j x, m.getLsbD j → g.slice? j = some x → x.queue = [] ∧ x.cur = none) ∧
      (Slice.src sl a).toNat < 2 ^ 13 ∧ if load then ∃ r ∈ s.remote, r.gang = g.id ∧ r.clsL = true else s.gangOutstanding g.id = true) ∧
    ∃ s g m gd a i sl, ScalarAt s g m ∧ Leader g m gd i sl ∧ g.abuf = [] ∧ 2 ^ 13 ≤ (Slice.src sl a).toNat :=
  ⟨⟨wordState, wordGang, 1, always, .lit 0x1FFF, 0, _, ⟨rfl, rfl⟩, leader_zero ⟨by decide, rfl, rfl, rfl⟩, rfl, slices_part (by decide), rfl, by decide, by decide, by decide⟩,
   ⟨partState [queued 1 0] 3, queued 1 0, 3, always, .lit 5, 0, _, ⟨rfl, rfl⟩, leader_zero ⟨by decide, rfl, rfl, rfl⟩, rfl, by decide, 1, _, by decide, by decide, rfl,
     by decide⟩,
   fun load => ⟨{ wordState with arrivals := if load then [] else [flying], remote := if load then [unanswered] else [] }, wordGang, 1, always, .lit 5, 0, _,
     ⟨rfl, rfl⟩, leader_zero ⟨by decide, rfl, rfl, rfl⟩, rfl, slices_part (by decide), by decide, by cases load <;> decide⟩,
   ⟨wordState, wordGang, 1, always, .reg 4, 0, _, ⟨rfl, rfl⟩, leader_zero ⟨by decide, rfl, rfl, rfl⟩, rfl, by decide⟩⟩

def drainingGang (prev : Option (Nat × Nat)) : Gang := mkGang 0 1 fun _ sl => { sl with wait := some (.drain .cohort prev) }
theorem witness_drainSweeps :
    (∃ s g m gd, ScalarAt s g m ∧ WholeGang g m gd ∧ s.determ g.id = false ∧ g.abuf = [] ∧ s.outstanding = []) ∧
    (∃ s g prev, State.gang? s g.id = some g ∧ g.partWait g.full = some (.drain .cohort prev) ∧ s.canWake g = true ∧
      (s.drainSums g.id .cohort).1 = (s.drainSums g.id .cohort).2 ∧ prev = some (s.drainSums g.id .cohort)) ∧
    ∃ s g prev, State.gang? s g.id = some g ∧ g.partWait g.full = some (.drain .cohort prev) ∧ s.canWake g = true ∧
      prev ≠ some (s.drainSums g.id .cohort) :=
  ⟨⟨partState [idGang 1] 1, idGang 1, 1, always, ⟨rfl, rfl⟩, whole_one rfl rfl, by decide, rfl, rfl⟩,
   ⟨partState [drainingGang (some (0, 0))] 1, drainingGang (some (0, 0)), some (0, 0), rfl, by decide, by decide, by decide, by decide⟩,
   ⟨partState [drainingGang none] 1, drainingGang none, none, rfl, by decide, by decide, by decide⟩⟩

/-- A cohort whose handle 5 is held by rank `n`; s1 names handle 5 or another, s2 and s3 a range. -/
def handleState (t : List (Nat × HandleEntry)) (w : Word) : State :=
  { partState [mkGang 0 1 fun _ sl => ((sl.setReg 1 w).setReg 2 64).setReg 3 64] 1 with cohorts := [Cohort.mk firstHandle 0 false t 0 0 0] }
def handleGang (w : Word) : Gang := mkGang 0 1 fun _ sl => ((sl.setReg 1 w).setReg 2 64).setReg 3 64
theorem witness_handlesGiveAndTake :
    (∃ t' e, giveTable firstRecord [] 0 5 64 64 = .ok t' ∧ giveTable firstRecord [] 0 0x105 64 64 = .error e) ∧
    (∀ w, w = 5 ∨ w = 0x105 → ScalarAt (handleState [] w) (handleGang w) 1 ∧ (∃ sl, Leader (handleGang w) 1 always 0 sl ∧ sl.reg 1 = w) ∧
      (handleGang w).id.block? = some firstBlock ∧ (∃ co, (handleState [] w).cohort? firstBlock = some co ∧ co.table = []) ∧
      (∃ gr, (handleState [] w).gridOf (handleGang w).id = some gr ∧ gr.record = firstRecord) ∧ (handleState [] w).rank firstBlock = 0 ∧
      (handleState [] w).gangOutstanding (handleGang w).id = false ∧ (handleState [] w).determ (handleGang w).id = false ∧
      (handleGang w).partWait 1 ≠ some .held) ∧
    (∃ e, lookupAt 5 [(5, (⟨0, 0, 64, 64⟩ : HandleEntry))] = some e ∧ e.holder = (handleState [(5, ⟨0, 0, 64, 64⟩)] 5).rank firstBlock) ∧
    ∀ e, lookupAt 5 [(5, (⟨0, 3, 64, 64⟩ : HandleEntry))] = some e → e.holder ≠ (handleState [(5, ⟨0, 3, 64, 64⟩)] 5).rank firstBlock := by
  refine ⟨⟨[(5, ⟨0, 0, 64, 64⟩)], 1, by decide, by decide⟩, fun w hw => ?_,
    ⟨_, rfl, by decide⟩, fun e h => ?_⟩
  · obtain rfl | rfl := hw <;>
      exact ⟨⟨rfl, rfl⟩, ⟨_, leader_zero ⟨by decide, rfl, rfl, rfl⟩, rfl⟩, rfl, ⟨Cohort.mk firstHandle 0 false [] 0 0 0, by decide, rfl⟩, ⟨_, rfl, rfl⟩,
        by decide, by decide, by decide, by decide⟩
  · obtain rfl := Option.some.inj h
    decide

theorem witness_handleTable :
    (∃ (r : LaunchRec) (me rank off len : Nat), rank < 32 ∧ rank < r.cohort ∧ off % 64 = 0 ∧ len % 64 = 0 ∧ 64 ≤ len ∧ len ≤ 2 ^ 23 ∧
      off + len ≤ r.lsSz * 4096 ∧ (∀ p ∈ [(3, (⟨me, 0, 0, 64⟩ : HandleEntry))], p.2.owner = me → p.2.off + p.2.len ≤ off ∨ off + len ≤ p.2.off) ∧
      (r.expLen = 0 ∨ r.expOff + r.expLen ≤ off ∨ off + len ≤ r.expOff) ∧ lookupAt 255 [(3, (⟨me, 0, 0, 64⟩ : HandleEntry))] = none) ∧
    (∃ e : HandleEntry, lookupAt 255 [(255, e)] = some e ∧ e.holder = 7 ∧ e.owner = 7) ∧
    ∃ e : HandleEntry, lookupAt 0 [(0, e)] = some e ∧ e.holder ≠ 7 :=
  ⟨⟨{ firstRecord with cohort := 32 }, 7, 31, 64, 64, by decide, by decide, by decide, by decide, by decide, by decide, by decide, by decide, by decide, rfl⟩,
   ⟨⟨7, 7, 0, 64⟩, rfl, rfl, rfl⟩, ⟨⟨7, 6, 0, 64⟩, rfl, by decide⟩⟩

def spanRecord : LaunchRec := { firstRecord with spanSize := 2, pkgList := [0, 1] }
def spanState : State := mkState spanRecord [wordGang] (.scalar (sId 0) 1) [0]
def determRecord : LaunchRec := { firstRecord with determ := true }
set_option maxRecDepth 8000 in
theorem witness_detachQendYield :
    (∃ s g m gd a i sl gr, ScalarAt s g m ∧ Leader g m gd i sl ∧ State.gridOf s g.id = some gr ∧ s.determ g.id = false ∧
      (Slice.src sl a).toNat < gr.record.spanSize ∧ s.usesMember g.id gr (Slice.src sl a).toNat = false ∧
      gr.detached.contains (gr.member s.pkgId, (Slice.src sl a).toNat) = false) ∧
    (∃ s g m gd i sl gr, ScalarAt s g m ∧ Leader g m gd i sl ∧ s.gridOf g.id = some gr ∧ gr.record.spanSize = 0 ∧ s.determ g.id = false ∧
      s.quadrantReady g = []) ∧
    (∃ s g m gd i sl, ScalarAt s g m ∧ Leader g m gd i sl ∧ s.determ g.id = true) ∧
    ∃ s g m gd i sl, ScalarAt s g m ∧ Leader g m gd i sl ∧ s.quadrantReady g ≠ [] :=
  ⟨⟨spanState, wordGang, 1, always, .reg 2, 0, _, _, ⟨rfl, rfl⟩, leader_zero ⟨by decide, rfl, rfl, rfl⟩, rfl, by decide, by decide, by decide, by decide⟩,
   ⟨wordState, wordGang, 1, always, 0, _, _, ⟨rfl, rfl⟩, leader_zero ⟨by decide, rfl, rfl, rfl⟩, rfl, rfl, by decide, by decide⟩,
   ⟨mkState determRecord [wordGang] (.scalar (sId 0) 1) [0], wordGang, 1, always, 0, _, ⟨rfl, rfl⟩, leader_zero ⟨by decide, rfl, rfl, rfl⟩, by decide⟩,
   ⟨mkState crowdRecord [wordGang, mkGang 4 1 fun _ sl => sl] (.scalar (sId 0) 1) [0], wordGang, 1, always, 0, _, ⟨rfl, rfl⟩,
     leader_zero ⟨by decide, rfl, rfl, rfl⟩, by decide⟩⟩

/-- A gang of one slice with registers. -/
def regGang (l : List (Nat × Word)) : Gang := mkGang 0 1 fun _ sl => l.foldl (fun x p => x.setReg p.1 p.2) sl
/-- The manual's copy: 40 units from GEN to LOC, control word in s8. -/
def copyGang : Gang := regGang [(8, 0x08000028)]
/-- A table of 8 rows of 16 bytes on die 0, the package list at 0x110000 (R105). -/
def descBytes : List Byte :=
  leBytes 8 0 ++ leBytes 8 0x110000 ++ leBytes 4 8 ++ leBytes 12 0 ++ leBytes 4 16 ++ leBytes 4 16 ++ leBytes 4 0 ++ leBytes 4 1 ++ leBytes 14 0 ++ leBytes 2 1
/-- Registers of a gather of one row: tile 128 in s4, list 64 in s5, descriptor at 0x100000 in s6 and s7, control 0 in s8. -/
def gatherGang : Gang := regGang [(4, 128), (5, 64), (6, 0x100000)]
def gatherState : State :=
  { partState [gatherGang] 1 with
    mem := Memory.write [] 0x100000 (descBytes)
    fetched := [⟨sId 0, 0x100000, false, descBytes, none⟩, ⟨sId 0, 0x110000, false, [0, 0], none⟩]
    dev := ((State.reset.devSet 12 0x10000 0x100000).devSet 12 0x10008 0x8000000000000000).dev }
theorem witness_batchedOperations :
    (∃ s g m x i sl, EngineAt s g m (CopyForm.g x) i sl ∧
      copyAllowed (copyOf sl false x.d.val x.a.val (4 * x.b.val)) (sl.reg (4 * x.b.val)) none x.d.val x.a.val = true ∧
      ¬ (256 ≤ g.openOps.length ∧ 15 ≤ g.sealed.length)) ∧
    (∃ s g m x i sl, EngineAt s g m (CopyForm.g x) i sl ∧
      copyAllowed (copyOf sl true x.d.val x.a.val (4 * x.b.val)) (sl.reg (4 * x.b.val)) none x.d.val x.a.val = false) ∧
    (∃ s g m x i sl bid gr co, EngineAt s g m (GathForm.g x) i sl ∧ g.id.block? = some bid ∧ s.gridOf g.id = some gr ∧ s.cohort? bid = some co ∧
      addressOf sl 0 (2 * x.a.val) % 64 ≠ 0)  := ⟨⟨partState [copyGang] 1, copyGang, 1, ⟨always, 4, 6, 2⟩, 0, _,
     ⟨⟨rfl, rfl⟩, wholeGang_of (by decide) ⟨0, _, by decide, rfl, rfl, rfl⟩ (by decide), rfl, by decide⟩, by decide, by decide⟩,
   ⟨partState [copyGang] 1, copyGang, 1, ⟨always, 4, 6, 1⟩, 0, _,
     ⟨⟨rfl, rfl⟩, wholeGang_of (by decide) ⟨0, _, by decide, rfl, rfl, rfl⟩ (by decide), rfl, by decide⟩, by decide⟩,
   ⟨partState [copyGang] 1, copyGang, 1, ⟨always, 0, 4, 1⟩, 0, _, firstBlock, _, Cohort.mk firstHandle 0 false [] 0 0 0,
     ⟨⟨rfl, rfl⟩, wholeGang_of (by decide) ⟨0, _, by decide, rfl, rfl, rfl⟩ (by decide), rfl, by decide⟩, rfl, rfl, by decide, by decide⟩⟩

/-- The registers of the gather's slice, and its gang at issue. -/
def gatherSlice : Slice := match gatherGang.slice? 0 with | some sl => sl | none => newSlice 0 0 0
theorem gather_engineAt : EngineAt gatherState gatherGang 1 always 0 gatherSlice :=
  ⟨⟨rfl, rfl⟩, wholeGang_of (by decide) ⟨0, _, by decide, rfl, rfl, rfl⟩ (by decide), rfl, by decide⟩
theorem gather_places : gatherGang.id.block? = some firstBlock ∧ (∃ gr, gatherState.gridOf gatherGang.id = some gr ∧ gr.record = firstRecord) ∧
    gatherState.cohort? firstBlock = some (Cohort.mk firstHandle 0 false [] 0 0 0) ∧ addressOf gatherSlice 0 6 = 0x100000 ∧
    gatherSlice.reg 4 = 128 ∧ gatherSlice.reg 5 = 64 ∧ gatherSlice.reg 8 = 0 ∧ gatherState.rank firstBlock = 0 :=
  ⟨rfl, ⟨_, rfl, rfl⟩, by decide, by decide, by decide, by decide, by decide, by decide⟩
set_option maxRecDepth 8000 in
set_option exponentiation.threshold 600 in
theorem gather_reads : gatherState.issueRead (sId 0) 0 0x100000 64 = (gatherState, .ok descBytes) := rfl
set_option maxRecDepth 8000 in
set_option exponentiation.threshold 600 in
theorem gather_descOk : descOk descBytes = true := by decide
set_option maxRecDepth 8000 in
set_option exponentiation.threshold 600 in
theorem gather_registered : gatherState.registered descBytes = true := by decide
set_option maxRecDepth 8000 in
set_option exponentiation.threshold 600 in
theorem gather_fields : descField descBytes 64 56 = 0x110000 ∧ descNp descBytes = 1 ∧ descRowBytes descBytes = 16 := by decide
set_option maxRecDepth 8000 in
set_option exponentiation.threshold 600 in
/-- The clause of a GATH that is accepted: descriptor, package list and index list are read here and pass. -/
theorem witness_batchedOperations_gather : gatherState.pageRead (sId 0) 0x110000 2 = (gatherState, .ok [0, 0]) ∧
    gatherControlOk false 0 (descFmt descBytes) = true ∧ ((128 + 16 + 63) / 64 * 64) + 64 ≤ firstRecord.lsSz * 4096 ∧
    gatherState.engineReadAll (sId 0) 1 (ownAddr 0 64) 4 = ((gatherState.engineReadAll (sId 0) 1 (ownAddr 0 64) 4).1, .ok [0, 0, 0, 0]) ∧
    ¬ (256 ≤ gatherGang.openOps.length ∧ 15 ≤ gatherGang.sealed.length) :=
  ⟨rfl, by decide, by decide, rfl, by decide⟩

/-! ## Witnesses: the engines -/

/-- Control core 0 of die 12 issues a word. -/
def ctlGang : Gang := firstGang (.control 12 0) 12
def ctlState (ws : List Word) : State := { State.reset.withFetchWord 32 0xF8000006 with issue := ⟨.scalar (.control 12 0) 1, ws⟩ }
/-- The same in the lane slot. -/
def ctlLane : State := { ctlState [0] with issue := ⟨.lane (.control 12 0) 1, [0, 0, 0]⟩ }
theorem witness_controlCoreLaneStream :
    (∃ s g m, g.id.isControl = true ∧ ScalarAt s g m) ∧
    ∃ s g m i op w, g.id.isControl = true ∧ LaneAt s g m ∧ Instr.lane? i = some (op, w) ∧ i.wf = true :=
  ⟨⟨ctlState [0], ctlGang, 1, rfl, rfl, rfl⟩, ctlLane, ctlGang, 1, .frcp ⟨0, 4, 20, 9, 1023, 1023, 0, 0, 0, 0, 7, 0⟩, _, _, rfl, ⟨rfl, rfl⟩, rfl, by decide⟩

/-- The cases of R430: a table, the word of s1, the length and the INFO. -/
def refusals : List (List (Nat × HandleEntry) × Word × Word × Nat) :=
  [([], 0x100, 64, 1), ([], 0x80000000, 64, 2), ([], 0, 32, 3), ([(6, ⟨0, 0, 64, 64⟩)], 5, 64, 4), ([(5, ⟨0, 1, 64, 64⟩)], 5, 64, 5),
   ([(5, ⟨1, 0, 64, 64⟩)], 0x80000005, 64, 6), ([], 0x2000, 64, 9)]
theorem witness_handleRefusals : ∀ c ∈ refusals, giveReason firstRecord c.1 0 c.2.1 64 c.2.2.1.toNat c.2.2.2 ∧
    ScalarAt (handleState c.1 c.2.1) (handleGang c.2.1) 1 ∧ (∃ sl, Leader (handleGang c.2.1) 1 always 0 sl ∧ sl.reg 1 = c.2.1 ∧ sl.reg 2 = 64) ∧
    (∃ gr, (handleState c.1 c.2.1).gridOf (handleGang c.2.1).id = some gr ∧ gr.record = firstRecord) ∧
    (∃ co, (handleState c.1 c.2.1).cohort? firstBlock = some co ∧ co.table = c.1) ∧
    (handleState c.1 c.2.1).gangOutstanding (handleGang c.2.1).id = false ∧ (handleState c.1 c.2.1).determ (handleGang c.2.1).id = false ∧
    (handleState c.1 c.2.1).rank firstBlock = 0 := by
  intro c hc
  simp only [refusals, List.mem_cons, List.not_mem_nil, or_false] at hc
  obtain rfl | rfl | rfl | rfl | rfl | rfl | rfl := hc
  · exact ⟨.inl (by decide), ⟨rfl, rfl⟩, ⟨_, leader_zero ⟨by decide, rfl, rfl, rfl⟩, rfl, rfl⟩, ⟨_, rfl, rfl⟩,
      ⟨Cohort.mk firstHandle 0 false [] 0 0 0, by decide, rfl⟩, by decide, by decide, by decide⟩
  · exact ⟨.inr (.inl (by decide)), ⟨rfl, rfl⟩, ⟨_, leader_zero ⟨by decide, rfl, rfl, rfl⟩, rfl, rfl⟩, ⟨_, rfl, rfl⟩,
      ⟨Cohort.mk firstHandle 0 false [] 0 0 0, by decide, rfl⟩, by decide, by decide, by decide⟩
  · exact ⟨.inr (.inr (.inl (by decide))), ⟨rfl, rfl⟩, ⟨_, leader_zero ⟨by decide, rfl, rfl, rfl⟩, rfl, rfl⟩, ⟨_, rfl, rfl⟩,
      ⟨Cohort.mk firstHandle 0 false [] 0 0 0, by decide, rfl⟩, by decide, by decide, by decide⟩
  · exact ⟨.inr (.inr (.inr (.inl (by decide)))), ⟨rfl, rfl⟩, ⟨_, leader_zero ⟨by decide, rfl, rfl, rfl⟩, rfl, rfl⟩, ⟨_, rfl, rfl⟩,
      ⟨Cohort.mk firstHandle 0 false _ 0 0 0, by decide, rfl⟩, by decide, by decide, by decide⟩
  · exact ⟨.inr (.inr (.inr (.inr (.inl ⟨rfl, _, rfl, by decide⟩)))), ⟨rfl, rfl⟩, ⟨_, leader_zero ⟨by decide, rfl, rfl, rfl⟩, rfl, rfl⟩,
      ⟨_, rfl, rfl⟩, ⟨Cohort.mk firstHandle 0 false _ 0 0 0, by decide, rfl⟩, by decide, by decide, by decide⟩
  · exact ⟨.inr (.inr (.inr (.inr (.inr (.inl ⟨rfl, by decide, _, rfl, by decide⟩))))), ⟨rfl, rfl⟩,
      ⟨_, leader_zero ⟨by decide, rfl, rfl, rfl⟩, rfl, rfl⟩, ⟨_, rfl, rfl⟩, ⟨Cohort.mk firstHandle 0 false _ 0 0 0, by decide, rfl⟩,
      by decide, by decide, by decide⟩
  · exact ⟨.inr (.inr (.inr (.inr (.inr (.inr (by decide)))))), ⟨rfl, rfl⟩, ⟨_, leader_zero ⟨by decide, rfl, rfl, rfl⟩, rfl, rfl⟩, ⟨_, rfl, rfl⟩,
      ⟨Cohort.mk firstHandle 0 false [] 0 0 0, by decide, rfl⟩, by decide, by decide, by decide⟩
/-- The clauses of DETACH, and of a GIVE in deterministic operation. -/
theorem witness_handleRefusals_detach :
    (∃ s g m gd i sl gr, ScalarAt s g m ∧ Leader g m gd i sl ∧ State.gridOf s g.id = some gr ∧ gr.record.spanSize = 0) ∧
    (∃ s g m gd a i sl gr, ScalarAt s g m ∧ Leader g m gd i sl ∧ State.gridOf s g.id = some gr ∧ gr.record.spanSize ≠ 0 ∧
      gr.record.spanSize ≤ (Slice.src sl a).toNat) ∧
    (∃ s g m gd i sl gr k, ScalarAt s g m ∧ Leader g m gd i sl ∧ State.gridOf s g.id = some gr ∧ s.determ g.id = true ∧
      giveReason gr.record [] 0 0 (Slice.src sl (.lit 1)).toNat 64 k) ∧
    ∃ ws : List Word, decodeScalar (ws.headD 0) (ws.getD 1 0) = .ok (.give always 5 (.lit 1) (.reg 0)) :=
  ⟨⟨wordState, wordGang, 1, always, 0, _, _, ⟨rfl, rfl⟩, leader_zero ⟨by decide, rfl, rfl, rfl⟩, rfl, by decide⟩,
   ⟨spanState, wordGang, 1, always, .lit 2, 0, _, _, ⟨rfl, rfl⟩, leader_zero ⟨by decide, rfl, rfl, rfl⟩, rfl, by decide, by decide⟩,
   ⟨mkState determRecord [wordGang] (.scalar (sId 0) 1) [0], wordGang, 1, always, 0, _, _, 3, ⟨rfl, rfl⟩, leader_zero ⟨by decide, rfl, rfl, rfl⟩, rfl,
     by decide, .inr (.inr (.inl ⟨rfl, ⟨rfl, rfl⟩, .inl (by decide)⟩))⟩,
   [0xDCBF0700, 1], by decide⟩

/-- A page at address 0 with an entry, under page tables at 0x200000; a frame in each free ring. -/
def leafState (leaf : Nat) : State :=
  let m := ((((Memory.write [] 0x200000 (leBytes 8 0x8000000000000021)).write 0x210000 (leBytes 8 0x8000000000000022)).write 0x220000
    (leBytes 8 0x8000000000000024)).write 0x240000 (leBytes 8 leaf))
  let cs := (partState [idGang 1] 1).controls.map fun (c : ControlCore) => { c with identity := false, root := 0x200000 }
  let s : State := { partState [idGang 1] 1 with mem := m, controls := cs }
  ((s.devSet 0 0x100 0x300000).devSet 0 0x110 1).devSet 8 0x110 1
/-- A page of the near tier or the far tier, its policy MIGRATE. -/
def pageState (far : Bool) : State := leafState (if far then 0xF300000800000000 else 0xF100000000000005)
theorem witness_prefetchHints :
    (∃ s g m, ScalarAt s g m ∧ g.id.isControl = true) ∧
    (∃ s g m gd i sl a, ScalarAt s g m ∧ g.id.isControl = false ∧ Leader g m gd i sl ∧ s.hintLeaf g.id (Slice.pair sl a) true = none ∧
      s.hintLeaf g.id (sl.pair a) false = none) ∧
    (∃ s g m gd i sl a l f, ScalarAt s g m ∧ g.id.isControl = false ∧ Leader g m gd i sl ∧ s.hintLeaf g.id (Slice.pair sl a) true = some l ∧
      s.freeFrame (l.pte.toNat / 2 ^ 53 % 8) l.size = some f) ∧
    ∃ s g m gd i sl a l f, ScalarAt s g m ∧ g.id.isControl = false ∧ Leader g m gd i sl ∧ s.hintLeaf g.id (Slice.pair sl a) false = some l ∧
      s.freeFrame (8 + l.pa 0 / 2 ^ 48 / 2) l.size = some f :=
  ⟨⟨ctlState [0], ctlGang, 1, ⟨rfl, rfl⟩, rfl⟩,
   ⟨partState [idGang 1] 1, idGang 1, 1, always, 0, _, 0, ⟨rfl, rfl⟩, rfl, leader_zero ⟨by decide, rfl, rfl, rfl⟩, by decide, by decide⟩,
   ⟨pageState true, idGang 1, 1, always, 0, _, 0, ⟨0xF300000800000000, 3, 0x240000, 0, 0x10000⟩, 0, ⟨rfl, rfl⟩, rfl,
     leader_zero ⟨by decide, rfl, rfl, rfl⟩, by decide, by decide⟩,
   ⟨pageState false, idGang 1, 1, always, 0, _, 0, ⟨0xF100000000000005, 3, 0x240000, 0, 0x10000⟩, 0, ⟨rfl, rfl⟩, rfl,
     leader_zero ⟨by decide, rfl, rfl, rfl⟩, by decide, by decide⟩⟩

/-- s4 is the operand word of a product from LOC into slot 0; every other register is zero. -/
def tileGang : Gang := regGang [(4, 0x20)]
/-- A format block of BF16 for A and B. -/
def tileBlock : List Byte := leBytes 32 5 ++ leBytes 32 5
/-- The format block lies at LOC offset 0. -/
def tileState : State := { partState [tileGang] 1 with ls := [(0, 5), (32, 5)] }
def tileForm : MxaForm := ⟨always, 2, 6, 8⟩
theorem tile_block : tileHalf tileBlock 0 = ⟨5, 0, 0, false, 0, 0, 0, 0⟩ := by decide
/-- Four reads of 16 bytes of the local store. -/
theorem read_64 (s s1 s2 s3 s4 : State) (g : GangId) (bs : List Byte)
    (hb : s.ls.read 0 16 ++ s.ls.read 16 16 ++ s.ls.read 32 16 ++ s.ls.read 48 16 = bs)
    (h0 : s.engineRead g 1 0 16 = (s1, .ok (s.ls.read 0 16))) (h1 : s1.engineRead g 1 16 16 = (s2, .ok (s.ls.read 16 16)))
    (h2 : s2.engineRead g 1 32 16 = (s3, .ok (s.ls.read 32 16))) (h3 : s3.engineRead g 1 48 16 = (s4, .ok (s.ls.read 48 16))) :
    s.engineReadAll g 1 0 64 = (s4, .ok bs) := by
  unfold State.engineReadAll
  rw [show pieces 16 64 0 64 = [(0, 16), (16, 16), (32, 16), (48, 16)] by decide, ← hb]
  simp only [List.foldl_cons, List.foldl_nil, h0, h1, h2, h3, List.nil_append]
set_option exponentiation.threshold 600 in
set_option maxRecDepth 8000 in
theorem tile_read : ∃ s1, tileState.engineReadAll (sId 0) 1 0 64 = (s1, .ok tileBlock) :=
  ⟨_, read_64 _ _ _ _ _ _ _ (by decide) (pair_of rfl) (pair_of rfl) (pair_of rfl) (pair_of rfl)⟩
set_option exponentiation.threshold 600 in
set_option maxRecDepth 8000 in
theorem witness_tileProducts_solo : ∃ s s1 g m x i sl bid fb, EngineAt s g m (MxaForm.g x) i sl ∧ AllLanes g ∧ g.id.block? = some bid ∧ g.t < 63 ∧
    mxaCheck x false s g i sl = none ∧ s.tilePending g (sl.reg (2 * x.d.val)) = [] ∧ s.engineReadAll g.id 1 (sl.reg x.a.val).toNat 64 = (s1, .ok fb) ∧
    formatOk fb (asrcOf (sl.reg (2 * x.d.val))) = true ∧ asrcOf (sl.reg (2 * x.d.val)) = 1 :=
  ⟨tileState, tile_read.choose, tileGang, 1, tileForm, 0, _, firstBlock, tileBlock,
   ⟨⟨rfl, rfl⟩, wholeGang_of (by decide) ⟨0, _, by decide, rfl, rfl, rfl⟩ (by decide), rfl, by decide⟩, by unfold AllLanes; decide, rfl, by decide, by decide,
   rfl, tile_read.choose_spec, by decide, by decide⟩

/-- A crew of gangs 0 and 1; the latch holds `l`. -/
def crewGang (n : Nat) : Gang := { mkGang n 1 fun _ sl => if n = 0 then sl.setReg 4 0x20 else sl with crew := 3 }
def crewState (l : List LatchEntry) : State :=
  { mkState { firstRecord with gangs := 2 } [crewGang 0, crewGang 1] (.scalar (sId 0) 1) [0] with
    ls := [(0, 5), (32, 5)], blocks := [{ firstBlockRec with latch := l }] }
/-- The record that gang 1 left. -/
def crewMember : LatchMember := ⟨1, 0x21, 0, 0, 0, 0x10000, tileBlock, [0], []⟩
set_option exponentiation.threshold 600 in
set_option maxRecDepth 8000 in
theorem crew_read : ∀ l, l = [] ∨ l = [⟨3, [crewMember]⟩] → ∃ s1, (crewState l).engineReadAll (sId 0) 1 0 64 = (s1, .ok tileBlock) := by
  intro l hl
  obtain rfl | rfl := hl <;> exact ⟨_, read_64 _ _ _ _ _ _ _ (by decide) (pair_of rfl) (pair_of rfl) (pair_of rfl) (pair_of rfl)⟩
set_option exponentiation.threshold 600 in
set_option maxRecDepth 8000 in
theorem witness_tileProducts_crew : ∀ l, l = [] ∨ l = [⟨3, [crewMember]⟩] →
    ∃ s1 sl b, EngineAt (crewState l) (crewGang 0) 1 always 0 sl ∧ AllLanes (crewGang 0) ∧ 1 = (crewGang 0).full ∧
    (crewState l).blockOf (crewGang 0).id = some b ∧ b.latch = l ∧ mxaCheck tileForm true (crewState l) (crewGang 0) 0 sl = none ∧
    (crewState l).tilePending (crewGang 0) (sl.reg (2 * tileForm.d.val)) = [] ∧
    (crewState l).engineReadAll (crewGang 0).id 1 (sl.reg 6).toNat 64 = (s1, .ok tileBlock) ∧ sl.pc = 0x10000 ∧ sl.reg 8 = 0 ∧
    (∀ sl ∈ (crewGang 0).slices, sl.wait = none) ∧ (∃ h, (crewState l).gang? (.compute b.id 1) = some h ∧ h.exited = false) ∧
    (∀ k, k < 32 → ((crewGang 0).crew.getLsbD k ↔ k = 0 ∨ k = 1)) := by
  intro l hl
  obtain ⟨s1, hr⟩ := crew_read l hl
  obtain rfl | rfl := hl
  all_goals
    exact ⟨s1, _, _, ⟨⟨rfl, rfl⟩, wholeGang_of (by decide) ⟨0, _, by decide, rfl, rfl, rfl⟩ (by decide), rfl, by decide⟩, by unfold AllLanes; decide,
      by decide, rfl, rfl, by decide, rfl, hr, rfl, by decide, by decide, ⟨crewGang 1, by decide, by decide⟩, by decide⟩

theorem witness_productsComplete_solo : ∃ s g m x i sl b off fb, EngineAt s g m (MxaForm.g x) i sl ∧ AllLanes g ∧ g.t < 63 ∧
    OwnFormat s g b (sl.reg x.a.val).toNat off fb ∧ formatOk fb 1 = true ∧
    LocalOperands (sl.reg (2 * x.d.val)) (sl.reg (2 * x.d.val + 1)) (sl.reg x.b.val) ∧ SlotFree s b ((sl.reg (2 * x.d.val)).toNat % 32) :=
  ⟨tileState, tileGang, 1, tileForm, 0, _, firstBlockRec, 0, tileBlock,
   ⟨⟨rfl, rfl⟩, wholeGang_of (by decide) ⟨0, _, by decide, rfl, rfl, rfl⟩ (by decide), rfl, by decide⟩, by unfold AllLanes; decide, by decide,
   ⟨rfl, rfl, rfl, ⟨Cohort.mk firstHandle 0 false [] 0 0 0, rfl, rfl⟩, ⟨_, rfl, by decide, by decide⟩, by decide, by decide, by decide, by decide⟩, by decide,
   ⟨by decide, by decide, by decide, by decide⟩, .inr (by decide)⟩
theorem witness_productsComplete_crew : ∃ s g m x i sl b off fb e, EngineAt s g m (MxaForm.g x) i sl ∧ AllLanes g ∧ g.t < 63 ∧
    OwnFormat s g b (sl.reg x.a.val).toNat off fb ∧ formatOk fb 1 = true ∧
    LocalOperands (sl.reg (2 * x.d.val)) (sl.reg (2 * x.d.val + 1)) (sl.reg x.b.val) ∧ SlotFree s b ((sl.reg (2 * x.d.val)).toNat % 32) ∧
    b.latch = [e] ∧ e.key = g.crew ∧ m = g.full ∧ g.exited = false ∧ (∀ z ∈ g.slices, z.wait = none) ∧
    (∃ gr, s.gridOf g.id = some gr ∧ g.crew.toNat < 2 ^ gr.record.gangs) ∧ g.id.num < 32 ∧ e.members.length = 1 ∧ (e.members.map (·.gang)).Nodup ∧
    (∀ k, k < 32 → (g.crew.getLsbD k ↔ k = g.id.num ∨ k ∈ e.members.map (·.gang))) ∧
    ∀ r ∈ e.members, r.gang < 32 ∧ r.gang ≠ g.id.num ∧ r.pc = sl.pc ∧ r.b = sl.reg x.b.val ∧ r.fmtBlock.drop 32 = fb.drop 32 ∧
      ∃ h, s.gang? (.compute b.id r.gang) = some h ∧ h.exited = false :=
  ⟨crewState [⟨3, [crewMember]⟩], crewGang 0, 1, tileForm, 0, _, { firstBlockRec with latch := [⟨3, [crewMember]⟩] }, 0, tileBlock, ⟨3, [crewMember]⟩,
   ⟨⟨rfl, rfl⟩, wholeGang_of (by decide) ⟨0, _, by decide, rfl, rfl, rfl⟩ (by decide), rfl, by decide⟩, by unfold AllLanes; decide, by decide,
   ⟨rfl, rfl, rfl, ⟨Cohort.mk firstHandle 0 false [] 0 0 0, rfl, rfl⟩, ⟨_, rfl, by decide, by decide⟩, by decide, by decide, by decide, by decide⟩, by decide,
   ⟨by decide, by decide, by decide, by decide⟩, .inr (by decide), rfl, by decide, by decide, by decide, by decide, ⟨_, rfl, by decide⟩, by decide, rfl,
   by decide, by decide, fun r hr => by
     obtain rfl := List.mem_singleton.1 hr
     exact ⟨by decide, by decide, by decide, by decide, by decide, crewGang 1, by decide, by decide⟩⟩

/-- s4 is the MXST word, s2 and s3 an address of 0. -/
def drainGang (w : Word) : Gang := regGang [(4, w)]
/-- Programs at address 0, as fetched: EEND alone, or ESCL and EEND. -/
def drainState (w : Word) (bands : Bool) : State :=
  { partState [drainGang w] 1 with
    ls := [(0, 5), (8, 64), (32, 5)]
    fetched := [⟨sId 0, 0, false, (if bands then leBytes 4 (2 * 2 ^ 27) else []) ++ leBytes 128 (31 * 2 ^ 27), none⟩] }
theorem witness_slotsAndDrains :
    (∀ k : Word, k = 0 ∨ k = 31 → ∃ s g m gd i sl bid b, EngineAt s g m gd i sl ∧ AllLanes g ∧ g.id.block? = some bid ∧
      State.block? s bid = some b ∧ g.t < 63 ∧ Slice.reg sl 4 = k ∧ SlotFree s b k.toNat ∧ (sl.reg 6).toNat % 64 = 0) ∧
    ∃ s g m gd i sl blk, EngineAt s g m gd i sl ∧ AllLanes g ∧ State.blockOf s g.id = some blk ∧ g.t < 63 ∧
      s.slotOwner blk.die blk.core ((Slice.reg sl 4).toNat % 32) = some blk.id ∧ (Slice.reg sl 4).getLsbD 6 = true ∧ (Slice.reg sl 4).toNat < 128 ∧
      sl.pair 1 % 128 = 0 := by
  refine ⟨fun k hk => ?_, drainState 0x60 false, drainGang 0x60, 1, always, 0, _, _,
    ⟨⟨rfl, rfl⟩, wholeGang_of (by decide) ⟨0, _, by decide, rfl, rfl, rfl⟩ (by decide), rfl, by decide⟩, by unfold AllLanes; decide, rfl, by decide, by decide,
    by decide, by decide, by decide⟩
  obtain rfl | rfl := hk
  · exact ⟨partState [drainGang 0] 1, drainGang 0, 1, always, 0, _, firstBlock, _,
      ⟨⟨rfl, rfl⟩, wholeGang_of (by decide) ⟨0, _, by decide, rfl, rfl, rfl⟩ (by decide), rfl, by decide⟩, by unfold AllLanes; decide, rfl, rfl, by decide,
      by decide, .inr (by decide), by decide⟩
  · exact ⟨partState [drainGang 31] 1, drainGang 31, 1, always, 0, _, firstBlock, _,
      ⟨⟨rfl, rfl⟩, wholeGang_of (by decide) ⟨0, _, by decide, rfl, rfl, rfl⟩ (by decide), rfl, by decide⟩, by unfold AllLanes; decide, rfl, rfl, by decide,
      by decide, .inl (by decide), by decide⟩
set_option exponentiation.threshold 600 in
set_option maxRecDepth 8000 in
/-- The clauses of a drain with a program, without and with ESCL. -/
theorem witness_slotsAndDrains_program :
    (∃ s1 bs prog, (drainState 0 false).issueRead (sId 0) 0 0 128 = (s1, .ok bs) ∧ checkProgram 0 (wordsOfBytes 32 bs) = .ok prog ∧
      usesBands prog = false) ∧
    ∃ bs prog s2 s3 ab bb, (drainState 0 true).issueRead (sId 0) 0 0 128 = (drainState 0 true, .ok bs) ∧
      checkProgram 0 (wordsOfBytes 32 bs) = .ok prog ∧ usesBands prog = true ∧
      (drainState 0 true).engineRead (sId 0) 1 8 4 = (s2, .ok ab) ∧ s2.engineRead (sId 0) 1 40 4 = (s3, .ok bb) ∧
      ofLeBytes ab = 64 :=
  ⟨⟨_, _, [0xF8000000], pair_of rfl, rfl, by decide⟩, _, [0x10000000, 0xF8000000], _, _, [64, 0, 0, 0], [0, 0, 0, 0], rfl, rfl, by decide,
    read_of (by decide +kernel), read_of (by decide +kernel), by decide⟩
theorem witness_slotsAndDrains_issue : ∃ i sl blk, EngineAt (drainState 0 true) (drainGang 0) 1 always i sl ∧ AllLanes (drainGang 0) ∧
    (drainState 0 true).blockOf (drainGang 0).id = some blk ∧ (drainGang 0).t < 63 ∧
    (drainState 0 true).slotOwner blk.die blk.core ((Slice.reg sl 4).toNat % 32) = some blk.id ∧ (sl.reg 4).getLsbD 6 = false ∧
    (sl.reg 4).toNat < 128 ∧ sl.pair 1 = 0 ∧ (sl.reg 5).toNat = 0 :=
  ⟨0, _, _, ⟨⟨rfl, rfl⟩, wholeGang_of (by decide) ⟨0, _, by decide, rfl, rfl, rfl⟩ (by decide), rfl, by decide⟩, by unfold AllLanes; decide, rfl, by decide,
   by decide, by decide, by decide, by decide, by decide⟩

/-! ## Witnesses: lane instructions -/

/-- A gang of two slices whose lane streams are in a run; the lane stream of both issues, the grid giving 32 × `r` v registers. -/
def laneGang : Gang := mkGang 0 2 fun _ sl => { sl with cur := some ⟨⟨0, 2, sl.regs, 0xF, none⟩, 0⟩, active := 0xF }
def laneIssues (r : Nat) : State := mkState { firstRecord with regs := r } [laneGang] (.lane (sId 0) 3) [0, 0, 0]
theorem laneReady_of {s : State} {g : Gang} {m : BitVec 8} {l : List Nat} (h : LaneAt s g m) (h1 : g.id.isControl = false) (h2 : g.halted = false)
    (h3 : (l.all fun n => n < s.laneRegs g.id) = true) (h4 : ∀ sl ∈ g.slices, sl.pending = 0) (h5 : g.slices.length ≤ 8) (h6 : g.bad = [] := by rfl)
    (h7 : s.outstanding = [] := by rfl) : LaneReady s g m l :=
  ⟨h, h1, h2, fun n hn => by simpa using List.all_eq_true.1 h3 n hn, by simp [State.pendingRegs, h7], h6, h4, h5⟩
/-- A lane word of d, a, b and c. -/
def lw (fmt : BitVec 4) (d a b c : BitVec 10) : LaneWord := ⟨0, fmt, d, a, b, c, 0, 0, 0, 0, 7, 0⟩
theorem witness_operandForms : ∃ (l ew : Nat) (f : BitVec 10) (sl : Slice) (c : CurRun), l < 32 ∧ ew ∈ [32, 16, 8, 4] ∧ 769 ≤ f.toNat ∧ f.toNat < 795 ∧
    laneGang.slice? (l / 4) = some sl ∧ sl.cur = some c :=
  ⟨7, 4, 794, _, _, by decide, by decide, by decide, by decide, rfl, rfl⟩
theorem witness_laneResults :
    (∃ s g m i w n spec, intResult s g i = some (w, n, spec) ∧ Instr.wf i = true ∧ LaneReady s g m (named w n)) ∧
    ∃ s g m i w n spec, floatResult s g i = some (w, n, spec) ∧ Instr.wf i = true ∧ LaneReady s g m (named w n) :=
  ⟨⟨laneIssues 24, laneGang, 3, .vadd (lw 2 767 0 766 1023), _, _, _, rfl, by decide, laneReady_of ⟨rfl, rfl⟩ rfl rfl (by decide) (by decide) (by decide)⟩,
   ⟨laneIssues 1, laneGang, 3, .ffma (lw 4 31 0 1 2), _, _, _, rfl, by decide, laneReady_of ⟨rfl, rfl⟩ rfl rfl (by decide) (by decide) (by decide)⟩⟩
theorem witness_reciprocalsOfPowers : ∃ s g m w, (Instr.frcp w).wf = true ∧ LaneReady s g m (named w 1) ∧
    ∀ l, l < 8 → State.opA s g w 32 l = BitVec.ofNat 32 (127 * 2 ^ 23) :=
  ⟨laneIssues 1, laneGang, 3, lw 4 31 800 1023 1023, by decide, laneReady_of ⟨rfl, rfl⟩ rfl rfl (by decide) (by decide) (by decide), by decide⟩
theorem witness_lanesAndPredicates :
    (∃ s g m i w n spec, crossResult s g m i = some (w, n, spec) ∧ Instr.wf i = true ∧ LaneReady s g m (named w n)) ∧
    ∃ s g m i w names p, predOf s g i = some (w, names, p) ∧ Instr.wf i = true ∧
      LaneReady s g m (names.filterMap fun f => if f.toNat < 768 then some f.toNat else none) :=
  ⟨⟨laneIssues 1, laneGang, 3, .vred (lw 0 31 1 1023 0), _, _, _, rfl, by decide, laneReady_of ⟨rfl, rfl⟩ rfl rfl (by decide) (by decide) (by decide)⟩,
   ⟨laneIssues 1, laneGang, 3, .vcmp (lw 0 6 1 31 0), _, _, _, rfl, by decide, laneReady_of ⟨rfl, rfl⟩ rfl rfl (by decide) (by decide) (by decide)⟩⟩

/-- A gang in two parts; a gang of which slice 1 has a false q0; a gang with an inactive lane. -/
def splitGang : Gang := { mkGang 0 2 fun _ sl => sl with parts := [1, 2] }
def unevenGang : Gang := mkGang 0 2 fun i sl => if i = 0 then { sl with q := 1 } else sl
def idleLane : Gang := mkGang 0 2 fun i sl => if i = 0 then sl else { sl with active := 0xE }
theorem nothingPending {s : State} {g : GangId} (h : s.outstanding = []) : NothingPending s g := fun _ => by simp [State.pendingRegs, h]
theorem witness_issueTraps :
    (∃ s g m, ScalarAt s g m ∧ g.id.isControl = true) ∧
    (∃ s g m, ScalarAt s g m ∧ g.id.isControl = false ∧ 1 < g.parts.length) ∧
    (∃ s g m gd, ScalarAt s g m ∧ g.id.isControl = false ∧ g.parts.length ≤ 1 ∧ AllLanes g ∧ (∃ i sl, Executes g m gd i sl) ∧
      ∃ i sl, i < 8 ∧ m.getLsbD i = true ∧ g.slice? i = some sl ∧ guardTrue gd sl = false) ∧
    (∃ s g m, ScalarAt s g m ∧ g.id.isControl = false ∧ g.parts.length ≤ 1 ∧ ¬ AllLanes g ∧ g.slices.length ≤ 8) ∧
    (∃ s g m i op w, LaneAt s g m ∧ Instr.lane? i = some (op, w) ∧ i.wf = true ∧ NothingPending s g.id ∧ g.id.isControl = true) ∧
    (∃ s g m i op w n spec k, LaneAt s g m ∧ Instr.lane? i = some (op, w) ∧ i.wf = true ∧ NothingPending s g.id ∧ g.id.isControl = false ∧
      intResult s g i = some (w, n, spec) ∧ k ∈ named w n ∧ s.laneRegs g.id ≤ k ∧ ∀ j ∈ (named w n).takeWhile (· != k), j < s.laneRegs g.id) ∧
    ∃ s g m i op w n spec k, LaneAt s g m ∧ Instr.lane? i = some (op, w) ∧ i.wf = true ∧ NothingPending s g.id ∧ g.id.isControl = false ∧
      crossResult s g m i = some (w, n, spec) ∧ k ∈ named w n ∧ s.laneRegs g.id ≤ k ∧ ∀ j ∈ (named w n).takeWhile (· != k), j < s.laneRegs g.id :=
  ⟨⟨ctlState [0], ctlGang, 1, ⟨rfl, rfl⟩, rfl⟩,
   ⟨partState [splitGang] 1, splitGang, 1, ⟨rfl, rfl⟩, rfl, by decide⟩,
   ⟨partState [unevenGang] 3, unevenGang, 3, ⟨0, false⟩, ⟨rfl, rfl⟩, rfl, by decide, by unfold AllLanes; decide, ⟨0, _, by decide, rfl, rfl, by decide⟩,
     1, _, by decide, rfl, rfl, by decide⟩,
   ⟨partState [idleLane] 3, idleLane, 3, ⟨rfl, rfl⟩, rfl, by decide, by unfold AllLanes; decide, by decide⟩,
   ⟨ctlLane, ctlGang, 1, .vadd (lw 2 767 0 766 1023), _, _, ⟨rfl, rfl⟩, rfl, by decide, nothingPending rfl, rfl⟩,
   ⟨laneIssues 1, laneGang, 3, .vadd (lw 2 31 32 0 1023), _, _, _, _, 32, ⟨rfl, rfl⟩, rfl, by decide, nothingPending rfl, rfl, rfl, by decide, by decide, by decide⟩,
   ⟨laneIssues 1, laneGang, 3, .vred (lw 0 767 1 1023 0), _, _, _, _, 767, ⟨rfl, rfl⟩, rfl, by decide, nothingPending rfl, rfl, rfl, by decide, by decide, by decide⟩⟩

/-- The registers v1 and v31 of two lanes hold an uncorrectable error. -/
def badGang : Gang := { laneGang with bad := [33, 992] }
def badIssue : State := mkState { firstRecord with regs := 1 } [badGang] (.lane (sId 0) 3) [0, 0, 0]
/-- A load of lane 4 of v5 has no answer. -/
def laneLoad : Outgoing := ⟨⟨0, 0, 0⟩, 9, 1, 0, 0, 0, .load 4, .lane 0 (sId 0) 4 (some 5) 4 false, .host ⟨0, 0⟩ 0⟩
theorem witness_issueTraps_errors :
    (∀ u : Bool, ∃ s g m i op w n spec f l, LaneAt s g m ∧ Instr.lane? i = some (op, w) ∧ i.wf = true ∧ NothingPending s g.id ∧ g.id.isControl = false ∧
      intResult s g i = some (w, n, spec) ∧ (∀ j ∈ named w n, j < s.laneRegs g.id) ∧ f ∈ [w.a, w.b, w.c].take n ∧ f.toNat < 768 ∧
      l ∈ participants g m w ∧ w.u = u ∧ (w.u = true → (participants g m w).head? = some l) ∧ 32 * f.toNat + l ∈ g.bad) ∧
    ∃ s g m i op w n spec, LaneAt s g m ∧ Instr.lane? i = some (op, w) ∧ i.wf = true ∧ intResult s g i = some (w, n, spec) ∧
      s.pendingRegs g.id (named w n) ≠ [] :=
  ⟨fun u => ⟨badIssue, badGang, 3, .vadd { lw 2 5 0 31 1023 with variant := if u then 8 else 0 }, _, _, _, _, 31, 0, ⟨rfl, rfl⟩, rfl, by cases u <;> decide, nothingPending rfl, rfl, rfl, by cases u <;> decide,
     by cases u <;> decide, by decide, by cases u <;> decide, by cases u <;> rfl, by cases u <;> decide, by decide⟩,
   { badIssue with outstanding := [laneLoad] }, badGang, 3, .vadd (lw 2 5 0 31 1023), _, _, _, _, ⟨rfl, rfl⟩, rfl, by decide, rfl, by decide⟩

/-! ## Witnesses: memory -/

/-- Every place found is a local one and no register. -/
theorem allHere_of {l : List (Nat × Nat × Located)}
    (h : (l.all fun x => match x.2.2 with | .ok (.reg _ _) => false | .ok p => !p.isRemote | _ => false) = true) : AllHere l := by
  intro x hx
  have := List.all_eq_true.1 h x hx
  split at this
  · exact absurd this (by decide)
  · rename_i p hn hp
    exact ⟨p, hp, by simpa using this, fun d o he => hn d o he⟩
  · exact absurd this (by decide)
/-- No access of a list is sent. -/
theorem inStep_of {s : State} {g : Gang} {lane : Bool} {n : Nat} {ls : List Located}
    (h : (ls.all fun l => match l with | .ok p => !s.departs g.id lane p n | _ => true) = true) : InStep s g lane n ls := by
  intro p hp
  simpa using List.all_eq_true.1 h _ hp
theorem noHeld_of {s : State} (g : Gang) (m : BitVec 8) (w : LaneWord) (h : s.remote = []) : ¬ HeldRelease s g m w := by
  simp [HeldRelease, h]
/-- s1 of two slices: the last word, the last pair, of the partition. -/
def memGang (a b : Word) : Gang := mkGang 0 2 fun i sl => sl.setReg 1 (if i = 0 then a else b)
def memState (a b : Word) : State := partState [memGang a b] 3
set_option maxRecDepth 8000 in
theorem witness_scalarMemory :
    (∃ s s1 g m gd base off locs, ScalarAt s g m ∧ Plain s g.id ∧ s.determ g.id = false ∧ g.id.isControl = false ∧
      sliceAccesses g m gd base off ≠ [] ∧ AllHere locs ∧ State.hasRoom s1 (s1.requester g.id) 0 = true ∧ g.l < 63 ∧
      s.locateLanes g .load base.space 4 (sliceAccesses g m gd base off) = (s1, locs) ∧ locs.length = 2 ∧ s1.arrivals = [] ∧
      InStep s1 g false 4 (locs.map (·.2.2))) ∧
    (∃ s s1 g m gd base off locs, ScalarAt s g m ∧ Plain s g.id ∧ s.determ g.id = false ∧ g.id.isControl = false ∧
      sliceAccesses g m gd base off ≠ [] ∧ AllHere locs ∧ State.hasRoom s1 (s1.requester g.id) 0 = true ∧ g.l < 63 ∧
      s.locateLanes g .load base.space 8 (sliceAccesses g m gd base off) = (s1, locs) ∧ locs.length = 2 ∧ s1.arrivals = [] ∧
      InStep s1 g false 8 (locs.map (·.2.2))) ∧
    ∃ s s1 g m gd base off locs, ScalarAt s g m ∧ Plain s g.id ∧ s.determ g.id = false ∧ g.id.isControl = false ∧
      sliceAccesses g m gd base off ≠ [] ∧ AllHere locs ∧ State.hasRoom s1 (s1.requester g.id) 0 = true ∧ g.s < 63 ∧
      s.locateLanes g .store base.space 4 (sliceAccesses g m gd base off) = (s1, locs) ∧ locs.length = 2 ∧ s1.arrivals = [] ∧
      InStep s1 g false 4 (locs.map (·.2.2)) :=
  ⟨⟨memState 65528 0, memState 65528 0, memGang 65528 0, 3, always, .loc (.reg 1), 1, [(0, 65532, .ok (.ls 65532 firstBlock 65532)), (1, 4, .ok (.ls 4 firstBlock 4))],
     ⟨rfl, rfl⟩, plain_of rfl rfl rfl rfl, by decide, rfl, by decide, allHere_of (by decide), by decide, by decide, by decide, rfl, rfl, inStep_of (by decide)⟩,
   ⟨memState 65528 0, memState 65528 0, memGang 65528 0, 3, always, .loc (.reg 1), 0, [(0, 65528, .ok (.ls 65528 firstBlock 65528)), (1, 0, .ok (.ls 0 firstBlock 0))],
     ⟨rfl, rfl⟩, plain_of rfl rfl rfl rfl, by decide, rfl, by decide, allHere_of (by decide), by decide, by decide, by decide, rfl, rfl, inStep_of (by decide)⟩,
   ⟨memState 0 0, memState 0 0, memGang 0 0, 3, always, .loc (.reg 1), 0, [(0, 0, .ok (.ls 0 firstBlock 0)), (1, 0, .ok (.ls 0 firstBlock 0))],
     ⟨rfl, rfl⟩, plain_of rfl rfl rfl rfl, by decide, rfl, by decide, allHere_of (by decide), by decide, by decide, by decide, rfl, rfl, inStep_of (by decide)⟩⟩

/-- An arrival of the gang in flight at an offset of its partition. -/
def flyingAt (off : Nat) : Arrival := { flying with place := some (.ls off firstBlock off), addr := off }
def meetState : State := { memState 0 0 with arrivals := [flyingAt 0] }
set_option maxRecDepth 8000 in
/-- An access that meets the word of an arrival of the gang still in flight. -/
theorem witness_scalarMemory_meets : ∀ n : Nat, n = 4 ∨ n = 8 → ∀ k : AccKind, k = .load ∨ k = .store → ∃ s s1 g m gd base off locs,
    ScalarAt s g m ∧ Plain s g.id ∧ s.determ g.id = false ∧ g.id.isControl = false ∧ sliceAccesses g m gd base off ≠ [] ∧ AllHere locs ∧
    State.hasRoom s1 (s1.requester g.id) 0 = true ∧ g.l < 63 ∧ g.s < 63 ∧
    s.locateLanes g k base.space n (sliceAccesses g m gd base off) = (s1, locs) ∧ s1.arrivalMeets g.id n locs = true := by
  intro n hn k hk
  have h : meetState.locateLanes (memGang 0 0) k 1 n [(0, 0), (1, 0)] =
      (meetState, [(0, 0, .ok (.ls 0 firstBlock 0)), (1, 0, .ok (.ls 0 firstBlock 0))]) := by
    obtain rfl | rfl := hn <;> obtain rfl | rfl := hk <;> decide +kernel
  refine ⟨meetState, meetState, memGang 0 0, 3, always, .loc (.reg 1), 0,
    [(0, 0, .ok (.ls 0 firstBlock 0)), (1, 0, .ok (.ls 0 firstBlock 0))], ⟨rfl, rfl⟩, plain_of rfl rfl rfl rfl, by decide, rfl, by decide,
    allHere_of (by decide), by decide, by decide, by decide, h, ?_⟩
  obtain rfl | rfl := hn <;> decide

/-- v1 of lane l is `a` + `k` × l; lanes 0 and 4 to 7 are active, or lane 0 alone. -/
def addrGang (a k : Nat) (one : Bool) : Gang :=
  (List.range 8).foldl (fun g l => g.setVreg 1 l (BitVec.ofNat 32 (a + k * l)))
    { laneGang with slices := laneGang.slices.mapIdx fun i sl => { sl with active := if i = 0 then 1 else if one then 0 else 15 } }
def addrState (r : LaunchRec) (a k : Nat) (one : Bool) : State := mkState r [addrGang a k one] (.lane (sId 0) 3) [0, 0, 0]
def lanePlaces (a k : Nat) : List (Nat × Nat × Located) :=
  [0, 4, 5, 6, 7].map fun l => (l, a + k * l, .ok (.ls (a + k * l) firstBlock (a + k * l)))
def memWord (fmt : BitVec 4) (d b : BitVec 10) (imm : BitVec 16) : LaneWord := ⟨0, fmt, d, 1, b, 1023, 0, 0, 0, 0, 7, imm⟩
set_option maxRecDepth 8000 in
theorem witness_laneMemory :
    (∃ s s1 g m w locs, Plain s g.id ∧ s.determ g.id = false ∧ AllHere locs ∧ State.hasRoom s1 (s1.requester g.id) 0 = true ∧
      (Instr.vld w).wf = true ∧ LaneReady s g m (vNames w.d w.regs ++ vNames w.a (addrRegs w.space)) ∧ g.l < 63 ∧
      InStep s1 g true w.bytes (locs.map (·.2.2)) ∧
      s.locateLanes g .load w.space w.bytes (laneAccesses g w (participants g m w)) = (s1, locs)) ∧
    ∃ s s1 g m w locs, Plain s g.id ∧ s.determ g.id = false ∧ AllHere locs ∧ State.hasRoom s1 (s1.requester g.id) 0 = true ∧
      (Instr.vst w).wf = true ∧ LaneReady s g m (vNames w.a (addrRegs w.space) ++ vNames w.b w.regs) ∧ g.s < 63 ∧
      InStep s1 g true w.bytes (locs.map (·.2.2)) ∧ ¬ HeldRelease s g m w ∧
      s.locateLanes g .store w.space w.bytes (laneAccesses g w (participants g m w)) = (s1, locs) :=
  ⟨⟨addrState firstRecord 0 16 false, addrState firstRecord 0 16 false, addrGang 0 16 false, 3, memWord 0 8 1023 0x2020, lanePlaces 0 16,
     plain_of rfl rfl rfl rfl, by decide, allHere_of (by decide), by decide, by decide, laneReady_of ⟨rfl, rfl⟩ rfl rfl (by decide) (by decide) (by decide),
     by decide, inStep_of (by decide), by decide⟩,
   ⟨addrState firstRecord 65500 4 false, addrState firstRecord 65500 4 false, addrGang 65500 4 false, 3, memWord 0 1023 2 0x2010, lanePlaces 65500 4,
     plain_of rfl rfl rfl rfl, by decide, allHere_of (by decide), by decide, by decide, laneReady_of ⟨rfl, rfl⟩ rfl rfl (by decide) (by decide) (by decide),
     by decide, inStep_of (by decide), noHeld_of _ _ _ rfl, by decide⟩⟩

/-- An access of the part's lane stream is on its way. -/
def heldIssues : State := { laneIssues 1 with remote := [⟨0, sId 0, true, 1, [], 0, true, [], true, 4, none, 0⟩] }
/-- VST.REL, VATM.REL and VRDM.REL wait for it. -/
theorem witness_heldReleases :
    (∃ s g m w, (Instr.vst w).wf = true ∧ LaneReady s g m (vNames w.a (addrRegs w.space) ++ vNames w.b w.regs) ∧ HeldRelease s g m w ∧
      participants g m w ≠ []) ∧
    ∀ i : LaneWord → Instr, i = .vatm ∨ i = .vrdm → ∃ s g m w, (i w).wf = true ∧ s.determ g.id = false ∧ HeldRelease s g m w ∧ issued g m w ≠ [] ∧ g.abuf = [] ∧
      (∀ o ∈ s.outstanding, o.owner ≠ .flush g.id) ∧ w.cflag = false ∧
      LaneReady s g m (vNames w.d (w.bytes / 4) ++ vNames w.a (addrRegs w.space) ++ vNames w.b (atomicRegs w)) := by
  have h (w : LaneWord) (hw : 2 ≤ w.order) : HeldRelease heldIssues laneGang 3 w := ⟨hw, _, List.mem_singleton_self _, rfl, rfl, by decide⟩
  refine ⟨⟨heldIssues, laneGang, 3, memWord 0 1023 2 0x2210, by decide, laneReady_of ⟨rfl, rfl⟩ rfl rfl (by decide) (by decide) (by decide),
    h _ (by decide), by decide⟩, ?_⟩
  rintro i (rfl | rfl) <;>
    exact ⟨heldIssues, laneGang, 3, memWord 0 1023 2 0x2210, by decide, by decide, h _ (by decide), by decide, by decide, by decide, by decide,
      laneReady_of ⟨rfl, rfl⟩ rfl rfl (by decide) (by decide) (by decide)⟩

set_option maxRecDepth 8000 in
theorem witness_laneAtomics_vatm : ∀ c : Bool, ∃ s s1 g m w locs, Plain s g.id ∧ s.determ g.id = false ∧ AllHere locs ∧
    State.hasRoom s1 (s1.requester g.id) 0 = true ∧ g.l < 63 ∧ g.s < 63 ∧ (∀ o ∈ s.outstanding, o.owner ≠ .flush g.id) ∧ (Instr.vatm w).wf = true ∧
    LaneReady s g m (vNames w.d (w.bytes / 4) ++ vNames w.a (addrRegs w.space) ++ vNames w.b (atomicRegs w)) ∧
    s.locateLanes g .atomic w.space w.bytes (laneAccesses g w (issued g m w)) = (s1, locs) ∧ w.cflag = c ∧ g.abuf = [] ∧
    s1.quadEntries g.id + locs.length ≤ 256 ∧ InStep s1 g true w.bytes (locs.map (·.2.2)) ∧ ¬ HeldRelease s g m w := by
  intro c
  cases c
  · exact ⟨addrState firstRecord 65500 4 false, addrState firstRecord 65500 4 false, addrGang 65500 4 false, 3, memWord 0 8 2 0x2010, lanePlaces 65500 4,
      plain_of rfl rfl rfl rfl, by decide, allHere_of (by decide), by decide, by decide, by decide, by decide, by decide,
      laneReady_of ⟨rfl, rfl⟩ rfl rfl (by decide) (by decide) (by decide), by decide, by decide, by decide, by decide, inStep_of (by decide), noHeld_of _ _ _ rfl⟩
  · exact ⟨addrState firstRecord 0 4 false, addrState firstRecord 0 4 false, addrGang 0 4 false, 3, memWord 0 1023 2 0x2090, lanePlaces 0 4,
      plain_of rfl rfl rfl rfl, by decide, allHere_of (by decide), by decide, by decide, by decide, by decide, by decide,
      laneReady_of ⟨rfl, rfl⟩ rfl rfl (by decide) (by decide) (by decide), by decide, by decide, by decide, by decide, inStep_of (by decide), noHeld_of _ _ _ rfl⟩
set_option maxRecDepth 8000 in
theorem witness_laneAtomics_vrdm : ∀ o, o = 0 ∨ o = 2 → ∃ s s1 g m w locs, Plain s g.id ∧ s.determ g.id = false ∧ AllHere locs ∧
    State.hasRoom s1 (s1.requester g.id) 0 = true ∧ (Instr.vrdm w).wf = true ∧
    LaneReady s g m (vNames w.a (addrRegs w.space) ++ vNames w.b (w.bytes / 4)) ∧
    s.locateLanes g .reduce w.space w.bytes (laneAccesses g w (issued g m w)) = (s1, locs) ∧ w.order = o ∧ g.abuf = [] ∧
    s1.quadEntries g.id + locs.length ≤ 256 ∧ InStep s1 g true w.bytes (locs.map (·.2.2)) ∧ ¬ HeldRelease s g m w := by
  rintro o (rfl | rfl)
  · exact ⟨addrState firstRecord 65500 4 false, addrState firstRecord 65500 4 false, addrGang 65500 4 false, 3, memWord 4 1023 2 0x2010, lanePlaces 65500 4,
      plain_of rfl rfl rfl rfl, by decide, allHere_of (by decide), by decide, by decide,
      laneReady_of ⟨rfl, rfl⟩ rfl rfl (by decide) (by decide) (by decide), by decide, by decide, by decide, by decide, inStep_of (by decide), noHeld_of _ _ _ rfl⟩
  · exact ⟨addrState firstRecord 0 4 false, addrState firstRecord 0 4 false, addrGang 0 4 false, 3, memWord 0 1023 2 0x3210, lanePlaces 0 4,
      plain_of rfl rfl rfl rfl, by decide, allHere_of (by decide), by decide, by decide,
      laneReady_of ⟨rfl, rfl⟩ rfl rfl (by decide) (by decide) (by decide), by decide, by decide, by decide, by decide, inStep_of (by decide), noHeld_of _ _ _ rfl⟩
/-- v2 is an address in the memory of die 0. -/
def vatlGang : Gang := (List.range 8).foldl (fun g l => g.setVreg 2 l 0x20000) laneGang
def vatlState : State := mkState firstRecord [vatlGang] (.lane (sId 0) 3) [0, 0, 0]
set_option maxRecDepth 40000 in
theorem witness_laneAtomics_vatl : ∃ s s1 g m w l loc, Plain s g.id ∧ s.determ g.id = false ∧ AllHere [(l, Gang.laneAddr g w.a w.space l, loc)] ∧
    State.hasRoom s1 (s1.requester g.id) 0 = true ∧ (Instr.vatl w).wf = true ∧ LaneReady s g m (vNames w.a (addrRegs w.space) ++ vNames w.b 1) ∧
    replays g m = false ∧ (participants g m w).head? = some l ∧ g.laneAddr w.a w.space l % 128 = 0 ∧
    ¬ HeldRelease s g m w ∧ InStep s1 g true w.bytes [loc] ∧ InStep s1 g true 128 [loc] ∧
    s.locateLanes g .reduce w.space 128 [(l, g.laneAddr w.a w.space l)] = (s1, [(l, g.laneAddr w.a w.space l, loc)]) :=
  ⟨vatlState, _, vatlGang, 3, ⟨0, 4, 1023, 2, 4, 1023, 0, 0, 0, 0, 7, 0x0010⟩, 0, .ok (.mem 0x20000 0), plain_of rfl rfl rfl rfl, by decide,
   allHere_of (by decide), by decide, by decide, laneReady_of ⟨rfl, rfl⟩ rfl rfl (by decide) (by decide) (by decide), by decide, by decide, by decide,
   noHeld_of _ _ _ rfl, inStep_of (by decide +kernel), inStep_of (by decide +kernel), pair_of (by decide +kernel)⟩

/-- The gauge instructions, kinds 0 to 3: counters 4024 to 4031 of the gauge area, the partition's last page. -/
def gaugeWord (kind : Nat) : LaneWord :=
  ⟨0, 0, if kind = 3 then 8 else 1023, 1, if kind = 0 then 2 else if kind = 1 then 1 else 1023, 1023, 0, 0, 0, 0, 7, 0x2000⟩
def gaugePlaces (kind : Nat) (one : Bool) : List (Nat × Nat × Located × Option (Nat × Located)) :=
  (if one then [0] else [0, 4, 5, 6, 7]).map fun l =>
    (l, 4024 + l, .ok (.ls (65528 + l) firstBlock (65528 + l)), if kind = 1 then some (4024 + l, .ok (.ls (65528 + l) firstBlock (65528 + l))) else none)
theorem gauge_space (k : Nat) : (gaugeWord k).space = 1 := (by decide : Machine.fieldNat (0x2000 : BitVec 16) 13 3 = 1)
set_option maxRecDepth 8000 in
theorem gauge_words : ∀ k : Fin 4, (gaugeInstr (gaugeWord k) k).wf = true ∧ ∀ one,
    ((gaugeNames (gaugeWord k) k).all fun n => n < (addrState gaugeRecord 4024 1 one).laneRegs (addrGang 4024 1 one).id) = true := by decide
set_option maxRecDepth 8000 in
theorem gauge_here : ∀ k : Fin 4, ∀ one, ((gaugePlaces k one).map fun x => (x.1, x.2.1, x.2.2.1)).all
    (fun x => match x.2.2 with | .ok (.reg _ _) => false | .ok p => !p.isRemote | _ => false) = true := by decide
set_option maxRecDepth 8000 in
theorem gauge_places (one : Bool) (k : Nat) (hk : k < 4) : (addrState gaugeRecord 4024 1 one).locateGauges (addrGang 4024 1 one) (gaugeWord k)
    (if k = 3 then 4 else 2) (k = 1) (participants (addrGang 4024 1 one) 3 (gaugeWord k)) =
      (addrState gaugeRecord 4024 1 one, gaugePlaces k one) := by
  have : k = 0 ∨ k = 1 ∨ k = 2 ∨ k = 3 := by omega
  obtain rfl | rfl | rfl | rfl := this <;> cases one <;> exact Prod.ext (by decide) (by decide)
theorem gauge_mates (k : Nat) (one : Bool) : ∀ x ∈ gaugePlaces k one, ∀ y, x.2.2.2 = some y →
    ∃ p, y.2 = .ok p ∧ p.isRemote = false ∧ ∀ d o, p ≠ .reg d o := by
  intro x hx y hy
  obtain ⟨l, -, rfl⟩ := List.mem_map.1 hx
  by_cases hk : k = 1
  · obtain rfl := Option.some.inj ((if_pos hk).symm.trans hy)
    exact ⟨_, rfl, rfl, fun d o h => nomatch h⟩
  · exact nomatch (if_neg hk).symm.trans hy
set_option maxRecDepth 8000 in
theorem witness_gaugeOperations : ∀ kind, kind < 4 → ∀ one : Bool, ∃ s s1 g m w locs gr b,
    (gaugeInstr w kind).wf = true ∧ LaneReady s g m (gaugeNames w kind) ∧ Plain s g.id ∧ s.determ g.id = false ∧
    s.gridOf g.id = some gr ∧ s.blockOf g.id = some b ∧ gr.record.gaugeSz ≠ 0 ∧ gr.record.gaugeSz ≤ gr.record.lsSz ∧
    replays g m = false ∧ g.l < 63 ∧ g.s < 63 ∧ ¬ HeldRelease s g m w ∧ w.space = 1 ∧
    s.locateGauges g w (if kind = 3 then 4 else 2) (kind = 1) (participants g m w) = (s1, locs) ∧
    AllHere (locs.map fun x => (x.1, x.2.1, x.2.2.1)) ∧
    (∀ x ∈ locs, ∀ y, x.2.2.2 = some y → ∃ p, y.2 = .ok p ∧ p.isRemote = false ∧ ∀ d o, p ≠ .reg d o) ∧
    State.hasRoom s1 (s1.requester g.id) 0 = true ∧ locs = gaugePlaces kind one := by
  intro kind hk one
  have h := gauge_words ⟨kind, hk⟩
  have h2 := gauge_places one kind hk
  have h3 := gauge_here ⟨kind, hk⟩ one
  cases one <;>
    exact ⟨_, _, _, 3, gaugeWord kind, _, _, _, h.1, laneReady_of ⟨rfl, rfl⟩ rfl rfl (h.2 _) (by decide) (by decide), plain_of rfl rfl rfl rfl, by decide, rfl,
      rfl, by decide, by decide, by decide, by decide, by decide, noHeld_of _ _ _ rfl, gauge_space _, h2, allHere_of h3, gauge_mates _ _, by decide, rfl⟩

/-! ## Witnesses: the epilogue unit and the supervisor group -/

/-- The epilogue unit runs a word of a drain of the block, its program one ENOP and EEND, its row 63, word `k`, a store pending. -/
def drainOp (k : Nat) (l : List (Nat × List Byte)) (p0 : Word) : DrainOp :=
  ⟨0, false, false, [0x58000000, 0xF8000000], [p0, 0, 0, 64], 0, 64, 63, k, WordMap.zero, l⟩
def drainEngine (k : Nat) (l : List (Nat × List Byte)) (p0 : Word) : EngineOp := ⟨7, sId 0, .drain (drainOp k l p0), 0, [0], false, false, none⟩
def epiState (k : Nat) (l : List (Nat × List Byte)) (p0 : Word) : State :=
  { mkState firstRecord [idGang 1] (.epilogue 7) [0x58000000] with ops := [drainEngine k l p0] }
theorem drainAt (k : Nat) (l : List (Nat × List Byte)) (p0 : Word) : DrainAt (epiState k l p0) (drainEngine k l p0) (drainOp k l p0) firstBlock :=
  ⟨rfl, rfl, rfl, rfl, fun _ => rfl⟩
theorem witness_epilogueRegisters :
    (∃ (s : State) (o : EngineOp) (x : DrainOp) (b : BlockId), DrainAt s o x b ∧ (x.params.getD 0 0).toNat % 64 = 0 ∧ (x.params.getD 3 0).toNat % 64 = 0) ∧
    ∃ (s : State) (o : EngineOp) (x : DrainOp) (b : BlockId), DrainAt s o x b ∧ (x.params.getD 0 0).toNat % 64 ≠ 0 :=
  ⟨⟨_, _, _, _, drainAt 0 [] 64, by decide, by decide⟩, _, _, _, _, drainAt 1 [] 1, by decide⟩
/-- ELDV by rows, and EEND with a store that lands and with one beyond the partition. -/
theorem witness_epilogueMemory :
    (∃ (s s1 : State) (o : EngineOp) (x : DrainOp) (b : BlockId) (bs : List Byte), DrainAt s o x b ∧
      s.engineReadAll o.gang 1 ((x.params.getD 0 0).toNat + 4 * x.row) 4 = (s1, .ok bs) ∧ s1.ops = s.ops ∧
      ∀ j, s1.slotMap b j = s.slotMap b j) ∧
    (∃ (s : State) (o : EngineOp) (x : DrainOp) (b : BlockId), DrainAt s o x b ∧ ((x.params.getD 0 0).toNat + 8) % 16 ≠ 0) ∧
    (∃ (s s1 : State) (o : EngineOp) (x : DrainOp) (b : BlockId), DrainAt s o x b ∧ s.storeRow o (rowStores x) = (s1, none) ∧ s1.op? o.id = some o) ∧
    (∃ (s s1 : State) (o : EngineOp) (x : DrainOp) (b : BlockId) (f : AccFault), DrainAt s o x b ∧ s.storeRow o (rowStores x) = (s1, some f)) ∧
    ∃ (s : State) (o : EngineOp) (x : DrainOp) (b : BlockId) (s1 s2 s3 s4 : State) (v1 v2 v3 v4 : List Byte), DrainAt s o x b ∧
      s.bandScale o x.aband 0 = (s, .ok [0x80, 0x3F]) ∧ s.bandScale o x.bband 0 = (s1, .ok v1) ∧ s1.bandScale o x.bband 1 = (s2, .ok v2) ∧
      s2.bandScale o x.bband 2 = (s3, .ok v3) ∧ s3.bandScale o x.bband 3 = (s4, .ok v4) :=
  ⟨⟨epiState 1 [] 0, _, _, _, _, _, drainAt 1 [] 0, pair_of rfl, rfl, fun _ => rfl⟩, ⟨_, _, _, _, drainAt 1 [] 0, by decide⟩,
   ⟨_, _, _, _, _, drainAt 1 [] 0, rfl, rfl⟩, ⟨_, _, _, _, _, _, drainAt 1 [(65536, [1])] 0, rfl⟩,
   epiState 1 [] 0, _, _, _, _, _, _, _, _, _, _, _, drainAt 1 [] 0, rfl, pair_of rfl, pair_of rfl, pair_of rfl, pair_of rfl⟩

/-- ELDV by columns and EBIA read 1 KiB. -/
theorem witness_epilogueMemory_columns : ∃ (s s1 : State) (o : EngineOp) (x : DrainOp) (b : BlockId) (bs : List Byte), DrainAt s o x b ∧
    s.engineReadAll o.gang 1 ((x.params.getD 0 0).toNat + 0) (256 * 4) = (s1, .ok bs) ∧ s1.ops = s.ops ∧ ∀ j, s1.slotMap b j = s.slotMap b j :=
  ⟨epiState 1 [] 0, _, _, _, _, _, drainAt 1 [] 0, pair_of rfl, rfl, fun _ => rfl⟩

/-- The supervisor gang of control core 0 of die 12 with registers, and a package with the grid and its block in a state. -/
def supGang (l : List (Nat × Word)) : Gang := { ctlGang with slices := ctlGang.slices.map fun sl => l.foldl (fun x p => x.setReg p.1 p.2) sl }
def supState (l : List (Nat × Word)) (st : BlockState) : State :=
  { ctlState [0] with
    gangs := [supGang l, { idGang 1 with halted := st == .halted }], grids := [firstGrid], cohorts := [Cohort.mk firstHandle 0 false [] 0 0 0]
    blocks := [{ firstBlockRec with state := st, freed := st == .killed || st == .exited }] }
theorem supervisorAt {l : List (Nat × Word)} {st : BlockState} {sl : Slice} (h : (supGang l).slice? 0 = some sl) :
    SupervisorAt (supState l st) (supGang l) 1 always 0 sl :=
  ⟨⟨rfl, rfl⟩, rfl, leader_zero ⟨by decide, rfl, h, rfl⟩, by show ([firstBlock] : List BlockId).Nodup; decide,
   by show ([ctlGang.id, sId 0] : List GangId).Nodup; decide⟩
/-- A launch record: entry and lane code at 0x10000, one block of one gang of one slice, REGS 1, LSSZ 1, die 0, VERSION 1. -/
def launchBytes : List Byte :=
  leBytes 128 (0x10000 + 0x10000 * 2 ^ 64 + 2 ^ 192 + 2 ^ 208 + 2 ^ 224 + 2 ^ 292 + 2 ^ 352 + 2 ^ 992 + 2 ^ 1008)
def launchState : State := { supState [(2, 0x20000)] .running with fetched := [⟨.control 12 0, 0x20000, false, launchBytes, none⟩] }
/-- The control core that launches. -/
def launchCore : ControlCore := match launchState.control? 12 0 with | some c => c | none => ⟨12, 0, 0, true, true, 0⟩
set_option exponentiation.threshold 1100 in
set_option maxRecDepth 20000 in
theorem launch_read : launchState.pageRead (.control 12 0) 0x20000 128 = (launchState, .ok launchBytes) := rfl
set_option maxRecDepth 8000 in
theorem launch_empty (a : Nat) : launchState.pageRead (.control 12 0) a 0 = (launchState, .ok []) := rfl
theorem launch_span : (parseRecord launchBytes).spanSize = 0 := by decide +kernel
theorem launch_params : (recParams launchBytes).2 = 0 := by decide +kernel
theorem witness_launchQueues :
    (∃ s g m gd i sl a, SupervisorAt s g m gd i sl ∧ (Slice.pair sl a % 128 ≠ 0 ∨ 2 ^ 56 ≤ sl.pair a)) ∧
    ∃ s g m gd a i sl s1 s2 s3 bs l ps c, SupervisorAt s g m gd i sl ∧ Slice.pair sl a % 128 = 0 ∧ sl.pair a < 2 ^ 56 ∧
      s.pageRead g.id (sl.pair a) 128 = (s1, .ok bs) ∧ recordBad bs = none ∧
      State.pageRead s1 g.id (recPkgAddr bs) (2 * (parseRecord bs).spanSize) = (s2, .ok l) ∧ (parseRecord bs).spanSize = 0 ∧
      (parseRecord bs).bad s2.pkgId = none ∧ (parseRecord bs).pkgList = [] ∧ s2.everFits (parseRecord bs) = true ∧
      s2.pageRead g.id (recParams bs).1 (recParams bs).2 = (s3, .ok ps) ∧
      (∀ die ∈ (parseRecord bs).dies, (s3.grids.filter fun x => x.record.dies.contains die).length < 64) ∧ g.id = .control c.die c.idx ∧
      s3.control? c.die c.idx = some c ∧ s3.gang? g.id = some g :=
  ⟨⟨_, _, _, _, _, _, 1, supervisorAt (l := [(2, 64)]) (st := .running) rfl, .inl (by decide)⟩,
   launchState, supGang [(2, 0x20000)], 1, always, 1, 0, _, launchState, launchState, launchState, launchBytes, [], [], launchCore,
   ⟨⟨rfl, rfl⟩, rfl, leader_zero ⟨by decide, rfl, rfl, rfl⟩, by decide, by decide⟩, by decide, by decide, launch_read, by decide +kernel,
   by rw [launch_span]; exact launch_empty _, launch_span, by decide +kernel, rfl, by decide +kernel, by rw [launch_params]; exact launch_empty _,
   by decide +kernel, rfl, rfl, rfl⟩

theorem witness_quotaAndTargets :
    (∃ s g m gd a b i sl gr, SupervisorAt s g m gd i sl ∧ s.grid? (Slice.src sl a) = some gr ∧ gr.handle = sl.src a ∧ (sl.src b).toNat = 7) ∧
    (∃ s g m gd a b i sl gr, SupervisorAt s g m gd i sl ∧ s.grid? (Slice.src sl a) = some gr ∧ (sl.src b).toNat = 8) ∧
    (∃ s g m gd a i sl, SupervisorAt s g m gd i sl ∧ s.grid? (Slice.src sl a) = none) ∧
    (∃ (s : State) (h : Word) (gr : Grid) (sl : Slice) (b : Src), s.grid? h = some gr ∧ gr.record.spanSize = 0 ∧ (sl.src b).toNat < gr.blockCount) ∧
    (∃ (s : State) (h : Word) (gr : Grid) (sl : Slice) (b : Src), s.grid? h = some gr ∧ gr.blockCount ≤ (sl.src b).toNat) ∧
    ∃ s g m, ScalarAt s g m ∧ g.id.isControl = false :=
  ⟨⟨_, _, _, _, .lit firstHandle, .lit 7, _, _, firstGrid, supervisorAt (l := []) (st := .running) rfl, rfl, rfl, rfl⟩,
   ⟨_, _, _, _, .lit firstHandle, .lit 8, _, _, firstGrid, supervisorAt (l := []) (st := .running) rfl, rfl, rfl⟩,
   ⟨_, _, _, _, .lit 0, _, _, supervisorAt (l := []) (st := .running) rfl, by decide⟩,
   ⟨supState [] .running, firstHandle, _, newSlice 0 0 0, .lit 0, rfl, rfl, by decide⟩, ⟨supState [] .running, firstHandle, _, newSlice 0 0 0, .lit 1, rfl, by decide⟩,
   ⟨partState [idGang 1] 1, idGang 1, 1, ⟨rfl, rfl⟩, rfl⟩⟩

theorem target_block (st : BlockState) {sl : Slice} : (supState [] st).target sl (.block (.lit 0)) (sl.src (.lit firstHandle)) = .ok (firstGrid, [0]) := rfl
theorem witness_preemptResumeKill : ∀ st, st ∈ [BlockState.running, .halted, .halting, .killed] → ∃ sl,
    SupervisorAt (supState [] st) (supGang []) 1 always 0 sl ∧ (supState [] st).target sl (.block (.lit 0)) (sl.src (.lit firstHandle)) = .ok (firstGrid, [0]) ∧
    (supState [] st).grid? firstGrid.handle = some firstGrid ∧ firstGrid.record.spanSize = 0 ∧ 0 < firstGrid.record.cohort ∧
    ∃ b ∈ (supState [] st).blocks, b.id.handle = firstGrid.handle ∧ b.id.index ∈ [0] ∧ b.state = st ∧ b.integrity = false ∧ (st = .killed → b.freed = true) := by
  intro st _
  exact ⟨_, supervisorAt rfl, target_block st, rfl, rfl, by decide, _, List.mem_singleton_self _, rfl, List.mem_singleton.2 rfl, rfl, rfl, fun h => by rw [h]; rfl⟩

/-- The cases of CTXSV and CTXLD that end at issue, and a halted block that is ready to be saved. -/
theorem witness_contextImages : ∀ st : BlockState, st ∈ [BlockState.running, .halted, .placed] → ∀ a : Word, a = 0x100000 ∨ a = 0x100800 → ∃ sl b,
    SupervisorAt (supState [(2, a)] st) (supGang [(2, a)]) 1 always 0 sl ∧ (supState [(2, a)] st).grid? (sl.src (.lit firstHandle)) = some firstGrid ∧
    (sl.reg 0).toNat < firstGrid.blockCount ∧ (supState [(2, a)] st).block? ⟨firstHandle, (sl.reg 0).toNat, false⟩ = some b ∧
    (supState [(2, a)] st).block? ⟨firstHandle, (sl.reg 0).toNat, true⟩ = none ∧ 0 < firstGrid.record.cohort ∧ b.state = st ∧
    sl.pair 1 = a.toNat ∧ (st = .halted → (supState [(2, a)] st).saveReady b = true) := by
  intro st hst a ha
  simp only [List.mem_cons, List.not_mem_nil, or_false] at hst
  obtain rfl | rfl | rfl := hst <;> obtain rfl | rfl := ha <;>
    exact ⟨_, _, supervisorAt rfl, rfl, by decide, rfl, by decide, by decide, rfl, by decide, by decide⟩

/-- A halted block without slots whose image has been written, as its CTXSV re-executes. -/
def haltedBlock : Block := { firstBlockRec with state := .halted, accs := [] }
def moreFetched : List Fetched := [0x110000, 0x120000, 0x130000].map fun a => ⟨.control 12 0, a, false, [], none⟩
def savedState : State := { supState [(2, 0x100000)] .halted with blocks := [haltedBlock], fetched := [⟨.control 12 0, 0x100000, false, [], none⟩] ++ moreFetched }
theorem sealImage_length (l : Segs) (n : Nat) : (sealImage l n).length = n := by simp [sealImage, segBytes, Memory.read]
theorem saved_pieces : pagePieces ((savedState.imageOf firstGrid haltedBlock).length / 0x10000 + 2) 0x100000 (savedState.imageOf firstGrid haltedBlock).length =
    [(0x100000, 0x10000), (0x110000, 0x10000), (0x120000, 0x10000), (0x130000, 8192)] := by
  rw [State.imageOf, sealImage_length]; decide +kernel
/-- The head of an image of a saved block, its other bytes missing. -/
def imageHead : List Byte :=
  sealImage [(0, [1, 0, 1]), (8, leBytes 4 firstHandle.toNat), (0x18, leBytes 4 (shapeOf firstGrid.record)), (0x1C, leBytes 4 (sizesOf firstGrid.record))] 0x40
def placedState : State := { supState [(2, 0x100000)] .placed with fetched := [⟨.control 12 0, 0x100000, false, imageHead, none⟩] ++ moreFetched }
theorem placed_read : placedState.readImage (.control 12 0) firstGrid.record 0x100000 = (placedState, .ok imageHead) := by
  have h1 : placedState.pageRead (.control 12 0) 0x100000 0x2000 = (placedState, .ok imageHead) := by
    unfold State.pageRead
    rw [show pagePieces (0x2000 / 0x10000 + 2) 0x100000 0x2000 = [(0x100000, 0x2000)] by decide +kernel]
    rfl
  unfold State.readImage
  rw [h1]
  show placedState.pageRead (.control 12 0) 0x100000 (imageSize firstGrid.record (imageSlots imageHead).length) = _
  rw [show imageSize firstGrid.record (imageSlots imageHead).length = 204800 by decide +kernel]
  unfold State.pageRead
  rw [show pagePieces (204800 / 0x10000 + 2) 0x100000 204800 = [(0x100000, 0x10000), (0x110000, 0x10000), (0x120000, 0x10000), (0x130000, 8192)] by decide +kernel]
  show ((placedState, EngAcc.ok (((([] ++ imageHead) ++ []) ++ []) ++ [])) : State × EngAcc) = _
  simp only [List.append_nil, List.nil_append]
/-- The clauses in which an image is written, or loaded. -/
theorem witness_contextImages_images :
    (∃ s s1 sl b, SupervisorAt s (supGang [(2, 0x100000)]) 1 always 0 sl ∧ s.grid? (sl.src (.lit firstHandle)) = some firstGrid ∧
      (sl.reg 0).toNat < firstGrid.blockCount ∧ s.block? ⟨firstHandle, (sl.reg 0).toNat, false⟩ = some b ∧
      s.block? ⟨firstHandle, (sl.reg 0).toNat, true⟩ = none ∧ b.state = .halted ∧ s.saveReady b = true ∧ sl.pair 1 % 4096 = 0 ∧
      (∃ r, s.pageWrite (supGang [(2, 0x100000)]).id (sl.pair 1) (s.imageOf firstGrid b) = (s1, .ok r)) ∧ s1.blocks = s.blocks ∧ s1.gangs = s.gangs) ∧
    ∃ s sl b img, SupervisorAt s (supGang [(2, 0x100000)]) 1 always 0 sl ∧ s.grid? (sl.src (.lit firstHandle)) = some firstGrid ∧
      (sl.reg 0).toNat < firstGrid.blockCount ∧ s.block? ⟨firstHandle, (sl.reg 0).toNat, false⟩ = some b ∧
      s.block? ⟨firstHandle, (sl.reg 0).toNat, true⟩ = none ∧ b.state = .placed ∧ b.killing = false ∧ sl.pair 1 % 4096 = 0 ∧
      s.readImage (supGang [(2, 0x100000)]).id firstGrid.record (sl.pair 1) = (s, .ok img) ∧ s.imageBad firstGrid b img = none := by
  refine ⟨⟨savedState, savedState, _, haltedBlock, ⟨⟨rfl, rfl⟩, rfl, leader_zero ⟨by decide, rfl, rfl, rfl⟩, by decide, by decide⟩, rfl, by decide, rfl,
      by decide, rfl, by decide +kernel, by decide, ⟨[], ?_⟩, rfl, rfl⟩,
    placedState, _, { firstBlockRec with state := .placed, freed := false }, imageHead, ⟨⟨rfl, rfl⟩, rfl, leader_zero ⟨by decide, rfl, rfl, rfl⟩, by decide, by decide⟩, rfl, by decide, rfl,
      by decide, rfl, rfl, by decide, placed_read, by decide +kernel⟩
  show savedState.pageWrite (.control 12 0) 0x100000 _ = _
  unfold State.pageWrite
  rw [saved_pieces]
  rfl

/-! ## Witnesses: bring-up, registers, power, units -/

/-- A state with its dies running. -/
def onState : State := match exec .powerOn State.reset with | .next t => t | _ => State.reset
def bootState (b : Boot) : State := { onState with boot := b }
theorem witness_bringUp :
    (∃ s : State, s.stage = 1 ∧ s.headerCause 0 1 = some 1) ∧ (∃ s : State, s.stage ≠ 1) ∧
    (∃ s : State, s.boot.verifying.isSome = true) ∧ (∃ s : State, s.boot.verifying = none) ∧
    (∃ (s s1 : State) (pa c : Nat), s.boot.verifying = some pa ∧ (verifyingDone s).verifyImage pa 2 = (s1, .error c)) ∧
    (∃ (s : State) (c : ControlCore), s.control? 7 1 = some c ∧ s.boot.supervisor = none) ∧
    (∃ (s : State) (c : ControlCore) (img : Image), s.control? 7 1 = some c ∧ s.boot.supervisor = some img ∧ c.running = false) ∧
    ∃ (s : State) (pa kind c : Nat), s.headerCause pa kind = some c ∧ s.mem.readNat pa 4 ≠ 0x4B473942 :=
  ⟨⟨onState, by decide +kernel, by decide +kernel⟩, ⟨State.reset, by decide⟩, ⟨bootState { State.reset.boot with verifying := some 0x10000 }, rfl⟩,
   ⟨State.reset, rfl⟩, ⟨bootState { State.reset.boot with verifying := some 0x10000 }, _,
     0x10000, 1, rfl, pair_of (by decide +kernel)⟩, ⟨State.reset, _, rfl, rfl⟩, ⟨bootState { State.reset.boot with supervisor := some ⟨0, 0, 0⟩ }, _, _, rfl, rfl, rfl⟩,
   ⟨State.reset, 0, 2, 1, by decide +kernel, by decide +kernel⟩⟩

/-- A copy of the block is in the copy engine of its core. -/
def localCopy : CopyOp := { copyOf (newSlice 0 0 0) false 4 6 8 with dspace := 1, sspace := 1, dst := 0, src := 0, units := 1, mark := 0, reduce := false }
def copyEngine : EngineOp := ⟨3, sId 0, .copy localCopy, 0, [0], false, false, none⟩
def busyState : State := { partState [idGang 1] 1 with ops := [copyEngine] }
/-- A request of a gang on die 0 that has not been answered, sent before an invalidation of its whole context was written. -/
def sentTo1 : Outgoing := ⟨⟨0, 0, 7⟩, 9, 1, 0, 0x1000, 0, .load 8, .fetch (sId 0) none, .host ⟨0, 0⟩ 0⟩
def sentState : State := { busyState with outstanding := [sentTo1], invalidations := [⟨0, 0, false, []⟩] }
theorem witness_registerSteps :
    regExists 8 0 = false ∧ (∃ m, regExists 0 0x6000 = true ∧ svMask 0x6000 = some m) ∧
    (∃ (s : State) (bs : List Byte), s.boot.attesting = some bs ∧ bs.length = 64) ∧
    (∃ (s : State) (p : Invalidation), s.invalidations.find? (fun q => q.die == 12 && s.invDue q) = some p ∧ s.outstanding = [] ∧ s.arrivals = []) ∧
    (∃ (s : State) (p : Invalidation), s.invalidations.find? (fun q => q.die == 0 && s.invDue q) = some p ∧ p.effective = false ∧
      ∃ o ∈ s.outstanding, o.src.die = 0 ∧ o.space = 0 ∧ covered p.v o.addr 1 = true) ∧
    (∃ s : State, ∀ p ∈ s.invalidations, p.die ≠ 12) ∧
    (∃ (s : State) (die : Nat) (v : DWord), v.getLsbD 31 = true ∧ (s.devGet die 0xE008).getLsbD 31 = false ∧ (testUnit die (v.toNat % 2 ^ 16)).isSome = true) ∧
    (∃ (s : State) (die u : Nat), (s.devGet die 0xE008).getLsbD 31 = false ∧ (testUnit die u).isSome = true ∧ s.unitBusy die u = true ∧
      s.fences.contains (die, u) = false) ∧
    (∃ (s : State) (die u : Nat), (s.devGet die 0xE008).getLsbD 31 = false ∧ (testUnit die u).isSome = true ∧ s.unitBusy die u = false ∧
      s.fenced die u = false) ∧
    ∃ (s : State) (die : Nat), (s.devGet die 0xE008).getLsbD 31 = true :=
  ⟨by decide, ⟨_, by decide, rfl⟩, ⟨bootState { State.reset.boot with attesting := some (List.replicate 64 0) }, List.replicate 64 0, rfl, by decide⟩,
   ⟨{ State.reset with invalidations := [⟨12, 0xC000, false, []⟩] }, ⟨12, 0xC000, false, []⟩, by decide +kernel, rfl, rfl⟩,
   ⟨sentState, ⟨0, 0, false, []⟩, by decide +kernel, rfl, sentTo1, List.mem_singleton_self _, by decide +kernel, rfl, by decide +kernel⟩,
   ⟨State.reset, fun w h => by cases h⟩,
   ⟨onState, 12, 0x8000000F, by decide +kernel, by decide +kernel, by decide +kernel⟩,
   ⟨busyState, 0, 2112, by decide +kernel, by decide +kernel, by decide +kernel, by decide +kernel⟩,
   ⟨busyState, 0, 2631, by decide +kernel, by decide +kernel, by decide +kernel, by decide +kernel⟩,
   ⟨onState.devSet 3 0xE008 0x80000000, 3, by decide +kernel⟩⟩

/-- No device register has been written. -/
def poweredState : State := { State.reset with dies := State.reset.dies.map fun d => { d with powered := true, inReset := false } }
def dieState (f : Die → Die) : State := { onState with dies := onState.dies.map f }
def passState (k : Nat) : State := { onState with passes := [⟨0, 63, k, true, true, false, false, 0⟩] }
/-- A migration of the page at 0x20000 of die 0 to the frame at 0x400000 of die 0, its entry at 0x240000. -/
def moving : Migration := ⟨0x240000, 0, 0xF100000000000002, 0x400000, 0x10000, 0, false, none, 0⟩
def starvedState : State := dieState fun d => { d with p4 := 4096 }
theorem onState_lists : onState.passes = [] ∧ onState.migrations = [] := by decide +kernel
theorem witness_powerAndUnits :
    (∃ s : State, s.dies.length = 13 ∧ (s.die 12).powered = false ∧ Idle s) ∧
    (∃ s : State, s.dies.length = 13 ∧ (s.die 12).powered = true ∧ Idle s ∧ (s.die 12).stretched = false ∧ (s.die 12).p4 < 4096 ∧
      s.devGet 12 0x7040 ≠ BitVec.allOnes 64 ∧ NoWindow s ∧ s.poison.contains (EccArray.hbm, 7, 2 ^ 40) = false ∧ (s.die 12).refresh ≠ some 15) ∧
    (∃ s : State, s.dies.length = 13 ∧ (s.die 0).stretched = true ∧ (s.die 0).refresh = some 15) ∧
    (∃ s : State, 4096 ≤ (s.die 0).p4 ∧ (∀ p ∈ s.passes, ¬ Asks s 0 p) ∧ ∀ m ∈ s.migrations, m.uses 0 = false) ∧
    (∃ (s : State) (p : TestPass), s.dies.length = 13 ∧ (s.die 0).p4 = 4096 ∧ p ∈ s.passes ∧ Asks s 0 p ∧
      (∀ q ∈ s.passes, Asks s 0 q → q = p ∨ p.since < q.since) ∧ ∀ m ∈ s.migrations, m.uses 0 = true → p.since ≤ m.since) ∧
    (∃ (s : State) (m : Migration), s.dies.length = 13 ∧ (s.die 0).p4 = 4096 ∧ (∀ p ∈ s.passes, Asks s 0 p → m.since < p.since) ∧
      s.migrations.find? (fun x => x.uses 0) = some m ∧ s.migrations[0]? = some m ∧ ∀ k, k ≠ 0 → m.uses k = true → (s.die k).p4 = 0) ∧
    (∃ (s : State) (g : Gang), s.dies.length = 13 ∧ (s.gangs.filter fun x => s.gangDie x.id == 0)[24575 / 24576]? = some g ∧ s.gang? g.id = some g) ∧
    EccArray.regFile ∉ [EccArray.localStore, .l2, .wgtStore, .hbm] ∧
    (∃ s : State, (s.devGet 0 (0xE100 + 8 * 15)).getLsbD 8 = true ∧ 16 ≤ (s.devGet 0 (0xE100 + 8 * 15)).toNat % 256) ∧
    (∃ s : State, (s.devGet 0 (0xE100 + 8 * 15)).getLsbD 8 = false) ∧
    (∃ (s : State) (kind num steps : Nat), testUnit 0 63 = some (kind, num, steps) ∧ (s.devGet 0 0xE000).getLsbD (kind - 1) = true ∧
      s.fenced 0 63 = false ∧ s.unitBusy 0 63 = false ∧ s.pass? 0 63 = none ∧ s.devGet 0 0x7080 ≠ BitVec.allOnes 64) ∧
    (∃ (s : State) (kind num steps : Nat), testUnit 0 63 = some (kind, num, steps) ∧ (s.devGet 0 0xE000).getLsbD (kind - 1) = false) ∧
    (∀ k, k = 0 ∨ k = 255 → ∃ (s : State) (p : TestPass) (kind num steps : Nat), testUnit 0 63 = some (kind, num, steps) ∧ s.pass? 0 63 = some p ∧
      p.forced = true ∧ s.devGet 0 0x7080 ≠ BitVec.allOnes 64 ∧ p.step = k ∧ steps = 256) :=
  ⟨⟨State.reset, rfl, by decide, rfl, rfl, rfl, rfl, rfl⟩,
   ⟨poweredState, by decide +kernel, by decide +kernel, ⟨rfl, rfl, rfl, rfl, rfl⟩, by decide +kernel, by decide +kernel, by decide +kernel,
     fun die => by show (devReset 0x6000).getLsbD 0 = false; decide, by decide +kernel, by decide +kernel⟩,
   ⟨dieState fun d => { d with stretched := true, refresh := some 15 }, by decide +kernel, by decide +kernel, by decide +kernel⟩,
   ⟨starvedState, by decide +kernel, by simp [starvedState, dieState, onState_lists], by simp [starvedState, dieState, onState_lists]⟩,
   ⟨{ starvedState with passes := (passState 0).passes, migrations := [moving] }, ⟨0, 63, 0, true, true, false, false, 0⟩, by decide +kernel, by decide +kernel, List.mem_singleton_self _,
     ⟨rfl, .inl rfl⟩, fun q hq _ => .inl (List.mem_singleton.1 hq), fun m _ _ => Nat.zero_le _⟩,
   ⟨{ starvedState with passes := [], migrations := [moving] }, moving, by decide +kernel, by decide +kernel, fun p h => (by cases h), by decide +kernel, rfl,
     fun k hk h => absurd h (by
       unfold Migration.uses
       rw [show moving.oldFrame / 2 ^ 48 = 0 by decide +kernel, show moving.frame / 2 ^ 48 = 0 by decide +kernel]
       simp [Ne.symm hk])⟩,
   ⟨partState [idGang 1] 1, idGang 1, rfl, rfl, rfl⟩, by decide,
   ⟨onState.devSet 0 (0xE100 + 8 * 15) 0x110, by decide +kernel, by decide +kernel⟩, ⟨onState, by decide +kernel⟩,
   ⟨onState.devSet 0 0xE000 1, _, _, _, rfl, by decide +kernel, by decide +kernel, by decide +kernel, by decide +kernel, by decide +kernel⟩,
   ⟨onState.devSet 0 0xE000 0, _, _, _, rfl, by decide +kernel⟩,
   fun k hk => by obtain rfl | rfl := hk <;> exact ⟨passState _, _, _, _, _, rfl, rfl, rfl, by decide +kernel, rfl, rfl⟩⟩

/-! ## Witnesses: events of parts, grids, arrivals and pages -/

theorem lookup_none {α : Type} (k : Nat) : ∀ l : List (Nat × α), (∀ p ∈ l, p.1 ≠ k) → lookupAt k l = none
  | [], _ => rfl
  | p :: l, h => by
    rw [lookupAt, if_neg (h p List.mem_cons_self)]
    exact lookup_none k l fun q hq => h q (List.mem_cons_of_mem _ hq)
/-- A state in whose device memory no window's register stands has every window closed. -/
theorem noWindow_of {s : State} (h : (s.dev.all fun p => p.1 % 2 ^ 48 != 0x6000) = true) : NoWindow s := fun die => by
  have hd : lookupAt (devKey die 0x6000) s.dev = none := by
    refine lookup_none _ _ fun p hp hk => ?_
    have := List.all_eq_true.1 h p hp
    rw [hk] at this
    simp [devKey, Nat.add_mod] at this
  rw [State.devGet, hd]
  decide
def waitingGang (w : Wait) : Gang := mkGang 0 1 fun _ sl => { sl with wait := some w }
def waitingState (w : Wait) : State := partState [waitingGang w] 1
/-- Two gangs of a block wait for the end of one phase. -/
def secondWaiting : Gang := mkGang 1 1 fun _ sl => { sl with wait := some (.barrierDone 15 4) }
def twoWaiting : State := mkState { firstRecord with gangs := 2 } [waitingGang (.barrierDone 15 4), secondWaiting] (.scalar (sId 0) 1) [0]
theorem witness_partsGoOn :
    (∃ (s : State) (g : Gang), s.gang? g.id = some g ∧ s.gangLive g = true) ∧
    (∀ w : Wait, w ∈ [Wait.counters 0 0 0 0, .barrierDone 15 4, .drainDone, .killed firstHandle [] 4] →
      (waitingState w).gang? (waitingGang w).id = some (waitingGang w) ∧ (waitingState w).canWake (waitingGang w) = true ∧
      (waitingGang w).partWait 1 = some w ∧ (waitingState w).determ (waitingGang w).id = false ∧ (waitingState w).wakeDue (waitingGang w) 1 = true ∧
      ∀ x p, ¬ WakesWith (waitingState w) (waitingGang w) 1 w x p) ∧
    (∃ (s : State) (g x : Gang) (w : Wait), s.gang? g.id = some g ∧ s.canWake g = true ∧ g.partWait 1 = some w ∧ s.wakeDue g 1 = true ∧
      WakesWith s g 1 w x 1 ∧ s.gang? x.id = some x) ∧
    (∀ w : Wait, w ∈ [Wait.sync 1 64 0, .stamp 1 64 0, .yield []] →
      (waitingState w).gang? (waitingGang w).id = some (waitingGang w) ∧ (waitingState w).canWake (waitingGang w) = true ∧
      (waitingGang w).partWait 1 = some w ∧ (waitingState w).determ (waitingGang w).id = false) ∧
    (∃ (s : State) (g : Gang), s.gang? g.id = some g ∧ s.canWake g = false ∧ ∀ l, g.partWait 1 ≠ some (.yield l)) := by
  refine ⟨⟨partState [idGang 1] 1, idGang 1, rfl, by decide⟩, fun w hw => ?_,
    ⟨twoWaiting, waitingGang (.barrierDone 15 4), secondWaiting, .barrierDone 15 4, rfl, by decide +kernel, by decide +kernel, by decide +kernel,
      ⟨List.mem_cons_of_mem _ (List.mem_singleton_self _), by decide, by decide, by decide +kernel, by decide +kernel, .barrierDone 15 4, by decide +kernel, by decide +kernel⟩,
      by decide +kernel⟩, fun w hw => ?_,
    partState [{ idGang 1 with halted := true }] 1, { idGang 1 with halted := true }, rfl, by decide, fun l h => ?_⟩
  · simp only [List.mem_cons, List.not_mem_nil, or_false] at hw
    refine ⟨rfl, ?_, ?_, ?_, ?_, fun x p h => ?_⟩
    · obtain rfl | rfl | rfl | rfl := hw <;> decide +kernel
    · obtain rfl | rfl | rfl | rfl := hw <;> decide +kernel
    · obtain rfl | rfl | rfl | rfl := hw <;> decide +kernel
    · obtain rfl | rfl | rfl | rfl := hw <;> decide +kernel
    · obtain ⟨hx, hp, hne, -⟩ := h
      obtain rfl := List.mem_singleton.1 hx
      exact hne ⟨rfl, List.mem_singleton.1 hp⟩
  · simp only [List.mem_cons, List.not_mem_nil, or_false] at hw
    obtain rfl | rfl | rfl := hw <;> exact ⟨rfl, by decide +kernel, by decide +kernel, by decide +kernel⟩
  · exact absurd (h.symm.trans (by decide : Gang.partWait { idGang 1 with halted := true } 1 = none)) (by simp)

/-- A queued grid of one block on die 0. -/
def queuedGrid : Grid := { firstGrid with next := 0 }
def queuedState : State := { onState with grids := [queuedGrid] }
def dispatchSpot : Spot := (((queuedState.fitDie queuedGrid 0 [⟨queuedGrid.handle, 0, false⟩]).getD []).headD ⟨0, 0, 0, 0, []⟩)
theorem dispatch_places : queuedState.choosePlaces queuedGrid [0] [0] = some [(false, [dispatchSpot])] := by
  have h : ([0].filterMap fun d => queuedState.fitCopies queuedGrid d (halves queuedGrid.record.cohort [0]).1
      (halves queuedGrid.record.cohort [0]).2) = [[(false, [dispatchSpot])]] := by decide +kernel
  unfold State.choosePlaces
  simp only [h]
  simp [Nat.mod_one]
def timedGrid (n dep : Nat) (met : Bool) : Grid :=
  { firstGrid with depMet := met, timerOn := true, record := { firstRecord with sliceLen := 5, evStamp := n, depWord := dep, depGen := 1 } }
def timedState (m : Memory) (met : Bool) : State :=
  { mkState firstRecord [idGang 1] (.scalar (sId 0) 1) [0] with grids := [timedGrid 0x20008 0x20010 met], mem := m }
theorem witness_gridsAreServed :
    (∃ (s : State) (gr : Grid) (c : Nat) (rest : List Nat) (l : List Spot), s.grid? gr.handle = some gr ∧ gr.record.spanSize = 0 ∧
      gr.record.redun = false ∧ 1 ≤ gr.record.cohort ∧ gr.record.cohort ≤ 16 ∧ gr.admits = true ∧ gr.record.determ = false ∧ s.pendingCohorts gr = [] ∧
      s.readyCohorts gr = c :: rest ∧ s.choosePlaces gr ((s.undispatched gr).filter fun i => i / gr.record.cohort == c)
        (gr.record.firstDies.filter fun d => (s.served d).contains gr.handle) = some [(false, l)]) ∧
    (∃ (s : State) (gr : Grid), s.grid? gr.handle = some gr ∧ s.dispatchPlan gr = none ∧ gr.depMet = true ∧ gr.timerOn = false) ∧
    (∀ n : Nat, n = 0 ∨ n = 1 → ∃ (s s1 : State) (gr : Grid) (p : Place), s.grid? gr.handle = some gr ∧ gr.depMet = false ∧ gr.isEarly = false ∧
      (s.outstanding.any fun o => o.owner == .device gr.handle) = false ∧ s.poison = [] ∧
      s.deviceLocate gr (.word false) gr.record.depWord 16 = (s1, .ok p) ∧ InMemory p ∧ s1.poison = [] ∧
      (Satisfied false gr.record.depGen.toNat (s1.readPlace p 16) ↔ n = 1)) ∧
    ∃ (s s1 : State) (gr : Grid) (pa k : Nat), s.grid? gr.handle = some gr ∧ gr.timerOn = true ∧ gr.record.sliceLen ≠ 0 ∧ gr.record.evStamp ≠ 0 ∧
      (∃ b ∈ s.blocks, b.id.handle = gr.handle ∧ b.state = .running) ∧
      s.deviceLocate gr (.word true) gr.record.evStamp 8 = (s1, .ok (.mem pa k)) ∧ s1.poison = [] := by
  refine ⟨⟨queuedState, queuedGrid, 0, [], [dispatchSpot], rfl, rfl, rfl, by decide, by decide, by decide, rfl, by decide +kernel, by decide +kernel, ?_⟩,
    ⟨partState [idGang 1] 1, firstGrid, rfl, by decide +kernel, rfl, rfl⟩, fun n hn => ?_,
    timedState [] true, _, timedGrid 0x20008 0x20010 true, 0x20008, 0, rfl, rfl, by decide, by decide, ⟨firstBlockRec, List.mem_singleton_self _, rfl, rfl⟩,
    pair_of (by decide +kernel), by decide +kernel⟩
  · rw [show ((queuedState.undispatched queuedGrid).filter fun i => i / queuedGrid.record.cohort == 0) = [0] by decide +kernel,
      show (queuedGrid.record.firstDies.filter fun d => (queuedState.served d).contains queuedGrid.handle) = [0] by decide +kernel]
    exact dispatch_places
  · obtain rfl | rfl := hn
    · exact ⟨timedState [] false, _, timedGrid 0x20008 0x20010 false, .mem 0x20010 0, rfl, rfl, rfl, rfl, rfl, pair_of (by decide +kernel),
        .inl ⟨_, _, rfl⟩, by decide +kernel, by unfold Satisfied; decide +kernel⟩
    · exact ⟨timedState [(0x20010, 1), (0x20018, 1)] false, _, timedGrid 0x20008 0x20010 false, .mem 0x20010 0, rfl, rfl, rfl, rfl, rfl, pair_of (by decide +kernel),
        .inl ⟨_, _, rfl⟩, by decide +kernel, by unfold Satisfied; decide +kernel⟩

def flyingState : State := { partState [idGang 1] 1 with arrivals := [flying], ls := [(64, 3)] }
def movingState (prod : DWord) : State := { onState with migrations := [moving], dev := (onState.devSet moving.retireDie 0x150 prod).dev }
theorem witness_arrivalsWalksMigrations :
    (∃ (s : State) (a : Arrival) (gid : GangId) (g : Gang) (p : Place), s.arrivals[0]? = some a ∧ a.src = some gid ∧ a.op = none ∧ a.place = some p ∧
      InMemory p ∧ s.arrivalTurn a (s.arrivals.take 0) = true ∧ s.gang? gid = some g ∧ Plain s gid ∧ s.memOk = true ∧
      p.die (s.gangDie gid) = s.gangDie gid ∧ s.reachesKilled gid a.space = false ∧
      (arriveWord (s.readPlace p 16) a.n).isSome = true) ∧
    (∃ (s : State) (a : Arrival) (gid : GangId) (p : Place), s.arrivals[1]? = some a ∧ a.src = some gid ∧ a.op = none ∧ a.place = some p ∧
      InMemory p ∧ a.rel = true ∧ s.arrivalTurn a (s.arrivals.take 1) = false) ∧
    (∃ s : State, s.arrivals[0]? = none) ∧
    (∃ (s s1 : State) (die cd cc : Nat) (va : VAddr) (l : Leaf), Untranslated s die cd cc va.toNat ∧ s.walk die cd cc va.toNat = (s1, .leaf l) ∧ s1.tlb = s.tlb ∧
      paKind (l.pa va.toNat) ≠ .none ∧ pteMig l.pte = false ∧ pteFar l.pte = false ∧ (s.tlb.filter fun e => e.die == die && e.core.isNone).length < 8192) ∧
    (∃ (s s1 : State) (die cd cc : Nat) (va : VAddr) (x : Walked), Untranslated s die cd cc va.toNat ∧ s.walk die cd cc va.toNat = (s1, x) ∧ ∀ l, x ≠ .leaf l) ∧
    (∃ (s : State) (cd cc : Nat), ∀ x ∈ s.controls, ¬ (x.die = cd ∧ x.idx = cc)) ∧
    (∃ (s : State) (m : Migration), s.migrations[0]? = some m ∧ s.grids = [] ∧ s.blocks = [] ∧ s.heldMerges = [] ∧ m.failed = none ∧
      s.migrationBad m = none ∧ s.retireFull m.retireDie = true) ∧
    ∃ (s : State) (m : Migration), s.migrations[0]? = some m ∧ s.grids = [] ∧ s.blocks = [] ∧ s.heldMerges = [] ∧ m.failed = none ∧
      s.migrationBad m = none ∧ s.landsIn m = false ∧ s.retireFull m.retireDie = false ∧ s.mem.wf = true ∧
      m.size = 0x10000 ∧ (m.oldFrame + m.size ≤ m.frame ∨ m.frame + m.size ≤ m.oldFrame) ∧
      (m.ptePa + 8 ≤ retireSlot s m.retireDie ∨ retireSlot s m.retireDie + 8 ≤ m.ptePa) :=
  ⟨⟨flyingState, flying, sId 0, idGang 1, .ls 64 firstBlock 64, rfl, rfl, rfl, rfl, .inr ⟨_, _, _, rfl⟩, by decide +kernel, rfl,
     plain_of rfl rfl rfl rfl, by decide +kernel, by decide +kernel, by decide +kernel, by decide +kernel⟩,
   ⟨{ flyingState with arrivals := [flying, { flying with rel := true }] }, { flying with rel := true }, sId 0, .ls 64 firstBlock 64, rfl, rfl, rfl, rfl,
     .inr ⟨_, _, _, rfl⟩, rfl, by decide +kernel⟩,
   ⟨State.reset, rfl⟩,
   ⟨partState [] 1, _, 0, 12, 0, 0xFFFF, _, fun e h => absurd h List.not_mem_nil, rfl, rfl, by decide +kernel, by decide +kernel, by decide +kernel, by decide⟩,
   ⟨partState [] 1, _, 0, 3, 0, 0xFFFF, .fault ⟨0x10, 0, 0, 0xFFFF⟩, fun e h => absurd h List.not_mem_nil, pair_of rfl, fun l h => by cases h⟩,
   ⟨partState [] 1, 12, 7, by decide +kernel⟩,
   ⟨movingState 1, moving, rfl, rfl, rfl, rfl, rfl, by decide +kernel, by decide +kernel⟩,
   ⟨movingState 0, moving, rfl, rfl, rfl, rfl, rfl, by decide +kernel, by decide +kernel, by decide +kernel, by decide +kernel, rfl, by decide +kernel,
     by decide +kernel⟩⟩
theorem witness_arrivalsWalksMigrations_abandon :
    (∃ (s : State) (m : Migration), s.migrations[0]? = some m ∧ s.grids = [] ∧ s.blocks = [] ∧ s.heldMerges = [] ∧ NoWindow s ∧ s.mem.wf = true ∧
      m.size = 0x10000 ∧ s.retireFull (if m.demote then m.far else m.oldPte.toNat / 2 ^ 53 % 8) = true) ∧
    ∃ (s : State) (m : Migration), s.migrations[0]? = some m ∧ s.grids = [] ∧ s.blocks = [] ∧ s.heldMerges = [] ∧ NoWindow s ∧ s.mem.wf = true ∧
      m.size = 0x10000 ∧ (let die := if m.demote then m.far else m.oldPte.toNat / 2 ^ 53 % 8
        s.retireFull die = false ∧ (m.ptePa + 8 ≤ retireSlot s die ∨ retireSlot s die + 8 ≤ m.ptePa)) :=
  ⟨⟨movingState 1, moving, rfl, rfl, rfl, rfl, noWindow_of (by decide +kernel), by decide +kernel, rfl, by decide +kernel⟩,
   ⟨movingState 0, moving, rfl, rfl, rfl, rfl, noWindow_of (by decide +kernel), by decide +kernel, rfl, by decide +kernel, by decide +kernel⟩⟩

/-! ## Witnesses: requests, the host, links, spans -/

/-- An agent of another package and one of this. -/
def far1 : Requester := ⟨1, 0, 5⟩
def near0 : Requester := ⟨0, 3, 7⟩
def near12 : Requester := ⟨0, 12, 7⟩
/-- A plane has a key. -/
def keyedState : State := onState.devSet 12 0xB000 0x100
def filterState (f : Filter) : State := { keyedState with filters := [f] }
def reqOf (tsn inc : BitVec 16) (op : ReqOp) : Request := ⟨far1, tsn, 0, inc, .aperture (5 * 2 ^ 33), op⟩
/-- The request of an instruction fetch that has not been answered, to package 1 or to the host. -/
def fetchOut (target : Nat) : Outgoing := ⟨near12, 9, target, 0, 0x1000, 0, .load 8, .fetch (sId 0) (some (false, 1)), .host ⟨0, 0⟩ 0⟩
def fetchState (target : Nat) : State := { onState with outstanding := [fetchOut target] }
/-- Region 5 exports the page at address 0, which migrates, to packages and to the host. -/
def waitState : State :=
  ((leafState 0xF110000000000005).devSet 12 0x2050 0).devSet 12 0x2058 (BitVec.ofNat 64 (2 ^ 63 + 2 ^ 62 + 3 * 2 ^ 59 + 2 ^ 54 * (0 + 2 * 12) + 2 ^ 32 + 7))
def waitFilter : State := { waitState.devSet 12 0xB000 0x100 with filters := [⟨12, far1, 0, 3, []⟩] }
theorem onState_inc : (onState.die 12).inc = 0 := by decide +kernel
theorem die_of (s : State) (l : List (Requester × BitVec 16)) (o : List Outgoing) (f : List Flight) :
    ({ s with retired := l, outstanding := o, flights := f } : State).die 12 = s.die 12 := rfl
theorem inc_of (s : State) (l : List (Requester × BitVec 16)) (o : List Outgoing) :
    (({ s with retired := l, outstanding := o } : State).die 12).inc = (s.die 12).inc := rfl
theorem witness_requestsFromOutside :
    (∃ (s : State) (r : Request), r.src.pkg ≠ s.pkgId ∧ ∀ n, n < 32 → (s.devGet 12 (0xB000 + 0x20 * n)).toNat / 2 ^ 8 % 2 ^ 4 = 0) ∧
    (∃ (s : State) (r : Request) (f : Filter), s.anyKey = true ∧ r.src.pkg ≠ s.pkgId ∧ s.filters.find? (fun x => x.die == 12 && x.src == r.src) = some f ∧
      f.inc = r.inc ∧ 256 = (r.tsn - f.acked).toNat) ∧
    (∃ (s : State) (r : Request) (f : Filter) (b : ReplyBody), s.anyKey = true ∧ r.src.pkg ≠ s.pkgId ∧
      s.filters.find? (fun x => x.die == 12 && x.src == r.src) = some f ∧ f.inc = r.inc ∧
      (r.tsn - f.acked).toNat = 255 ∧ f.done.find? (fun p => p.1 == r.tsn) = some (r.tsn, b)) ∧
    (∃ (s s1 : State) (r : Request) (f : Filter) (b : ReplyBody), s.anyKey = true ∧ r.src.pkg ≠ s.pkgId ∧
      s.filters.find? (fun x => x.die == 12 && x.src == r.src) = some f ∧ f.inc = r.inc ∧
      (r.tsn - f.acked).toNat < 256 ∧ f.done.find? (fun p => p.1 == r.tsn) = none ∧ (∀ i ∈ s.parked, r.mustFollow i = false) ∧
      s.executeRequest r = (s1, .reply b)) ∧
    (∃ (s s1 : State) (r : Request) (f : Filter), s.anyKey = true ∧ r.src.pkg ≠ s.pkgId ∧
      s.filters.find? (fun x => x.die == 12 && x.src == r.src) = some f ∧ f.inc = r.inc ∧
      (r.tsn - f.acked).toNat < 256 ∧ f.done.find? (fun p => p.1 == r.tsn) = none ∧ (∀ i ∈ s.parked, r.mustFollow i = false) ∧
      s.executeRequest r = (s1, .wait)) ∧
    (∃ (s : State) (r : Request) (f : Filter), s.anyKey = true ∧ r.src.pkg ≠ s.pkgId ∧
      s.filters.find? (fun x => x.die == 12 && x.src == r.src) = some f ∧ f.inc = r.inc ∧
      (r.tsn - f.acked).toNat < 256 ∧ f.done.find? (fun p => p.1 == r.tsn) = none ∧
      ∃ q, .requestAtTarget q ∈ s.parked ∧ q.src.pkg = r.src.pkg ∧ q.src.die = r.src.die ∧ q.addr.plane = r.addr.plane) ∧
    (∃ (s : State) (r : Request) (f : Filter), s.anyKey = true ∧ r.src.pkg ≠ s.pkgId ∧
      s.filters.find? (fun x => x.die == 12 && x.src == r.src) = some f ∧ f.inc ≠ r.inc ∧ (f.inc - r.inc).toNat < 2 ^ 15) ∧
    ∃ (s : State) (r : Request), s.supports r.op = false :=
  ⟨⟨onState, reqOf 0 3 (.load 8), by decide +kernel, by decide +kernel⟩,
   ⟨filterState ⟨12, far1, 0, 3, []⟩, reqOf 256 3 (.load 8), _, by decide +kernel, by decide +kernel, rfl, rfl, by decide⟩,
   ⟨filterState ⟨12, far1, 0xFF80, 3, [(0x7F, .done)]⟩, reqOf 0x7F 3 (.load 8), _, .done, by decide +kernel, by decide +kernel, rfl, rfl, by decide, rfl⟩,
   ⟨filterState ⟨12, far1, 0, 3, []⟩, _, reqOf 0 3 (.load 8), _, .error 0x1E 0, by decide +kernel, by decide +kernel, rfl, rfl, by decide, rfl,
     fun i h => absurd h List.not_mem_nil, pair_of (by decide +kernel)⟩,
   ⟨waitFilter, _, reqOf 0 3 (.load 8), _, by decide +kernel, by decide +kernel, rfl, rfl, by decide, rfl, fun i h => absurd h List.not_mem_nil, pair_of (by decide +kernel)⟩,
   ⟨{ waitFilter with parked := [.requestAtTarget (reqOf 1 3 (.load 8))] }, reqOf 0 3 (.load 8), _, by decide +kernel, by decide +kernel, rfl, rfl, by decide, rfl, _,
     List.mem_singleton_self _, rfl, rfl, rfl⟩,
   ⟨filterState ⟨12, far1, 0, 3, []⟩, reqOf 0 2 (.load 8), _, by decide +kernel, by decide +kernel, rfl, by decide, by decide⟩,
   ⟨onState, reqOf 0 3 (.line 6 []), by decide +kernel⟩⟩

/-- A load by an agent of die 0 of memory of die 1 that has crossed the link, with a filter there. -/
def hereOut : Outgoing := ⟨⟨0, 0, 5⟩, 9, 0, 0, 2 ^ 48, 0, .load 8, .fetch (sId 0) none, .here (.mem (2 ^ 48) 1)⟩
def hereFlight : Flight := ⟨hereOut, 9, 2, sId 0, SyncUse.unchecked, 0, true, none⟩
def hereReq : Request := ⟨⟨0, 0, 5⟩, 9, 9, 2, .pa (2 ^ 48), .load 8⟩
def hereState (s : State) (l : List Filter) : State := { s with flights := [hereFlight], filters := l }
theorem witness_requestsFromInside :
    (∃ (s : State) (r : Request) (f : Flight) (p : Place), r.src.pkg = s.pkgId ∧ s.requestFlight? r = some (f, p) ∧ f.out.dest ≠ f.out.src.die ∧
      (s.die f.out.dest).powered = false) ∧
    (∀ (x : Filter), x = ⟨1, ⟨0, 0, 5⟩, 9, 3, []⟩ ∨ x = ⟨1, ⟨0, 0, 5⟩, 10, 2, []⟩ ∨ x = ⟨1, ⟨0, 0, 5⟩, 0xFF0A, 2, [(9, .data [])]⟩ →
      ∃ (s : State) (r : Request) (f : Flight) (p : Place), r.src.pkg = s.pkgId ∧ s.requestFlight? r = some (f, p) ∧ f.out.dest ≠ f.out.src.die ∧
        (s.die f.out.dest).powered = true ∧ (s.die f.out.dest).inReset = false ∧
        s.filters.find? (fun y => y.die == f.out.dest && y.src == f.out.src) = some x ∧
        (x.inc = 3 → x.inc ≠ f.inc ∧ (x.inc - f.inc).toNat < 2 ^ 15) ∧ (x.inc = 2 → x.inc = f.inc) ∧
        (x.done = [] → x.inc = 2 → 256 ≤ (f.out.tsn - x.acked).toNat) ∧
        (x.done ≠ [] → (f.out.tsn - x.acked).toNat < 256 ∧ x.done.find? (fun q => q.1 == f.out.tsn) = some (f.out.tsn, .data []))) ∧
    ∃ (s : State) (q : Request), q.src.pkg = s.pkgId ∧ s.requestFlight? q = none :=
  ⟨⟨hereState State.reset [], hereReq, hereFlight, .mem (2 ^ 48) 1, rfl, rfl, by decide, rfl⟩,
   fun x h => ⟨hereState poweredState [x], hereReq, hereFlight, .mem (2 ^ 48) 1, rfl, rfl, by decide, by show (poweredState.die 1).powered = true; decide +kernel,
     by show (poweredState.die 1).inReset = false; decide +kernel,
     by obtain rfl | rfl | rfl := h <;> rfl,
     by obtain rfl | rfl | rfl := h <;> decide, by obtain rfl | rfl | rfl := h <;> decide, by obtain rfl | rfl | rfl := h <;> decide,
     by obtain rfl | rfl | rfl := h <;> decide⟩,
   ⟨State.reset, hereReq, rfl, rfl⟩⟩

/-- Where every module of a link between neighbours trains or has failed, nothing leaves on it. -/
theorem inactive_of {s : State} {a b : Nat} (hp : linkPath a b = [(a, b)]) (hn : 0 < (linkModules a b).2)
    (h : ∀ k, k < (linkModules a b).2 → s.moduleActive a ((linkModules a b).1 + k) = false) (addr : Nat) : s.linkActive a b addr = false := by
  have hf : ((List.range (linkModules a b).2).find? fun i => s.moduleActive a ((linkModules a b).1 + (addr / 128 % (linkModules a b).2 + i) % (linkModules a b).2)) = none :=
    List.find?_eq_none.2 fun i _ => by simp [h _ (Nat.mod_lt _ hn)]
  unfold State.linkActive State.moduleFor
  rw [hp]
  simp only [List.all_cons, List.all_nil, Bool.and_true, hf]
  exact h _ (Nat.mod_lt _ hn)
/-- The link from die 12 to die 3 trains. -/
def trainingState : State := { poweredState with dev := (List.range 8).map fun k => (devKey 12 (0x8000 + 0x40 * (24 + k)), 1) }
theorem witness_repliesAndTimeouts :
    (∃ (s : State) (q : Requester), (s.die q.die).powered = false) ∧
    (∃ (s : State) (r : Reply), (s.die r.dst.die).powered = true ∧ s.replyFlight? r = none ∧ ∀ a, s.linkActive 12 r.dst.die a = false) ∧
    (∃ (s : State) (r : Reply), (s.die r.dst.die).powered = true ∧ s.replyFlight? r = none ∧ (∀ a, s.linkActive 12 r.dst.die a = true) ∧ r.inc ≠ (s.die r.dst.die).inc) ∧
    (∀ b : ReplyBody, b = .data [1] ∨ b = .error 0x13 2 → ∃ (s : State) (r : Reply) (o : Outgoing) (g : GangId) (code : Option (Bool × BitVec 8)),
      (s.die r.dst.die).powered = true ∧ s.replyFlight? r = none ∧ (∀ a, s.linkActive 12 r.dst.die a = true) ∧
      r.inc = (s.die r.dst.die).inc ∧ s.outstanding.find? (fun x => x.src == r.dst && x.tsn == r.tsn) = some o ∧ o.owner = .fetch g code ∧
      s.hasRoom o.src 1 = true ∧ r.body = b) ∧
    (∀ l : List (Requester × BitVec 16), l = [] ∨ l = [(near12, 9)] → ∃ (s : State) (r : Reply), (s.die r.dst.die).powered = true ∧
      s.replyFlight? r = none ∧ (∀ a, s.linkActive 12 r.dst.die a = true) ∧ r.inc = (s.die r.dst.die).inc ∧
      (∀ o ∈ s.outstanding, ¬ (o.src = r.dst ∧ o.tsn = r.tsn)) ∧ s.retired = l ∧ r.dst = near12 ∧ r.tsn = 9) ∧
    (∃ (s : State) (tag : Nat) (o : Outgoing) (g : GangId) (code : Option (Bool × BitVec 8)), s.outstanding.find? (fun x => x.target == 512 && x.tag == tag) = some o ∧
      o.owner = .fetch g code ∧ s.hasRoom o.src 1 = true) ∧
    ∃ (s : State) (q : Requester) (tsn : BitVec 16) (tag : Nat), (∀ o ∈ s.outstanding, o.target ≠ 512) ∧ s.retired = [(q, tsn)] ∧
      tag = tsn.toNat + 2 ^ 16 * (q.agent + 2 ^ 8 * q.die) := by
  have hon : (onState.die 12).powered = true := by decide +kernel
  have hp (l o f) : (({ onState with retired := l, outstanding := o, flights := f } : State).die 12).powered = true :=
    (congrArg Die.powered (die_of onState l o f)).trans hon
  have hi (l o f) : 0 = (({ onState with retired := l, outstanding := o, flights := f } : State).die 12).inc :=
    ((congrArg Die.inc (die_of onState l o f)).trans onState_inc).symm
  refine ⟨⟨State.reset, near0, by decide +kernel⟩,
    ⟨trainingState, ⟨near0, 9, 0, .done⟩, by decide +kernel, rfl, inactive_of (by decide) (by decide) (by decide +kernel)⟩,
    ⟨{ onState with retired := [], outstanding := [], flights := [] }, ⟨near12, 9, 5, .done⟩, hp _ _ _, rfl, fun _ => rfl, by decide +kernel⟩,
    fun b _ => ⟨{ onState with retired := [], outstanding := [fetchOut 1], flights := [] }, ⟨near12, 9, 0, b⟩, fetchOut 1, sId 0, some (false, 1),
      hp _ _ _, rfl, fun _ => rfl, hi _ _ _, rfl, rfl, rfl, rfl⟩,
    fun l _ => ⟨{ onState with retired := l, outstanding := [], flights := [] }, ⟨near12, 9, 0, .done⟩, hp _ _ _, rfl, fun _ => rfl,
      hi _ _ _, fun o h => absurd h List.not_mem_nil, rfl, rfl, rfl⟩,
    ⟨fetchState 512, (fetchOut 512).tag, fetchOut 512, sId 0, some (false, 1), rfl, rfl, rfl⟩,
    ⟨{ State.reset with retired := [(near12, 9)] }, near12, 9, _, fun o h => absurd h List.not_mem_nil, rfl, rfl⟩⟩

/-- Inbound region 5: 64 KiB at address 0x20000, with its permissions, for a key. -/
def regionState (perm : Nat) : State :=
  let s := partState [] 1
  (s.devSet 12 0x2050 0x20000).devSet 12 0x2058 (BitVec.ofNat 64 (2 ^ 63 + perm * 2 ^ 59 + 2 ^ 54 * (0 + 2 * 12) + 2 ^ 32 + 7))
def hostKey : DWord := BitVec.ofNat 64 (5 + 7 * 2 ^ 32)
/-- A key of the boot ROM's region `i`, with another key word or not. -/
def romKey (i : Nat) (other : Nat) : DWord := BitVec.ofNat 64 (i + 2 ^ 32 * (((onState.devGet 12 (0x2008 + 16 * i)).toNat + other) % 2 ^ 32))
theorem witness_hostRequests :
    (∃ (s : State) (k : DWord) (o : Nat) (d : List Byte) (c : Nat), .inboundRmaWrite ⟨k, some c⟩ o d ∈ s.parked) ∧
    (∀ i : Nat, i = 62 ∨ i = 63 → ∀ off n : Nat, off = 0x4000 ∧ n = 8 ∨ off = 0x4010 ∧ n = 8 ∨ off = 0x4008 ∧ n = 8 ∨ off = 2 ^ 26 ∧ n = 1 →
      ∃ (s : State) (key bad : DWord), s.parked = [] ∧ i ∈ s.boot.romRegions ∧ key.toNat % 64 = i ∧ bad.toNat % 64 = i ∧
        (let hi := (s.devGet 12 (0x2008 + 16 * i)).toNat
         key.toNat / 2 ^ 32 = hi % 2 ^ 32 ∧ bad.toNat / 2 ^ 32 ≠ hi % 2 ^ 32 ∧
         (off = 2 ^ 26 → hi / 2 ^ 32 % 2 ^ 18 * 2 ^ 16 < off + n) ∧ (off < 0x8000 → off + n ≤ hi / 2 ^ 32 % 2 ^ 18 * 2 ^ 16))) ∧
    (∃ s : State, 5 ∉ s.boot.romRegions ∧ s.stage = 1) ∧
    (∃ (s : State) (key : DWord), key.toNat % 64 ∉ s.boot.romRegions ∧ s.stage ≠ 1 ∧ s.stage ≠ 15 ∧ (s.devGet 12 (0x2008 + 16 * (key.toNat % 64))).toNat / 2 ^ 63 = 0) ∧
    (∀ off perm : Nat, (off = 65532 ∨ off = 65533) ∧ (perm = 0 ∨ perm = 3) → ∃ s : State, hostKey.toNat % 64 ∉ s.boot.romRegions ∧ s.stage ≠ 1 ∧ s.stage ≠ 15 ∧
      s = regionState perm ∧
      (let hi := (s.devGet 12 (0x2008 + 16 * (hostKey.toNat % 64))).toNat
       hi / 2 ^ 63 = 1 ∧ hi / 2 ^ 61 % 4 = 0 ∧ hi % 2 ^ 32 = hostKey.toNat / 2 ^ 32 ∧
       (off = 65532 → off + 4 ≤ hi / 2 ^ 32 % 2 ^ 18 * 2 ^ 16) ∧ (off = 65533 → hi / 2 ^ 32 % 2 ^ 18 * 2 ^ 16 < off + 4) ∧
       (perm = 0 → hi / 2 ^ 59 % 2 = 0 ∧ hi / 2 ^ 60 % 2 = 0))) ∧
    (∀ w : Bool, ∃ (s1 : State) (l : List (Place × Nat)), (regionState 3).rmaCheck hostKey 65532 4 w = (s1, .ok l) ∧ l = [(.mem 0x2FFFC 0, 4)]) ∧
    (∀ w : Bool, ∃ s1 : State, waitState.rmaCheck hostKey 65532 4 w = (s1, .wait)) ∧ hostKey.toNat % 64 ∉ waitState.boot.romRegions ∧ waitState.stage = 0 ∧
    ∃ (s : State) (w : Nat), NoWindow s ∧ ∀ o ∈ s.outstanding, ¬ (o.target = 512 ∧ o.plane = w) := by
  refine ⟨⟨{ onState with parked := [.inboundRmaWrite ⟨0, some 3⟩ 0 []] }, 0, 0, [], 3, List.mem_singleton_self _⟩, fun i hi off n h => ?_,
    ⟨onState, by decide +kernel, by decide +kernel⟩, ⟨partState [] 1, 5, by decide +kernel, by decide +kernel, by decide +kernel, by decide +kernel⟩, fun off perm h => ?_, ?_, ?_,
    by decide +kernel, by decide +kernel,
    ⟨State.reset, 0, noWindow_of rfl, fun o h => by cases h⟩⟩
  · refine ⟨onState, romKey i 0, romKey i 1, by decide +kernel, ?_⟩
    obtain rfl | rfl := hi <;> obtain ⟨rfl, rfl⟩ | ⟨rfl, rfl⟩ | ⟨rfl, rfl⟩ | ⟨rfl, rfl⟩ := h <;> decide +kernel
  · obtain ⟨h1, h2⟩ := h
    refine ⟨regionState perm, ?_⟩
    obtain rfl | rfl := h1 <;> obtain rfl | rfl := h2 <;> exact ⟨by decide +kernel, by decide +kernel, by decide +kernel, rfl, by decide +kernel⟩
  · intro w
    cases w <;> exact ⟨_, _, pair_of rfl, by decide +kernel⟩
  · intro w
    cases w <;> exact ⟨_, pair_of rfl⟩

/-! ## Witnesses: links -/

/-- Dies 0 and 1 with a status of the link between them at die 0, a register of port 0 of die 12, and modules. -/
def linkState (st port : DWord) (l : List Module) : State :=
  { State.reset with dev := [(0x8000, st), (devKey 8 0xC000, port), (devKey 12 0xB000, port)], modules := l }
/-- A flit of a request and one of a reply. -/
def flitOf (tsn : BitVec 16) (reply : Bool) : Flit := ⟨near0, tsn, 0, 0, reply, none⟩
theorem witness_linkFailures_modules :
    let St := fun (s : State) (die m : Nat) => (s.devGet die (0x8000 + 0x40 * m)).toNat % 8
    let Other := fun (s : State) => s.module (modulePeer 0 0).1 (modulePeer 0 0).2
    let Fails := fun (s : State) => if (Other s).again then (Other s).replays + 1 else 0
    let Able := fun (s : State) => (s.module 0 0).discarding = false ∨ (Other s).again = true
    let Hears := fun (s : State) => St s (modulePeer 0 0).1 (modulePeer 0 0).2 ≠ 1 ∧ St s (modulePeer 0 0).1 (modulePeer 0 0).2 ≠ 7 ∧ Able s
    moduleExists 0 0 = true ∧ (∀ v : Nat, v = 1 ∨ v = 7 → ∃ s : State, St s 0 0 = v) ∧
    (∃ s : State, (s.module 0 0).discarding = true ∧ (Other s).again = false) ∧
    (∀ n : Nat, n = 0 ∨ n = 2 → ∀ d : Bool, (n = 0 → d = false) → ∃ s : State, St s 0 0 ≠ 1 ∧ St s 0 0 ≠ 7 ∧ (s.module 0 0).discarding = d ∧ Able s ∧ Fails s = n) ∧
    (∃ s : State, St s 0 0 ≠ 1 ∧ St s 0 0 ≠ 7 ∧ Able s ∧ Fails s = 3 ∧ (s.devGet 0 0x8000).toNat / 2 ^ 8 % 2 ^ 8 ≠ 32) ∧
    (∃ s : State, St s 0 0 ≠ 1 ∧ St s 0 0 ≠ 7 ∧ Able s ∧ Fails s = 3 ∧ (s.devGet 0 0x8000).toNat / 2 ^ 8 % 2 ^ 8 = 32 ∧ s.outstanding = []) ∧
    (∀ d : Bool, ∃ s : State, St s 0 0 ≠ 1 ∧ St s 0 0 ≠ 7 ∧ 1 < (s.module 0 0).flits.length ∧ (s.module 0 0).discarding = d ∧ (Hears s ↔ d = false)) ∧
    (∀ v : Nat, v = 1 ∨ v = 7 → ∃ s : State, St s (modulePeer 0 0).1 (modulePeer 0 0).2 = v) ∧
    (∃ s : State, St s 0 0 = 1 ∧ s.outstanding = []) ∧
    (∀ k : Nat, k = 31 ∨ k = 32 → ∃ bad : BitVec 64, bad.getLsbD k = true ∧ (∀ j, j < k → bad.getLsbD j = false) ∧
      (bad.toNat / 2 ^ 32 = 0 ∨ bad.toNat % 2 ^ 32 = 0)) ∧
    ∃ bad : BitVec 64, bad.toNat / 2 ^ 32 ≠ 0 ∧ bad.toNat % 2 ^ 32 ≠ 0 := by
  refine ⟨by decide, fun v hv => ⟨linkState (BitVec.ofNat 64 v) 2 [], ?_⟩, ⟨linkState 2 2 [⟨0, 0, [], 0, false, 0, true⟩], by decide +kernel⟩,
    fun n hn d hd => ⟨linkState 2 2 [⟨1, 0, [flitOf 5 true], 0, n != 0, n - 1, false⟩, ⟨0, 0, [], 0, false, 0, d⟩], ?_⟩,
    ⟨linkState 2 2 [⟨1, 0, [flitOf 5 true], 0, true, 2, false⟩], by decide +kernel⟩,
    ⟨linkState 0x2002 2 [⟨1, 0, [flitOf 5 true], 0, true, 2, false⟩], by decide +kernel⟩,
    fun d => ⟨linkState 2 2 [⟨0, 0, [flitOf 5 false, flitOf 6 true], 0, false, 0, d⟩], ?_⟩,
    fun v hv => ⟨{ linkState 2 2 [] with dev := [(devKey (modulePeer 0 0).1 (0x8000 + 0x40 * (modulePeer 0 0).2), BitVec.ofNat 64 v)] }, ?_⟩,
    ⟨linkState 1 2 [], by decide +kernel⟩, fun k hk => ⟨BitVec.ofNat 64 (2 ^ k), ?_⟩, 1 + 2 ^ 63, by decide +kernel⟩
  · obtain rfl | rfl := hv <;> decide +kernel
  · obtain rfl | rfl := hn <;> revert d <;> decide +kernel
  · revert d; decide +kernel
  · obtain rfl | rfl := hv <;> decide +kernel
  · obtain rfl | rfl := hk <;> decide +kernel
/-- Which flit fails again is a free value: a fourth failure is shown without it. -/
theorem witness_linkFailures_ports :
    (∃ (s : State) (n : Nat), n < 32 ∧ (s.devGet 12 (portReg n)).toNat % 8 = 7) ∧
    (∀ k : Nat, k = 0 ∨ k = 3 → ∃ (s : State) (n : Nat), n < 32 ∧ (s.devGet 12 (portReg n)).toNat % 8 ≠ 7 ∧ (s.port n).fails = k ∧ s.outstanding = []) ∧
    (∃ (s : State) (n : Nat), n < 32 ∧ (s.devGet 12 (portReg n)).toNat % 8 ≠ 7 ∧ (s.devGet 12 (portReg n)).toNat / 2 ^ 12 % 2 = 1) ∧
    (∀ old : Nat, old = 0 ∨ old = 15 → ∃ (s : State) (n : Nat), n < 32 ∧ (s.devGet 12 (portReg n)).toNat % 8 ≠ 7 ∧
      (s.devGet 12 (portReg n)).toNat / 2 ^ 8 % 2 ^ 4 = old ∧ (s.devGet 12 (portReg n)).toNat / 2 ^ 12 % 2 = 0) ∧
    (∃ (s : State) (n m : Nat), (n, m) ∈ s.badPlanes) ∧
    (∃ (s : State) (n m : Nat), (n, m) ∉ s.badPlanes ∧ ∀ o ∈ s.outstanding, ¬ (o.plane = n ∧ o.target = m)) ∧
    (∃ (s : State) (die n : Nat), 8 ≤ die ∧ die < 12 ∧ n < 4 ∧ (s.devGet die (0xC000 + 0x20 * n)).toNat % 4 = 3) ∧
    ∃ (s : State) (die n : Nat) (x : Migration), 8 ≤ die ∧ die < 12 ∧ n < 4 ∧ (s.devGet die (0xC000 + 0x20 * n)).toNat % 4 ≠ 3 ∧
      s.migrations[0]? = some x ∧ inPort die n (if x.demote then x.frame else x.oldFrame) = true := by
  refine ⟨⟨linkState 2 7 [], 0, by decide +kernel⟩, fun k hk => ⟨{ linkState 2 0x302 [] with ports := [⟨0, k⟩] }, 0, ?_⟩, ⟨linkState 2 0x1302 [], 0, by decide +kernel⟩,
    fun old ho => ⟨linkState 2 (BitVec.ofNat 64 (2 + 2 ^ 8 * old)) [], 0, ?_⟩, ⟨{ State.reset with badPlanes := [(0, 1)] }, 0, 1, by decide⟩, ⟨State.reset, 0, 1, by decide⟩,
    ⟨linkState 2 3 [], 8, 0, by decide +kernel⟩, { linkState 2 2 [] with migrations := [{ moving with oldPte := 0xF300000800000000 }] }, 8, 0, _,
    by decide, by decide, by decide, by decide +kernel, rfl, by decide +kernel⟩
  · obtain rfl | rfl := hk <;> decide +kernel
  · obtain rfl | rfl := ho <;> decide +kernel

/-! ## Witnesses: spans -/

/-- Span 0 of packages 1 and 0, whose coordinator is package 1, and of 0 and 1, whose coordinator is this package. -/
def memberKey : SpanKey := ⟨1, 0⟩
def coordKey : SpanKey := ⟨0, 0⟩
def memberGrid : Grid := { queuedGrid with record := { queuedGrid.record with spanSize := 2, pkgList := [1, 0] } }
def memberState : State := { onState with grids := [memberGrid] }
def heldFor (k : SpanKey) : Reservation := ⟨k, firstHandle, []⟩
theorem member_places : memberState.choosePlaces memberGrid (memberState.spanBlocks memberGrid) memberGrid.record.firstDies =
    some [(false, [dispatchSpot])] := by
  have h : (memberGrid.record.firstDies.filterMap fun d => memberState.fitCopies memberGrid d
      (halves memberGrid.record.cohort (memberState.spanBlocks memberGrid)).1
      (halves memberGrid.record.cohort (memberState.spanBlocks memberGrid)).2) = [[(false, [dispatchSpot])]] := by decide +kernel
  unfold State.choosePlaces
  simp only [h]
  simp [Nat.mod_one]
/-- Die 0 serves compute gangs no more: a die of the mask that is not powered. -/
def coldState : State := { State.reset with grids := [memberGrid] }
theorem cold_places : coldState.choosePlaces memberGrid (coldState.spanBlocks memberGrid) memberGrid.record.firstDies = none := by
  have h : (memberGrid.record.firstDies.filterMap fun d => coldState.fitCopies memberGrid d
      (halves memberGrid.record.cohort (coldState.spanBlocks memberGrid)).1
      (halves memberGrid.record.cohort (coldState.spanBlocks memberGrid)).2) = [] := by decide +kernel
  unfold State.choosePlaces
  simp only [h]
  simp
/-- A span of packages 0, 1 and 2 in a round of this coordinator, with its grid and one plane of traffic. -/
def coordSpan (r : SpanRound) (ans : List (Nat × Bool)) (ack ld : List Nat) (att : List (Nat × Nat)) : Span :=
  ⟨coordKey, firstHandle, [0, 1, 2], r, ans, ack, ld, att⟩
def coordGrid : Grid := { firstGrid with record := { firstRecord with spanSize := 3, pkgList := [0, 1, 2] } }
def coordState (x : Span) (l : List Block) : State :=
  { State.reset with grids := [coordGrid], spans := [x], blocks := l, dev := [(devKey 12 0xB000, 0x102)] }
theorem witness_spanReservations :
    (∃ (s : State) (k : SpanKey), k.coord ≠ s.pkgId ∧ s.spanGrid? k = none) ∧
    (∃ (s : State) (k : SpanKey) (gr : Grid) (p : List (Bool × List Spot)), k.coord ≠ s.pkgId ∧ s.spanGrid? k = some gr ∧ s.spanWaiting gr = true ∧
      s.reservation = none ∧ s.choosePlaces gr (s.spanBlocks gr) gr.record.firstDies = some p) ∧
    (∃ (s : State) (k : SpanKey) (gr : Grid), k.coord ≠ s.pkgId ∧ s.spanGrid? k = some gr ∧ s.spanWaiting gr = true ∧
      s.reservation = none ∧ s.choosePlaces gr (s.spanBlocks gr) gr.record.firstDies = none) ∧
    (∀ v : Reservation, v = heldFor memberKey ∨ v = heldFor ⟨1, 1⟩ ∨ v = heldFor ⟨0, 9⟩ → ∃ (s : State) (k : SpanKey) (gr : Grid),
      k.coord ≠ s.pkgId ∧ s.spanGrid? k = some gr ∧ s.spanWaiting gr = true ∧ s.reservation = some v ∧ s.reserveQueue.contains k = false ∧
      (v = heldFor memberKey → v.key = k) ∧ (v = heldFor ⟨1, 1⟩ → k.coord = v.key.coord ∧ k.spanId < v.key.spanId) ∧
      (v = heldFor ⟨0, 9⟩ → v.key.coord < k.coord)) ∧
    (∃ (s : State) (k : SpanKey) (n : Nat) (x : Span), s.span? k = some x ∧ x.round = .reserve ∧ (∀ a ∈ x.answers, a.1 ≠ n) ∧
      ∃ m, m < x.members.length ∧ m ≠ n ∧ ∀ a ∈ x.answers, a.1 ≠ m) ∧
    (∀ b : Bool, ∃ (s : State) (k : SpanKey) (n : Nat) (x : Span), s.span? k = some x ∧ x.round = .reserve ∧ (∀ a ∈ x.answers, a.1 ≠ n) ∧
      (∀ m, m < x.members.length → m = n ∨ ∃ a ∈ x.answers, a.1 = m) ∧ if b then ∀ a ∈ x.answers, a.2 = true else ∃ a ∈ x.answers, a.2 = false) ∧
    (∃ (s : State) (k : SpanKey) (x : Span) (gr : Grid), s.span? k = some x ∧ x.round = .retry ∧ s.grid? x.handle = some gr ∧ gr.spanKey = k ∧
      gr.record.pkgList = x.members ∧ ∃ m ∈ others s x, ∃ o, o ∈ s.controlTo (x.members.getD m 0) (.spanReserve k m)) ∧
    (∃ (s : State) (k : SpanKey), (∀ x, s.span? k = some x → x.round ≠ .retry) ∧ ∀ v, s.reservation = some v → v.key ≠ k) ∧
    ∃ (s : State) (k : SpanKey) (v : Reservation) (gr : Grid), s.reservation = some v ∧ v.key = k ∧ s.spanGrid? k = some gr ∧ s.grid? gr.handle = some gr := by
  refine ⟨⟨State.reset, memberKey, by decide, rfl⟩, ⟨memberState, memberKey, memberGrid, _, by decide +kernel, by decide +kernel, by decide +kernel, by decide +kernel, member_places⟩,
    ⟨coldState, memberKey, memberGrid, by decide +kernel, by decide +kernel, by decide +kernel, by decide +kernel, cold_places⟩,
    fun v hv => ⟨{ coldState with reservation := some v }, memberKey, memberGrid, ?_⟩,
    ⟨coordState (coordSpan .reserve [(0, true)] [] [] []) [], coordKey, 1, coordSpan .reserve [(0, true)] [] [] [], by decide +kernel, rfl, by decide, 2, by decide⟩,
    fun b => ⟨coordState (coordSpan .reserve [(0, true), (1, b)] [] [] []) [], coordKey, 2, coordSpan .reserve [(0, true), (1, b)] [] [] [], ?_⟩,
    ⟨coordState (coordSpan .retry [] [] [] []) [], coordKey, coordSpan .retry [] [] [] [], coordGrid, by decide +kernel, rfl, by decide +kernel, rfl, rfl, 2, by decide +kernel,
      .control 0 2 (.spanReserve coordKey 2), by decide +kernel⟩,
    ⟨State.reset, coordKey, fun x h => (by cases h), fun v h => (by cases h)⟩,
    ⟨{ memberState with reservation := some (heldFor memberKey) }, memberKey, heldFor memberKey, memberGrid, by decide +kernel⟩⟩
  · obtain rfl | rfl | rfl := hv <;> decide +kernel
  · revert b; decide +kernel

/-- A gang of a member of a span that has arrived in barrier 3 of its block at scope .span, or has exited. -/
def spanGang (out : Bool) : Gang := { idGang 1 with exited := out, arrived := 8 }
def spanBlock : Block := { firstBlockRec with barriers := firstBlockRec.barriers.set 3 ⟨false, 1, 0, 5⟩ }
/-- This package is a member, or the coordinator, of a span with one block. -/
def spanOf (coord out : Bool) (b : Block) : State :=
  { mkState { memberGrid.record with pkgList := if coord then [0, 1] else [1, 0] } [spanGang out] (.scalar (sId 0) 1) [0] with blocks := [b] }
def spanGridOf (coord : Bool) : Grid := { firstGrid with record := { memberGrid.record with pkgList := if coord then [0, 1] else [1, 0] } }
def spanKeyOf (coord : Bool) : SpanKey := if coord then coordKey else memberKey
def pairSpan : Span := ⟨coordKey, firstHandle, [0, 1], .placed, [], [], [], []⟩
def loadedBlock (st : BlockState) : Block := { firstBlockRec with state := st }
def determSpan : Grid := { spanGridOf false with phase := .executing, record := { (spanGridOf false).record with determ := true } }
/-- The grid keeps deterministic rounds or not; none of them executes. -/
def betweenSpan (coord determ : Bool) : Grid :=
  { spanGridOf coord with phase := .committing, record := { (spanGridOf coord).record with determ := determ } }
theorem witness_spanRounds :
    (∀ r : SpanRound, r = .commit ∨ r = .release ∨ r = .stop → ∃ (s : State) (k : SpanKey) (n : Nat) (x : Span), s.span? k = some x ∧ x.round = r ∧
      ∃ m ∈ others s x, m ≠ n ∧ m ∉ x.acked) ∧
    (∀ r : SpanRound, r = .commit ∨ r = .release ∨ r = .stop → ∃ (s : State) (k : SpanKey) (n : Nat) (x : Span) (gr : Grid), s.span? k = some x ∧ x.round = r ∧
      (∀ m ∈ others s x, m = n ∨ m ∈ x.acked) ∧ s.grid? x.handle = some gr ∧ s.spanReloads x.handle = false) ∧
    (∃ (s : State) (k : SpanKey) (n : Nat) (x : Span) (gr : Grid), s.span? k = some x ∧ x.round = .commit ∧
      (∀ m ∈ others s x, m = n ∨ m ∈ x.acked) ∧ s.grid? x.handle = some gr ∧ ∃ b ∈ s.blocks, b.id.handle = gr.handle ∧ b.state = .placed) ∧
    (∃ (s : State) (k : SpanKey) (n : Nat) (x : Span) (gr : Grid), s.span? k = some x ∧ x.round = .placed ∧ s.grid? x.handle = some gr ∧
      ∃ m ∈ others s x, m ≠ n ∧ m ∉ x.loaded) ∧
    (∃ (s : State) (k : SpanKey) (n : Nat) (x : Span) (gr : Grid), s.span? k = some x ∧ x.round = .placed ∧ s.grid? x.handle = some gr ∧
      (∀ m ∈ others s x, m = n ∨ m ∈ x.loaded) ∧ s.blocks ≠ [] ∧
      ∀ b ∈ s.blocks, b.id.handle = gr.handle → b.state ≠ .exited → b.state ≠ .killed → b.state = .loaded) ∧
    (∃ (s : State) (k : SpanKey) (x : Span), s.span? k = some x ∧ x.round = .reserve) ∧
    (∀ r : SpanRound, r = .commit ∨ r = .release ∨ r = .stop → ∃ (s : State) (k : SpanKey) (n : Nat) (x : Span), s.span? k = some x ∧ n ∉ x.acked ∧ x.round = r ∧
      (lookupAt n x.attempts).getD 1 < 8) ∧
    (∀ r : SpanRound, r = .commit ∨ r = .release ∨ r = .stop → ∃ (s : State) (k : SpanKey) (n : Nat) (x : Span) (gr : Grid), NoWindow s ∧ s.span? k = some x ∧ n ∉ x.acked ∧
      x.round = r ∧ 8 ≤ (lookupAt n x.attempts).getD 1 ∧ s.grid? x.handle = some gr ∧ gr.spanKey = k) ∧
    (∃ (s : State) (k : SpanKey), s.spanGrid? k = none) ∧
    (∀ c out : Bool, ∃ (s : State) (k : SpanKey) (gr : Grid), s.spanGrid? k = some gr ∧ s.grid? gr.handle = some gr ∧ (s.blocks.map (·.id)).Nodup ∧
      (s.gangs.map (·.id)).Nodup ∧ s.spanExited gr = out ∧ (gr.member s.pkgId = 0 ↔ c = true) ∧ gr.spanKilled = false ∧
      (∃ b ∈ s.blocks, b.id.handle = gr.handle ∧ b.state = .running) ∧ ∀ x ∈ s.blocks, x.id.handle = gr.handle → x.freed = false → (x.barrier 15).scope ≠ 5) ∧
    (∃ (s : State) (k : SpanKey) (gr : Grid) (x : Span), s.spanGrid? k = some gr ∧ s.grid? gr.handle = some gr ∧ gr.member s.pkgId = 0 ∧
      gr.stopIssued = false ∧ s.span? k = some x ∧ x.handle = gr.handle ∧ others s x ≠ []) ∧
    (∃ (s : State) (k : SpanKey) (gr : Grid), s.spanGrid? k = some gr ∧ s.grid? gr.handle = some gr ∧ s.spanExited gr = false ∧
      gr.record.determ = true ∧ gr.phase = .executing) ∧
    (∀ d : Bool, ∃ (s : State) (k : SpanKey) (gr : Grid), s.spanGrid? k = some gr ∧ s.grid? gr.handle = some gr ∧ (s.blocks.map (·.id)).Nodup ∧
      (s.gangs.map (·.id)).Nodup ∧ s.spanExited gr = true ∧ gr.member s.pkgId = 0 ∧ gr.record.determ = d ∧ (k, 3) ∈ s.spanArrived ∧
      (s.spanFlushed k 3).isSome = true) ∧
    ∀ c d f : Bool, ∃ (s : State) (k : SpanKey) (gr : Grid) (x : Block), s.spanGrid? k = some gr ∧ s.grid? gr.handle = some gr ∧ (s.blocks.map (·.id)).Nodup ∧
      (s.gangs.map (·.id)).Nodup ∧ s.spanExited gr = false ∧ ¬ (gr.record.determ = true ∧ gr.phase = .executing) ∧
      s.blocks.find? (fun y => y.id.handle == gr.handle && !y.freed && (y.barrier 3).scope == 5) = some x ∧
      s.block? x.id = some x ∧ x.barriers.length = 16 ∧ s.allArrived x 3 5 = true ∧ (gr.member s.pkgId = 0 ↔ c = true) ∧
      s.grid? x.id.handle = some gr ∧ gr.spanKey = k ∧ (∀ g ∈ s.gangs, g.abuf = []) ∧ s.outstanding = [] ∧ x ∈ s.barrierBlocks x 5 ∧
      (∀ y ∈ s.barrierBlocks x 5, y.barriers.length = 16) ∧ gr.record.determ = d ∧ (k, 3) ∉ s.spanArrived ∧
      s.spanFlushed k 3 = if f then some false else none := by
  refine ⟨fun r hr => ⟨coordState (coordSpan r [] [2] [] []) [], coordKey, 2, coordSpan r [] [2] [] [], ?_⟩,
    fun r hr => ⟨coordState (coordSpan r [] [2] [] []) [], coordKey, 1, coordSpan r [] [2] [] [], coordGrid, ?_⟩,
    ⟨coordState (coordSpan .commit [] [2] [] []) [loadedBlock .placed], coordKey, 1, coordSpan .commit [] [2] [] [], coordGrid, by decide +kernel⟩,
    ⟨coordState (coordSpan .placed [] [] [] []) [], coordKey, 1, coordSpan .placed [] [] [] [], coordGrid, by decide +kernel⟩,
    ⟨coordState (coordSpan .placed [] [] [2] []) [loadedBlock .loaded], coordKey, 1, coordSpan .placed [] [] [2] [], coordGrid, by decide +kernel⟩,
    ⟨coordState (coordSpan .reserve [] [] [] []) [], coordKey, coordSpan .reserve [] [] [] [], by decide +kernel⟩,
    fun r hr => ⟨coordState (coordSpan r [] [2] [] [(1, 7)]) [], coordKey, 1, coordSpan r [] [2] [] [(1, 7)], ?_⟩,
    fun r hr => ⟨coordState (coordSpan r [] [2] [] [(1, 8)]) [], coordKey, 1, coordSpan r [] [2] [] [(1, 8)], coordGrid, noWindow_of rfl, ?_⟩,
    ⟨State.reset, coordKey, rfl⟩, fun c out => ⟨spanOf c out firstBlockRec, spanKeyOf c, spanGridOf c, ?_⟩,
    ⟨{ spanOf true false firstBlockRec with spans := [pairSpan] }, coordKey, spanGridOf true, pairSpan, by decide +kernel⟩,
    ⟨{ spanOf false false firstBlockRec with grids := [determSpan] }, memberKey, determSpan, by decide +kernel⟩,
    fun d => ⟨{ spanOf true true firstBlockRec with grids := [betweenSpan true d], spanArrived := [(coordKey, 3)], spanFlush := [(coordKey, 3, false)] },
      coordKey, betweenSpan true d, ?_⟩,
    fun c d f => ⟨{ spanOf c false spanBlock with grids := [betweenSpan c d], spanFlush := if f then [(spanKeyOf c, 3, false)] else [] },
      spanKeyOf c, betweenSpan c d, spanBlock, ?_⟩⟩
  · obtain rfl | rfl | rfl := hr <;> decide +kernel
  · obtain rfl | rfl | rfl := hr <;> decide +kernel
  · obtain rfl | rfl | rfl := hr <;> decide +kernel
  · obtain rfl | rfl | rfl := hr <;> decide +kernel
  · revert c out; decide +kernel
  · revert d; decide +kernel
  · revert c d f; decide +kernel

/-! ## Witnesses: engines at work -/

/-- The second unit of a copy of two within the local store, of its unit 1 or done, and the operation that a kind makes. -/
def copyAt (landed : List Nat) (mark : Nat) : CopyOp := ⟨false, false, 1, 1, 64, 0, 2, mark, 128, 9, landed, 0, 1, none, false⟩
def workOp (k : OpKind) : EngineOp := ⟨7, sId 0, k, 0, [0], false, false, none⟩
def workState (k : OpKind) : State := { partState [idGang 1] 1 with ops := [workOp k] }
/-- Batches 0 and 1 are sealed; operation 7 is in the younger one, and has ended as `f` says. -/
def batchGang (first : List Nat) : Gang := { idGang 1 with sealed := [⟨0, first⟩, ⟨1, [7]⟩], c := 2 }
def batchState (first : List Nat) (f : Option TrapInfo) : State :=
  { workState (.copy (copyAt [0, 1] 0)) with
    gangs := [batchGang first]
    ops := [{ workOp (.copy (copyAt [0, 1] 0)) with complete := true, fault := f }, { workOp (.copy (copyAt [0] 0)) with id := 8 }] }
/-- The count of corrected granules of the state's die is at its top, where it stays. -/
def loadState : State := { workState (.tile (.load 3 0)) with dev := [(devKey 0 0x7040, BitVec.allOnes 64)] }
theorem bankOpen_idle {s : State} (h : ∀ d u, s.unitForced d u = false) (r : Located) (n : Nat) : s.bankOpen r n = r := by
  unfold State.bankOpen
  split
  · simp only [h, show ∀ l : List Nat, l.find? (fun _ => false) = none from fun l => by induction l <;> simp_all]
  · rfl
theorem saturated {s : State} {p : Place} {die : Nat} (h : s.devGet (p.die die) 0x7040 = BitVec.allOnes 64) : s.corrected p die = s := by
  unfold State.corrected State.count
  rw [if_pos h]
  split <;> rfl
theorem load_located : ∀ k, k < 4096 → loadState.locateLoc (sId 0) .load (16 * k) 16 = .ok (.ls (16 * k) firstBlock (16 * k)) := by
  have h : ((List.range 4096).all fun k => decide (loadState.locateLoc (sId 0) .load (16 * k) 16 = .ok (.ls (16 * k) firstBlock (16 * k)))) = true := by
    decide +kernel
  exact fun k hk => of_decide_eq_true (List.all_eq_true.1 h k (List.mem_range.2 hk))
theorem load_read (k : Nat) (hk : k < 4096) : loadState.engineRead (sId 0) 1 (16 * k) 16 = (loadState, .ok (loadState.ls.read (16 * k) 16)) := by
  have hl : loadState.issuedLocate (sId 0) .load 1 (16 * k) 16 = (loadState, .ok (.ls (16 * k) firstBlock (16 * k))) := by
    show loadState.locate (sId 0) .load 1 (16 * k) 16 = _
    have h1 : ¬ 2 ^ spaceBits 1 ≤ 16 * k := by
      have : spaceBits 1 = 28 := rfl
      rw [this]; omega
    have h2 : (16 * k % 16 != 0) = false := by simp
    unfold State.locate
    rw [if_neg h1, h2]
    simp only [Bool.false_eq_true, if_false, load_located k hk]
    rw [bankOpen_idle fun d u => rfl]
  have hd : Place.die (.ls (16 * k) firstBlock (16 * k)) (loadState.gangDie (sId 0)) = loadState.gangDie (sId 0) :=
    Nat.div_eq_of_lt (Nat.lt_of_lt_of_le (by omega : 16 * k < 65536) (by decide))
  have hp : loadState.poisonCheck (.ls (16 * k) firstBlock (16 * k)) 16 false = (loadState, none) := rfl
  unfold State.engineRead
  rw [hl]
  simp only [show Place.isRemote (.ls (16 * k) firstBlock (16 * k)) = false from rfl, Bool.false_eq_true, if_false, hp, State.sendOver]
  rw [if_pos (show (loadState.engineRequester (sId 0)).die = _ from hd.symm), saturated (by rw [hd]; decide +kernel)]
  rfl
theorem load_pieces : ∀ (m f k : Nat) (bs : List Byte), m ≤ f → k + m ≤ 4096 → ∃ bs', bs'.length = bs.length + 16 * m ∧
    (pieces 16 f (16 * k) (16 * m)).foldl (fun (st : State × EngAcc) p => match st.2 with
      | .ok bs => match st.1.engineRead (sId 0) 1 p.1 p.2 with
        | (s, .ok x) => (s, .ok (bs ++ x))
        | r => r
      | _ => st) (loadState, .ok bs) = (loadState, .ok bs')
  | 0, f, k, bs, _, _ => ⟨bs, by omega, by cases f <;> rfl⟩
  | m + 1, f + 1, k, bs, hf, hk => by
    obtain ⟨bs', h1, h2⟩ := load_pieces m f (k + 1) (bs ++ loadState.ls.read (16 * k) 16) (by omega) (by omega)
    refine ⟨bs', by rw [h1, List.length_append, show (loadState.ls.read (16 * k) 16).length = 16 by simp [Memory.read]]; omega, ?_⟩
    have hp : pieces 16 (f + 1) (16 * k) (16 * (m + 1)) = (16 * k, 16) :: pieces 16 f (16 * (k + 1)) (16 * m) := by
      have h : ([16, 8, 4, 2, 1].find? fun w => w ≤ 16 && (16 * k) % w = 0 && w ≤ 16 * (m + 1)).getD 1 = 16 := by
        rw [List.find?_cons_of_pos]
        · rfl
        · simp
      rw [pieces, if_neg (by omega)]
      simp only [h]
      rw [show 16 * k + 16 = 16 * (k + 1) by omega, show 16 * (m + 1) - 16 = 16 * m by omega]
    rw [hp, List.foldl_cons]
    simp only [load_read k (by omega)]
    exact h2
theorem witness_tileLoad : ∃ (s s1 : State) (o : EngineOp) (g : Gang) (blk : Block) (k a : Nat) (bs : List Byte), s.op? o.id = some o ∧
    s.blockOf o.gang = some blk ∧ s.gang? o.gang = some g ∧ s.tileDue o = true ∧ s.engines blk.die blk.core ≠ [] ∧ o.kind = .tile (.load k a) ∧
    s.engineReadAll o.gang 1 a 65536 = (s1, .ok bs) ∧ bs.length = 65536 ∧ s1.block? blk.id = some blk ∧ s1.gang? o.gang = some g ∧ s1.ops = s.ops := by
  obtain ⟨bs, h1, h2⟩ := load_pieces 4096 65536 0 [] (by decide) (by decide)
  exact ⟨loadState, loadState, workOp (.tile (.load 3 0)), idGang 1, firstBlockRec, 3, 0, bs, rfl, rfl, rfl, by decide +kernel, by decide +kernel, rfl, h2, h1,
    rfl, rfl, rfl⟩
/-- All four engines of core 0 are under test. -/
def testedState : State := { workState (.tile (.zero 0)) with passes := [⟨0, 0, 0, true, false, false, false, 0⟩, ⟨0, 1, 0, true, false, false, false, 0⟩,
    ⟨0, 2, 0, true, false, false, false, 0⟩, ⟨0, 3, 0, true, false, false, false, 0⟩] }
/-- A product into slot 2, and the state in which that slot holds an uncorrectable error. -/
def tileMember : TileMember := ⟨0, 2, 1, 0, 0, 0, [], tileBlock, [0]⟩
def badSlotState : State := { workState (.tile (.product false [tileMember] 0)) with poison := [(.accStore, 0, 32768)] }
theorem witness_enginesWork :
    (∃ (s s1 s2 : State) (o : EngineOp) (g : Gang) (c : CopyOp) (bs : List Byte) (p : Place), Working s o g ∧ o.kind = .copy c ∧ c.landed.length < c.units ∧
      c.reduce = false ∧ c.mark ≠ 1 ∧ c.data = none ∧ s.copyRead o.gang c.sspace (c.src + 16 * s.copyUnit o.gang c) = (s1, .ok bs) ∧ bs.length = 16 ∧
      s1.issuedLocate o.gang .store c.dspace (c.dst + 16 * s.copyUnit o.gang c) 16 = (s2, .ok p) ∧ InMemory p ∧ s2.engineLeaves o.gang p = false ∧ Plain s2 o.gang ∧ s2.memOk = true ∧
      s2.gang? o.gang = some g ∧ s2.op? o.id = some o) ∧
    (∃ (s : State) (o : EngineOp) (g : Gang) (c : CopyOp), Working s o g ∧ o.kind = .copy c ∧ s.copyDone o c = true ∧ c.mark ≠ 2) ∧
    (∃ (s s1 : State) (o : EngineOp) (g : Gang) (c : CopyOp) (p : Place), Working s o g ∧ o.kind = .copy c ∧ s.copyDone o c = true ∧ c.mark = 2 ∧ c.stamped = false ∧
      s.issuedLocate o.gang .stamp c.dspace c.markAddr 8 = (s1, .ok p) ∧ InMemory p ∧ s1.engineLeaves o.gang p = false ∧ Plain s1 o.gang ∧ s1.memOk = true ∧
      s1.gang? o.gang = some g ∧ s1.op? o.id = some o) ∧
    (∃ (s : State) (o : EngineOp) (c : CopyOp), s.op? o.id = some o ∧ o.kind = .copy c ∧ s.copyDone o c = false) ∧
    (∃ (s : State) (g : Gang), s.gang? g.id = some g ∧ s.batchDone g = false) ∧
    (∀ e : Bool, ∃ (s : State) (g : Gang) (b : Batch) (rest : List Batch), s.gang? g.id = some g ∧ g.sealed = b :: rest ∧ s.batchEnded b = e ∧
      ∀ z ∈ g.sealed, s.batchEnded z = true → ∀ i ∈ z.ops, ∀ y, s.op? i = some y → y.fault = none) ∧
    (∀ e : Bool, ∃ (s : State) (g : Gang) (b : Batch) (pre post : List Batch) (z : Batch) (l l' : List Nat) (i : Nat) (y : EngineOp) (t : TrapInfo),
      s.gang? g.id = some g ∧ g.sealed = pre ++ z :: post ∧ pre = [b] ∧ s.batchEnded b = e ∧ s.batchEnded z = true ∧ z.ops = l ++ i :: l' ∧
      (∀ z' ∈ pre, s.batchEnded z' = true → ∀ j ∈ z'.ops, ∀ y, s.op? j = some y → y.fault = none) ∧
      (∀ j ∈ l, ∀ y, s.op? j = some y → y.fault = none) ∧ s.op? i = some y ∧ y.fault = some t) ∧
    (∀ x : TileOp, x = .zero 15 ∨ x = .load 3 0 ∨ x = .product false [tileMember] 0 → ∃ (s : State) (o : EngineOp) (g : Gang) (blk : Block), s.op? o.id = some o ∧ s.blockOf o.gang = some blk ∧
      s.gang? o.gang = some g ∧ s.tileDue o = true ∧ s.engines blk.die blk.core ≠ [] ∧ o.kind = .tile x ∧
      ∀ k ∈ o.kind.slots, s.slotError blk.id k 0 65536 = none) ∧
    (∃ (s : State) (o : EngineOp) (g : Gang) (blk : Block) (k : Nat) (rest : List Nat) (f : AccFault), s.op? o.id = some o ∧ s.blockOf o.gang = some blk ∧
      s.gang? o.gang = some g ∧ s.tileDue o = true ∧ s.engines blk.die blk.core ≠ [] ∧ o.kind = .tile (.product false [tileMember] 0) ∧
      o.kind.slots = k :: rest ∧ s.slotError blk.id k 0 65536 = some f) ∧
    (∃ (s : State) (o : EngineOp) (g : Gang) (blk : Block) (x : TileOp), s.op? o.id = some o ∧ s.blockOf o.gang = some blk ∧
      s.gang? o.gang = some g ∧ s.tileDue o = true ∧ s.engines blk.die blk.core = [] ∧ o.kind = .tile x) ∧
    (∃ (s : State) (o : EngineOp) (g : Gang) (blk : Block) (x : DrainOp), s.op? o.id = some o ∧ s.blockOf o.gang = some blk ∧
      s.gang? o.gang = some g ∧ s.tileDue o = true ∧ o.kind = .drain x ∧ x.raw = false ∧ 64 ≤ x.row ∧ o.gang.block? = some blk.id) ∧
    (∃ (s : State) (o : EngineOp) (x : DrainOp), s.op? o.id = some o ∧ o.kind = .drain x ∧ s.tileDue o = false) ∧
    ∀ w : Word, w = 0xF8000000 ∨ w = 0 → ∃ (s : State) (o : EngineOp) (g : Gang) (a : Nat) (bs : List Byte), Working s o g ∧ o.kind = .epld a (some bs) ∧ o.fault = none ∧
      if w = 0 then checkProgram 0 (wordsOfBytes 32 bs) = .error 0 else checkProgram 0 (wordsOfBytes 32 bs) = .ok [w] := by
  have he (e : Bool) (f : Option TrapInfo) : (batchState (if e then [] else [8]) f).batchEnded ⟨0, if e then [] else [8]⟩ = e := by
    cases e <;> rfl
  refine ⟨⟨workState (.copy (copyAt [0] 0)), _, _, workOp (.copy (copyAt [0] 0)), idGang 1, copyAt [0] 0,
      List.replicate 16 0, .ls 80 firstBlock 80, ⟨rfl, rfl, rfl, rfl⟩, rfl, by decide, rfl, by decide, rfl, read_of (by decide +kernel), rfl,
      pair_of (by decide +kernel), .inr ⟨_, _, _, rfl⟩,
      by decide +kernel, plain_of rfl rfl rfl rfl, by decide +kernel, rfl, rfl⟩,
    ⟨workState (.copy (copyAt [0, 1] 0)), workOp (.copy (copyAt [0, 1] 0)), idGang 1, _, ⟨rfl, rfl, rfl, rfl⟩, rfl, by decide +kernel, by decide⟩,
    ⟨workState (.copy (copyAt [0, 1] 2)), workState (.copy (copyAt [0, 1] 2)), workOp (.copy (copyAt [0, 1] 2)), idGang 1, _, .ls 128 firstBlock 128, ⟨rfl, rfl, rfl, rfl⟩, rfl,
      by decide +kernel, rfl, rfl, by decide +kernel, .inr ⟨_, _, _, rfl⟩, by decide +kernel, plain_of rfl rfl rfl rfl, by decide +kernel, rfl, rfl⟩,
    ⟨workState (.copy (copyAt [0] 0)), workOp (.copy (copyAt [0] 0)), _, rfl, rfl, by decide +kernel⟩,
    ⟨partState [idGang 1] 1, idGang 1, rfl, rfl⟩,
    fun e => ⟨batchState (if e then [] else [8]) none, batchGang (if e then [] else [8]), _, _, rfl, rfl, he e none, fun z hz hb i hi y hy => ?_⟩,
    fun e => ⟨batchState (if e then [] else [8]) (some (TrapInfo.plain 0x10 0 2 0 [0])), batchGang (if e then [] else [8]), _, [_], [], ⟨1, [7]⟩, [], [], 7, _, _,
      rfl, rfl, rfl, he e _, by cases e <;> rfl, rfl, fun z hz hb i hi y hy => ?_, fun j hj => absurd hj List.not_mem_nil, rfl, rfl⟩,
    fun x hx => ⟨workState (.tile x), workOp (.tile x), idGang 1, firstBlockRec, rfl, rfl, rfl, ?_, ?_, rfl, ?_⟩,
    ⟨badSlotState, workOp (.tile (.product false [tileMember] 0)), idGang 1, firstBlockRec, 2, [], _, rfl, rfl, rfl, by decide +kernel, by decide +kernel, rfl, rfl, rfl⟩,
    ⟨testedState, workOp (.tile (.zero 0)), idGang 1, firstBlockRec, .zero 0, rfl, rfl, rfl, by decide +kernel, by decide +kernel, rfl⟩,
    ⟨workState (.drain { drainOp 0 [] 0 with row := 64 }), workOp (.drain { drainOp 0 [] 0 with row := 64 }), idGang 1, firstBlockRec, _, rfl, rfl, rfl, by decide +kernel, rfl, rfl,
      by decide, rfl⟩,
    ⟨{ workState (.drain (drainOp 0 [] 0)) with blocks := [] }, workOp (.drain (drainOp 0 [] 0)), _, rfl, rfl, by decide +kernel⟩, fun w hw => ?_⟩
  · simp only [batchGang, List.mem_cons, List.not_mem_nil, or_false] at hz
    obtain rfl | rfl := hz
    · cases e
      · exact absurd ((he false _).symm.trans hb) (by decide)
      · exact absurd hi List.not_mem_nil
    · obtain rfl := List.mem_singleton.1 hi
      obtain rfl := Option.some.inj hy
      rfl
  · obtain rfl := List.mem_singleton.1 hz
    cases e
    · exact absurd ((he false _).symm.trans hb) (by decide)
    · exact absurd hi List.not_mem_nil
  · obtain rfl | rfl | rfl := hx <;> decide +kernel
  · obtain rfl | rfl | rfl := hx <;> decide +kernel
  · obtain rfl | rfl | rfl := hx <;> decide +kernel
  · obtain rfl | rfl := hw
    · exact ⟨workState (.epld 0 (some (leBytes 4 0xF8000000))), workOp (.epld 0 (some (leBytes 4 0xF8000000))), idGang 1, 0, _, ⟨rfl, rfl, rfl, rfl⟩, rfl, rfl, by rw [if_neg (by decide)]; rfl⟩
    · exact ⟨workState (.epld 0 (some (leBytes 4 0))), workOp (.epld 0 (some (leBytes 4 0))), idGang 1, 0, _, ⟨rfl, rfl, rfl, rfl⟩, rfl, rfl, by rw [if_pos rfl]; rfl⟩

/-! ## Witnesses: gathers -/

/-- A gather of rows 2 and 9 of the table, of which the second is out of range; and a row job on die 0. -/
def gatherOp (scad : Bool) (unsent : Option (List Nat)) (left failed : List Nat) : GatherOp :=
  ⟨scad, 128, 192, descBytes, [0], 0, 0, [2, 9], false, 0, 0, unsent, left, failed, []⟩
def subReq (scad : Bool) (rows : List (List Byte)) : SubReq := ⟨⟨0, 12, 0⟩, 0, 0, 0, 7, scad, 0, 0, descBytes, 0, [⟨2, [0], rows⟩]⟩
def rowJob (die : Nat) (scad : Bool) : RowJob := ⟨die, subReq scad [List.replicate 16 (0 : Byte)]⟩
/-- The table is registered for a context: the one the boot ROM builds (12), or one with no translation (0). -/
def gwState (k : OpKind) (ctx : Nat) (l : List RowJob) : State :=
  { workState k with
    mem := gatherState.mem, rowJobs := l, subOwn := [subReq false []]
    dev := ((State.reset.devSet 12 0x10000 0x100000).devSet 12 0x10008 (BitVec.ofNat 64 (2 ^ 63 + ctx * 2 ^ 49))).dev }
def rowState (scad : Bool) (ctx : Nat) : State := gwState (.epld 0 none) ctx [rowJob 0 scad, rowJob 1 scad]
set_option exponentiation.threshold 600 in
theorem row_located (die : Nat) (h : die < 2) :
    ∃ s1 : State, (rowState false 12).locateRow die descBytes 2 4 = (s1, some [.mem 32 0], false) ∧ s1.pkgId = 0 := by
  obtain rfl | rfl : die = 0 ∨ die = 1 := by omega
  · exact ⟨_, pair_of (by decide +kernel), by decide +kernel⟩
  · exact ⟨_, pair_of (by decide +kernel), by decide +kernel⟩
theorem flit_pkg (s : State) (a b addr : Nat) (f : Flit) : (s.sendFlit a b addr f).pkgId = s.pkgId := by
  unfold State.sendFlit
  generalize linkPath a b = l
  induction l generalizing s with
  | nil => rfl
  | cons x l ih => exact (ih _).trans rfl
theorem touch_pkg (s : State) (die : Nat) (p : Place) : (s.rowTouch die [p]).pkgId = s.pkgId := by
  have h (s : State) (q : Requester) (b addr : Nat) : (s.sendOver q b addr).pkgId = s.pkgId := by
    unfold State.sendOver
    split
    · rfl
    · simp only [flit_pkg]; rfl
  refine Eq.trans ?_ (h s ⟨s.pkgId, die, 70⟩ (p.die die) p.addr)
  simp only [State.rowTouch, List.foldl_cons, List.foldl_nil, State.corrected]
  cases p <;> simp only [State.farFill]
  split <;> rfl
set_option exponentiation.threshold 600 in
theorem row_lost : ∃ s1 : State, (rowState false 0).locateRow 0 descBytes 2 4 = (s1, none, false) ∧ s1.pkgId = 0 :=
  ⟨_, pair_of (by decide +kernel), by decide +kernel⟩
theorem row_written (o : EngineOp) (s : State) (h : (s.gatherWrite o 128 (List.replicate 16 (0 : Byte))).2 = none) :
    ∃ s1, s.gatherWrite o (128 + 16 * 0) (List.replicate 16 (0 : Byte)) = (s1, none) := ⟨_, pair_of h⟩
set_option exponentiation.threshold 600 in
theorem witness_gatherWorks_fold :
    (∀ c : Bool, ∃ (s : State) (o : EngineOp) (g : Gang) (x : GatherOp), Working s o g ∧ o.kind = .gather x ∧ s.sluiceHeld = false ∧ x.scad = c ∧
      (x.scad = true → s.scadBehind o = false) ∧ x.unsent = none ∧ s.sluiceLive = true) ∧
    (∃ (s : State) (o : EngineOp) (g : Gang) (x : GatherOp) (rest : List Nat), Working s o g ∧ o.kind = .gather x ∧ s.sluiceHeld = false ∧
      x.unsent = some (s.pkgId :: rest) ∧ x.scad = false ∧ s.hasRoom s.sluice 1 = true) ∧
    (∃ (s : State) (r : SubReq), r.src.pkg = s.pkgId ∧ r ∈ s.subOwn ∧ s.registered r.desc = false) ∧
    (∃ (s : State) (r : SubReq), r.src.pkg = s.pkgId ∧ r ∈ s.subOwn ∧ s.registered r.desc = true ∧ r.mode = 0 ∧
      ∀ y ∈ r.items, s.rowEngineLive (rowHome r.desc y.index).1 = true ∧ s.dieRefuses 12 (rowHome r.desc y.index).1 = none) :=
  ⟨fun c => ⟨gwState (.gather (gatherOp c none [0, 1] [])) 12 [], workOp (.gather (gatherOp c none [0, 1] [])), idGang 1, _, ⟨rfl, rfl, rfl, rfl⟩, rfl,
     by cases c <;> decide +kernel, rfl, by cases c <;> decide +kernel, rfl, by cases c <;> decide +kernel⟩,
   ⟨gwState (.gather (gatherOp false (some [0]) [0] [1])) 12 [], workOp (.gather (gatherOp false (some [0]) [0] [1])), idGang 1, _, _, ⟨rfl, rfl, rfl, rfl⟩, rfl,
     by decide +kernel, rfl, rfl, by decide +kernel⟩,
   ⟨{ State.reset with subOwn := [subReq false []] }, subReq false [], rfl, List.mem_singleton_self _, by decide +kernel⟩,
   ⟨rowState false 12, subReq false [], rfl, List.mem_singleton_self _, by decide +kernel, rfl, by decide +kernel⟩⟩
/-- A row job of die `die`, on which row engines take work. -/
def rowReady (s : State) (n : Nat) (j : RowJob) (y : IndexItem) (scad : Bool) : Prop :=
  s.rowJobs[n]? = some j ∧ j.r.items = [y] ∧ s.rowEngineLive j.die = true ∧ s.rowEngineHeld j.die = false ∧ j.r.scad = scad
/-- The four row engines of die 8 are fenced. -/
def fencedRows (scad : Bool) : State :=
  { State.reset with rowJobs := [rowJob 8 scad], dev := (List.range 4).map fun k => (devKey 8 (trtOff k), 0x8000000000000000) }
set_option exponentiation.threshold 600 in
theorem witness_gatherWorks_rows :
    (∀ c : Bool, ∃ (s : State) (n : Nat) (j : RowJob) (y : IndexItem), s.rowJobs[n]? = some j ∧ j.r.items = [y] ∧ j.r.src.pkg = s.pkgId ∧
      s.rowEngineLive j.die = false ∧ j.r.scad = c) ∧
    (∀ away : Bool, ∃ (s s1 : State) (n : Nat) (j : RowJob) (y : IndexItem) (bs : List Byte), rowReady s n j y false ∧ j.r.src.pkg = s1.pkgId ∧ j.r.mode = 0 ∧
      s.readRow j.die j.r.desc y.index = (s1, .ok bs away)) ∧
    (∃ (s s1 : State) (n : Nat) (j : RowJob) (y : IndexItem), rowReady s n j y false ∧ j.r.src.pkg = s1.pkgId ∧ j.r.mode = 0 ∧
      s.readRow j.die j.r.desc y.index = (s1, .fail)) ∧
    (∃ (s s1 : State) (n : Nat) (j : RowJob) (y : IndexItem) (pa : Nat), rowReady s n j y true ∧ j.r.src.pkg = s1.pkgId ∧
      s.locateRow j.die j.r.desc y.index 6 = (s1, some [.mem pa j.die], false)) ∧
    ∃ (s s1 : State) (n : Nat) (j : RowJob) (y : IndexItem), rowReady s n j y true ∧ j.r.src.pkg = s1.pkgId ∧
      s.locateRow j.die j.r.desc y.index 6 = (s1, none, false) := by
  refine ⟨fun c => ⟨fencedRows c, 0, rowJob 8 c, ⟨2, [0], [List.replicate 16 0]⟩, rfl, rfl, rfl, by cases c <;> decide +kernel, rfl⟩, fun away => ?_, ?_,
    ⟨rowState true 12, _, 0, rowJob 0 true, ⟨2, [0], [List.replicate 16 0]⟩, 32, ⟨rfl, rfl, by decide +kernel, by decide +kernel, rfl⟩, ?_, pair_of (by decide +kernel)⟩,
    rowState true 0, _, 0, rowJob 0 true, ⟨2, [0], [List.replicate 16 0]⟩, ⟨rfl, rfl, by decide +kernel, by decide +kernel, rfl⟩, ?_, pair_of (by decide +kernel)⟩
  · cases away
    · obtain ⟨s1, h1, e1⟩ := row_located 0 (by decide)
      refine ⟨rowState false 12, s1.rowTouch 0 [.mem 32 0], 0, rowJob 0 false, ⟨2, [0], [List.replicate 16 0]⟩,
        [Place.mem 32 0].flatMap fun p => s1.readPlace p 16, ⟨rfl, rfl, by decide +kernel, by decide +kernel, rfl⟩, e1.symm, rfl, ?_⟩
      show (rowState false 12).readRow 0 descBytes 2 = _
      unfold State.readRow
      rw [h1]
      rfl
    · obtain ⟨s1, h1, e1⟩ := row_located 1 (by decide)
      refine ⟨rowState false 12, s1.rowTouch 1 [.mem 32 0], 1, rowJob 1 false, ⟨2, [0], [List.replicate 16 0]⟩,
        [Place.mem 32 0].flatMap fun p => s1.readPlace p 16, ⟨rfl, rfl, by decide +kernel, by decide +kernel, rfl⟩, ?_, rfl, ?_⟩
      · exact ((touch_pkg s1 1 _).trans e1).symm
      · show (rowState false 12).readRow 1 descBytes 2 = _
        unfold State.readRow
        rw [h1]
        rfl
  · obtain ⟨s1, h1, e1⟩ := row_lost
    refine ⟨rowState false 0, s1, 0, rowJob 0 false, ⟨2, [0], [List.replicate 16 0]⟩, ⟨rfl, rfl, by decide +kernel, by decide +kernel, rfl⟩, e1.symm, rfl, ?_⟩
    show (rowState false 0).readRow 0 descBytes 2 = _
    unfold State.readRow
    rw [h1]
  · decide +kernel
  · decide +kernel
set_option exponentiation.threshold 600 in
theorem witness_gatherWorks_merge :
    (∃ (s : State) (o : EngineOp) (g : Gang) (x : GatherOp) (ps : List Nat), Working s o g ∧ o.kind = .gather x ∧ ps ≠ [] ∧ ∀ p ∈ ps, p ∈ x.left) ∧
    (∃ (s s1 : State) (o : EngineOp) (g : Gang) (x : GatherOp) (p : Nat) (bs : List Byte), Working s o g ∧ o.kind = .gather x ∧ (∀ q ∈ [p], q ∈ x.left) ∧
      s.subReplies.contains (o.id, ⟨(s.die 12).inc, .row [p] bs⟩) = false ∧ s.gatherWrite o (x.tile + descRowBytes x.desc * p) bs = (s1, none) ∧
      s1.op? o.id = some o) ∧
    (∃ (s : State) (n : Nat) (rep : SubReply), s.subReplies.contains (n, rep) = false ∧ rep.inc ≠ (s.die 12).inc) ∧
    (∀ late : Bool, ∃ (s : State) (n : Nat) (rep : SubReply), s.subReplies.contains (n, rep) = false ∧ rep.inc = (s.die 12).inc ∧ s.op? n = none ∧
      answered rep.body = [0] ∧ ((n, 0) ∈ s.retiredSubs ↔ late = true)) ∧
    (∃ (s : State) (o : EngineOp) (x : GatherOp), s.op? o.id = some o ∧ o.kind = .gather x ∧ s.gatherDone o x = false) ∧
    ∃ (s s1 : State) (o : EngineOp) (x : GatherOp), s.op? o.id = some o ∧ o.kind = .gather x ∧ s.gatherDone o x = true ∧ x.mark = false ∧ x.mode = 0 ∧
      x.failed = [] ∧ x.scad = false ∧ s.gatherWrite o x.maskAddr (List.replicate 64 0) = (s1, none) ∧ s1.op? o.id = some o := by
  refine ⟨⟨gwState (.gather (gatherOp false (some []) [0, 1] [])) 12 [], workOp (.gather (gatherOp false (some []) [0, 1] [])), idGang 1, _, [1, 0], ⟨rfl, rfl, rfl, rfl⟩, rfl,
      by decide, by decide⟩,
    ⟨gwState (.gather (gatherOp false (some []) [0, 1] [])) 12 [], _, workOp (.gather (gatherOp false (some []) [0, 1] [])), idGang 1, gatherOp false (some []) [0, 1] [], 0,
      List.replicate 16 (0 : Byte), ⟨rfl, rfl, rfl, rfl⟩, rfl, by decide, by decide +kernel, pair_of (by decide +kernel), by decide +kernel⟩,
    ⟨State.reset, 7, ⟨1, .added [0]⟩, rfl, by decide⟩,
    fun late => ⟨{ State.reset with retiredSubs := if late then [(7, 0)] else [] }, 7, ⟨0, .added [0]⟩, rfl, rfl, rfl, rfl, by cases late <;> decide⟩, ⟨gwState (.gather (gatherOp false (some []) [1] [])) 12 [], workOp (.gather (gatherOp false (some []) [1] [])), _, rfl, rfl, by decide +kernel⟩,
    gwState (.gather (gatherOp false (some []) [] [])) 12 [], _, workOp (.gather (gatherOp false (some []) [] [])), gatherOp false (some []) [] [], rfl, rfl, by decide +kernel, rfl, rfl,
      rfl, rfl, pair_of (by decide +kernel), by decide +kernel⟩

/-! ## Witnesses: the ends of gangs and blocks, rounds -/

theorem no_phase (k : Nat) : firstBlockRec.barrier k = Barrier.empty := by
  unfold Block.barrier
  rw [show firstBlockRec.barriers = List.replicate 16 Barrier.empty from rfl, List.getD_eq_getElem?_getD, List.getElem?_replicate]
  split <;> rfl
/-- A block in a state, and a second block of the grid. -/
def blockIn (st : BlockState) (killing freed : Bool) : Block := { firstBlockRec with state := st, killing := killing, freed := freed }
def secondBlock : Block := { firstBlockRec with id := ⟨firstHandle, 1, false⟩, slot := 1, granule := 1 }
theorem noPhases_of {s : State} (h : ∀ b ∈ s.blocks, b.latch = [] ∧ b.barriers = firstBlockRec.barriers) : NoPhases s := fun b hb =>
  ⟨(h b hb).1, fun k => by have := no_phase k; unfold Block.barrier at *; rw [(h b hb).2, this]; rfl⟩
def exitedSlices (g : Gang) : Gang := { g with slices := g.slices.map fun sl => { sl with exited := true } }
def endState (gs : List Gang) (bs : List Block) : State := { partState gs 1 with blocks := bs }
def controlGang : Gang := exitedSlices { idGang 1 with id := .control 12 0 }
theorem witness_gangsAndBlocksEnd_gangs :
    (∃ (s : State) (g : Gang), (s.blocks.map (·.id)).Nodup ∧ (s.gangs.map (·.id)).Nodup ∧ s.gang? g.id = some g ∧ s.exitDue g = false) ∧
    (∃ (s : State) (g : Gang) (d i : Nat) (c : ControlCore), (s.blocks.map (·.id)).Nodup ∧ (s.gangs.map (·.id)).Nodup ∧ s.gang? g.id = some g ∧
      s.exitDue g = true ∧ g.openOps = [] ∧ g.abuf = [] ∧ s.outstanding = [] ∧ g.id = .control d i ∧ s.control? d i = some c) ∧
    ∀ l : List Gang, l = [] ∨ l = [{ idGang 1 with id := .compute firstBlock 1 }] → ∃ (s : State) (g : Gang) (b : Block) (gr : Grid) (n : Nat), s.gangs = g :: l ∧
      (s.blocks.map (·.id)).Nodup ∧ (s.gangs.map (·.id)).Nodup ∧ s.gang? g.id = some g ∧ s.exitDue g = true ∧ g.openOps = [] ∧ g.abuf = [] ∧ s.outstanding = [] ∧
      g.id = .compute b.id n ∧ s.block? b.id = some b ∧ s.grid? b.id.handle = some gr ∧ NoPhases s := by
  refine ⟨⟨endState [idGang 1] [firstBlockRec], idGang 1, by decide, by decide, rfl, by decide +kernel⟩,
    ⟨endState [controlGang] [], controlGang, 12, 0, _, by decide, by decide, rfl, by decide +kernel, rfl, rfl, rfl, rfl, rfl⟩, fun l hl => ?_⟩
  obtain rfl | rfl := hl
  · exact ⟨endState [exitedSlices (idGang 1)] [firstBlockRec], exitedSlices (idGang 1), firstBlockRec, _, 0, rfl, by decide, by decide, rfl, by decide +kernel, rfl, rfl, rfl, rfl,
      rfl, rfl, noPhases_of (by decide +kernel)⟩
  · exact ⟨endState (exitedSlices (idGang 1) :: [{ idGang 1 with id := .compute firstBlock 1 }]) [firstBlockRec], exitedSlices (idGang 1), firstBlockRec, _, 0, rfl, by decide,
      by decide, rfl, by decide +kernel, rfl, rfl, rfl, rfl, rfl, rfl, noPhases_of (by decide +kernel)⟩
def goneGang : Gang := { idGang 1 with exited := true }
theorem witness_gangsAndBlocksEnd_blocks :
    let Base := fun (s : State) (b : Block) (gr : Grid) => (s.blocks.map (·.id)).Nodup ∧ (s.gangs.map (·.id)).Nodup ∧ s.block? b.id = some b ∧ s.grid? b.id.handle = some gr
    (∃ (s : State) (b : Block) (gr : Grid), Base s b gr ∧ b.state ≠ .exited) ∧ (∃ (s : State) (b : Block) (gr : Grid), Base s b gr ∧ b.freed = true) ∧
    (∃ (s : State) (b : Block) (gr : Grid), Base s b gr ∧ s.blockQuiet b.id = false) ∧
    (∃ (s : State) (b : Block) (gr : Grid), Base s b gr ∧ b.state = .exited ∧ b.freed = false ∧ s.blockQuiet b.id = true ∧
      ∃ x ∈ s.blocks, x.id ≠ b.id ∧ x.id.handle = b.id.handle ∧ x.freed = false) ∧
    (∃ (s : State) (b : Block) (gr : Grid), Base s b gr ∧ b.state = .exited ∧ b.freed = false ∧ s.blockQuiet b.id = true ∧
      (∀ x ∈ s.blocks, x.id.handle = b.id.handle → (x.state = .exited ∨ x.state = .killed) ∧ (x.id = b.id ∨ x.freed = true) ∧ x.saver = none) ∧
      s.undispatched gr = [] ∧ (∀ a ∈ s.arrivals, a.handle ≠ b.id.handle) ∧ (∀ w ∈ s.heldWrites, w.handle ≠ b.id.handle) ∧ s.outstanding = [] ∧ gr.record.csAddr = 0) ∧
    (∃ (s : State) (b : Block) (gr : Grid), Base s b gr ∧ s.haltDue b = false) ∧
    (∃ (s : State) (b : Block) (gr : Grid), Base s b gr ∧ s.haltDue b = true ∧ s.committing b.id = false ∧ b.state = .halting ∧ (∀ x ∈ s.gangs, x.abuf = []) ∧
      b.killing = false ∧ ∃ x ∈ s.gangs, x.id.block? = some b.id ∧ x.exited = false) ∧
    ∃ (s : State) (b : Block) (gr : Grid), Base s b gr ∧ s.haltDue b = true ∧ s.committing b.id = false ∧ b.state = .halting ∧ (∀ x ∈ s.gangs, x.abuf = []) ∧
      b.killing = true ∧ NoPhases s ∧ (∃ x ∈ s.blocks, x.id ≠ b.id ∧ x.id.handle = b.id.handle ∧ x.freed = false) ∧ b.signalled = false ∧ b.id.shadow = false := by
  refine ⟨⟨endState [idGang 1] [firstBlockRec], firstBlockRec, _, ⟨by decide, by decide, rfl, rfl⟩, by decide⟩,
    ⟨endState [goneGang] [blockIn .exited false true], blockIn .exited false true, _, ⟨by decide, by decide, rfl, rfl⟩, rfl⟩,
    ⟨{ endState [goneGang] [blockIn .exited false false] with arrivals := [flying] }, blockIn .exited false false, _, ⟨by decide, by decide, rfl, rfl⟩, by decide +kernel⟩,
    ⟨endState [goneGang] [blockIn .exited false false, secondBlock], blockIn .exited false false, _, ⟨by decide, by decide, rfl, rfl⟩, rfl, rfl, by decide +kernel,
      secondBlock, by decide, by decide, rfl, rfl⟩,
    ⟨endState [goneGang] [blockIn .exited false false], blockIn .exited false false, firstGrid, ⟨by decide, by decide, rfl, rfl⟩, rfl, rfl, by decide +kernel, by decide +kernel,
      by decide +kernel, by decide, by decide, rfl, rfl⟩,
    ⟨endState [idGang 1] [firstBlockRec], firstBlockRec, _, ⟨by decide, by decide, rfl, rfl⟩, by decide +kernel⟩,
    ⟨endState [idGang 1] [blockIn .halting false false], blockIn .halting false false, _, ⟨by decide, by decide, rfl, rfl⟩, by decide +kernel, by decide +kernel, rfl, by decide +kernel,
      rfl, idGang 1, by decide +kernel, rfl, rfl⟩,
    endState [idGang 1] [blockIn .halting true false, secondBlock], blockIn .halting true false, _, ⟨by decide, by decide, rfl, rfl⟩, by decide +kernel, by decide +kernel, rfl,
      by decide +kernel, rfl, noPhases_of (by decide +kernel), ⟨secondBlock, by decide, by decide, rfl, rfl⟩, rfl, rfl⟩

/-- A deterministic grid in a phase. -/
def roundGrid (p : RoundPhase) (c : List Nat) : Grid := { firstGrid with record := determRecord, phase := p, committed := c }
def roundState (p : RoundPhase) (c : List Nat) (g : Gang) : State := { mkState determRecord [g] (.scalar (sId 0) 1) [0] with grids := [roundGrid p c] }
def endedGang : Gang := { idGang 1 with ended := some .plain }
/-- An arrival of 1 on the word at LOC offset 64 that waits for its gang's slot. -/
def arrivalEntry (q : QEntry) : QEntry := { q with kind := 5, space := 1, addr := 64, bytes := [1, 0, 0, 0] }
def entryGang : Gang := { endedGang with qbuf := [arrivalEntry ⟨0, 0, 0, 0, 0, 0, 0, 0, 0, 0, false, []⟩] }
def slotState (g : Gang) : State := { roundState .committing [] g with ls := [(64, 3)] }
/-- A grid run in pairs: the shadow of the gang has buffered nothing. -/
def pairGrid : Grid := { roundGrid .committing [] with record := { determRecord with redun := true } }
def shadowGang : Gang := { endedGang with id := .compute ⟨firstHandle, 0, true⟩ 0 }
def pairState : State :=
  { slotState entryGang with
    grids := [pairGrid], gangs := [entryGang, shadowGang], blocks := [firstBlockRec, { firstBlockRec with id := ⟨firstHandle, 0, true⟩, die := 1 }] }
theorem witness_rounds :
    (∃ (s : State) (h : Word) (gr : Grid) (g : Gang), s.grid? h = some gr ∧ s.gang? g.id = some g ∧ s.roundDue gr = false ∧ s.quantumDue g = false ∧
      s.commitDue gr = false ∧ s.nextSlot gr = none ∧ ∃ b n, g.id = .compute b n ∧ b.handle = h ∧ b.shadow = false) ∧
    (∃ (s : State) (h : Word) (gr : Grid) (g : Gang), s.grid? h = some gr ∧ s.gang? g.id = some g ∧ s.roundDue gr = true ∧ gr.phase = .committing ∧ NoPhases s) ∧
    (∀ p : RoundPhase, p = .notStarted ∨ p = .between → ∃ (s : State) (h : Word) (gr : Grid) (g : Gang), s.grid? h = some gr ∧ s.gang? g.id = some g ∧ s.roundDue gr = true ∧
      gr.phase ≠ .committing ∧ gr.phase = p ∧ (∀ sl ∈ g.slices, sl.wait = none) ∧ g.id.ofGrid h = true ∧ s.inRounds g = true ∧ g.ended = none) ∧
    (∀ w : Word, w = 0 ∨ w = 1 → ∃ (s : State) (h : Word) (gr : Grid) (g : Gang) (p : Place), s.grid? h = some gr ∧ s.gang? g.id = some g ∧ s.roundDue gr = true ∧
      gr.phase ≠ .committing ∧ s.gangs = [g] ∧ g.id.ofGrid h = true ∧ s.inRounds g = true ∧ g.ended = none ∧ g.parts = [1] ∧
      g.partWait 1 = some (.sync 1 64 w) ∧ (s.locate g.id (.word false) 1 64 16).2 = .ok p ∧ p.isRemote = false ∧ s.poison = [] ∧
      (Satisfied false w.toNat (s.readPlace p 16) ↔ w = 0)) ∧
    (∃ (s : State) (h : Word) (gr : Grid) (g q : Gang) (b : BlockId) (n : Nat), s.grid? h = some gr ∧ s.gang? g.id = some g ∧ g.id = .compute b n ∧ b.handle = h ∧
      b.shadow = false ∧ s.nextSlot gr = some g ∧ gr.record.redun = true ∧ q.id = .compute ⟨h, b.index, true⟩ n ∧ s.gang? q.id = some q ∧
      g.halted = false ∧ q.halted = false ∧ g.trapping = none ∧ q.trapping = none ∧ g.signature ≠ q.signature) ∧
    (∃ (s : State) (h : Word) (gr : Grid) (g : Gang), s.grid? h = some gr ∧ s.gang? g.id = some g ∧ s.quantumDue g = true) ∧
    (∃ (s : State) (h : Word) (gr : Grid) (g : Gang), s.grid? h = some gr ∧ s.gang? g.id = some g ∧ s.commitDue gr = true) ∧
    (∃ (s : State) (h : Word) (gr : Grid) (g : Gang) (b : BlockId) (n : Nat), s.grid? h = some gr ∧ s.gang? g.id = some g ∧ g.id = .compute b n ∧ b.handle = h ∧
      b.shadow = false ∧ s.nextSlot gr = some g ∧ g.halted = false ∧ gr.record.redun = false ∧ NoPhases s ∧ g.qbuf = [] ∧ g.abuf = [] ∧ g.ended = some .plain) ∧
    (∃ (s : State) (h : Word) (gr : Grid) (g : Gang) (b : BlockId) (n : Nat), s.grid? h = some gr ∧ s.gang? g.id = some g ∧ g.id = .compute b n ∧ b.handle = h ∧
      b.shadow = false ∧ s.nextSlot gr = some g ∧ g.halted = true ∧ gr.record.redun = false) ∧
    ∃ (s s1 : State) (h : Word) (gr : Grid) (g : Gang) (b : BlockId) (n : Nat) (e : QEntry) (p : Place), s.grid? h = some gr ∧ s.gang? g.id = some g ∧ g.id = .compute b n ∧
      b.handle = h ∧ b.shadow = false ∧ s.nextSlot gr = some g ∧ g.halted = false ∧ gr.record.redun = false ∧ NoPhases s ∧ g.qbuf = [e] ∧ g.abuf = [] ∧
      g.ended = some .plain ∧ e.kind = 5 ∧ s.issuedLocate g.id (.word true) e.space e.addr 16 = (s1, .ok p) ∧ InMemory p ∧ Plain s1 g.id ∧ s1.memOk = true ∧
      s1.gang? g.id = some g ∧ s1.grid? h = some gr ∧ s1.blocks = s.blocks ∧ (arriveWord (s1.readPlace p 16) (ofLeBytes (e.bytes.take 4))).isSome = true := by
  refine ⟨⟨roundState .executing [] (idGang 1), firstHandle, roundGrid .executing [], idGang 1, rfl, rfl, by decide +kernel, by decide +kernel, by decide +kernel, by decide +kernel, firstBlock, 0, rfl, rfl, rfl⟩,
    ⟨roundState .committing [0] (idGang 1), firstHandle, roundGrid .committing [0], idGang 1, rfl, rfl, by decide +kernel, rfl, noPhases_of (by decide +kernel)⟩,
    fun p hp => ⟨roundState p [] (idGang 1), firstHandle, roundGrid p [], idGang 1, ?_, ?_, ?_, ?_, rfl, ?_, rfl, rfl, rfl⟩,
    fun w hw => ⟨{ roundState .between [] (waitingGang (.sync 1 64 w)) with ls := [(64, 3)] }, firstHandle, roundGrid .between [], waitingGang (.sync 1 64 w), .ls 64 firstBlock 64,
      ?_, ?_, ?_, ?_, ?_, ?_, ?_, rfl, rfl, ?_, ?_, rfl, rfl, ?_⟩,
    ⟨pairState, firstHandle, pairGrid, entryGang, shadowGang, firstBlock, 0, by decide +kernel, by decide +kernel, rfl, rfl, rfl, by decide +kernel, rfl, rfl, by decide +kernel,
      rfl, rfl, rfl, rfl, by decide +kernel⟩,
    ⟨roundState .executing [] { idGang 1 with qcount := 1 }, firstHandle, roundGrid .executing [], { idGang 1 with qcount := 1 }, rfl, rfl, by decide +kernel⟩,
    ⟨roundState .executing [] endedGang, firstHandle, roundGrid .executing [], endedGang, rfl, rfl, by decide +kernel⟩,
    ⟨slotState endedGang, firstHandle, roundGrid .committing [], endedGang, firstBlock, 0, rfl, rfl, rfl, rfl, rfl, by decide +kernel, rfl, rfl, noPhases_of (by decide +kernel), rfl, rfl, rfl⟩,
    ⟨slotState { endedGang with halted := true }, firstHandle, roundGrid .committing [], { endedGang with halted := true }, firstBlock, 0, rfl, rfl, rfl, rfl, rfl, by decide +kernel, rfl, rfl⟩,
    slotState entryGang, slotState entryGang, firstHandle, roundGrid .committing [], entryGang, firstBlock, 0, _, .ls 64 firstBlock 64, rfl, rfl, rfl, rfl, rfl, by decide +kernel, rfl, rfl,
      noPhases_of (by decide +kernel), rfl, rfl, rfl, rfl, by decide +kernel, .inr ⟨_, _, _, rfl⟩, plain_of rfl rfl rfl rfl, by decide +kernel, rfl, rfl, rfl, by decide +kernel⟩
  iterate 5 · obtain rfl | rfl := hp <;> decide +kernel
  iterate 9 · obtain rfl | rfl := hw <;> decide +kernel
  obtain rfl | rfl := hw <;> unfold Satisfied <;> decide +kernel

/-! ## Witnesses: steps, the encoding, memories -/

theorem fetched_of {r : State × Fetch} {ws : List Word} (h : (match r.2 with | .ok x => x == ws | _ => false) = true) : r = (r.1, .ok ws) := by
  obtain ⟨s, f⟩ := r
  cases f with
  | ok x => exact congrArg _ (congrArg Fetch.ok (eq_of_beq h))
  | _ => cases h
/-- A first NOP, a first word that is no instruction, a lane word, and the words of a drain. -/
def nopWord : Word := sw 0x26 0 0 0 7 0 0
def nopState : State := { State.reset.withFetchWord 32 nopWord.toNat with clock := 1 }
def badState : State := { State.reset.withFetchWord 32 0xFC000000 with clock := 1 }
def laneWordState (w : Nat) : State := { State.reset.withFetchWord 96 w with clock := 1 }
def frcpBits : Nat := 0x00070000 + 0x9FFFFF00 * 2 ^ 32 + 0x26040500 * 2 ^ 64
def eendState : State := { State.reset.withDrainCode 0xF8000000 with clock := 1 }
theorem faulted_of {r : State × Fetch} {c n : Nat} (h : (match r.2 with | .fault x y z => x == c && y == n && z.isNone | _ => false) = true) :
    r = (r.1, .fault c n none) := by
  obtain ⟨s, f⟩ := r
  cases f with
  | fault x y z =>
    simp only [Bool.and_eq_true, beq_iff_eq, Option.isNone_iff_eq_none] at h
    obtain ⟨⟨rfl, rfl⟩, rfl⟩ := h
    rfl
  | _ => cases h
/-- A gang whose code lies beyond the context's pages, and two gangs of one quadrant that became ready in turn. -/
def lostGang : Gang := mkGang 0 1 fun _ sl => { sl with pc := 2 ^ 54 }
def lostState : State := { partState [lostGang] 1 with grids := [{ firstGrid with record := { firstRecord with laneBase := 2 ^ 54 } }] }
/-- Gangs 0 and 4 of one slot, gang 0 in the parts of slice 0 and of slice 1, with their ready times and the last issue of gang 0. -/
def turnsState (since0 after0 since1 since4 : Nat) : State :=
  { mkState { firstRecord with gangs := 5 } [{ mkGang 0 2 fun _ sl => sl with parts := [1, 2] }, mkGang 4 1 fun _ sl => sl] .none [] with
    ready := [⟨sId 4, false, 1, since4, 0⟩, ⟨sId 0, false, 1, since0, after0⟩, ⟨sId 0, false, 2, since1, after0⟩] }
set_option maxRecDepth 8000 in
theorem witness_stepRuns :
    (∃ s : State, s.tick.choices = []) ∧ (∃ (s : State) (c : Choice), s.tick.choices = [c]) ∧ (∃ s : State, s.tick.forced ≠ []) ∧
    (∃ (u t : State) (c : Choice), u.perform c = .next t) ∧
    (∃ (u : State) (i : Instr) (l : List Instr), u.inputs = i :: l) ∧
    (∃ (u t : State) (n : Nat) (i : Instr), u.parked[n]? = some i ∧ exec i { u with parked := u.parked.take n, issue := ⟨.none, []⟩ } = .next t) ∧
    (∃ (u v : State) (g : Gang) (m : BitVec 8) (sl : Slice) (ws : List Word) (i : Instr), u.gang? g.id = some g ∧ g.slice? (lowestSlice m) = some sl ∧
      u.fetchScalar g.id m sl.pc.toNat = (v, .ok ws) ∧ decodeScalar (ws.headD 0) (ws.getD 1 0) = .ok i) ∧
    (∃ (u v : State) (g : Gang) (m : BitVec 8) (sl : Slice) (ws : List Word) (n : Nat), u.gang? g.id = some g ∧ g.slice? (lowestSlice m) = some sl ∧
      u.fetchScalar g.id m sl.pc.toNat = (v, .ok ws) ∧ decodeScalar (ws.headD 0) (ws.getD 1 0) = .error n) ∧
    (∃ (u v : State) (g : Gang) (m : BitVec 8) (sl : Slice) (c n : Nat) (a : Option (Nat × Nat)), u.gang? g.id = some g ∧ g.slice? (lowestSlice m) = some sl ∧
      u.fetchScalar g.id m sl.pc.toNat = (v, .fault c n a)) ∧
    (∃ (u v : State) (g : Gang) (m : BitVec 8) (ws : List Word) (i : Instr), u.gang? g.id = some g ∧ u.fetchLane g.id m (g.laneIndex m) = (v, .ok ws) ∧
      decodeLane (laneBits (ws.headD 0) (ws.getD 1 0) (ws.getD 2 0)) = .ok i) ∧
    (∃ (u v : State) (g : Gang) (m : BitVec 8) (ws : List Word) (n : Nat), u.gang? g.id = some g ∧ u.fetchLane g.id m (g.laneIndex m) = (v, .ok ws) ∧
      decodeLane (laneBits (ws.headD 0) (ws.getD 1 0) (ws.getD 2 0)) = .error n) ∧
    (∃ (u v : State) (g : Gang) (m : BitVec 8) (c n : Nat) (a : Option (Nat × Nat)), u.gang? g.id = some g ∧ u.fetchLane g.id m (g.laneIndex m) = (v, .fault c n a)) ∧
    (∃ (u : State) (o : EngineOp) (w : Word) (i : Instr), u.op? o.id = some o ∧ u.drainWord o = some w ∧ decodeEpi w = some i) ∧
    ∃ (u : State) (g : GangId) (stream : Bool × BitVec 8) (l : Leaf) (va : Nat) (p : Place), u.codeHeld g stream (l.pa va) = none ∧
      (∀ f ∈ u.fetched, ¬ (f.gang = g ∧ f.addr = va ∧ f.code = true)) ∧
      u.genPlace (u.gangDie g) l .load va 4 = .ok p ∧ p.isRemote = false ∧ u.linkActive (u.gangDie g) (p.die (u.gangDie g)) p.addr = true ∧
      u.poison = [] := by
  refine ⟨⟨State.reset, by decide +kernel⟩, ⟨{ nopState with clock := 0 }, .scalar firstGangId 1, by decide +kernel⟩,
    ⟨{ partState [] 1 with dies := (partState [] 1).dies.map fun d => { d with p4 := 4096 }, passes := [⟨0, 63, 0, true, true, false, false, 0⟩] }, by decide +kernel⟩,
    ⟨{ State.reset with inputs := [.ueUnsupportedRequest] }, _, .input, rfl⟩,
    ⟨{ State.reset with inputs := [.ueUnsupportedRequest] }, _, _, rfl⟩, ⟨{ State.reset with parked := [.ueUnsupportedRequest] }, _, 0, _, rfl, rfl⟩,
    ⟨nopState, _, firstGang firstGangId 0, 1, _, [nopWord], .nop always, by decide +kernel, rfl, fetched_of (by decide +kernel), by decide⟩,
    ⟨badState, _, firstGang firstGangId 0, 1, _, [0xFC000000], _, by decide +kernel, rfl, fetched_of (by decide +kernel), rfl⟩,
    ⟨lostState, _, lostGang, 1, _, 0x0A, 0, none, by decide +kernel, rfl, faulted_of (by decide +kernel)⟩,
    ⟨laneWordState frcpBits, _, (laneWordState frcpBits).gangs.headD (firstGang firstGangId 0), 1, [0x00070000, 0x9FFFFF00, 0x26040500],
      .frcp ⟨0, 4, 20, 9, 1023, 1023, 0, 0, 0, 0, 7, 0⟩, by decide +kernel, fetched_of (by decide +kernel), by decide⟩,
    ⟨laneWordState 0, _, (laneWordState 0).gangs.headD (firstGang firstGangId 0), 1, [0, 0, 0], _, by decide +kernel, fetched_of (by decide +kernel), rfl⟩,
    ⟨lostState, _, lostGang, 1, 0x0A, 0, none, by decide +kernel, faulted_of (by decide +kernel)⟩,
    ⟨eendState, eendState.ops.headD (workOp (.epld 0 none)), 0xF8000000, .eend, by decide +kernel, by decide +kernel, by decide⟩,
    nopState, firstGangId, (false, 1), ⟨0x8000000000000001, 0, 0, 0x10000, 0x10000⟩, 0x10000, .mem 0x10000 0, rfl, by decide +kernel, ?_, rfl, by decide +kernel, by decide +kernel⟩
  decide +kernel
/-- Streams of one slot, of which one comes first: it became ready first, or the other's gang has issued since, or they are parts of one
gang; and a word of code that a core holds. -/
theorem witness_stepRuns_order :
    (∀ k : Fin 3, ∃ (u : State) (x y : Stream), x ∈ u.streams false ∧ y ∈ u.streams false ∧ x.gang.id.isControl = false ∧ y.gang.id.isControl = false ∧
      u.quadrant y.gang.id = u.quadrant x.gang.id ∧ Before (u.streams false) u y x ∧ (y.gang.id = x.gang.id ↔ k = 2) ∧ (x.since < y.since ↔ k = 1) ∧
      ∀ z ∈ u.streams false, z.gang.id = x.gang.id → z.mask = x.mask → z.since = x.since) ∧
    ∃ (u : State) (e : HeldCode), u.heldCode = [e] ∧ ∀ pa, pa = e.pa → Config.codeHit u.clock pa = true → u.codeHeld (sId 0) (false, 1) pa = some e.word := by
  have hs (a b c d : Nat) : (turnsState a b c d).streams false = [⟨{ mkGang 0 2 fun _ sl => sl with parts := [1, 2] }, 1, a, b⟩,
      ⟨{ mkGang 0 2 fun _ sl => sl with parts := [1, 2] }, 2, c, b⟩, ⟨mkGang 4 1 fun _ sl => sl, 1, d, 0⟩] := rfl
  refine ⟨fun k => ?_, { partState [idGang 1] 1 with heldCode := [⟨0, 0, false, 0x10000, 0x98000700, []⟩] }, _, rfl, fun pa hp hc => ?_⟩
  · match k with
    | 0 =>
      refine ⟨turnsState 2 1 2 1, ⟨_, 1, 2, 1⟩, ⟨mkGang 4 1 fun _ sl => sl, 1, 1, 0⟩, by rw [hs]; exact List.mem_cons_self,
        by rw [hs]; simp, rfl, rfl, by decide +kernel, ?_, by decide, by decide, ?_⟩ <;> rw [hs]
      · exact .inr ⟨by decide +kernel, .inr ⟨by decide, .inl (by simp +decide), by simp +decide [Later]⟩⟩
      · simp +decide
    | 1 =>
      refine ⟨turnsState 0 5 0 3, ⟨_, 1, 0, 5⟩, ⟨mkGang 4 1 fun _ sl => sl, 1, 3, 0⟩, by rw [hs]; exact List.mem_cons_self,
        by rw [hs]; simp, rfl, rfl, by decide +kernel, ?_, by decide, by decide, ?_⟩ <;> rw [hs]
      · exact .inr ⟨by decide +kernel, .inr ⟨by decide, .inr (by simp +decide), by simp +decide [Later]⟩⟩
      · simp +decide
    | 2 =>
      refine ⟨turnsState 2 1 2 1, ⟨_, 2, 2, 1⟩, ⟨_, 1, 2, 1⟩, by rw [hs]; exact List.mem_cons_of_mem _ List.mem_cons_self,
        by rw [hs]; exact List.mem_cons_self, rfl, rfl, by decide +kernel, ?_, by decide, by decide, ?_⟩ <;> rw [hs]
      · exact .inr ⟨by decide +kernel, .inl ⟨rfl, .inr ⟨rfl, by decide⟩⟩⟩
      · simp +decide
  · obtain rfl := hp
    unfold State.codeHeld
    exact if_pos hc
/-- A word with a literal, a word without, an epilogue word, and a lane word. -/
theorem witness_roundTrips :
    (∃ (i : Instr) (ws : List Word), i.wf = true ∧ encodeScalar i = some ws ∧ ws.length = 2) ∧
    (∃ (i : Instr) (ws : List Word), i.wf = true ∧ encodeScalar i = some ws ∧ ws.length = 1) ∧
    (∃ (i : Instr) (w : Word), i.wf = true ∧ encodeEpi i = some w) ∧ (∃ (i : Instr) (op : Nat) (w : LaneWord), i.wf = true ∧ i.lane? = some (op, w)) ∧
    ∃ (x : LaneBits) (i : Instr), decodeLane x = .ok i :=
  ⟨⟨.add ⟨always, .reg 3, .reg 1, .lit 5⟩, _, rfl, rfl, rfl⟩, ⟨.nop always, _, rfl, rfl, rfl⟩, ⟨.eend, _, rfl, rfl⟩,
   ⟨.frcp ⟨0, 4, 20, 9, 1023, 1023, 0, 0, 0, 0, 7, 0⟩, _, _, by decide, rfl⟩,
   laneBits 0x00072020 0x3FFFFF00 0x50000200, _, test_decode_lane_memory.1⟩
/-- A first store of one word to GEN memory, and a step that happens. -/
theorem witness_memoryStaysCanonical :
    (∃ (s t : State), s.memOk = true ∧ step s = .next t) ∧ ∃ (s t : State) (i : Instr), s.memOk = true ∧ exec i s = .next t :=
  ⟨⟨State.reset, { State.reset with clock := 1 }, by decide, rfl⟩, ⟨State.reset, _, .ueUnsupportedRequest, by decide, rfl⟩⟩

end Sys2Proof.Tests
end

section
/-! SUPPORT. Device registers: what a register reads after a write of one register, of a range of registers by bytes, and the bytes
read back (R7, R70). -/
set_option Elab.async false
namespace Sys2Proof.Machine
open Sys2Proof.Claims

/-! ## Numbers in bytes -/

theorem ofLeBytes_lt (bs : List Byte) : ofLeBytes bs < 256 ^ bs.length := by
  induction bs with
  | nil => simp [ofLeBytes]
  | cons b bs ih =>
    have := b.isLt
    simp only [ofLeBytes, List.length_cons, Nat.pow_succ]
    omega

theorem leBytes_ofLeBytes (bs : List Byte) : leBytes bs.length (ofLeBytes bs) = bs := by
  induction bs with
  | nil => rfl
  | cons b bs ih =>
    have hlow : BitVec.ofNat 8 (b.toNat + 256 * ofLeBytes bs) = b := by bv_omega
    have hhigh : (b.toNat + 256 * ofLeBytes bs) / 256 = ofLeBytes bs := by have := b.isLt; omega
    simp only [List.length_cons, leBytes, ofLeBytes, hlow, hhigh, ih]

/-- Eight bytes kept in a register are the bytes of its value. -/
theorem leBytes_ofNat_ofLeBytes {bs : List Byte} (h : bs.length = 8) :
    leBytes 8 (BitVec.ofNat 64 (ofLeBytes bs)).toNat = bs := by
  have hlt := ofLeBytes_lt bs
  rw [h] at hlt
  rw [BitVec.toNat_ofNat, Nat.mod_eq_of_lt (by omega)]
  conv_rhs => rw [← leBytes_ofLeBytes bs, h]

/-! ## One register -/

theorem devKey_inj {d d' off off' : Nat} (h : off < 2 ^ 48) (h' : off' < 2 ^ 48) :
    devKey d off = devKey d' off' ↔ d = d' ∧ off = off' := by
  unfold devKey
  omega

theorem State.devGet_devSet_of_ne (s : State) {die off d k : Nat} (v : DWord) (ho : off < 2 ^ 48) (hk : k < 2 ^ 48)
    (h : d ≠ die ∨ k ≠ off) : (s.devSet die off v).devGet d k = s.devGet d k := by
  rw [State.devGet_devSet, if_neg]
  rw [devKey_inj hk ho]
  omega

/-- The registers of a state are all that `devGet` reads. -/
theorem State.devGet_congr {s t : State} (h : t.dev = s.dev) (d k : Nat) : t.devGet d k = s.devGet d k := by
  unfold State.devGet
  rw [h]

theorem State.devSet_eq (s : State) (die off : Nat) (v : DWord) :
    s.devSet die off v = { s with dev := (s.devSet die off v).dev } := rfl

/-- A write of one register, in a state whose registers are those of `s`. -/
theorem regsSet_of_dev {s t : State} {die off : Nat} {v : DWord} (ho : off < 2 ^ 48) (h : t.dev = (s.devSet die off v).dev) :
    RegsSet s t die [(off, v)] := by
  intro d k hk
  rw [State.devGet_congr h]
  by_cases hd : d = die
  · subst hd
    by_cases he : k = off
    · subst he; simp [lookupAt]
    · rw [State.devGet_devSet_of_ne s v ho hk (.inr he)]
      simp [lookupAt, Ne.symm he]
  · rw [State.devGet_devSet_of_ne s v ho hk (.inl hd), if_neg hd]

theorem onlyRegs_devSet (s : State) {die off : Nat} (v : DWord) (ho : off < 2 ^ 48) : OnlyRegs s (s.devSet die off v) die [(off, v)] :=
  ⟨State.devSet_eq .., regsSet_of_dev ho rfl⟩

/-! ## A range of registers of die 12 -/

/-- Registers of die 12 written one after another from an offset: the `i`-th takes `f i`, all others keep their value. -/
theorem State.devGet_foldl_devSet (s : State) (off n : Nat) (f : Nat → DWord) (hn : off + 8 * n ≤ 2 ^ 48) {d k : Nat} (hk : k < 2 ^ 48) :
    ((List.range n).foldl (fun s i => s.devSet 12 (off + 8 * i) (f i)) s).devGet d k =
      if d = 12 ∧ off ≤ k ∧ k < off + 8 * n ∧ (k - off) % 8 = 0 then f ((k - off) / 8) else s.devGet d k := by
  induction n with
  | zero => rw [if_neg (by omega)]; rfl
  | succ n ih =>
    rw [List.range_succ, List.foldl_append, List.foldl_cons, List.foldl_nil]
    by_cases hlast : d = 12 ∧ k = off + 8 * n
    · obtain ⟨rfl, rfl⟩ := hlast
      rw [State.devGet_devSet_same, if_pos (by omega)]
      congr
      omega
    · rw [State.devGet_devSet_of_ne _ _ (by omega) hk (by omega), ih (by omega)]
      exact if_congr (by omega) rfl rfl

theorem State.foldl_devSet_eq (s : State) (off : Nat) (f : Nat → DWord) (l : List Nat) :
    l.foldl (fun s i => s.devSet 12 (off + 8 * i) (f i)) s =
      { s with dev := (l.foldl (fun s i => s.devSet 12 (off + 8 * i) (f i)) s).dev } := by
  induction l generalizing s with
  | nil => rfl
  | cons i l ih => rw [List.foldl_cons, ih]; rfl

theorem State.setDevBytes_eq (s : State) (off : Nat) (bs : List Byte) :
    s.setDevBytes off bs = { s with dev := (s.setDevBytes off bs).dev } := State.foldl_devSet_eq ..

theorem State.devGet_setDevBytes_outside (s : State) {off d k : Nat} (bs : List Byte) (ho : off + bs.length ≤ 2 ^ 48) (hk : k < 2 ^ 48)
    (h : d ≠ 12 ∨ k < off ∨ off + bs.length ≤ k) : (s.setDevBytes off bs).devGet d k = s.devGet d k := by
  unfold State.setDevBytes
  rw [State.devGet_foldl_devSet _ _ _ _ (by omega) hk, if_neg (by omega)]

theorem State.devGet_setDevBytes_inside (s : State) {off i : Nat} {bs : List Byte} (ho : off + bs.length ≤ 2 ^ 48)
    (hi : i < bs.length / 8) :
    (s.setDevBytes off bs).devGet 12 (off + 8 * i) = BitVec.ofNat 64 (ofLeBytes ((bs.drop (8 * i)).take 8)) := by
  unfold State.setDevBytes
  rw [State.devGet_foldl_devSet _ _ _ _ (by omega) (by omega), if_pos (by omega), show (off + 8 * i - off) / 8 = i by omega]

/-- Words of a state whose registers hold the bytes of a list, read back as bytes. -/
theorem State.devBytes_of_words {t : State} {off n : Nat} {bs : List Byte} (hn : 8 * n ≤ bs.length)
    (h : ∀ i < n, t.devGet 12 (off + 8 * i) = BitVec.ofNat 64 (ofLeBytes ((bs.drop (8 * i)).take 8))) :
    t.devBytes off n = bs.take (8 * n) := by
  unfold State.devBytes
  induction n with
  | zero => simp
  | succ n ih =>
    rw [List.range_succ, List.flatMap_append, ih (by omega) fun i hi => h i (by omega), List.flatMap_singleton, h n (by omega),
      leBytes_ofNat_ofLeBytes (by rw [List.length_take, List.length_drop]; omega), Nat.mul_succ, List.take_add]

end Sys2Proof.Machine
end

section
/-! SUPPORT. Writes of whole device registers: the branch of `regWrite` that an offset takes (R6, R75, R87, R384, R473, R476), and the
steps that are such a write. -/
set_option Elab.async false
namespace Sys2Proof.Machine
open Sys2Proof.Claims

/-! ## Which branch a write takes -/

theorem State.regWrite_absent (s : State) {die off : Nat} (v : DWord) (sv : Bool) (h : regExists die off = false) :
    s.regWrite die off v sv = s := by
  unfold State.regWrite
  simp [h]

/-- BOOTSTAT, MEASURE, REPORT, MGMT and the counts of R400 (R6). -/
def ReadOnlyOffset (off : Nat) : Prop :=
  off = 0x4000 ∨ 0x4020 ≤ off ∧ off < 0x4040 ∨ 0x4100 ≤ off ∧ off < 0x4300 ∨ 0x5000 ≤ off ∧ off < 0x5100 ∨ 0x7000 ≤ off ∧ off < 0x70A0

theorem inRange_iff (lo hi off : Nat) : inRange lo hi off = true ↔ lo ≤ off ∧ off < hi := by
  simp [inRange]

/-- The offsets with a mask in `svMask` lie in these ranges. -/
theorem svMask_range {off : Nat} {m : DWord} (h : svMask off = some m) :
    0x100 ≤ off ∧ off < 0x160 ∨ 0x2000 ≤ off ∧ off < 0x2400 ∨ 0x3000 ≤ off ∧ off < 0x3200 ∨ 0x10000 ≤ off ∧ off < 0x14000 ∨
    0x6000 ≤ off ∧ off ≤ 0x6020 ∨ off = 0xA000 ∨ off = 0xE000 := by
  by_contra hn
  unfold svMask at h
  simp only [inRange_iff, Bool.or_eq_true, decide_eq_true_eq] at h
  repeat rw [if_neg (by omega)] at h
  exact absurd h (by simp)

theorem svMask_of_readOnly {off : Nat} (h : ReadOnlyOffset off) : svMask off = none := by
  unfold ReadOnlyOffset at h
  cases hm : svMask off with
  | none => rfl
  | some m => have := svMask_range hm; omega

/-- An offset at which a write starts something, or which has no mask: the branches of `regWrite` before the masks. -/
def SpecialOffset (off : Nat) : Prop :=
  0x4008 ≤ off ∧ off < 0x4011 ∨ 0x4040 ≤ off ∧ off < 0x4061 ∨ off = 0 ∨ off = 0x4400 ∨ off = 0xE008 ∨ off = 0xE010 ∨ 0xE100 ≤ off ∧ off < 0xE180

/-- A supervisor's write of a plain register: its mask, or nothing. -/
theorem State.regWrite_plain (s : State) {die off : Nat} (v : DWord) (he : regExists die off = true) (h : ¬ SpecialOffset off) :
    s.regWrite die off v true = ((svMask off).map fun m => (s.devSet die off (v &&& m)).regionWritten off).getD s := by
  unfold SpecialOffset at h
  unfold State.regWrite
  simp only [inRange_iff]
  rw [if_neg (by simp [he]), if_neg (by omega), if_neg (by omega), if_neg (by omega), if_neg (by simp), if_neg (by omega),
    if_neg (by omega), if_neg (by omega), if_neg (by omega), if_neg (by omega), if_neg (by omega)]
  cases svMask off <;> rfl

theorem State.regWrite_masked (s : State) {die off : Nat} (v : DWord) {m : DWord} (he : regExists die off = true)
    (hm : svMask off = some m) : s.regWrite die off v true = (s.devSet die off (v &&& m)).regionWritten off := by
  have := svMask_range hm
  rw [State.regWrite_plain s v he (by unfold SpecialOffset; omega), hm]
  rfl

theorem State.regWrite_readOnly (s : State) (die : Nat) {off : Nat} (v : DWord) (h : ReadOnlyOffset off) :
    s.regWrite die off v true = s := by
  cases he : regExists die off with
  | false => exact State.regWrite_absent s v true he
  | true =>
    rw [State.regWrite_plain s v he (by unfold ReadOnlyOffset at h; unfold SpecialOffset; omega), svMask_of_readOnly h]
    rfl

/-- A write to the inbound region table takes an entry from the boot ROM; no other write changes `boot` (R379, R380). -/
theorem State.regionWritten_eq (s : State) (off : Nat) :
    s.regionWritten off = { s with boot := { s.boot with
      romRegions := if 0x2000 ≤ off ∧ off < 0x2400 then s.boot.romRegions.filter (· != (off - 0x2000) / 16) else s.boot.romRegions } } := by
  unfold State.regionWritten
  simp only [inRange_iff]
  split <;> rfl

theorem regExists_nonce {off : Nat} (h : 0x4040 ≤ off) (h' : off < 0x4060) : regExists 12 off = true := by
  simp [regExists, inRange]
  omega

theorem State.regWrite_nonce (s : State) {off : Nat} (v : DWord) (sv : Bool) (h : 0x4040 ≤ off) (h' : off < 0x4060) :
    s.regWrite 12 off v sv = s.devSet 12 off v := by
  unfold State.regWrite
  simp only [inRange_iff]
  rw [if_neg (by simp [regExists_nonce h h']), if_neg (by omega), if_pos ⟨h, h'⟩]

theorem State.regWrite_attreq (s : State) (v : DWord) (sv : Bool) : s.regWrite 12 0x4060 v sv = s.attreq v := rfl

theorem State.regWrite_tlbinv (s : State) {die : Nat} (v : DWord) (h : die < 8 ∨ die = 12) :
    s.regWrite die 0 v true = s.tlbinv die v := by
  have he : regExists die 0 = true := by simp [regExists]; omega
  simp [State.regWrite, he, inRange]

theorem regExists_of_all {die off : Nat} (hd : die < 13) (h : 0xE000 ≤ off ∧ off < 0xE018 ∨ 0xE100 ≤ off ∧ off < 0xE180) :
    regExists die off = true := by
  simp [regExists, inRange]
  omega

theorem State.regWrite_testreq (s : State) {die : Nat} (v : DWord) (h : die < 13) : s.regWrite die 0xE008 v true = s.testreq die v := by
  simp [State.regWrite, regExists_of_all h (off := 0xE008) (by omega), inRange]

theorem State.regWrite_monctl (s : State) {die n : Nat} (v : DWord) (h : die < 13) (hn : n < 16) :
    s.regWrite die (0xE100 + 8 * n) v true = s.monctl die n v := by
  unfold State.regWrite
  simp only [inRange_iff]
  rw [if_neg (by simp [regExists_of_all h (off := 0xE100 + 8 * n) (by omega)])]
  rw [if_neg (by omega), if_neg (by omega), if_neg (by omega), if_neg (by simp), if_neg (by omega), if_neg (by omega),
    if_neg (by omega), if_neg (by omega), if_neg (by omega), if_pos (by omega), show (0xE100 + 8 * n - 0xE100) / 8 = n by omega]

/-! ## The steps that write registers -/

theorem exec_registerWrite (s : State) (die off : Nat) (v : DWord) : exec (.registerWrite die off v) s = .next (s.regWrite die off v true) := rfl
theorem exec_retconsWrite (s : State) (die : Nat) (v : DWord) : exec (.retconsWrite die v) s = .next (s.regWrite die 0x158 v true) := rfl
theorem exec_attreqWrite (s : State) (v : DWord) : exec (.attreqWrite v) s = .next (s.attreq v) := rfl
theorem exec_tlbinvWrite (s : State) (die : Nat) (v : DWord) : exec (.tlbinvWrite die v) s = .next (s.regWrite die 0 v true) := rfl
theorem exec_testreqWrite (s : State) (die : Nat) (v : DWord) : exec (.testreqWrite die v) s = .next (s.regWrite die 0xE008 v true) := rfl

theorem registerWrite_absent (s : State) {die off : Nat} (v : DWord) (h : regExists die off = false) :
    exec (.registerWrite die off v) s = .next s := by
  rw [exec_registerWrite, State.regWrite_absent s v true h]

theorem registerWrite_readOnly (s : State) (die : Nat) {off : Nat} (v : DWord) (h : ReadOnlyOffset off) :
    exec (.registerWrite die off v) s = .next s := by
  rw [exec_registerWrite, State.regWrite_readOnly s die v h]

theorem registerWrite_masked (s : State) {die off : Nat} (v : DWord) {m : DWord} (he : regExists die off = true) (hm : svMask off = some m) :
    ∃ t, exec (.registerWrite die off v) s = .next t ∧ t = { s with dev := t.dev, boot := t.boot } ∧ RegsSet s t die [(off, v &&& m)] ∧
      t.boot = { s.boot with romRegions := if 0x2000 ≤ off ∧ off < 0x2400 then s.boot.romRegions.filter (· != (off - 0x2000) / 16)
        else s.boot.romRegions } := by
  have hoff := svMask_range hm
  rw [exec_registerWrite, State.regWrite_masked s v he hm, State.regionWritten_eq]
  exact ⟨_, rfl, rfl, regsSet_of_dev (by omega) rfl, rfl⟩

theorem registerWrite_nonce (s : State) {off : Nat} (v : DWord) (h : 0x4040 ≤ off) (h' : off < 0x4060) :
    ∃ t, exec (.registerWrite 12 off v) s = .next t ∧ OnlyRegs s t 12 [(off, v)] := by
  rw [exec_registerWrite, State.regWrite_nonce s v true h h']
  exact ⟨_, rfl, onlyRegs_devSet s v (by omega)⟩

theorem retconsWrite_masked (s : State) {die : Nat} (v : DWord) (h : die < 12) :
    ∃ t, exec (.retconsWrite die v) s = .next t ∧ OnlyRegs s t die [(0x158, v &&& 0xFFFFFFFF)] := by
  have he : regExists die 0x158 = true := by simp [regExists, inRange]; omega
  rw [exec_retconsWrite, State.regWrite_masked s v he (m := 0xFFFFFFFF) rfl]
  exact ⟨_, rfl, onlyRegs_devSet s _ (by omega)⟩

end Sys2Proof.Machine
end

section
/-! SUPPORT. What a register write starts outside the test units: the attestation report (R386), the refresh of MGMT (R388) and
translation invalidations (R87). -/
set_option Elab.async false
namespace Sys2Proof.Machine
open Sys2Proof.Claims

/-! ## Attestation (R386) -/

theorem exec_attestationReportDone (s : State) : exec .attestationReportDone s = .next s.reportDone := rfl

theorem attreqWrite_ignored (s : State) {v : DWord} (h : v ≠ 1 ∨ s.boot.attesting.isSome = true) : exec (.attreqWrite v) s = .next s := by
  rw [exec_attreqWrite, State.attreq, if_pos (by simpa using h)]

theorem attreqWrite_starts {s : State} (h : s.boot.attesting = none) :
    ∃ t, exec (.attreqWrite 1) s = .next t ∧
      t = { s with dev := t.dev, boot := { s.boot with attesting := some (s.devBytes 0x4040 4 ++ s.devBytes 0x4020 4) } } ∧
      RegsSet s t 12 [(0x4060, 1)] := by
  rw [exec_attreqWrite, State.attreq, if_neg (by simp [h])]
  exact ⟨_, rfl, rfl, regsSet_of_dev (by omega) rfl⟩

theorem State.reportBody_length (s : State) {bs : List Byte} (h : bs.length = 64) : (s.reportBody bs).length = 128 := by
  simp [State.reportBody, leBytes_length, h]

/-- A report as it is kept: its body and its signature, 512 bytes. -/
def State.report (s : State) (bs : List Byte) : List Byte :=
  s.reportBody bs ++ (Config.identitySign (s.reportBody bs) ++ List.replicate 384 0).take 384

theorem State.report_length (s : State) {bs : List Byte} (h : bs.length = 64) : (s.report bs).length = 512 := by
  rw [State.report, List.length_append, State.reportBody_length s h, List.length_take, List.length_append, List.length_replicate]
  omega

theorem State.reportDone_eq {s : State} {bs : List Byte} (h : s.boot.attesting = some bs) :
    s.reportDone = (({ s with boot := { s.boot with attesting := none } }).setDevBytes 0x4100 (s.report bs)).devSet 12 0x4060 0 := by
  unfold State.reportDone
  rw [h]
  rfl

theorem attestationReportDone_writes {s : State} {bs : List Byte} (h : s.boot.attesting = some bs) (hl : bs.length = 64) :
    ∃ t, exec .attestationReportDone s = .next t ∧
      t = { s with dev := t.dev, boot := { s.boot with attesting := none } } ∧ t.devGet 12 0x4060 = 0 ∧
      t.devBytes 0x4100 16 = s.reportBody bs ∧
      ∀ d k, k < 2 ^ 48 → (d ≠ 12 ∨ k ≠ 0x4060 ∧ (k < 0x4100 ∨ 0x4300 ≤ k)) → t.devGet d k = s.devGet d k := by
  have hlen := State.report_length s hl
  refine ⟨_, by rw [exec_attestationReportDone, State.reportDone_eq h], ?_, State.devGet_devSet_same .., ?_, ?_⟩
  · rw [State.setDevBytes_eq]
    rfl
  · rw [State.devBytes_of_words (bs := s.report bs) (by omega)]
    · rw [State.report, List.take_left' (State.reportBody_length s hl)]
    · intro i hi
      rw [State.devGet_devSet_of_ne _ _ (by omega) (by omega) (by omega), State.devGet_setDevBytes_inside _ (by omega) (by omega)]
  · intro d k hk hd
    rw [State.devGet_devSet_of_ne _ _ (by omega) hk (by omega), State.devGet_setDevBytes_outside _ _ (by omega) hk (by omega)]
    rfl

/-! ## MGMT (R388) -/

theorem exec_mgmtRefresh (s : State) : exec .mgmtRefresh s = .next s.mgmtRefresh := rfl

/-- The sensor part of the record, to offset 0x30. -/
def State.mgmtSample (s : State) : List Byte := (Config.sensors s.clock ++ List.replicate 0x22 0).take 0x22 ++ List.replicate 14 0

theorem State.mgmtSample_length (s : State) : s.mgmtSample.length = 0x30 := by
  simp [State.mgmtSample]

theorem State.mgmtRefresh_eq (s : State) :
    s.mgmtRefresh = ((s.setDevBytes 0x5000 s.mgmtSample).devSet 12 0x5030 (BitVec.ofNat 64 s.boot.stretches)).devSet 12 0x5038 (s.timebase 12) :=
  rfl

theorem mgmtRefresh_writes (s : State) :
    ∃ t, exec .mgmtRefresh s = .next t ∧ t = { s with dev := t.dev } ∧ t.devGet 12 0x5038 = s.timebase 12 ∧
      t.devGet 12 0x5030 = BitVec.ofNat 64 s.boot.stretches ∧
      ∀ d k, k < 2 ^ 48 → (d ≠ 12 ∨ k < 0x5000 ∨ 0x5040 ≤ k) → t.devGet d k = s.devGet d k := by
  have hlen := State.mgmtSample_length s
  refine ⟨_, by rw [exec_mgmtRefresh, State.mgmtRefresh_eq], ?_, State.devGet_devSet_same .., ?_, ?_⟩
  · rw [State.setDevBytes_eq]
    rfl
  · rw [State.devGet_devSet_of_ne _ _ (by omega) (by omega) (by omega), State.devGet_devSet_same]
  · intro d k hk hd
    rw [State.devGet_devSet_of_ne _ _ (by omega) hk (by omega), State.devGet_devSet_of_ne _ _ (by omega) hk (by omega),
      State.devGet_setDevBytes_outside _ _ (by omega) hk (by omega)]

/-! ## Translation invalidation (R87) -/

theorem exec_tlbInvalidationComplete (s : State) (die : Nat) : exec (.tlbInvalidationComplete die) s = .next (s.tlbinvDone die) := rfl

theorem tlbinvWrite_queues (s : State) {die : Nat} (v : DWord) (h : die < 8 ∨ die = 12) :
    exec (.tlbinvWrite die v) s = .next { s with invalidations := s.invalidations ++ [⟨die, v &&& 0x00FFFFFFFFFFC000, false, []⟩] } := by
  rw [exec_tlbinvWrite, State.regWrite_tlbinv s v h]
  rfl

/-- What the model invalidates is what R87 names. -/
theorem invCovers_eq_covered (v : DWord) (a n : Nat) : invCovers v a n = covered v a n := by
  have hk : v.toNat / 2 ^ 14 % 4 < 4 := Nat.mod_lt _ (by decide)
  unfold invCovers covered
  simp only [fieldNat]
  generalize v.toNat / 2 ^ 14 % 2 ^ 2 = k at hk ⊢
  match k, hk with
  | 0, _ | 1, _ | 2, _ | 3, _ => simp

/-- The invalidation of a die that moves on, once it is effective. -/
def State.effective (s : State) (p : Invalidation) : Invalidation :=
  if p.effective then p else { p with effective := true, waits := s.invWaits p }

/-- The state after the entries that an invalidation covers are gone. -/
def State.tlbPurged (s : State) (die : Nat) (p : Invalidation) : State :=
  { s with tlb := s.tlb.filter fun e => !(e.die == die && invMatches p.v e) }

theorem State.tlbinvDone_eq {s : State} {die : Nat} {p : Invalidation}
    (h : s.invalidations.find? (fun q => q.die == die && s.invDue q) = some p) :
    s.tlbinvDone die = if (s.tlbPurged die p).invBusy (s.effective p)
      then { s.tlbPurged die p with invalidations := s.invalidations.map fun x => if x == p then s.effective p else x }
      else { s.tlbPurged die p with invalidations := s.invalidations.erase p } := by
  unfold State.tlbinvDone
  rw [h]
  rfl

theorem mem_tlbPurged (s : State) (die : Nat) (p : Invalidation) (e : TlbEntry) :
    e ∈ (s.tlbPurged die p).tlb ↔ e ∈ s.tlb ∧ ¬ (e.die = die ∧ covered p.v e.base e.size = true) := by
  simp [State.tlbPurged, invMatches, invCovers_eq_covered, or_iff_not_imp_left]

theorem mem_invWaits (s : State) (p : Invalidation) (k : Requester × BitVec 16) :
    k ∈ s.invWaits p ↔ ∃ o ∈ s.outstanding, o.src.die = p.die ∧ o.space = 0 ∧ covered p.v o.addr 1 = true ∧ k = (o.src, o.tsn) := by
  simp only [State.invWaits, invCovers_eq_covered, List.mem_map, List.mem_filter, Bool.and_eq_true, beq_iff_eq]
  constructor
  · rintro ⟨o, ⟨ho, ⟨hd, hs⟩, hc⟩, rfl⟩
    exact ⟨o, ho, hd, hs, hc, rfl⟩
  · rintro ⟨o, ho, hd, hs, hc, rfl⟩
    exact ⟨o, ⟨ho, ⟨hd, hs⟩, hc⟩, rfl⟩

theorem State.invBusy_of_idle {s : State} (ho : s.outstanding = []) (ha : s.arrivals = []) (q : Invalidation) : s.invBusy q = false := by
  simp [State.invBusy, ho, ha]

/-- An invalidation that takes effect now waits for a request sent before it. -/
theorem State.invBusy_effective {s : State} {p : Invalidation} {die : Nat} {o : Outgoing} (he : p.effective = false)
    (ho : o ∈ s.outstanding) (hk : (o.src, o.tsn) ∈ s.invWaits p) : (s.tlbPurged die p).invBusy (s.effective p) = true := by
  have hw : (s.effective p).waits = s.invWaits p := by simp [State.effective, he]
  have : ((s.tlbPurged die p).outstanding.any fun x => (s.effective p).waits.contains (x.src, x.tsn)) = true :=
    List.any_eq_true.2 ⟨o, ho, by rw [hw]; exact List.contains_iff_mem.2 hk⟩
  rw [State.invBusy, this, Bool.true_or]

theorem tlbInvalidationComplete_moves {s : State} {die : Nat} {p : Invalidation}
    (h : s.invalidations.find? (fun q => q.die == die && s.invDue q) = some p) :
    ∃ t, exec (.tlbInvalidationComplete die) s = .next t ∧ t = { s with invalidations := t.invalidations, tlb := t.tlb } ∧
      (∀ e, e ∈ t.tlb ↔ e ∈ s.tlb ∧ ¬ (e.die = die ∧ covered p.v e.base e.size = true)) ∧
      (s.outstanding = [] → s.arrivals = [] → t.invalidations = s.invalidations.erase p) ∧
      (p.effective = false → (∃ o ∈ s.outstanding, o.src.die = die ∧ o.space = 0 ∧ covered p.v o.addr 1 = true) →
        ∃ l, t.invalidations = s.invalidations.map (fun x => if x = p then { p with effective := true, waits := l } else x) ∧
          ∀ k, k ∈ l ↔ ∃ o ∈ s.outstanding, o.src.die = die ∧ o.space = 0 ∧ covered p.v o.addr 1 = true ∧ k = (o.src, o.tsn)) := by
  obtain rfl : p.die = die := by
    have := List.find?_some h
    simp only [Bool.and_eq_true, beq_iff_eq] at this
    exact this.1
  rw [exec_tlbInvalidationComplete, State.tlbinvDone_eq h]
  refine ⟨_, rfl, ?_, fun e => ?_, fun ho ha => ?_, fun he ⟨o, ho, hd, hs, hc⟩ => ⟨s.invWaits p, ?_, mem_invWaits s p⟩⟩
  · split <;> rfl
  · rw [← mem_tlbPurged]
    split <;> rfl
  · rw [State.invBusy_of_idle (s := s.tlbPurged p.die p) ho ha]
    rfl
  · rw [if_pos (State.invBusy_effective he ho ((mem_invWaits s p _).2 ⟨o, ho, hd, hs, hc, rfl⟩))]
    simp [State.effective, he]

theorem tlbInvalidationComplete_none {s : State} {die : Nat} (h : ∀ p ∈ s.invalidations, p.die ≠ die) :
    exec (.tlbInvalidationComplete die) s = .next s := by
  have hn : s.invalidations.find? (fun q => q.die == die && s.invDue q) = none :=
    List.find?_eq_none.2 fun p hp => by simp [h p hp]
  rw [exec_tlbInvalidationComplete, State.tlbinvDone, hn]

end Sys2Proof.Machine
end

section
/-! SUPPORT. What register writes start in the test units (R471 to R473) and in the monitors (R476): forced passes, fences with the
halts that they cause, and a cleared reading. -/
set_option Elab.async false
namespace Sys2Proof.Machine
open Sys2Proof.Claims

/-! ## Forced passes (R469, R473) -/

theorem testUnit_lt {die u : Nat} (h : (testUnit die u).isSome = true) : u < 2632 := by
  revert h
  unfold testUnit
  split_ifs <;> simp <;> omega

theorem State.startPass_eq (s : State) {die u : Nat} (byReq lift : Bool) (h : (testUnit die u).isSome = true) :
    s.startPass die u byReq lift = { s with passes := s.passes.filter (fun p => !(p.die == die && p.u == u)) ++
      [⟨die, u, 0, true, byReq, lift, false, s.clock⟩] } := by
  obtain ⟨_, hu⟩ := Option.isSome_iff_exists.1 h
  rw [State.startPass, hu]

theorem fieldNat_zero {w : Nat} (x : BitVec w) (n : Nat) : fieldNat x 0 n = x.toNat % 2 ^ n := by
  simp [fieldNat]

theorem testreqWrite_starts {s : State} {die : Nat} {v : DWord} (hv : bit v 31 = true) (hb : bit (s.devGet die 0xE008) 31 = false)
    (hu : (testUnit die (v.toNat % 2 ^ 16)).isSome = true) (hd : die < 13) :
    ∃ t, exec (.testreqWrite die v) s = .next t ∧
      t = { s with dev := t.dev, passes := s.passes.filter (fun p => !(p.die == die && p.u == v.toNat % 2 ^ 16)) ++
        [⟨die, v.toNat % 2 ^ 16, 0, true, true, false, false, s.clock⟩] } ∧
      RegsSet s t die [(0xE008, 0x80000000 ||| (s.devGet die 0xE008 &&& 0x40000000))] := by
  rw [exec_testreqWrite, State.regWrite_testreq s v hd, State.testreq, fieldNat_zero, if_pos (by simp only [hv, hb, hu, Bool.not_false, Bool.and_self]),
    State.startPass_eq s _ _ hu]
  exact ⟨_, rfl, rfl, regsSet_of_dev (by omega) rfl⟩

theorem testreqWrite_ignored {s : State} {die : Nat} {v : DWord} (h : bit v 31 = false ∨ bit (s.devGet die 0xE008) 31 = true) :
    exec (.testreqWrite die v) s = .next s := by
  rw [exec_testreqWrite]
  by_cases hd : die < 13
  · rw [State.regWrite_testreq s v hd, State.testreq, if_neg]
    rcases h with h | h <;> simp [h]
  · rw [State.regWrite_absent s v true (by simp [regExists, hd])]

/-! ## Halts of blocks (R471) -/

/-- A running block begins to halt; another stays as it is. -/
def Block.halt (x : Block) : Block := if x.state == .running then { x with state := .halting } else x

theorem Block.halt_halt (x : Block) : x.halt.halt = x.halt := by
  by_cases h : x.state = .running <;> simp [Block.halt, h]

theorem State.haltBlock_eq (s : State) (b : BlockId) : s.haltBlock b = { s with blocks := (s.haltBlock b).blocks } := by
  unfold State.haltBlock
  split
  · split <;> rfl
  · rfl

theorem State.block?_id {s : State} {b : BlockId} {x : Block} (h : s.block? b = some x) : x.id = b := by
  simpa using List.find?_some h

theorem State.haltBlock_of_some {s : State} {b : BlockId} {x : Block} (h : s.block? b = some x) :
    s.haltBlock b = if x.state == .running then s.setBlock { x with state := .halting } else s := by
  rw [State.haltBlock, h]

theorem State.block?_haltBlock (s : State) (b k : BlockId) :
    (s.haltBlock b).block? k = if k = b then (s.block? k).map Block.halt else s.block? k := by
  cases hb : s.block? b with
  | none =>
    rw [State.haltBlock, hb]
    split_ifs with hk
    · rw [hk, hb]; rfl
    · rfl
  | some x =>
    obtain rfl := State.block?_id hb
    rw [State.haltBlock_of_some hb]
    by_cases hk : k = x.id
    · rw [if_pos hk, hk, hb]
      split_ifs with hr
      · rw [State.block?_setBlock_same (b := x) (b' := { x with state := .halting }) hb, Option.map_some, Block.halt, if_pos hr]
      · rw [hb, Option.map_some, Block.halt, if_neg hr]
    · rw [if_neg hk]
      split_ifs
      · exact State.block?_setBlock_other s (b' := { x with state := .halting }) hk
      · rfl

/-- Blocks that begin to halt one after another. -/
def State.haltBlocks (s : State) (l : List BlockId) : State := l.foldl (fun s b => s.haltBlock b) s

theorem State.haltBlocks_eq (s : State) (l : List BlockId) : s.haltBlocks l = { s with blocks := (s.haltBlocks l).blocks } := by
  induction l generalizing s with
  | nil => rfl
  | cons b l ih =>
    show (s.haltBlock b).haltBlocks l = { s with blocks := ((s.haltBlock b).haltBlocks l).blocks }
    rw [ih, State.haltBlock_eq]

theorem State.block?_haltBlocks (s : State) (l : List BlockId) (k : BlockId) :
    (s.haltBlocks l).block? k = if k ∈ l then (s.block? k).map Block.halt else s.block? k := by
  induction l generalizing s with
  | nil => rfl
  | cons b l ih =>
    show ((s.haltBlock b).haltBlocks l).block? k = _
    rw [ih, State.block?_haltBlock]
    by_cases hb : k = b
    · subst hb
      by_cases hl : k ∈ l <;> simp [hl, Function.comp_def, Block.halt_halt]
    · simp [hb]

/-! ## Where blocks lie -/

/-- The name of a block and the core that it is placed on. -/
def Block.place (b : Block) : BlockId × Nat × Nat := (b.id, b.die, b.core)

theorem map_replaceFirst {α β : Type} (f : α → β) (p : α → Bool) (x : α) (l : List α) (h : ∀ y, l.find? p = some y → f x = f y) :
    (replaceFirst p x l).map f = l.map f := by
  induction l with
  | nil => rfl
  | cons y l ih =>
    unfold replaceFirst
    split_ifs with hp
    · simp [h y (by simp [hp])]
    · rw [List.map_cons, List.map_cons, ih fun z hz => h z (by simp [hp, hz])]

theorem State.haltBlock_places (s : State) (b : BlockId) : (s.haltBlock b).blocks.map Block.place = s.blocks.map Block.place := by
  cases hb : s.block? b with
  | none => rw [State.haltBlock, hb]
  | some x =>
    obtain rfl := State.block?_id hb
    rw [State.haltBlock_of_some hb]
    split_ifs
    · refine map_replaceFirst _ _ _ _ fun y hy => ?_
      obtain rfl : x = y := Option.some.inj (hb.symm.trans hy)
      rfl
    · rfl

theorem State.haltBlocks_places (s : State) (l : List BlockId) : (s.haltBlocks l).blocks.map Block.place = s.blocks.map Block.place := by
  induction l generalizing s with
  | nil => rfl
  | cons b l ih => exact (ih _).trans (State.haltBlock_places s b)

/-- Blocks chosen by name and place are the same in two lists with the same names and places. -/
theorem filter_place_ids {l l' : List Block} (h : l'.map Block.place = l.map Block.place) {p : Block → Bool}
    (hp : ∀ b b' : Block, b'.id = b.id → b'.die = b.die → b'.core = b.core → p b' = p b) :
    (l'.filter p).map (·.id) = (l.filter p).map (·.id) := by
  induction l generalizing l' with
  | nil => rw [List.map_eq_nil_iff.1 h]
  | cons b l ih =>
    obtain ⟨b', k, rfl, hb, hk⟩ := List.map_eq_cons_iff.1 h
    obtain ⟨hi, hd, hc⟩ : b'.id = b.id ∧ b'.die = b.die ∧ b'.core = b.core := by simpa [Block.place] using hb
    rw [List.filter_cons, List.filter_cons, hp b b' hi hd hc]
    split
    · rw [List.map_cons, List.map_cons, hi, ih hk]
    · exact ih hk

/-- Which blocks a unit carries depends on registers, on gangs, and on where the blocks lie. -/
theorem State.fenceBlocks_congr {s t : State} (hd : t.dev = s.dev) (hg : t.gangs = s.gangs)
    (hb : t.blocks.map Block.place = s.blocks.map Block.place) (die u : Nat) : t.fenceBlocks die u = s.fenceBlocks die u := by
  have hf (v : Nat) : t.fenced die v = s.fenced die v := by rw [State.fenced, State.devGet_congr hd, State.fenced]
  have hbg (b : BlockId) : t.blockGangs b = s.blockGangs b := by rw [State.blockGangs, hg, State.blockGangs]
  unfold State.fenceBlocks
  simp only [hf, hbg, List.filter_filter]
  split
  · rw [filter_place_ids hb fun b b' _ hd hc => by rw [hd, hc]]
  · exact filter_place_ids hb fun b b' hi hd hc => by rw [hi, hd, hc]
  · exact filter_place_ids hb fun b b' _ hd hc => by rw [hd, hc]
  · rfl

/-! ## Fences (R471, R472) -/

theorem trtEntry_fenced (suspect : Bool) (failStep fails passes : Nat) : bit (trtEntry true suspect failStep fails passes) 63 = true := by
  have h1 := Nat.mod_lt failStep (show 0 < 2 ^ 12 by decide)
  have h2 : Nat.min fails 0xFFFF ≤ 0xFFFF := Nat.min_le_right ..
  have h3 : Nat.min passes 0xFFFFFFFF ≤ 0xFFFFFFFF := Nat.min_le_right ..
  have h4 : (if suspect then 2 ^ 62 else 0) ≤ 2 ^ 62 := by cases suspect <;> decide
  unfold bit trtEntry
  rw [BitVec.getLsbD_ofNat, Nat.testBit_eq_decide_div_mod_eq]
  simp only [if_true, Nat.reduceLT, decide_true, Bool.true_and, decide_eq_true_eq]
  generalize failStep % 2 ^ 12 = a at *
  generalize Nat.min fails 0xFFFF = b at *
  generalize Nat.min passes 0xFFFFFFFF = c at *
  generalize (if suspect then 2 ^ 62 else 0) = e at *
  omega

theorem State.count_eq (s : State) (die off : Nat) : s.count die off = { s with dev := (s.count die off).dev } := by
  unfold State.count
  split <;> rfl

theorem State.devGet_count_of_ne (s : State) {die off d k : Nat} (ho : off < 2 ^ 48) (hk : k < 2 ^ 48) (h : d ≠ die ∨ k ≠ off) :
    (s.count die off).devGet d k = s.devGet d k := by
  unfold State.count
  split
  · rfl
  · exact State.devGet_devSet_of_ne s _ ho hk h

/-- A unit's fence is set and counted, and no fence is waited for any more; no block has begun to halt yet. -/
def State.fenceMarked (s : State) (die u : Nat) : State :=
  (({ s with fences := s.fences.filter (· != (die, u)) }).trtSet die u fun _ su fs f p => trtEntry true su fs f p).count die 0x7090

theorem State.fenceMarked_eq (s : State) (die u : Nat) : s.fenceMarked die u =
    { s with dev := (s.fenceMarked die u).dev, fences := s.fences.filter (· != (die, u)) } := by
  rw [State.fenceMarked, State.count_eq]
  rfl

theorem State.fenceMarked_fenced (s : State) {die u : Nat} (h : u < 2632) : (s.fenceMarked die u).fenced die u = true := by
  have hoff : trtOff u < 2 ^ 48 ∧ trtOff u ≠ 0x7090 := by unfold trtOff; omega
  rw [State.fenced, State.fenceMarked, State.devGet_count_of_ne _ (by omega) hoff.1 (.inr hoff.2), State.trtSet,
    State.devGet_devSet_same]
  exact trtEntry_fenced ..

/-- The running blocks of a unit that is fenced. -/
def State.fenceHits (s : State) (die u : Nat) : List BlockId :=
  (s.fenceBlocks die u).filter fun b => match s.block? b with | some x => x.state == .running | none => false

theorem State.fenceUnit_eq {s : State} {die u : Nat} (h : s.fenced die u = false) :
    (s.fenceUnit die u).1 = (s.fenceMarked die u).haltBlocks ((s.fenceMarked die u).fenceHits die u) := by
  have h' : ({ s with fences := s.fences.filter (· != (die, u)) } : State).fenced die u = false := h
  unfold State.fenceUnit
  simp only [h']
  rfl

theorem State.mem_fenceHits {s : State} {b : BlockId} {x : Block} (h : s.block? b = some x) (die u : Nat) :
    b ∈ s.fenceHits die u ↔ b ∈ s.fenceBlocks die u ∧ x.state = .running := by
  simp [State.fenceHits, h]

theorem State.fenceUnit_falls {s : State} {die u : Nat} (hf : s.fenced die u = false) (hu : u < 2632) :
    let t := (s.fenceUnit die u).1
    t.fenced die u = true ∧ t.mem = s.mem ∧ t.gangs = s.gangs ∧ t.fences = s.fences.filter (· != (die, u)) ∧
      ∀ b x, s.block? b = some x → t.block? b =
        some (if (t.fenceBlocks die u).contains b && x.state == .running then { x with state := .halting } else x) := by
  intro t
  have ht : t = (s.fenceMarked die u).haltBlocks ((s.fenceMarked die u).fenceHits die u) := State.fenceUnit_eq hf
  have hm : t = { s.fenceMarked die u with blocks := t.blocks } := by rw [ht]; exact State.haltBlocks_eq ..
  have hs := State.fenceMarked_eq s die u
  have hblocks : t.fenceBlocks die u = (s.fenceMarked die u).fenceBlocks die u :=
    State.fenceBlocks_congr (by rw [hm]) (by rw [hm]) (by rw [ht, State.haltBlocks_places]) die u
  refine ⟨?_, by rw [hm, hs], by rw [hm, hs], by rw [hm, hs], fun b x hb => ?_⟩
  · rw [State.fenced, State.devGet_congr (by rw [hm] : t.dev = (s.fenceMarked die u).dev)]
    exact State.fenceMarked_fenced s hu
  · have hb' : (s.fenceMarked die u).block? b = some x := by rw [hs]; exact hb
    rw [hblocks, ht, State.block?_haltBlocks, hb']
    simp only [State.mem_fenceHits hb', Option.map_some, Block.halt, Bool.and_eq_true, List.contains_iff_mem, beq_iff_eq]
    by_cases hin : b ∈ (s.fenceMarked die u).fenceBlocks die u <;> by_cases hr : x.state = .running <;> simp [hin, hr]

theorem exec_unitfenceFence (s : State) (die u : Nat) : exec (.unitfenceFence die u) s =
    if s.fences.contains (die, u) && !s.unitBusy die u then .next (s.fenceUnit die u).1 else .next (s.fenceReq die u) := rfl

theorem exec_unitfenceLift (s : State) (die u : Nat) : exec (.unitfenceLift die u) s = .next (s.liftReq die u) := rfl

/-- A request to fence a unit waits for its work, or falls at once. -/
theorem State.fenceReq_eq {s : State} {die u : Nat} (hb : bit (s.devGet die 0xE008) 31 = false) (hu : (testUnit die u).isSome = true) :
    s.fenceReq die u = if s.unitBusy die u then (if s.fences.contains (die, u) then s else { s with fences := s.fences ++ [(die, u)] })
      else (s.fenceUnit die u).1 := by
  have hn : (testUnit die u).isNone = false := by rw [← Option.not_isSome, hu]; rfl
  rw [State.fenceReq, if_neg (by rw [hb, hn]; decide)]

theorem unitfenceFence_waits {s : State} {die u : Nat} (hb : bit (s.devGet die 0xE008) 31 = false)
    (hu : (testUnit die u).isSome = true) (hw : s.unitBusy die u = true) (hf : s.fences.contains (die, u) = false) :
    exec (.unitfenceFence die u) s = .next { s with fences := s.fences ++ [(die, u)] } := by
  rw [exec_unitfenceFence, if_neg (by simp [hw]), State.fenceReq_eq hb hu, if_pos hw, hf]
  rfl

theorem unitfenceFence_idle {s : State} {die u : Nat} (hb : bit (s.devGet die 0xE008) 31 = false)
    (hu : (testUnit die u).isSome = true) (hw : s.unitBusy die u = false) :
    exec (.unitfenceFence die u) s = .next (s.fenceUnit die u).1 := by
  rw [exec_unitfenceFence, State.fenceReq_eq hb hu, if_neg (c := s.unitBusy die u = true) (by simp [hw]), ite_self]

theorem unitfenceFence_falls {s : State} {die u : Nat} (hb : bit (s.devGet die 0xE008) 31 = false)
    (hu : (testUnit die u).isSome = true) (hw : s.unitBusy die u = false) (hf : s.fenced die u = false) :
    ∃ t, exec (.unitfenceFence die u) s = .next t ∧ t.fenced die u = true ∧ t.mem = s.mem ∧ t.gangs = s.gangs ∧
      t.fences = s.fences.filter (· != (die, u)) ∧ ∀ b x, s.block? b = some x → t.block? b =
        some (if (t.fenceBlocks die u).contains b && x.state == .running then { x with state := .halting } else x) :=
  ⟨_, unitfenceFence_idle hb hu hw, State.fenceUnit_falls hf (testUnit_lt hu)⟩

theorem unitfenceLift_starts {s : State} {die u : Nat} (hb : bit (s.devGet die 0xE008) 31 = false)
    (hu : (testUnit die u).isSome = true) : exec (.unitfenceLift die u) s =
      .next { s with passes := s.passes.filter (fun p => !(p.die == die && p.u == u)) ++ [⟨die, u, 0, true, false, true, false, s.clock⟩] } := by
  rw [exec_unitfenceLift, State.liftReq, if_neg (by simp [hb]), State.startPass_eq s _ _ hu]

theorem unitfenceLift_ignored {s : State} {die : Nat} (u : Nat) (hb : bit (s.devGet die 0xE008) 31 = true) :
    exec (.unitfenceLift die u) s = .next s := by
  rw [exec_unitfenceLift, State.liftReq, if_pos hb]

/-! ## Monitors (R476) -/

theorem State.monitor_setMonitor_same (s : State) {m : Monitor} {d k : Nat} (hd : m.die = d) (hk : m.n = k) :
    (s.setMonitor m).monitor d k = m := by
  subst hd hk
  have hnone : (s.monitors.filter fun x => !(x.die == m.die && x.n == m.n)).find? (fun x => x.die == m.die && x.n == m.n) = none :=
    List.find?_eq_none.2 fun x hx => by simpa only [Bool.not_eq_true', Bool.not_eq_true] using (List.mem_filter.1 hx).2
  unfold State.monitor State.setMonitor
  rw [List.find?_append, hnone]
  simp

theorem State.monitor_setMonitor_other (s : State) {m : Monitor} {d k : Nat} (h : (d, k) ≠ (m.die, m.n)) :
    (s.setMonitor m).monitor d k = s.monitor d k := by
  have hnew : [m].find? (fun x => x.die == d && x.n == k) = none := List.find?_eq_none.2 fun x hx e => by
    obtain rfl := List.mem_singleton.1 hx
    obtain ⟨rfl, rfl⟩ : x.die = d ∧ x.n = k := by simpa using e
    exact h rfl
  have hold : (d == m.die && k == m.n) = false := by simpa using h
  unfold State.monitor State.setMonitor
  rw [List.find?_append, List.find?_filter, hnew, Option.or_none]
  congr 2
  funext x
  by_cases hx : x.die = d ∧ x.n = k
  · obtain ⟨rfl, rfl⟩ := hx
    rw [hold]
    simp
  · rw [show (x.die == d && x.n == k) = false by simpa using hx]
    simp

/-- CLR is no field of the register: it reads 0. -/
theorem monctl_clr_masked (c : DWord) : (c ||| 0x200) &&& 0x1FF = c &&& 0x1FF := by
  apply BitVec.eq_of_toNat_eq
  rw [BitVec.toNat_and, BitVec.toNat_or, Nat.and_or_distrib_right]
  simp

theorem exec_monctlClear (s : State) {die n : Nat} (hn : n < 16) (hd : die < 13) : exec (.monctlClear die n) s =
    .next (s.monctl die n (s.devGet die (0xE100 + 8 * n) ||| 0x200)) := by
  show execMonctlClear die n s = _
  rw [execMonctlClear, if_neg (by omega), State.regWrite_monctl s _ hd hn]

theorem monctlClear_clears {s : State} {die n : Nat} (hn : n < 16) (hd : die < 13) :
    ∃ t, exec (.monctlClear die n) s = .next t ∧ t = { s with dev := t.dev, monitors := t.monitors } ∧
      RegsSet s t die [(0xE100 + 8 * n, s.devGet die (0xE100 + 8 * n) &&& 0x1FF)] ∧
      t.monitor die n = { Monitor.empty die n with last := (t.monitor die n).last } ∧
      ∀ d k, (d, k) ≠ (die, n) → t.monitor d k = s.monitor d k := by
  have hclr : bit (s.devGet die (0xE100 + 8 * n) ||| 0x200) 9 = true := by simp [bit]
  rw [exec_monctlClear s hn hd, State.monctl, hclr, monctl_clr_masked]
  refine ⟨_, rfl, rfl, regsSet_of_dev (by omega) rfl, ?_, fun d k hk => State.monitor_setMonitor_other _ hk⟩
  rw [if_pos rfl, State.monitor_setMonitor_same _ (d := die) (k := n) rfl rfl]

end Sys2Proof.Machine
end

section
/-! CERTIFICATE. Writes of device registers and what they start. -/
set_option Elab.async false
namespace Sys2Proof.Proofs
open Sys2Proof Sys2Proof.Machine Sys2Proof.Claims

/-- Settles O41, clause by clause: each is the lemma about the branch of the register write, or about the step that ends what a write
started. -/
theorem registerSteps : Obligations.RegisterSteps := by
  unfold Obligations.RegisterSteps
  intro s die off v u
  refine ⟨registerWrite_absent s v, registerWrite_readOnly s die v, fun _ => registerWrite_masked s v, registerWrite_nonce s v,
    retconsWrite_masked s v, attreqWrite_ignored s, attreqWrite_starts, fun _ => attestationReportDone_writes, mgmtRefresh_writes s,
    tlbinvWrite_queues s v, fun _ => tlbInvalidationComplete_moves, tlbInvalidationComplete_none, testreqWrite_starts,
    testreqWrite_ignored, fun hb hu => ⟨unitfenceFence_waits hb hu, unitfenceFence_falls hb hu, unitfenceLift_starts hb hu⟩,
    unitfenceLift_ignored u, monctlClear_clears⟩

end Sys2Proof.Proofs
end

section
/-! SUPPORT. Dies and their registers: what a die is after a change of one die, and what a register reads once entries are filtered out. -/
set_option Elab.async false
namespace Sys2Proof.Machine
open Sys2Proof.Claims

/-! ## Dies -/

theorem getElem?_modifyAt {α : Type} (f : α → α) (n k : Nat) (l : List α) :
    (modifyAt f n l)[k]? = if k = n then l[k]?.map f else l[k]? := by
  induction l generalizing n k with
  | nil => cases n <;> simp [modifyAt]
  | cons x l ih => cases n <;> cases k <;> simp [modifyAt, ih]

theorem State.die_eq (s : State) (d : Nat) : s.die d = s.dies[d]?.getD Die.reset := by
  rw [State.die, List.getD_eq_getElem?_getD]

/-- The dies of a state are all that `die` reads. -/
theorem State.die_congr {s t : State} (h : t.dies = s.dies) (d : Nat) : t.die d = s.die d := by
  rw [State.die, h, State.die]

theorem State.die_setDie_same {s : State} {d : Nat} (f : Die → Die) (h : d < s.dies.length) : (s.setDie d f).die d = f (s.die d) := by
  rw [State.die_eq, State.die_eq, State.setDie, getElem?_modifyAt, if_pos rfl, List.getElem?_eq_getElem h]
  rfl

theorem State.die_setDie_other (s : State) {d k : Nat} (f : Die → Die) (h : k ≠ d) : (s.setDie d f).die k = s.die k := by
  rw [State.die_eq, State.die_eq, State.setDie, getElem?_modifyAt, if_neg h]

theorem onlyDie_setDie {s : State} {d : Nat} (f : Die → Die) (h : d < s.dies.length) : OnlyDie s (s.setDie d f) d (f (s.die d)) :=
  ⟨rfl, State.die_setDie_same f h, fun _ hk => State.die_setDie_other s f hk⟩

/-- A state whose dies are those of `s` after a change of one of them. -/
theorem dies_after {s t : State} {d : Nat} {f : Die → Die} (h : d < s.dies.length) (ht : t.dies = (s.setDie d f).dies) :
    t.die d = f (s.die d) ∧ ∀ k, k ≠ d → t.die k = s.die k :=
  ⟨by rw [State.die_congr ht, State.die_setDie_same f h], fun _ hk => by rw [State.die_congr ht, State.die_setDie_other s f hk]⟩

/-! ## Entries filtered out of a word map -/

theorem lookupAt_filter_drop {α : Type} {k : Nat} {p : Nat × α → Bool} (h : ∀ v, p (k, v) = false) (l : List (Nat × α)) :
    lookupAt k (l.filter p) = none := by
  induction l with
  | nil => rfl
  | cons x l ih =>
    obtain ⟨j, v⟩ := x
    rw [List.filter_cons]
    split_ifs with hp
    · have hj : j ≠ k := fun e => by subst e; simp [h v] at hp
      rw [lookupAt, if_neg hj, ih]
    · exact ih

theorem lookupAt_filter_keep {α : Type} {k : Nat} {p : Nat × α → Bool} (h : ∀ v, p (k, v) = true) (l : List (Nat × α)) :
    lookupAt k (l.filter p) = lookupAt k l := by
  induction l with
  | nil => rfl
  | cons x l ih =>
    obtain ⟨j, v⟩ := x
    rw [List.filter_cons, lookupAt]
    by_cases hj : j = k
    · subst hj
      rw [if_pos (h v), lookupAt, if_pos rfl, if_pos rfl]
    · rw [if_neg hj, ← ih]
      split_ifs
      · rw [lookupAt, if_neg hj]
      · rfl

theorem devKey_div {die off : Nat} (h : off < 2 ^ 48) : devKey die off / 2 ^ 48 = die := by
  unfold devKey
  omega

theorem devKey_mod (die : Nat) {off : Nat} (h : off < 2 ^ 48) : devKey die off % 2 ^ 48 = off := by
  unfold devKey
  omega

/-- A near die's and die 12's registers are at their reset values; a far die keeps its failed ports (R451, R460). -/
theorem State.devGet_resetRegs_same (s : State) {die off : Nat} (ho : off < 2 ^ 48) (hd : die < 8 ∨ die = 12) :
    (s.resetRegs die).devGet die off = devReset off := by
  have hfar : (decide (8 ≤ die) && decide (die < 12)) = false := by
    simp only [Bool.and_eq_false_iff, decide_eq_false_iff_not]
    omega
  unfold State.devGet State.resetRegs
  simp only
  rw [lookupAt_filter_drop]
  · rfl
  · intro v
    simp only [devKey_div ho, devKey_mod die ho, hfar, BEq.rfl, if_true, Bool.false_and]

/-- Below the link and port registers, only the die's own registers are reset. -/
theorem State.devGet_resetRegs_other (s : State) {die d off : Nat} (h : d ≠ die) (ho : off < 0x8000) :
    (s.resetRegs die).devGet d off = s.devGet d off := by
  have hlt : off < 2 ^ 48 := by omega
  have hlink : decide (0x8000 ≤ off) = false ∧ decide (0xC000 ≤ off) = false := by
    simp only [decide_eq_false_iff_not]
    omega
  unfold State.devGet State.resetRegs
  simp only
  rw [lookupAt_filter_keep]
  intro v
  simp only [devKey_div hlt, devKey_mod d hlt, beq_eq_false_iff_ne.2 h, hlink, Bool.false_and, Bool.and_false, Bool.not_false, Bool.and_true,
    Bool.false_eq_true, if_false]

end Sys2Proof.Machine
end

section
/-! SUPPORT. The package before auxiliary power (R378): time stands on every die, and nothing is due. -/
set_option Elab.async false
namespace Sys2Proof.Machine

/-- Before auxiliary power no die's copy of the timebase counts. -/
theorem State.tick_reset : State.reset.tick = { State.reset with clock := 1 } := rfl

theorem State.choices_reset_tick : ({ State.reset with clock := 1 } : State).choices = [] := by
  rfl

theorem step_reset : step State.reset = .next { State.reset with clock := 1 } := by
  rw [step, State.tick_reset, State.advance, State.choices_reset_tick]

theorem State.devGet_reset (die off : Nat) : State.reset.devGet die off = devReset off := rfl

/-- A die that the package does not have is at reset too. -/
theorem State.die_reset (k : Nat) : State.reset.die k = Die.reset := by
  rw [State.die_eq]
  show (List.replicate 13 Die.reset)[k]?.getD Die.reset = Die.reset
  rw [List.getElem?_replicate]
  split <;> rfl

end Sys2Proof.Machine
end

section
/-! CERTIFICATE. The state before auxiliary power. -/
set_option Elab.async false
namespace Sys2Proof.Proofs
open Sys2Proof Sys2Proof.Machine Sys2Proof.Claims

/-- Settles O59: nothing is due in the reset state, so that its step moves the clock alone. -/
theorem resetState : Obligations.ResetState := by
  unfold Obligations.ResetState
  refine ⟨rfl, rfl, rfl, rfl, rfl, fun k _ => ?_, by decide, rfl, State.devGet_reset, step_reset, rfl, rfl, rfl, rfl⟩
  rw [State.die_reset]
  exact ⟨rfl, rfl, rfl⟩

end Sys2Proof.Proofs
end

section
/-! SUPPORT. Power, resets, temperatures and refresh windows (R68, R378, R387, R450, R451): what a die's change leaves, and what an idle
package loses with a die. -/
set_option Elab.async false
namespace Sys2Proof.Machine
open Sys2Proof.Claims

/-! ## Loss of a die of an idle package (R450, R451) -/

theorem State.gridsOn_idle {s : State} (h : Idle s) (die : Nat) : s.gridsOn die = [] := by
  obtain ⟨hb, -⟩ := h
  simp [State.gridsOn, hb]

/-- A control core once a die is lost. -/
def ControlCore.without (die : Nat) (c : ControlCore) : ControlCore := if c.die == die then { c with running := false } else c

theorem State.loseControls_idle {s : State} (h : Idle s) (die : Nat) : s.loseControls die =
    { s with controls := s.controls.map (ControlCore.without die) } := by
  obtain ⟨hb, -, -, hg, -⟩ := h
  simp only [State.loseControls, hg, hb, List.filter_nil, List.foldl_nil, List.map_nil]
  rfl

theorem State.loseRows_idle {s : State} (h : s.rowJobs = []) (die : Nat) : s.loseRows die = s := by
  cases s
  simp_all [State.loseRows]

/-- A die of an idle package takes with it whether its control cores run, and what it kept of translations, code, answers and tests. -/
theorem State.loseDie_idle {s : State} (h : Idle s) (die cause info : Nat) : s.loseDie die cause info = { s with
    controls := s.controls.map (ControlCore.without die)
    flights := s.flights.filter fun f => f.out.src.die != die
    filters := s.filters.filter fun f => f.die != die
    tlb := s.tlb.filter fun e => e.die != die
    roCache := s.roCache.filter fun x => x.1.1 / 16 != die
    heldCode := s.heldCode.filter fun e => e.die != die
    passes := s.passes.filter fun p => p.die != die
    fences := s.fences.filter fun f => f.1 != die } := by
  have hc := State.loseControls_idle h die
  obtain ⟨hb, ho, hr, -⟩ := h
  have hrows : (s.loseControls die).loseRows die = s.loseControls die := State.loseRows_idle (by rw [hc]; exact hr) die
  rw [State.loseDie, hrows, hc]
  simp [hb, ho]

/-- A control core of a die does not run once the die is lost. -/
theorem stopped_control {l : List ControlCore} {die : Nat} {c : ControlCore}
    (h : c ∈ l.map (ControlCore.without die)) (hd : c.die = die) : c.running = false := by
  obtain ⟨x, -, rfl⟩ := List.mem_map.1 h
  unfold ControlCore.without at hd ⊢
  by_cases hx : x.die = die
  · rw [if_pos (beq_iff_eq.2 hx)]
  · rw [if_neg (by simpa using hx)] at hd
    exact absurd hd hx

theorem State.retireTo_idle {s : State} (h : s.outstanding = []) (die : Nat) : s.retireTo die =
    { s with flights := (s.retireTo die).flights } := by
  simp [State.retireTo, h]

/-! ## Power (R378, R450) -/

theorem diePowerLoss_stops {s : State} {die : Nat} (h : die < s.dies.length) : ∃ t, exec (.diePowerLoss die) s = .next t ∧
    t = { s with dies := t.dies, controls := s.controls.map fun c => if c.die = die then { c with running := false } else c } ∧
    t.die die = { s.die die with powered := false, timebaseOn := false } ∧ ∀ k, k ≠ die → t.die k = s.die k := by
  refine ⟨_, rfl, ?_, dies_after (f := fun d => { d with powered := false, timebaseOn := false }) h rfl⟩
  simp [State.setDie]

theorem exec_dieWake (s : State) (die : Nat) : exec (.dieWake die) s = execDieWake die s := rfl

theorem dieWake_powered {s : State} {die : Nat} (h : (s.die die).powered = true) : exec (.dieWake die) s = .next s := by
  rw [exec_dieWake, execDieWake, if_pos (by simp [h])]

/-- A die after its wake, at the package timebase `now`. -/
def Die.woken (now : Nat) (d : Die) : Die :=
  { d with powered := true, inReset := false, inc := d.inc + 1, timebaseOn := true, ticks := now }

theorem execDieWake_idle {s : State} {die : Nat} (h : (s.die die).powered = false) (hd : die < 13) (hi : Idle s) :
    exec (.dieWake die) s = .next (((s.setDie die (Die.woken s.ticks)).loseDie die 0x52 0).emit
      (.incarnation die ((s.setDie die (Die.woken s.ticks)).die die).inc)) := by
  rw [exec_dieWake, execDieWake, if_neg (by simp [h]; omega), State.gridsOn_idle hi]
  rfl

theorem dieWake_idle {s : State} {die : Nat} (hl : die < s.dies.length) (h : (s.die die).powered = false) (hd : die < 13) (hi : Idle s) :
    ∃ t, exec (.dieWake die) s = .next t ∧ t.die die = (s.die die).woken s.ticks ∧
      (∀ k, k ≠ die → t.die k = s.die k) ∧ (∀ c ∈ t.controls, c.die = die → c.running = false) ∧
      t.tlb = s.tlb.filter (fun e => e.die != die) ∧ SameMemory s t ∧ t.dev = s.dev ∧
      t.outputs = s.outputs ++ [.incarnation die ((s.die die).inc + 1)] := by
  have hi' : Idle (s.setDie die (Die.woken s.ticks)) := hi
  refine ⟨_, execDieWake_idle h hd hi, ?_⟩
  rw [State.loseDie_idle hi', State.die_setDie_same _ hl]
  obtain ⟨hsame, hother⟩ := dies_after (t := s.setDie die (Die.woken s.ticks)) hl rfl
  exact ⟨hsame, hother, fun c hc => stopped_control hc, rfl, ⟨rfl, rfl, rfl⟩, rfl, rfl⟩

/-! ## Reset of a die (R451) -/

theorem exec_dieReset (s : State) (die : Nat) : exec (.dieReset die) s = execDieReset die s := rfl

theorem dieReset_unpowered {s : State} {die : Nat} (h : (s.die die).powered = false) : exec (.dieReset die) s = .next s := by
  rw [exec_dieReset, execDieReset, if_pos (by simp [h])]

/-- A die after its reset. -/
def Die.restarted (d : Die) : Die := { d with inc := d.inc + 1, stretched := false, refresh := none, p4 := 0 }

/-- What a reset leaves before the links, monitors and ports of the die are cleared. -/
def State.dieCleared (s : State) (die : Nat) : State :=
  (((s.setDie die Die.restarted).loseDie die 0x51 4).retireTo die).resetRegs die

/-- Of an idle package, the die's reset takes this much beside what waits in buffers and queues of the die. -/
theorem State.dieCleared_idle {s : State} (hi : Idle s) (die : Nat) : s.dieCleared die = { s with
    dies := (s.setDie die Die.restarted).dies
    controls := s.controls.map (ControlCore.without die)
    tlb := s.tlb.filter fun e => e.die != die
    dev := (s.resetRegs die).dev
    flights := (s.dieCleared die).flights
    filters := (s.dieCleared die).filters
    roCache := (s.dieCleared die).roCache
    heldCode := (s.dieCleared die).heldCode
    passes := (s.dieCleared die).passes
    fences := (s.dieCleared die).fences } := by
  have hi' : Idle (s.setDie die Die.restarted) := hi
  have ho : ((s.setDie die Die.restarted).loseDie die 0x51 4).outstanding = [] := by
    rw [State.loseDie_idle hi']
    exact hi.2.1
  rw [State.dieCleared, State.retireTo_idle ho, State.loseDie_idle hi']
  rfl

/-- A reset also clears the die's link modules, monitors and invalidations, and on die 12 the ports and the boot unit. -/
def State.unitsCleared (s : State) (die : Nat) : State :=
  let s := { s with
    modules := s.modules.filter (fun x => x.die != die && (modulePeer x.die x.m).1 != die)
    monitors := s.monitors.filter (fun m => m.die != die)
    invalidations := s.invalidations.filter (fun p => p.1 != die) }
  if die = 12 then
    { s with ports := [], badPlanes := [], subSeen := [], boot := { s.boot with romRegions := [], verifying := none, attesting := none } }
  else s

theorem State.unitsCleared_eq (s : State) (die : Nat) : s.unitsCleared die = { s with
    modules := (s.unitsCleared die).modules, monitors := (s.unitsCleared die).monitors
    invalidations := (s.unitsCleared die).invalidations, ports := (s.unitsCleared die).ports, badPlanes := (s.unitsCleared die).badPlanes
    subSeen := (s.unitsCleared die).subSeen, boot := (s.unitsCleared die).boot } := by
  unfold State.unitsCleared
  split <;> rfl

/-- What a reset leaves, before die 12 announces it. -/
def State.dieResetDone (s : State) (die : Nat) : State := (s.dieCleared die).unitsCleared die

theorem State.dieResetDone_idle {s : State} (hi : Idle s) (die : Nat) :
    let t := s.dieResetDone die
    t.dies = (s.setDie die Die.restarted).dies ∧ t.dev = (s.resetRegs die).dev ∧
      t.controls = s.controls.map (ControlCore.without die) ∧
      t.tlb = s.tlb.filter (fun e => e.die != die) ∧ SameMemory s t ∧ t.outputs = s.outputs := by
  intro t
  have ht : t = (s.dieCleared die).unitsCleared die := rfl
  rw [ht, State.unitsCleared_eq, State.dieCleared_idle hi die]
  exact ⟨rfl, rfl, rfl, rfl, ⟨rfl, rfl, rfl⟩, rfl⟩

theorem dieReset_powered {s : State} {die : Nat} (h : (s.die die).powered = true) (hd : die < 13) :
    exec (.dieReset die) s = .next ((s.dieResetDone die).emit (.incarnation die ((s.dieResetDone die).die die).inc)) := by
  rw [exec_dieReset, execDieReset, if_neg (by simp [h]; omega)]
  rfl

theorem dieReset_idle {s : State} {die : Nat} (hl : die < s.dies.length) (h : (s.die die).powered = true) (hd : die < 13) (hi : Idle s) :
    ∃ t, exec (.dieReset die) s = .next t ∧ t.die die = (s.die die).restarted ∧
      (∀ k, k ≠ die → t.die k = s.die k) ∧ (∀ c ∈ t.controls, c.die = die → c.running = false) ∧
      t.tlb = s.tlb.filter (fun e => e.die != die) ∧ SameMemory s t ∧
      (∀ off, off < 2 ^ 48 → (die < 8 ∨ die = 12) → t.devGet die off = devReset off) ∧
      (∀ d off, d ≠ die → off < 0x8000 → t.devGet d off = s.devGet d off) ∧
      t.outputs = s.outputs ++ [.incarnation die ((s.die die).inc + 1)] := by
  obtain ⟨hdies, hdev, hcontrols, htlb, hmem, hout⟩ := State.dieResetDone_idle hi die
  obtain ⟨hsame, hother⟩ := dies_after hl hdies
  refine ⟨_, dieReset_powered h hd, hsame, hother, fun c hm => stopped_control (l := s.controls) (hcontrols ▸ hm), htlb, hmem,
    fun off ho hn => ?_, fun d off hne ho => ?_, ?_⟩
  · show (s.dieResetDone die).devGet die off = _
    rw [State.devGet_congr hdev, State.devGet_resetRegs_same s ho hn]
  · show (s.dieResetDone die).devGet d off = _
    rw [State.devGet_congr hdev, State.devGet_resetRegs_other s hne ho]
  · rw [hsame, State.emit, hout]
    rfl

/-! ## Temperature (R387) -/

theorem exec_junctionOver100c (s : State) (die : Nat) : exec (.junctionOver100c die) s = execJunctionOver100c die s := rfl

theorem junctionOver100c_stretched {s : State} {die : Nat} (h : (s.die die).stretched = true) : exec (.junctionOver100c die) s = .next s := by
  rw [exec_junctionOver100c, execJunctionOver100c, if_pos h]

theorem junctionOver100c_stretches {s : State} {die : Nat} (hl : die < s.dies.length) (h : (s.die die).stretched = false) :
    ∃ t, exec (.junctionOver100c die) s = .next t ∧
      t = { s with dies := t.dies, boot := { s.boot with stretches := s.boot.stretches + 1 } } ∧
      t.die die = { s.die die with stretched := true } ∧ ∀ k, k ≠ die → t.die k = s.die k := by
  rw [exec_junctionOver100c, execJunctionOver100c, if_neg (by simp [h])]
  exact ⟨_, rfl, rfl, dies_after (f := fun d => { d with stretched := true }) hl rfl⟩

theorem junctionBelow95c_ends {s : State} {die : Nat} (hl : die < s.dies.length) :
    ∃ t, exec (.junctionBelow95c die) s = .next t ∧ OnlyDie s t die { s.die die with stretched := false } :=
  ⟨_, rfl, onlyDie_setDie (fun d => { d with stretched := false }) hl⟩

/-- A die that has lost all but the always-on rail. -/
def Die.off (d : Die) (timebase : Bool) : Die :=
  { d with powered := false, inReset := true, timebaseOn := timebase, inc := d.inc + 1, stretched := false, refresh := none, p4 := 0 }

/-- The package over 115 °C: the state before auxiliary power, but for memories, time, and what has come in and gone out. -/
def State.shutDown (s : State) : State :=
  { State.reset with
    clock := s.clock, inputs := s.inputs, outputs := s.outputs, issue := s.issue, pkgId := s.pkgId, mem := s.mem, ls := s.ls,
    wgt := s.wgt, poison := s.poison, nextOp := s.nextOp, ticks := s.ticks, dies := s.dies.mapIdx fun i d => d.off (i == 12) }

theorem exec_junctionOver115c (s : State) : exec .junctionOver115c s = .next (s.shutDown.setStage 0 0) := rfl

theorem State.die_shutDown {s : State} {k : Nat} (hk : k < s.dies.length) : s.shutDown.die k = (s.die k).off (k == 12) := by
  rw [State.die_eq, State.die_eq, State.shutDown, List.getElem?_mapIdx, List.getElem?_eq_getElem hk]
  rfl

/-- BOOTSTAT is written with its reset value. -/
theorem State.devGet_shutDown_stage (s : State) (d : Nat) {off : Nat} (ho : off < 2 ^ 48) :
    (s.shutDown.setStage 0 0).devGet d off = devReset off := by
  by_cases h : d = 12 ∧ off = 0x4000
  · obtain ⟨rfl, rfl⟩ := h
    exact State.devGet_devSet_same ..
  · exact State.devGet_devSet_of_ne _ _ (by omega) ho (by omega)

theorem junctionOver115c_off {s : State} (hl : s.dies.length = 13) :
    ∃ t, exec .junctionOver115c s = .next t ∧ t.stage = 0 ∧ t.gangs = [] ∧ t.blocks = [] ∧ t.grids = [] ∧ t.ops = [] ∧ SameMemory s t ∧
      (∀ k, k < 13 → (t.die k).powered = false ∧ (t.die k).inReset = true ∧ (t.die k).timebaseOn = (k == 12)) ∧ t.ticks = s.ticks ∧
      ∀ d off, off < 2 ^ 48 → t.devGet d off = devReset off := by
  refine ⟨_, exec_junctionOver115c s, ?_, rfl, rfl, rfl, rfl, ⟨rfl, rfl, rfl⟩, fun k hk => ?_, rfl, fun d off ho => s.devGet_shutDown_stage d ho⟩
  · rw [State.stage, s.devGet_shutDown_stage 12 (by omega)]
    rfl
  · have hk' : (s.shutDown.setStage 0 0).die k = (s.die k).off (k == 12) := State.die_shutDown (by omega)
    rw [hk']
    exact ⟨rfl, rfl, rfl⟩

/-! ## Refresh windows (R68) -/

theorem wgtRefreshWindowStart_opens {s : State} {die : Nat} (bank : Nat) (hl : die < s.dies.length) :
    ∃ t, exec (.wgtRefreshWindowStart die bank) s = .next t ∧ OnlyDie s t die { s.die die with refresh := some bank } :=
  ⟨_, rfl, onlyDie_setDie (fun d => { d with refresh := some bank }) hl⟩

theorem exec_wgtRefreshWindowEnd (s : State) (die bank : Nat) : exec (.wgtRefreshWindowEnd die bank) s =
    if (s.die die).refresh = some bank then .next (s.setDie die fun d => { d with refresh := none }) else .next s := rfl

theorem wgtRefreshWindowEnd_closes {s : State} {die bank : Nat} (hl : die < s.dies.length) (h : (s.die die).refresh = some bank) :
    ∃ t, exec (.wgtRefreshWindowEnd die bank) s = .next t ∧ OnlyDie s t die { s.die die with refresh := none } :=
  ⟨_, by rw [exec_wgtRefreshWindowEnd, if_pos h], onlyDie_setDie (fun d => { d with refresh := none }) hl⟩

theorem wgtRefreshWindowEnd_other {s : State} {die bank : Nat} (h : (s.die die).refresh ≠ some bank) :
    exec (.wgtRefreshWindowEnd die bank) s = .next s := by
  rw [exec_wgtRefreshWindowEnd, if_neg h]

end Sys2Proof.Machine
end

section
/-! SUPPORT. The oldest background request of a die (R20, R21), and the step that it is granted. -/
set_option Elab.async false
namespace Sys2Proof.Machine
open Sys2Proof.Claims

/-! ## Who asks -/

/-- A pass of a die asks as the statements say. -/
theorem asks_iff (s : State) (die : Nat) (p : TestPass) : Asks s die p ↔ p.die = die ∧ s.passAsks p = true := by
  unfold Asks State.passAsks
  refine and_congr_right fun hd => ?_
  subst hd
  rw [Bool.or_eq_true]
  refine or_congr_right ?_
  cases h : testUnit p.die p.u with
  | none => simp
  | some x =>
    obtain ⟨kind, num, steps⟩ := x
    simp [bit, and_assoc]

/-- The older of two requests, where one is known. -/
def olderPass (m : Option TestPass) (p : TestPass) : Option TestPass :=
  match m with
  | some x => if p.since < x.since then some p else some x
  | none => some p

theorem olderPass_mem {m : Option TestPass} {p x : TestPass} (h : olderPass m p = some x) : x = p ∨ m = some x := by
  unfold olderPass at h
  split at h
  · split at h <;> simp_all
  · simp_all

theorem foldl_olderPass_mem {l : List TestPass} {m : Option TestPass} {x : TestPass} (h : l.foldl olderPass m = some x) :
    x ∈ l ∨ m = some x := by
  induction l generalizing m with
  | nil => exact .inr h
  | cons p l ih =>
    rcases ih h with hx | hx
    · exact .inl (List.mem_cons_of_mem _ hx)
    · rcases olderPass_mem hx with rfl | hm
      · exact .inl List.mem_cons_self
      · exact .inr hm

/-- A request older than all others stays the oldest. -/
theorem foldl_olderPass_least {l : List TestPass} {p : TestPass} (h : ∀ q ∈ l, q = p ∨ p.since < q.since) :
    l.foldl olderPass (some p) = some p := by
  induction l with
  | nil => rfl
  | cons q l ih =>
    have hq : olderPass (some p) q = some p := by
      rcases h q List.mem_cons_self with rfl | hq
      · exact ite_self _
      · exact if_neg (by omega)
    rw [List.foldl_cons, hq]
    exact ih fun x hx => h x (List.mem_cons_of_mem _ hx)

/-- The oldest request is found, wherever it stands. -/
theorem foldl_olderPass_oldest {l : List TestPass} {p : TestPass} {m : Option TestPass} (hp : p ∈ l) (h : ∀ q ∈ l, q = p ∨ p.since < q.since)
    (hm : ∀ q, m = some q → q = p ∨ p.since < q.since) : l.foldl olderPass m = some p := by
  induction l generalizing m with
  | nil => exact absurd hp (by simp)
  | cons q l ih =>
    have hl : ∀ x ∈ l, x = p ∨ p.since < x.since := fun x hx => h x (List.mem_cons_of_mem _ hx)
    rw [List.foldl_cons]
    by_cases hq : q = p
    · subst hq
      have hfirst : olderPass m q = some q := by
        cases m with
        | none => rfl
        | some x =>
          rcases hm x rfl with rfl | hx
          · exact ite_self _
          · exact if_pos hx
      rw [hfirst]
      exact foldl_olderPass_least hl
    · refine ih ((List.mem_cons.1 hp).resolve_left (Ne.symm hq)) hl fun x hx => ?_
      rcases olderPass_mem hx with rfl | hx
      · exact h x List.mem_cons_self
      · exact hm x hx

theorem State.passWaits_eq (s : State) (die : Nat) :
    s.passWaits die = (s.passes.filter fun p => p.die == die && s.passAsks p).foldl olderPass none := rfl

theorem State.mem_passAsking (s : State) (die : Nat) (p : TestPass) :
    p ∈ s.passes.filter (fun p => p.die == die && s.passAsks p) ↔ p ∈ s.passes ∧ Asks s die p := by
  rw [List.mem_filter, asks_iff]
  simp

theorem State.passWaits_asks {s : State} {die : Nat} {p : TestPass} (h : s.passWaits die = some p) : p ∈ s.passes ∧ Asks s die p :=
  (State.mem_passAsking s die p).1 ((foldl_olderPass_mem (State.passWaits_eq s die ▸ h)).resolve_right (by simp))

theorem State.passWaits_none {s : State} {die : Nat} (h : ∀ p ∈ s.passes, ¬ Asks s die p) : s.passWaits die = none :=
  Option.eq_none_iff_forall_ne_some.2 fun p hp => by
    obtain ⟨hm, ha⟩ := State.passWaits_asks hp
    exact h p hm ha

theorem State.passWaits_oldest {s : State} {die : Nat} {p : TestPass} (hp : p ∈ s.passes) (ha : Asks s die p)
    (h : ∀ q ∈ s.passes, Asks s die q → q = p ∨ p.since < q.since) : s.passWaits die = some p := by
  rw [State.passWaits_eq]
  refine foldl_olderPass_oldest ((State.mem_passAsking s die p).2 ⟨hp, ha⟩) (fun q hq => ?_) (by simp)
  obtain ⟨hm, hq⟩ := (State.mem_passAsking s die q).1 hq
  exact h q hm hq

/-! ## The grant (R21) -/

/-- A granted test step runs before anything else on its die. -/
def State.grantPass (s : State) (p : TestPass) : State :=
  { s with passes := s.passes.map fun x => if x == p then { p with granted := true } else x }

/-- The count of passed-over issues of a die starts again. -/
def State.p4Restarted (s : State) (die : Nat) : State := s.setDie die fun d => { d with p4 := 0 }

/-- What the grant of a die's oldest request does, from the requests that wait. -/
theorem exec_p4StarvationGrant (s : State) (die : Nat) : exec (.p4StarvationGrant die) s =
    if s.p4Due die then
      match s.passWaits die, s.moveWaits die with
      | some p, some m => .next (if m.since < p.since then (s.p4Restarted die).migrationStep m else (s.p4Restarted die).grantPass p)
      | some p, none => .next ((s.p4Restarted die).grantPass p)
      | none, some m => .next ((s.p4Restarted die).migrationStep m)
      | none, none => .next (s.p4Restarted die)
    else .next s := by
  show execP4StarvationGrant die s = _
  have hp : (s.p4Restarted die).passWaits die = s.passWaits die := rfl
  have hm : (s.p4Restarted die).moveWaits die = s.moveWaits die := rfl
  rw [← hp, ← hm]
  cases h : s.p4Due die
  · rw [execP4StarvationGrant, if_pos (by simp [h]), if_neg (by simp)]
  · rw [execP4StarvationGrant, if_neg (by simp [h]), if_pos rfl]
    rfl

theorem State.p4Due_of_waits {s : State} {die : Nat} (h : 4096 ≤ (s.die die).p4)
    (hw : (s.passWaits die).isSome = true ∨ (s.moveWaits die).isSome = true) : s.p4Due die = true := by
  simp [State.p4Due, State.p4Waits, p4Bound, h, hw]

theorem State.moveWaits_none {s : State} {die : Nat} (h : ∀ m ∈ s.migrations, m.uses die = false) : s.moveWaits die = none :=
  List.find?_eq_none.2 fun m hm => by simp [h m hm]

theorem State.moveWaits_uses {s : State} {die : Nat} {m : Migration} (h : s.moveWaits die = some m) : m ∈ s.migrations ∧ m.uses die = true :=
  ⟨List.mem_of_find?_eq_some h, List.find?_some (p := fun x : Migration => x.uses die) h⟩

theorem p4StarvationGrant_early {s : State} {die : Nat}
    (h : (s.die die).p4 < 4096 ∨ (∀ p ∈ s.passes, ¬ Asks s die p) ∧ (∀ m ∈ s.migrations, m.uses die = false)) :
    exec (.p4StarvationGrant die) s = .next s := by
  rw [exec_p4StarvationGrant, if_neg]
  rcases h with h | ⟨hp, hm⟩
  · rw [State.p4Due, p4Bound, decide_eq_false (by omega)]
    simp
  · simp [State.p4Due, State.p4Waits, State.passWaits_none hp, State.moveWaits_none hm]

/-- A test step that is not younger than the migrations of its die is granted. -/
theorem p4StarvationGrant_pass {s : State} {die : Nat} {p : TestPass} (hl : die < s.dies.length) (h : 4096 ≤ (s.die die).p4) (hp : p ∈ s.passes)
    (ha : Asks s die p) (ho : ∀ q ∈ s.passes, Asks s die q → q = p ∨ p.since < q.since)
    (hm : ∀ m ∈ s.migrations, m.uses die = true → p.since ≤ m.since) : ∃ t, exec (.p4StarvationGrant die) s = .next t ∧
      t = { s with dies := t.dies, passes := s.passes.map fun x => if x = p then { p with granted := true } else x } ∧
      t.die die = { s.die die with p4 := 0 } ∧ ∀ k, k ≠ die → t.die k = s.die k := by
  have hw := State.passWaits_oldest hp ha ho
  have hgrant : exec (.p4StarvationGrant die) s = .next ((s.p4Restarted die).grantPass p) := by
    rw [exec_p4StarvationGrant, if_pos (State.p4Due_of_waits h (.inl (by rw [hw]; rfl))), hw]
    cases hmove : s.moveWaits die with
    | none => rfl
    | some m =>
      obtain ⟨hmem, huses⟩ := State.moveWaits_uses hmove
      have hold := hm m hmem huses
      simp only
      rw [if_neg (by omega)]
  refine ⟨_, hgrant, ?_, dies_after (f := fun d => { d with p4 := 0 }) hl rfl⟩
  simp [State.grantPass, State.p4Restarted, State.setDie]

/-- A die's own count is the only one that its migration's step starts again, where the other die's stands at 0. -/
theorem State.p4Restarted_eq {s : State} {die : Nat} {m : Migration} (hm : m.uses die = true)
    (h : ∀ k, k ≠ die → m.uses k = true → (s.die k).p4 = 0) :
    s.p4Restarted die = { s with dies := s.dies.mapIdx fun i d => if m.uses i then { d with p4 := 0 } else d } := by
  have hdies : modifyAt (fun d => { d with p4 := 0 }) die s.dies = s.dies.mapIdx fun i d => if m.uses i then { d with p4 := 0 } else d := by
    refine List.ext_getElem? fun k => ?_
    rw [getElem?_modifyAt, List.getElem?_mapIdx]
    by_cases hk : k = die
    · subst hk
      simp [hm]
    · rw [if_neg hk]
      cases hd : s.dies[k]? with
      | none => rfl
      | some d =>
        have hzero : m.uses k = true → d.p4 = 0 := fun hu => by
          have := h k hk hu
          rwa [State.die_eq, hd] at this
        cases hu : m.uses k
        · rfl
        · simp [← hzero hu]
  rw [State.p4Restarted, State.setDie, hdies]

/-- A migration older than every test step of the die takes its step. -/
theorem p4StarvationGrant_migration {s : State} {die n : Nat} {m : Migration} (h : 4096 ≤ (s.die die).p4)
    (hf : s.migrations.find? (fun x => x.uses die) = some m) (hn : s.migrations[n]? = some m)
    (ho : ∀ p ∈ s.passes, Asks s die p → m.since < p.since) (hz : ∀ k, k ≠ die → m.uses k = true → (s.die k).p4 = 0) :
    exec (.p4StarvationGrant die) s = exec (.migrationComplete n) s := by
  have hmove : s.moveWaits die = some m := hf
  have hstep : exec (.migrationComplete n) s = .next ((s.p4Restarted die).migrationStep m) := by
    show execMigrationComplete n s = _
    rw [State.p4Restarted_eq (State.moveWaits_uses hmove).2 hz, execMigrationComplete, hn]
  rw [exec_p4StarvationGrant, if_pos (State.p4Due_of_waits h (.inr (by rw [hmove]; rfl))), hmove, hstep]
  cases hw : s.passWaits die with
  | none => rfl
  | some p =>
    obtain ⟨hp, ha⟩ := State.passWaits_asks hw
    simp only
    rw [if_pos (ho p hp ha)]

end Sys2Proof.Machine
end

section
/-! SUPPORT. Scrubs, errors and monitors (R440, R475 to R477): counts, poison, bad lane registers, and a monitor's sample. -/
set_option Elab.async false
namespace Sys2Proof.Machine
open Sys2Proof.Claims

/-! ## Counts and events -/

theorem State.count_of_ne {s : State} {die off : Nat} (h : s.devGet die off ≠ BitVec.allOnes 64) :
    s.count die off = s.devSet die off (s.devGet die off + 1) := if_neg h

/-- A count that has not reached its end rises by 1. -/
theorem onlyRegs_count {s : State} {die off : Nat} (ho : off < 2 ^ 48) (h : s.devGet die off ≠ BitVec.allOnes 64) :
    OnlyRegs s (s.count die off) die [(off, s.devGet die off + 1)] := by
  rw [State.count_of_ne h]
  exact onlyRegs_devSet s _ ho

/-- Without a trap window no event is recorded (R397). -/
theorem State.event_noWindow {s : State} (h : NoWindow s) (origin cause kind unit info : Nat) (addr : Option (Nat × Nat)) (detail : List Byte) :
    s.event origin cause kind unit info addr detail = s := by
  have hw : bit (s.devGet (eventDie origin) 0x6000) 0 = false := h _
  unfold State.event
  simp only [hw]
  rfl

/-! ## Scrubs (R440, R475) -/

theorem exec_scrubRead (s : State) (arr : EccArray) (die granule : Nat) (r : ScrubResult) :
    exec (.scrubRead arr die granule r) s = execScrubRead arr die granule r s := rfl

/-- The arrays that are scrubbed. -/
theorem scrubGranule_isSome (arr : EccArray) : (scrubGranule arr).isSome = true ↔ arr ∈ [EccArray.localStore, .l2, .wgtStore, .hbm] := by
  cases arr <;> decide

theorem scrubGranule_none {arr : EccArray} (h : arr ∉ [EccArray.localStore, .l2, .wgtStore, .hbm]) : scrubGranule arr = none := by
  rwa [← scrubGranule_isSome, Bool.not_eq_true, Option.isSome_eq_false_iff, Option.isNone_iff_eq_none] at h

theorem scrubRead_clean (s : State) (arr : EccArray) (die granule : Nat) : exec (.scrubRead arr die granule .clean) s = .next s := by
  rw [exec_scrubRead, execScrubRead]

/-- The count of corrected errors that an array has: on access, or by the scrubber (R400). -/
theorem scrubRead_corrected (s : State) (arr : EccArray) (die granule : Nat) : exec (.scrubRead arr die granule .corrected) s =
    .next (s.count die (if (scrubGranule arr).isSome then 0x7098 else 0x7040)) := by
  rw [exec_scrubRead]
  unfold execScrubRead
  cases scrubGranule arr <;> rfl

theorem scrubRead_corrected_access {s : State} {arr : EccArray} {die : Nat} (granule : Nat)
    (ha : arr ∉ [EccArray.localStore, .l2, .wgtStore, .hbm]) (h : s.devGet die 0x7040 ≠ BitVec.allOnes 64) :
    ∃ t, exec (.scrubRead arr die granule .corrected) s = .next t ∧ OnlyRegs s t die [(0x7040, s.devGet die 0x7040 + 1)] :=
  ⟨_, by rw [scrubRead_corrected, if_neg (by rwa [scrubGranule_isSome])], onlyRegs_count (by omega) h⟩

theorem scrubRead_corrected_scrub {s : State} {arr : EccArray} {die : Nat} (granule : Nat)
    (ha : arr ∈ [EccArray.localStore, .l2, .wgtStore, .hbm]) (h : s.devGet die 0x7098 ≠ BitVec.allOnes 64) :
    ∃ t, exec (.scrubRead arr die granule .corrected) s = .next t ∧ OnlyRegs s t die [(0x7098, s.devGet die 0x7098 + 1)] :=
  ⟨_, by rw [scrubRead_corrected, if_pos (by rwa [scrubGranule_isSome])], onlyRegs_count (by omega) h⟩

theorem scrubRead_poisons {s : State} {arr : EccArray} {die granule : Nat} (ha : arr ∈ [EccArray.localStore, .l2, .wgtStore, .hbm])
    (hn : NoWindow s) (hp : s.poison.contains (arr, die, granule) = false) :
    exec (.scrubRead arr die granule .uncorrectable) s = .next { s with poison := s.poison ++ [(arr, die, granule)] } := by
  obtain ⟨n, hg⟩ := Option.isSome_iff_exists.1 ((scrubGranule_isSome arr).2 ha)
  rw [exec_scrubRead]
  unfold execScrubRead
  simp only [hg, State.event_noWindow hn, hp]
  rfl

/-- An error in a lane register of a die's gang marks that register and lane (log 23). -/
theorem scrubRead_regFile {s : State} {die u : Nat} {g : Gang} (h : (s.gangs.filter fun x => s.gangDie x.id == die)[u / 24576]? = some g)
    (hg : s.gang? g.id = some g) : ∃ t g', exec (.scrubRead .regFile die u .uncorrectable) s = .next t ∧ OnlyGang s t g' ∧
      g' = { g with bad := g'.bad } ∧ ∀ k, k ∈ g'.bad ↔ k ∈ g.bad ∨ k = u % 24576 := by
  have hexec : exec (.scrubRead .regFile die u .uncorrectable) s =
      .next (s.setGang { g with bad := g.bad.filter (· != u % 24576) ++ [u % 24576] }) := by
    show Host.Outcome.next (s.unscrubbed .regFile die u) = _
    simp only [State.unscrubbed, h]
  refine ⟨_, _, hexec, ⟨rfl, State.gang?_setGang_same hg, fun k hk => State.gang?_setGang_other s hk⟩, rfl, fun k => ?_⟩
  by_cases hk : k = u % 24576 <;> simp [hk]

/-! ## Monitors (R476) -/

theorem exec_monitorInterval (s : State) (die n : Nat) : exec (.monitorInterval die n) s = execMonitorInterval die n s := rfl

/-- A monitor has the name by which it is looked up. -/
theorem State.monitor_name (s : State) (die n : Nat) : (s.monitor die n).die = die ∧ (s.monitor die n).n = n := by
  unfold State.monitor
  cases h : s.monitors.find? fun m => m.die == die && m.n == n with
  | none => exact ⟨rfl, rfl⟩
  | some m => simpa using List.find?_some h

theorem monitorInterval_off {s : State} {die n : Nat}
    (h : 16 ≤ n ∨ (s.devGet die (0xE100 + 8 * n)).getLsbD 8 = false ∨ (s.devGet die (0xE100 + 8 * n)).toNat % 256 < 16) :
    exec (.monitorInterval die n) s = .next s := by
  rw [exec_monitorInterval, execMonitorInterval]
  simp only [fieldNat_zero, bit]
  rw [if_pos]
  simpa [or_assoc] using h

theorem monitorInterval_samples {s : State} {die n : Nat} (hn : n < 16) (he : (s.devGet die (0xE100 + 8 * n)).getLsbD 8 = true)
    (hc : 16 ≤ (s.devGet die (0xE100 + 8 * n)).toNat % 256) :
    let now := (s.devGet die (0x7000 + 8 * ((s.devGet die (0xE100 + 8 * n)).toNat % 256 - 16))).toNat
    ∃ t, exec (.monitorInterval die n) s = .next t ∧ t = { s with monitors := t.monitors } ∧
      t.monitor die n = { (s.monitor die n).sample (now - (s.monitor die n).last) with last := now } ∧
      ∀ d k, (d, k) ≠ (die, n) → t.monitor d k = s.monitor d k := by
  intro now
  obtain ⟨hd, hk⟩ := State.monitor_name s die n
  have hexec : exec (.monitorInterval die n) s =
      .next (s.setMonitor { (s.monitor die n).sample (now - (s.monitor die n).last) with last := now }) := by
    rw [exec_monitorInterval, execMonitorInterval]
    simp only [fieldNat_zero, bit, he]
    rw [if_neg (by simp; omega)]
    rfl
  refine ⟨_, hexec, rfl, State.monitor_setMonitor_same _ hd hk, fun d k h => State.monitor_setMonitor_other _ ?_⟩
  show (d, k) ≠ ((s.monitor die n).die, (s.monitor die n).n)
  rwa [hd, hk]

end Sys2Proof.Machine
end

section
/-! SUPPORT. Steps of structural tests (R467 to R474): the fields of a test result entry, and what a step that goes on, that ends its
pass or that fails leaves in the registers and the list of passes. -/
set_option Elab.async false
namespace Sys2Proof.Machine
open Sys2Proof.Claims

/-! ## Entries of the test result table (R474) -/

theorem trtEntry_toNat (fenced suspect : Bool) (failStep fails passes : Nat) : (trtEntry fenced suspect failStep fails passes).toNat =
    fenced.toNat * 2 ^ 63 + suspect.toNat * 2 ^ 62 + failStep % 2 ^ 12 * 2 ^ 48 + Nat.min fails 0xFFFF * 2 ^ 32 + Nat.min passes 0xFFFFFFFF := by
  have h1 := Nat.mod_lt failStep (show 0 < 2 ^ 12 by decide)
  have h2 : Nat.min fails 0xFFFF ≤ 0xFFFF := Nat.min_le_right ..
  have h3 : Nat.min passes 0xFFFFFFFF ≤ 0xFFFFFFFF := Nat.min_le_right ..
  unfold trtEntry
  rw [BitVec.toNat_ofNat, Nat.mod_eq_of_lt]
  · cases fenced <;> cases suspect <;> simp
  · generalize failStep % 2 ^ 12 = a at *
    generalize Nat.min fails 0xFFFF = b at *
    generalize Nat.min passes 0xFFFFFFFF = c at *
    cases fenced <;> cases suspect <;> simp <;> omega

/-- The fields of an entry as they are read. -/
theorem trtEntry_fields (fenced suspect : Bool) (failStep fails passes : Nat) :
    let e := trtEntry fenced suspect failStep fails passes
    bit e 63 = fenced ∧ bit e 62 = suspect ∧ fieldNat e 48 12 = failStep % 2 ^ 12 := by
  intro e
  have he := trtEntry_toNat fenced suspect failStep fails passes
  have h1 := Nat.mod_lt failStep (show 0 < 2 ^ 12 by decide)
  have h2 : Nat.min fails 0xFFFF ≤ 0xFFFF := Nat.min_le_right ..
  have h3 : Nat.min passes 0xFFFFFFFF ≤ 0xFFFFFFFF := Nat.min_le_right ..
  change e.toNat = _ at he
  simp only [bit, fieldNat, BitVec.getLsbD, Nat.testBit_eq_decide_div_mod_eq]
  rw [he]
  generalize failStep % 2 ^ 12 = a at *
  generalize Nat.min fails 0xFFFF = b at *
  generalize Nat.min passes 0xFFFFFFFF = c at *
  cases fenced <;> cases suspect <;> simp <;> omega

theorem trtOff_lt {u : Nat} (h : u < 2632) : 0x20000 ≤ trtOff u ∧ trtOff u < 2 ^ 48 := by
  unfold trtOff
  omega

/-- The step at which a unit's last failed pass failed. -/
def State.failStep (s : State) (die u : Nat) : Nat := fieldNat (s.devGet die (trtOff u)) 48 12

/-- Registers below the table say nothing of a unit. -/
theorem State.trt_congr {s t : State} {die u : Nat} (h : t.devGet die (trtOff u) = s.devGet die (trtOff u)) :
    t.fenced die u = s.fenced die u ∧ t.suspect die u = s.suspect die u ∧ t.failStep die u = s.failStep die u := by
  simp only [State.fenced, State.suspect, State.failStep, h, and_self]

theorem State.trtSet_eq (s : State) (die u : Nat) (f : Bool → Bool → Nat → Nat → Nat → DWord) :
    s.trtSet die u f = { s with dev := (s.trtSet die u f).dev } := rfl

/-- A unit's entry after a change of its fields. -/
theorem State.trt_trtSet (s : State) (die u : Nat) (fe su : Bool → Bool) (fs : Nat → Nat) (f n : Nat → Nat) :
    let t := s.trtSet die u fun a b c d e => trtEntry (fe a) (su b) (fs c) (f d) (n e)
    t.fenced die u = fe (s.fenced die u) ∧ t.suspect die u = su (s.suspect die u) ∧ t.failStep die u = fs (s.failStep die u) % 2 ^ 12 := by
  intro t
  unfold State.fenced State.suspect State.failStep
  simp only [t, State.trtSet, State.devGet_devSet_same]
  exact trtEntry_fields ..

/-! ## Passes -/

theorem find?_filter_not {α : Type} (p : α → Bool) (l : List α) : (l.filter fun x => !p x).find? p = none :=
  List.find?_eq_none.2 fun x hx => by simpa using (List.mem_filter.1 hx).2

/-- No pass of a unit is in progress. -/
def State.withoutPass (s : State) (die u : Nat) : State := { s with passes := s.passes.filter fun x => !(x.die == die && x.u == u) }

/-- A pass of a unit in place of any other of that unit. -/
def State.withPass (s : State) (p : TestPass) : State :=
  { s with passes := s.passes.filter (fun x => !(x.die == p.die && x.u == p.u)) ++ [p] }

theorem State.pass?_congr {s t : State} (h : t.passes = s.passes) (die u : Nat) : t.pass? die u = s.pass? die u := by
  rw [State.pass?, h, State.pass?]

theorem State.pass?_withoutPass (s : State) (die u : Nat) : (s.withoutPass die u).pass? die u = none :=
  find?_filter_not (fun x : TestPass => x.die == die && x.u == u) s.passes

theorem State.pass?_withPass (s : State) (p : TestPass) : (s.withPass p).pass? p.die p.u = some p := by
  rw [State.pass?, State.withPass, List.find?_append, find?_filter_not (fun x : TestPass => x.die == p.die && x.u == p.u)]
  simp

theorem State.pass?_name {s : State} {die u : Nat} {p : TestPass} (h : s.pass? die u = some p) : p.die = die ∧ p.u = u := by
  simpa using List.find?_some h

theorem testUnit_steps {die u kind num steps : Nat} (h : testUnit die u = some (kind, num, steps)) : 1 < steps := by
  revert h
  unfold testUnit
  split_ifs <;> simp <;> omega

/-! ## A step before its result: P4's count and the samples of the streams that wait (R21, R476) -/

theorem State.sampleAll_eq (s : State) (die src v : Nat) : s.sampleAll die src v = { s with monitors := (s.sampleAll die src v).monitors } := rfl

/-- Changes of monitors alone, one after another, change monitors alone. -/
theorem State.foldl_monitors_eq {α : Type} {f : State → α → State} (hf : ∀ s x, f s x = { s with monitors := (f s x).monitors }) (s : State)
    (l : List α) : l.foldl f s = { s with monitors := (l.foldl f s).monitors } := by
  induction l generalizing s with
  | nil => rfl
  | cons x l ih => rw [List.foldl_cons, ih, hf]

theorem State.sampleWaits_eq (s : State) (die : Nat) : s.sampleWaits die = { s with monitors := (s.sampleWaits die).monitors } :=
  State.foldl_monitors_eq (fun s _ => State.sampleAll_eq s ..) s _

/-- The state in which a test step's result takes effect. -/
def State.stepTaken (s : State) (die : Nat) : State := (s.p4Restarted die).sampleWaits die

theorem State.stepTaken_eq (s : State) (die : Nat) :
    s.stepTaken die = { s with dies := (s.p4Restarted die).dies, monitors := (s.stepTaken die).monitors } :=
  State.sampleWaits_eq (s.p4Restarted die) die

/-! ## Results of a step (R470, R471) -/

theorem State.testreqDone_eq (s : State) (die : Nat) (p : TestPass) (failed : Bool) :
    s.testreqDone die p failed = { s with dev := (s.testreqDone die p failed).dev } := by
  unfold State.testreqDone
  split_ifs <;> rfl

theorem State.devGet_testreqDone_of_ne (s : State) (die : Nat) (p : TestPass) (failed : Bool) (d : Nat) {k : Nat} (hk : k < 2 ^ 48) (h : k ≠ 0xE008) :
    (s.testreqDone die p failed).devGet d k = s.devGet d k := by
  unfold State.testreqDone
  by_cases hr : p.byReq = true
  · rw [if_pos hr, State.devGet_devSet_of_ne s _ (by omega) hk (.inr h)]
  · rw [if_neg hr]
    by_cases hf : p.forced = true
    · rw [if_pos hf, State.devGet_devSet_of_ne s _ (by omega) hk (.inr h)]
    · rw [if_neg hf]

theorem State.testreqDone_trt (s : State) (die : Nat) {u : Nat} (p : TestPass) (failed : Bool) (hu : u < 2632) :
    let t := s.testreqDone die p failed
    t.fenced die u = s.fenced die u ∧ t.suspect die u = s.suspect die u ∧ t.failStep die u = s.failStep die u :=
  State.trt_congr (State.devGet_testreqDone_of_ne s die p failed die (trtOff_lt hu).2 (by have := (trtOff_lt hu).1; omega))

/-- A step is counted, and the pass that it ends is in progress no more. -/
def State.passCounted (s : State) (p : TestPass) : State := (s.count p.die 0x7080).withoutPass p.die p.u

theorem State.passCounted_eq (s : State) (p : TestPass) :
    s.passCounted p = { s.withoutPass p.die p.u with dev := (s.passCounted p).dev } := by
  rw [State.passCounted, State.count_eq]
  rfl

theorem State.devGet_passCounted_of_ne (s : State) (p : TestPass) (d : Nat) {k : Nat} (hk : k < 2 ^ 48) (h : k ≠ 0x7080) :
    (s.passCounted p).devGet d k = s.devGet d k :=
  State.devGet_count_of_ne s (by omega) hk (.inr h)

/-- A step that is not its pass's last. -/
theorem State.passStep_goes_on (s : State) {p : TestPass} {steps : Nat} (kind num : Nat) (h : p.step + 1 < steps) :
    s.passStep p kind num steps .pass = (s.count p.die 0x7080).withPass { p with step := p.step + 1, since := s.clock } := by
  unfold State.passStep
  simp only [if_pos h]
  rw [State.count_eq]
  rfl

/-- A pass that ends without an error clears SUSPECT, and lifts the fence for whose end it was started. -/
def State.passCleared (s : State) (p : TestPass) : State :=
  (s.passCounted p).trtSet p.die p.u fun fe _ fs f n => trtEntry (fe && !p.lift) false fs f (n + 1)

theorem State.passStep_ends (s : State) {p : TestPass} {steps : Nat} (kind num : Nat) (h : steps ≤ p.step + 1) :
    s.passStep p kind num steps .pass = (s.passCleared p).testreqDone p.die p false := by
  unfold State.passStep
  simp only [if_neg (Nat.not_lt.2 h)]
  rfl

theorem State.passCleared_eq (s : State) (p : TestPass) :
    s.passCleared p = { s.withoutPass p.die p.u with dev := (s.passCleared p).dev } := by
  rw [State.passCleared, State.trtSet_eq, State.passCounted_eq]

theorem State.passCleared_trt (s : State) {p : TestPass} (hu : p.u < 2632) :
    (s.passCleared p).fenced p.die p.u = (s.fenced p.die p.u && !p.lift) ∧ (s.passCleared p).suspect p.die p.u = false := by
  have hoff := trtOff_lt hu
  obtain ⟨hf, hs, -⟩ := State.trt_trtSet (s.passCounted p) p.die p.u (· && !p.lift) (fun _ => false) id id (· + 1)
  obtain ⟨hf', -⟩ := State.trt_congr (State.devGet_passCounted_of_ne s p p.die hoff.2 (by omega))
  rw [hf'] at hf
  exact ⟨hf, hs⟩

/-- A pass that meets an error, before its unit is fenced. -/
def State.passFailed (s : State) (p : TestPass) : State :=
  ((s.passCounted p).count p.die 0x7088).trtSet p.die p.u fun fe su _ f n => trtEntry fe su p.step (f + 1) n

theorem State.passStep_fails (s : State) (p : TestPass) (kind num steps : Nat) : s.passStep p kind num steps .mismatch =
    let f := (s.passFailed p).fenceUnit p.die p.u
    (f.1.event p.die (0x6F + kind) kind num (p.step + if f.2 then 2 ^ 31 else 0) none []).testreqDone p.die p true := rfl

theorem State.passFailed_eq (s : State) (p : TestPass) : s.passFailed p =
    { s.withoutPass p.die p.u with dev := (s.passFailed p).dev } := by
  rw [State.passFailed, State.trtSet_eq, State.count_eq, State.passCounted_eq]

theorem State.devGet_passFailed_of_lt (s : State) (p : TestPass) {k : Nat} (hu : p.u < 2632) (d : Nat) (hk : k < 0x7080) :
    (s.passFailed p).devGet d k = s.devGet d k := by
  have hoff := trtOff_lt hu
  rw [State.passFailed, State.trtSet, State.devGet_devSet_of_ne _ _ hoff.2 (by omega) (by omega),
    State.devGet_count_of_ne _ (by omega) (by omega) (by omega), State.devGet_passCounted_of_ne _ _ _ (by omega) (by omega)]

theorem State.passFailed_failStep (s : State) {p : TestPass} (h : p.step < 4096) : (s.passFailed p).failStep p.die p.u = p.step := by
  obtain ⟨-, -, hs⟩ := State.trt_trtSet ((s.passCounted p).count p.die 0x7088) p.die p.u id id (fun _ => p.step) (· + 1) id
  exact hs.trans (Nat.mod_eq_of_lt h)

/-! ## Fences that fall (R471) -/

theorem State.fenceUnit_fenced {s : State} {die u : Nat} (h : s.fenced die u = true) :
    (s.fenceUnit die u).1 = { s with fences := s.fences.filter (· != (die, u)) } := by
  have h' : ({ s with fences := s.fences.filter (· != (die, u)) } : State).fenced die u = true := h
  unfold State.fenceUnit
  simp only [h']
  rfl

/-- A fence changes registers, blocks and what waits to be fenced. -/
theorem State.fenceUnit_frame (s : State) (die u : Nat) : (s.fenceUnit die u).1 = { s with
    dev := (s.fenceUnit die u).1.dev, blocks := (s.fenceUnit die u).1.blocks, fences := (s.fenceUnit die u).1.fences } := by
  cases h : s.fenced die u with
  | true => rw [State.fenceUnit_fenced h]
  | false => rw [State.fenceUnit_eq h, State.haltBlocks_eq, State.fenceMarked_eq]

theorem State.devGet_fenceUnit_of_lt (s : State) (die : Nat) {u k : Nat} (hu : u < 2632) (d : Nat) (hk : k < 0x7090) :
    (s.fenceUnit die u).1.devGet d k = s.devGet d k := by
  cases h : s.fenced die u with
  | true => rw [State.fenceUnit_fenced h]; rfl
  | false =>
    have hoff := trtOff_lt hu
    rw [State.fenceUnit_eq h, State.devGet_congr (s := s.fenceMarked die u) (by rw [State.haltBlocks_eq]), State.fenceMarked,
      State.devGet_count_of_ne _ (by omega) (by omega) (by omega), State.trtSet,
      State.devGet_devSet_of_ne _ _ hoff.2 (by omega) (by omega)]
    rfl

/-- A unit is fenced, and its entry keeps the step at which it failed. -/
theorem State.fenceUnit_trt (s : State) (die : Nat) {u : Nat} (hu : u < 2632) :
    (s.fenceUnit die u).1.fenced die u = true ∧ (s.fenceUnit die u).1.failStep die u = s.failStep die u := by
  cases h : s.fenced die u with
  | true => rw [State.fenceUnit_fenced h]; exact ⟨h, rfl⟩
  | false =>
    have hoff := trtOff_lt hu
    have hdev : (s.fenceUnit die u).1.devGet die (trtOff u) = (s.fenceMarked die u).devGet die (trtOff u) := by
      rw [State.fenceUnit_eq h]
      exact State.devGet_congr (by rw [State.haltBlocks_eq]) ..
    have hmark : (s.fenceMarked die u).devGet die (trtOff u) = (({ s with fences := s.fences.filter (· != (die, u)) } : State).trtSet die u
        fun _ su fs f p => trtEntry true su fs f p).devGet die (trtOff u) :=
      State.devGet_count_of_ne _ (by omega) hoff.2 (by omega)
    obtain ⟨hf, -, hs⟩ := State.trt_congr (hdev.trans hmark)
    obtain ⟨hf', -, hs'⟩ := State.trt_trtSet { s with fences := s.fences.filter (· != (die, u)) } die u (fun _ => true) id id id id
    exact ⟨hf.trans hf', hs.trans (hs'.trans (Nat.mod_eq_of_lt (Nat.mod_lt _ (by decide))))⟩

end Sys2Proof.Machine
end

section
/-! SUPPORT. IDLE_TEST_STEP and FORCED_PASS_STEP (R467 to R473): what each result of a step leaves of the package. -/
set_option Elab.async false
namespace Sys2Proof.Machine
open Sys2Proof.Claims

/-! ## The three ends of a step -/

theorem State.dev_count_congr {s t : State} (h : t.dev = s.dev) (die off : Nat) : (t.count die off).dev = (s.count die off).dev := by
  unfold State.count
  rw [State.devGet_congr h]
  split
  · exact h
  · show insertAt _ _ t.dev = insertAt _ _ s.dev
    rw [h]

theorem State.stepTaken_dev (s : State) (die : Nat) : (s.stepTaken die).dev = s.dev := by
  rw [State.stepTaken_eq]

theorem State.stepTaken_fenced (s : State) (die u : Nat) : (s.stepTaken die).fenced die u = s.fenced die u :=
  (State.trt_congr (State.devGet_congr (State.stepTaken_dev s die) ..)).1

theorem State.stepTaken_count_memory (s : State) (die off : Nat) : SameMemory s ((s.stepTaken die).count die off) := by
  rw [State.count_eq, State.stepTaken_eq]
  exact ⟨rfl, rfl, rfl⟩

/-- A step without an error that does not end its pass. -/
theorem State.step_goes_on {s : State} {p : TestPass} {steps : Nat} (kind num : Nat) (h : p.step + 1 < steps)
    (hc : s.devGet p.die 0x7080 ≠ BitVec.allOnes 64) :
    let t := (s.stepTaken p.die).passStep p kind num steps .pass
    t.pass? p.die p.u = some { p with step := p.step + 1, since := s.clock } ∧
      RegsSet s t p.die [(0x7080, s.devGet p.die 0x7080 + 1)] ∧ SameMemory s t := by
  intro t
  have hclock : (s.stepTaken p.die).clock = s.clock := by rw [State.stepTaken_eq]
  have ht : t = ((s.stepTaken p.die).count p.die 0x7080).withPass { p with step := p.step + 1, since := s.clock } := by
    rw [← hclock]
    exact State.passStep_goes_on _ kind num h
  have hdev : t.dev = (s.devSet p.die 0x7080 (s.devGet p.die 0x7080 + 1)).dev := by
    rw [ht, ← State.count_of_ne hc]
    exact State.dev_count_congr (State.stepTaken_dev s p.die) ..
  refine ⟨?_, regsSet_of_dev (by omega) hdev, ?_⟩
  · rw [ht]
    exact State.pass?_withPass _ { p with step := p.step + 1, since := s.clock }
  · rw [ht]
    exact State.stepTaken_count_memory s p.die 0x7080

/-- The last step of a pass without an error. -/
theorem State.step_ends {s : State} {p : TestPass} {steps : Nat} (kind num : Nat) (h : steps ≤ p.step + 1) (hu : p.u < 2632) :
    let t := (s.stepTaken p.die).passStep p kind num steps .pass
    t.pass? p.die p.u = none ∧ t.suspect p.die p.u = false ∧ t.fenced p.die p.u = (s.fenced p.die p.u && !p.lift) ∧ SameMemory s t := by
  intro t
  have ht : t = ((s.stepTaken p.die).passCleared p).testreqDone p.die p false := State.passStep_ends _ kind num h
  have hframe : t.passes = (s.withoutPass p.die p.u).passes ∧ SameMemory s t := by
    rw [ht, State.testreqDone_eq, State.passCleared_eq, State.stepTaken_eq]
    exact ⟨rfl, rfl, rfl, rfl⟩
  obtain ⟨hpasses, hmem⟩ := hframe
  obtain ⟨hf, hs⟩ := State.passCleared_trt (s.stepTaken p.die) hu
  obtain ⟨hf', hs', -⟩ := State.testreqDone_trt ((s.stepTaken p.die).passCleared p) p.die p false hu
  rw [← ht] at hf' hs'
  refine ⟨?_, hs'.trans hs, ?_, hmem⟩
  · rw [State.pass?_congr hpasses, State.pass?_withoutPass]
  · rw [hf', hf, State.stepTaken_fenced]

/-- A step with an error ends its pass and fences its unit (R470). -/
theorem State.step_fails {s : State} {p : TestPass} (kind num steps : Nat) (hw : NoWindow s) (h : p.step < 4096) (hu : p.u < 2632) :
    let t := (s.stepTaken p.die).passStep p kind num steps .mismatch
    t.pass? p.die p.u = none ∧ t.fenced p.die p.u = true ∧ t.failStep p.die p.u = p.step ∧ SameMemory s t := by
  intro t
  have hwindow : NoWindow (((s.stepTaken p.die).passFailed p).fenceUnit p.die p.u).1 := fun d => by
    rw [State.devGet_fenceUnit_of_lt _ _ hu d (by omega), State.devGet_passFailed_of_lt _ _ hu d (by omega),
      State.devGet_congr (State.stepTaken_dev s p.die)]
    exact hw d
  have ht : t = ((((s.stepTaken p.die).passFailed p).fenceUnit p.die p.u).1).testreqDone p.die p true := by
    rw [← State.event_noWindow hwindow]
    exact State.passStep_fails _ p kind num steps
  have hframe : t.passes = (s.withoutPass p.die p.u).passes ∧ SameMemory s t := by
    rw [ht, State.testreqDone_eq, State.fenceUnit_frame, State.passFailed_eq, State.stepTaken_eq]
    exact ⟨rfl, rfl, rfl, rfl⟩
  obtain ⟨hpasses, hmem⟩ := hframe
  obtain ⟨hf, hs⟩ := State.fenceUnit_trt ((s.stepTaken p.die).passFailed p) p.die hu
  obtain ⟨hf', -, hs'⟩ := State.testreqDone_trt (((s.stepTaken p.die).passFailed p).fenceUnit p.die p.u).1 p.die p true hu
  rw [← ht] at hf' hs'
  refine ⟨?_, hf'.trans hf, ?_, hmem⟩
  · rw [State.pass?_congr hpasses, State.pass?_withoutPass]
  · rw [hs', hs, State.passFailed_failStep _ h]

/-! ## Idle units (R468) -/

theorem exec_idleTestStep (s : State) (die u : Nat) (r : StepResult) : exec (.idleTestStep die u r) s = execIdleTestStep die u r s := rfl

theorem idleTestStep_disabled {s : State} {die u kind num steps : Nat} (hu : testUnit die u = some (kind, num, steps))
    (h : (s.devGet die 0xE000).getLsbD (kind - 1) = false) (r : StepResult) : exec (.idleTestStep die u r) s = .next s := by
  have h' : bit (s.devGet die 0xE000) (kind - 1) = false := h
  rw [exec_idleTestStep, execIdleTestStep, hu]
  simp only
  rw [if_pos (by simp [h'])]

/-- The first step of a pass of an idle unit. -/
theorem idleTestStep_starts {s : State} {die u kind num steps : Nat} (hu : testUnit die u = some (kind, num, steps))
    (he : (s.devGet die 0xE000).getLsbD (kind - 1) = true) (hf : s.fenced die u = false) (hb : s.unitBusy die u = false)
    (hp : s.pass? die u = none) (hc : s.devGet die 0x7080 ≠ BitVec.allOnes 64) :
    ∃ t, exec (.idleTestStep die u .pass) s = .next t ∧
      t.pass? die u = some ⟨die, u, 1, false, false, false, false, s.clock⟩ ∧ RegsSet s t die [(0x7080, s.devGet die 0x7080 + 1)] ∧
      SameMemory s t := by
  have he' : bit (s.devGet die 0xE000) (kind - 1) = true := he
  have hexec : exec (.idleTestStep die u .pass) s =
      .next ((s.stepTaken die).passStep ⟨die, u, 0, false, false, false, false, s.clock⟩ kind num steps .pass) := by
    rw [exec_idleTestStep, execIdleTestStep, hu, hp]
    simp only [Option.getD_none]
    rw [if_neg (by simp [he', hf, hb])]
    rfl
  exact ⟨_, hexec, State.step_goes_on (p := ⟨die, u, 0, false, false, false, false, s.clock⟩) kind num (testUnit_steps hu) hc⟩

/-! ## Forced passes (R469, R472) -/

theorem exec_forcedPassStep (s : State) (die u : Nat) (r : StepResult) : exec (.forcedPassStep die u r) s = execForcedPassStep die u r s := rfl

theorem forcedPassStep_none {s : State} {die u : Nat} (h : s.pass? die u = none) (r : StepResult) :
    exec (.forcedPassStep die u r) s = .next s := by
  rw [exec_forcedPassStep]
  unfold execForcedPassStep
  rw [h]
  cases testUnit die u <;> rfl

theorem forcedPassStep_eq {s : State} {die u kind num steps : Nat} {p : TestPass} (hu : testUnit die u = some (kind, num, steps))
    (h : s.pass? die u = some p) (hf : p.forced = true) (r : StepResult) :
    exec (.forcedPassStep die u r) s = .next ((s.stepTaken die).passStep { p with granted := false } kind num steps r) := by
  rw [exec_forcedPassStep]
  unfold execForcedPassStep
  rw [hu, h]
  simp only
  rw [if_pos hf]
  rfl

theorem forcedPassStep_goes_on {s : State} {die u kind num steps : Nat} {p : TestPass} (hu : testUnit die u = some (kind, num, steps))
    (h : s.pass? die u = some p) (hf : p.forced = true) (hc : s.devGet die 0x7080 ≠ BitVec.allOnes 64) (hs : p.step + 1 < steps) :
    ∃ t, exec (.forcedPassStep die u .pass) s = .next t ∧
      t.pass? die u = some { p with step := p.step + 1, granted := false, since := s.clock } ∧
      RegsSet s t die [(0x7080, s.devGet die 0x7080 + 1)] ∧ SameMemory s t := by
  obtain ⟨rfl, rfl⟩ := State.pass?_name h
  exact ⟨_, forcedPassStep_eq hu h hf .pass, State.step_goes_on (p := { p with granted := false }) kind num hs hc⟩

theorem forcedPassStep_ends {s : State} {die u kind num steps : Nat} {p : TestPass} (hu : testUnit die u = some (kind, num, steps))
    (h : s.pass? die u = some p) (hf : p.forced = true) (hs : steps ≤ p.step + 1) :
    ∃ t, exec (.forcedPassStep die u .pass) s = .next t ∧ t.pass? die u = none ∧ t.suspect die u = false ∧
      t.fenced die u = (s.fenced die u && !p.lift) ∧ SameMemory s t := by
  obtain ⟨rfl, rfl⟩ := State.pass?_name h
  exact ⟨_, forcedPassStep_eq hu h hf .pass, State.step_ends (p := { p with granted := false }) kind num hs
    (testUnit_lt (by rw [hu]; rfl))⟩

theorem forcedPassStep_fails {s : State} {die u kind num steps : Nat} {p : TestPass} (hu : testUnit die u = some (kind, num, steps))
    (h : s.pass? die u = some p) (hf : p.forced = true) (hw : NoWindow s) (hs : p.step < 4096) :
    ∃ t, exec (.forcedPassStep die u .mismatch) s = .next t ∧ t.pass? die u = none ∧ t.fenced die u = true ∧
      t.failStep die u = p.step ∧ SameMemory s t := by
  obtain ⟨rfl, rfl⟩ := State.pass?_name h
  exact ⟨_, forcedPassStep_eq hu h hf .mismatch, State.step_fails (p := { p with granted := false }) kind num steps hw hs
    (testUnit_lt (by rw [hu]; rfl))⟩

end Sys2Proof.Machine
end

section
/-! CERTIFICATE. Power, temperature, refresh windows, tests, scrubbing and monitors. -/
set_option Elab.async false
namespace Sys2Proof.Proofs
open Sys2Proof Sys2Proof.Machine Sys2Proof.Claims

/-- Settles O42, clause by clause: each is the lemma about the event that it names, in a package of thirteen dies. -/
theorem powerAndUnits : Obligations.PowerAndUnits := by
  unfold Obligations.PowerAndUnits
  intro s die u hlen hd
  have hl : die < s.dies.length := by omega
  refine ⟨diePowerLoss_stops hl, dieWake_powered, fun h => dieWake_idle hl h hd, dieReset_unpowered, fun h => dieReset_idle hl h hd,
    junctionOver100c_stretched, junctionOver100c_stretches hl, junctionBelow95c_ends hl, junctionOver115c_off hlen,
    wgtRefreshWindowStart_opens u hl, wgtRefreshWindowEnd_closes hl, wgtRefreshWindowEnd_other, p4StarvationGrant_early,
    fun h => ⟨fun p hp => p4StarvationGrant_pass hl h hp, fun m n => p4StarvationGrant_migration h⟩,
    fun arr granule => scrubRead_clean s arr die granule, fun arr granule => scrubRead_corrected_access granule,
    fun g => scrubRead_regFile, fun arr granule ha => ⟨scrubRead_corrected_scrub granule ha, scrubRead_poisons ha⟩,
    ⟨monitorInterval_off, monitorInterval_samples⟩, fun kind num steps hu => ⟨idleTestStep_disabled hu, idleTestStep_starts hu,
      forcedPassStep_none, fun p hp hf hc => ⟨forcedPassStep_goes_on hu hp hf hc, forcedPassStep_ends hu hp hf, forcedPassStep_fails hu hp hf⟩⟩⟩

end Sys2Proof.Proofs
end

section
/-! SUPPORT. -/
set_option Elab.async false
namespace Sys2Proof.Machine

/-! ## Canonical memories, and what is built over them -/

theorem State.memOk_iff (s : State) : s.memOk = true ↔ s.mem.wf = true ∧ s.ls.wf = true ∧ s.wgt.wf = true := by
  simp [State.memOk, and_assoc]

theorem State.mem_wf {s : State} (h : s.memOk = true) : s.mem.wf = true := ((State.memOk_iff s).1 h).1

theorem State.memOk_withMem {s t : State} (h : s.memOk = true) (hm : t.mem.wf = true) (hl : t.ls = s.ls := by rfl)
    (hw : t.wgt = s.wgt := by rfl) : t.memOk = true := by
  obtain ⟨-, hls, hwgt⟩ := (State.memOk_iff s).1 h
  exact (State.memOk_iff t).2 ⟨hm, hl ▸ hls, hw ▸ hwgt⟩

theorem ite_memOk (c : Prop) [Decidable c] {s t : State} (hs : s.memOk = true) (ht : t.memOk = true) : (if c then s else t).memOk = true := by
  split <;> assumption

theorem ite_fst_memOk {α : Type} {c : Prop} [Decidable c] {a b : State × α} (ha : a.1.memOk = true) (hb : b.1.memOk = true) :
    (if c then a else b).1.memOk = true := by
  split
  · exact ha
  · exact hb

theorem getD_memOk {α : Type} {o : Option (State × α)} {r : State × α} (ho : ∀ x, o = some x → x.1.memOk = true)
    (hr : r.1.memOk = true) : (o.getD r).1.memOk = true := by
  cases o with
  | none => exact hr
  | some x => exact ho x rfl

theorem foldl_set_wf {α : Type} (l : List α) (f : α → Nat) (b : α → Byte) {m : Memory} (hm : m.wf = true) :
    (l.foldl (fun m c => m.set (f c) (b c)) m).wf = true := by
  induction l generalizing m with
  | nil => exact hm
  | cons c l ih => exact ih (Memory.wf_set hm ..)

theorem Memory.copyPage_wf {m : Memory} (hm : m.wf = true) (src dst n : Nat) : (m.copyPage src dst n).wf = true :=
  foldl_set_wf _ (fun c : Host.Cell => c.1 - src + dst) (fun c => c.2) (Memory.wf_clear hm ..)

/-- A next state has its memories in their canonical form. -/
def Outcome.memOk : Outcome → Prop
  | .next t => t.memOk = true
  | _ => True

@[simp] theorem Outcome.memOk_next (t : State) : Outcome.memOk (.next t) ↔ t.memOk = true := Iff.rfl
@[simp] theorem Outcome.memOk_fault (r : Fault) : Outcome.memOk (.fault r) := trivial

theorem foldl_memOk {α : Type} {f : State → α → State} (hf : ∀ s a, s.memOk = true → (f s a).memOk = true) (l : List α)
    {s : State} (h : s.memOk = true) : (l.foldl f s).memOk = true := by
  induction l generalizing s with
  | nil => exact h
  | cons a l ih => exact ih (hf _ _ h)

theorem foldl_fst_memOk {α β : Type} {f : State × β → α → State × β} (hf : ∀ s a, s.1.memOk = true → (f s a).1.memOk = true)
    (l : List α) {s : State × β} (h : s.1.memOk = true) : (l.foldl f s).1.memOk = true := by
  induction l generalizing s with
  | nil => exact h
  | cons a l ih => exact ih (hf _ _ h)

variable {s : State} (h : s.memOk = true)
include h

/-! ## Map -/
@[simp] theorem State.devSet_memOk (die off v) : (s.devSet die off v).memOk = true := h
@[simp] theorem State.count_memOk (die off) : (s.count die off).memOk = true := by unfold State.count; split <;> simp [h]
@[simp] theorem State.countN_memOk (die off n) : (s.countN die off n).memOk = true := h

/-! ## Ops -/
@[simp] theorem State.setGang_memOk (g) : (s.setGang g).memOk = true := h
@[simp] theorem State.setBlock_memOk (b) : (s.setBlock b).memOk = true := h
@[simp] theorem State.setGrid_memOk (g) : (s.setGrid g).memOk = true := h
@[simp] theorem State.setOp_memOk (o) : (s.setOp o).memOk = true := h
@[simp] theorem State.setControl_memOk (c) : (s.setControl c).memOk = true := h
@[simp] theorem State.setDie_memOk (d f) : (s.setDie d f).memOk = true := h
@[simp] theorem State.emit_memOk (o) : (s.emit o).memOk = true := h
@[simp] theorem State.setCohort_memOk (c) : (s.setCohort c).memOk = true := h
@[simp] theorem State.waitPart_memOk (g m w) : (s.waitPart g m w).memOk = true := h
@[simp] theorem State.bumpStamp_memOk (pa) : (s.bumpStamp pa).1.memOk = true := by grind [State.bumpStamp, State.memOk, Memory.wf_write]
@[simp] theorem State.tick_memOk : s.tick.memOk = true := h
@[simp] theorem State.raiseStamp_memOk (die idx) : (s.raiseStamp die idx).1.memOk = true := by
  grind [State.raiseStamp, !← State.bumpStamp_memOk]
@[simp] theorem State.event_memOk (origin cause kind unit info addr detail) :
    (s.event origin cause kind unit info addr detail).memOk = true := by
  have hwrite (a bs) : ({ s with mem := s.mem.write a bs } : State).memOk = true :=
    State.memOk_withMem h (Memory.wf_write (State.mem_wf h) ..)
  unfold State.event
  extract_lets d win prod cons
  split
  · exact h
  split
  · exact State.count_memOk h ..
  · exact State.raiseStamp_memOk (State.devSet_memOk (hwrite _ _) ..) ..
@[simp] theorem State.haltBlock_memOk (b) : (s.haltBlock b).memOk = true := by unfold State.haltBlock; (repeat' split) <;> simp [h]
@[simp] theorem State.markKill_memOk (b) : (s.markKill b).memOk = true := by unfold State.markKill; (repeat' split) <;> simp [h]
@[simp] theorem State.signal_memOk (g) : (s.signal g).memOk = true := by grind [State.signal, State.memOk]
@[simp] theorem State.killQueued_memOk (hd is) : (s.killQueued hd is).memOk = true := by
  unfold State.killQueued; (repeat' split) <;> simp_all [foldl_memOk]
@[simp] theorem State.tell_memOk (pkg m) : (s.tell pkg m).memOk = true := h
@[simp] theorem State.tellAll_memOk (g m) : (s.tellAll g m).memOk = true := by
  unfold State.tellAll; simp_all [foldl_memOk]
@[simp] theorem State.killSpan_memOk (g tell) : (s.killSpan g tell).memOk = true := by
  grind [State.killSpan, State.memOk, foldl_memOk, !← State.killQueued_memOk, !← State.setGrid_memOk, !← State.markKill_memOk, !←
    State.tellAll_memOk]
@[simp] theorem State.killCohort_memOk (b) : (s.killCohort b).memOk = true := by
  grind [State.killCohort, foldl_memOk, !← State.killSpan_memOk, !← State.markKill_memOk]
@[simp] theorem State.writeTrap_memOk (g t) : (s.writeTrap g t).memOk = true := by
  grind [State.writeTrap, State.memOk, Memory.wf_write, !← State.count_memOk, !← State.raiseStamp_memOk]
@[simp] theorem State.trapHalts_memOk (gid) : (s.trapHalts gid).memOk = true := by
  cases gid with
  | control => exact h
  | compute b n => 
    simp only [State.trapHalts]
    (repeat' split) <;> simp [h]
@[simp] theorem State.trapCore_memOk (gid t) : (s.trapCore gid t).memOk = true := by
  unfold State.trapCore
  split
  · exact h
  next g _ =>
    have hw := State.writeTrap_memOk (State.setGang_memOk h { g with halted := true, trapping := none }) g t
    cases gid with
    | control => simp only; split <;> simp [hw]
    | compute => simp only; (repeat' split) <;> simp [hw]
@[simp] theorem State.trapGang_memOk (gid t) : (s.trapGang gid t).memOk = true := by unfold State.trapGang; (repeat' split) <;> simp [h]
@[simp] theorem State.finishTraps_memOk : s.finishTraps.memOk = true := by grind [State.finishTraps, foldl_memOk, !← State.trapCore_memOk]
@[simp] theorem State.takeTrap_memOk (gid t) : (s.takeTrap gid t).memOk = true := by
  have hfold (b : BlockId) (l : List LatchMember) :
      (l.foldl (fun s m => s.trapGang (.compute b m.gang) (TrapInfo.plain 0x0E 1 4 0 m.words)) (s.trapGang gid t)).memOk = true :=
    foldl_memOk (fun _ _ hs => State.trapGang_memOk hs ..) l (State.trapGang_memOk h gid t)
  unfold State.takeTrap
  split
  · simp only
    split <;> simp [hfold]
  · exact State.trapGang_memOk h ..
@[simp] theorem State.resumeInPlace_memOk (b) : (s.resumeInPlace b).memOk = true := by
  unfold State.resumeInPlace; (repeat' split) <;> simp_all [foldl_memOk]
omit h in
@[simp] theorem withScalar_memOk {k : Gang → BitVec 8 → State} (hk : ∀ s t, (k s t).memOk = true) : (withScalar s k).memOk := by
  unfold withScalar; split <;> simp [hk]
omit h in
@[simp] theorem withLane_memOk {k : Gang → BitVec 8 → State} (hk : ∀ s t, (k s t).memOk = true) : (withLane s k).memOk := by
  unfold withLane; split <;> simp [hk]
@[simp] theorem State.trapScalar_memOk (g m cause info) : (s.trapScalar g m cause info).memOk = true := by simp [State.trapScalar, h]
@[simp] theorem State.trapSlice_memOk (g slice cause info) : (s.trapSlice g slice cause info).memOk = true := by simp [State.trapSlice, h]
@[simp] theorem State.countSent_memOk (g sent performed) : (s.countSent g sent performed).memOk = true := by
  unfold State.countSent; split <;> simp [h]
@[simp] theorem State.bumpInterval_memOk (g) : (s.bumpInterval g).memOk = true := by unfold State.bumpInterval; split <;> simp [h]
@[simp] theorem State.acquire_memOk (g) : (s.acquire g).memOk = true := by unfold State.acquire; split <;> simp [h]

/-! ## LaneFrame -/
@[simp] theorem State.trapLane_memOk (g m cause info lanes addr) : (s.trapLane g m cause info lanes addr).memOk = true := by
  simp [State.trapLane, h]
@[simp] theorem State.laneDone_memOk (g m) : (s.laneDone g m).memOk = true := h
@[simp] theorem laneChecked_memOk (names reads) {k : Gang → BitVec 8 → State} (hk : ∀ s t, (k s t).memOk = true) : (laneChecked s names reads k).memOk := by
  grind [laneChecked, !← withLane_memOk, !← State.setGang_memOk, !← State.trapLane_memOk]
@[simp] theorem laneAlu_memOk (w n f old) : (laneAlu s w n f old).memOk := by simp [laneAlu, h]
@[simp] theorem lanePred_memOk (w n f) : (lanePred s w n f).memOk := by simp [lanePred, h]

/-! ## Start -/
@[simp] theorem State.dropGang_memOk (g) : (s.dropGang g).memOk = true := by grind [State.dropGang, State.memOk, !← State.countSent_memOk]
@[simp] theorem State.startControl_memOk (die idx root identity pc) : (s.startControl die idx root identity pc).memOk = true := by
  grind [State.startControl, State.memOk, !← State.setControl_memOk, !← State.dropGang_memOk]
@[simp] theorem State.trtSet_memOk (die u f) : (s.trtSet die u f).memOk = true := h
@[simp] theorem State.fenceUnit_memOk (die u) : (s.fenceUnit die u).1.memOk = true := by
  grind [State.fenceUnit, State.memOk, foldl_memOk, !← State.count_memOk, !← State.trtSet_memOk, !← State.haltBlock_memOk]
@[simp] theorem State.startPass_memOk (die u byReq lift) : (s.startPass die u byReq lift).memOk = true := by
  grind [State.startPass, State.memOk]
@[simp] theorem State.testreqDone_memOk (die p failed) : (s.testreqDone die p failed).memOk = true := by
  unfold State.testreqDone; (repeat' split) <;> simp [h]
@[simp] theorem State.passStep_memOk (p kind num steps r) : (s.passStep p kind num steps r).memOk = true := by
  have hpasses (l) : ({ s.count p.die 0x7080 with passes := l } : State).memOk = true := State.count_memOk h ..
  cases r with
  | mismatch => exact State.testreqDone_memOk (State.event_memOk (State.fenceUnit_memOk (State.trtSet_memOk (State.count_memOk (hpasses _) ..) ..) ..) ..) ..
  | pass =>
    unfold State.passStep
    simp only
    split
    · exact hpasses _
    · exact State.testreqDone_memOk (State.trtSet_memOk (hpasses _) ..) ..
@[simp] theorem State.setMonitor_memOk (m) : (s.setMonitor m).memOk = true := h
@[simp] theorem State.sampleAll_memOk (die src v) : (s.sampleAll die src v).memOk = true := h

/-! ## Boot -/
@[simp] theorem State.setStage_memOk (stage code) : (s.setStage stage code).memOk = true := h
@[simp] theorem State.setDevBytes_memOk (off bs) : (s.setDevBytes off bs).memOk = true := by
  unfold State.setDevBytes; simp_all [foldl_memOk]
@[simp] theorem State.extendMeasure_memOk (kind svn digest) : (s.extendMeasure kind svn digest).memOk = true := by
  simp [State.extendMeasure, h]
@[simp] theorem State.verifyImage_memOk (pa kind) : (s.verifyImage pa kind).1.memOk = true := by
  have hload (l p) : ({ s with mem := s.mem.write l p } : State).memOk = true :=
    State.memOk_withMem h (Memory.wf_write (State.mem_wf h) ..)
  unfold State.verifyImage
  split
  · exact h
  simp only
  split
  · exact hload _ _
  · exact State.extendMeasure_memOk (hload _ _) ..
@[simp] theorem State.openRegion_memOk (i vabase len) : (s.openRegion i vabase len).memOk = true := h
@[simp] theorem State.powerOn_memOk : s.powerOn.memOk = true := by
  grind [State.powerOn, State.memOk, !← State.openRegion_memOk, !← State.setStage_memOk, !← State.setDevBytes_memOk]
@[simp] theorem State.bootcmd_memOk (v) : (s.bootcmd v).memOk = true := by
  grind [State.bootcmd, State.memOk, !← State.verifyImage_memOk, !← State.setStage_memOk, !← State.startControl_memOk]
@[simp] theorem State.sbverify_memOk (v) : (s.sbverify v).memOk = true := by grind [State.sbverify, State.memOk, !← State.devSet_memOk]
@[simp] theorem State.sbverifyDone_memOk : s.sbverifyDone.memOk = true := by
  grind [State.sbverifyDone, State.memOk, !← State.verifyImage_memOk, !← State.devSet_memOk]
@[simp] theorem State.attreq_memOk (v) : (s.attreq v).memOk = true := by grind [State.attreq, State.memOk, !← State.devSet_memOk]
@[simp] theorem State.reportDone_memOk : s.reportDone.memOk = true := by
  grind [State.reportDone, State.memOk, !← State.devSet_memOk, !← State.setDevBytes_memOk]
@[simp] theorem State.ccstart_memOk (v) : (s.ccstart v).memOk = true := by
  grind [State.ccstart, !← State.startControl_memOk, !← State.setStage_memOk]
@[simp] theorem State.mgmtRefresh_memOk : s.mgmtRefresh.memOk = true := by
  grind [State.mgmtRefresh, !← State.devSet_memOk, !← State.setDevBytes_memOk]

/-! ## Regs -/
@[simp] theorem State.tlbinv_memOk (die v) : (s.tlbinv die v).memOk = true := h
@[simp] theorem State.tlbinvDone_memOk (die) : (s.tlbinvDone die).memOk = true := by grind [State.tlbinvDone, State.memOk]
@[simp] theorem State.testreq_memOk (die v) : (s.testreq die v).memOk = true := by unfold State.testreq; split <;> simp [h]
@[simp] theorem State.fenceReq_memOk (die u) : (s.fenceReq die u).memOk = true := by
  grind [State.fenceReq, State.memOk, !← State.fenceUnit_memOk]
@[simp] theorem State.liftReq_memOk (die u) : (s.liftReq die u).memOk = true := by unfold State.liftReq; split <;> simp [h]
@[simp] theorem State.monctl_memOk (die n v) : (s.monctl die n v).memOk = true := h
@[simp] theorem State.regionWritten_memOk (off) : (s.regionWritten off).memOk = true := by grind [State.regionWritten, State.memOk]
@[simp] theorem State.regWrite_memOk (die off v sv) : (s.regWrite die off v sv).memOk = true := by
  unfold State.regWrite
  refine ite_memOk _ h (ite_memOk _ (State.bootcmd_memOk h _) (ite_memOk _ (State.devSet_memOk h ..) (ite_memOk _ (State.attreq_memOk h _)
    (ite_memOk _ h (ite_memOk _ (State.tlbinv_memOk h ..) (ite_memOk _ (State.sbverify_memOk h _) (ite_memOk _ (State.ccstart_memOk h _)
    (ite_memOk _ (State.testreq_memOk h ..) (ite_memOk _ (ite_memOk _ (State.fenceReq_memOk h ..) (State.liftReq_memOk h ..))
    (ite_memOk _ (State.monctl_memOk h ..) ?_))))))))))
  split
  · exact State.regionWritten_memOk (State.devSet_memOk h ..) _
  · exact h

@[simp] theorem State.regStore_memOk (die off bs sv) : (s.regStore die off bs sv).memOk = true := by
  unfold State.regStore; simp_all [foldl_memOk]

/-! ## Links -/
@[simp] theorem State.setModule_memOk (x) : (s.setModule x).memOk = true := h
@[simp] theorem State.sendFlit_memOk (a b addr f) : (s.sendFlit a b addr f).memOk = true := by
  unfold State.sendFlit; simp_all [foldl_memOk]
@[simp] theorem State.setTsn_memOk (die agent t) : (s.setTsn die agent t).memOk = true := h
@[simp] theorem State.sendOver_memOk (q b addr) : (s.sendOver q b addr).memOk = true := by
  grind [State.sendOver, !← State.sendFlit_memOk, !← State.setTsn_memOk]
@[simp] theorem State.launch_memOk (f) : (s.launch f).memOk = true := by grind [State.launch, State.memOk, !← State.sendFlit_memOk]
@[simp] theorem State.launchFlights_memOk : s.launchFlights.memOk = true := by
  grind [State.launchFlights, foldl_memOk, !← State.launch_memOk]
@[simp] theorem State.request_memOk (q target plane addr space op owner g u laneIdx mk) : (s.request q target plane addr space op owner g u laneIdx mk).memOk = true := by
  grind [State.request, State.memOk, !← State.setTsn_memOk, !← State.launchFlights_memOk]
@[simp] theorem State.setFilter_memOk (f) : (s.setFilter f).memOk = true := h

/-! ## Trans -/
@[simp] theorem State.poisonCheck_memOk (p n write) : (s.poisonCheck p n write).1.memOk = true := by
  grind [State.poisonCheck, State.memOk, !← State.count_memOk]
@[simp] theorem State.walkRead_memOk (die va epa) : (s.walkRead die va epa).1.memOk = true := by
  grind [State.walkRead, !← State.poisonCheck_memOk, !← State.sendOver_memOk]
@[simp] theorem State.walk_memOk (die ctxDie ctxCore va) : (s.walk die ctxDie ctxCore va).1.memOk = true := by
  grind [State.walk, foldl_fst_memOk, !← State.walkRead_memOk]
@[simp] theorem State.tlbEnter_memOk (e) : (s.tlbEnter e).memOk = true := h
@[simp] theorem State.tlbFill_memOk (x l) : (s.tlbFill x l).memOk = true := by unfold State.tlbFill; split <;> simp [h]
@[simp] theorem State.takeFrame_memOk (die size) : (s.takeFrame die size).memOk = true := h
@[simp] theorem State.retire_memOk (die frame) : (s.retire die frame).memOk = true := by
  grind [State.retire, State.memOk, Memory.wf_write, !← State.devSet_memOk]
omit h in
theorem foldl_write_wf (bs : List Byte) (l : List Nat) {m : Memory} (hm : m.wf = true) :
    (l.foldl (fun m a => m.write a bs) m).wf = true := by
  induction l generalizing m with
  | nil => exact hm
  | cons a l ih => exact ih (Memory.wf_write hm a bs)

@[simp] theorem State.writePtes_memOk (l e) : (s.writePtes l e).memOk = true :=
  State.memOk_withMem h (foldl_write_wf _ l (State.mem_wf h))
@[simp] theorem State.migrate_memOk (l frame ring far demote) : (s.migrate l frame ring far demote).memOk = true := by
  grind [State.migrate, State.memOk, !← State.writePtes_memOk, !← State.takeFrame_memOk]
@[simp] theorem State.promote_memOk (l) : (s.promote l).1.memOk = true := by
  grind [State.promote, !← State.migrate_memOk, !← State.count_memOk]
@[simp] theorem State.demote_memOk (l) : (s.demote l).memOk = true := by
  grind [State.demote, !← State.migrate_memOk, !← State.count_memOk]
@[simp] theorem State.migrationDone_memOk (m) : (s.migrationDone m).memOk = true :=
  State.retire_memOk (State.writePtes_memOk (State.sendOver_memOk
    (State.memOk_withMem h (Memory.copyPage_wf (State.mem_wf h) ..)) ..) ..) ..
@[simp] theorem State.releaseInPlace_memOk (m) : (s.releaseInPlace m).memOk = true := h
@[simp] theorem State.migrationFail_memOk (m cause) : (s.migrationFail m cause).memOk = true := by
  grind [State.migrationFail, State.memOk, !← State.releaseInPlace_memOk, !← State.event_memOk, !← State.retire_memOk, !←
    State.writePtes_memOk]
@[simp] theorem State.translate_memOk (x va need) : (s.translate x va need).1.memOk = true := by
  grind [State.translate, !← State.tlbEnter_memOk, !← State.walk_memOk, !← State.promote_memOk, !← State.tlbFill_memOk]

/-! ## Access -/
@[simp] theorem State.locateGen_memOk (x k va n) : (s.locateGen x k va n).1.memOk = true := by
  grind [State.locateGen, !← State.translate_memOk]
@[simp] theorem State.locate_memOk (g k space addr n) : (s.locate g k space addr n).1.memOk = true := by
  unfold State.locate; (repeat' split) <;> simp [h]
@[simp] theorem State.writePlace_memOk (p bs sv) : (s.writePlace p bs sv).memOk = true := by
  obtain ⟨hmem, hls, hwgt⟩ := (State.memOk_iff s).1 h
  cases p with
  | mem => exact State.memOk_withMem h (Memory.wf_write hmem ..)
  | ls => exact (State.memOk_iff _).2 ⟨hmem, Memory.wf_write hls .., hwgt⟩
  | wgt => exact (State.memOk_iff _).2 ⟨hmem, hls, Memory.wf_write hwgt ..⟩
  | reg => exact State.regStore_memOk h ..
  | _ => exact h
@[simp] theorem State.apply_memOk (p op sv) : (s.apply p op sv).1.memOk = true := by unfold State.apply; (repeat' split) <;> simp [h]
@[simp] theorem State.raceCheck_memOk (g blk off n write u) : (s.raceCheck g blk off n write u).1.memOk = true := by
  grind [State.raceCheck, foldl_fst_memOk, !← State.setBlock_memOk]
@[simp] theorem State.raceEvent_memOk (g p addr lane laneIdx e) : (s.raceEvent g p addr lane laneIdx e).memOk = true := by
  unfold State.raceEvent; split <;> simp [h]
@[simp] theorem State.corrected_memOk (p die) : (s.corrected p die).memOk = true := h
@[simp] theorem State.farFill_memOk (p) : (s.farFill p).memOk = true := by
  unfold State.farFill
  split
  · split
    · exact h
    · exact h
  · exact h
@[simp] theorem State.sampleAccess_memOk (die p op) : (s.sampleAccess die p op).memOk = true := by
  unfold State.sampleAccess; split <;> simp [h]
@[simp] theorem State.applyFor_memOk (g p op) : (s.applyFor g p op).1.memOk = true := by unfold State.applyFor; split <;> simp [h]
@[simp] theorem State.performHere_memOk (g lane laneIdx addr p op u) : (s.performHere g lane laneIdx addr p op u).1.memOk = true := by
  grind [State.performHere, !← State.poisonCheck_memOk, !← State.raceCheck_memOk, !← State.raceEvent_memOk, !← State.sampleAccess_memOk,
    !← State.farFill_memOk, !← State.applyFor_memOk]
@[simp] theorem State.performAt_memOk (g lane laneIdx addr p op u) : (s.performAt g lane laneIdx addr p op u).1.memOk = true := by
  grind [State.performAt, !← State.performHere_memOk, !← State.sendOver_memOk, !← State.countSent_memOk]
@[simp] theorem State.sendFrom_memOk (q g p addr space op owner u laneIdx) : (s.sendFrom q g p addr space op owner u laneIdx).memOk = true := by
  simp [State.sendFrom, h]
@[simp] theorem State.sendAccess_memOk (g p addr space op owner u laneIdx) : (s.sendAccess g p addr space op owner u laneIdx).memOk = true := by
  simp [State.sendAccess, h]

/-! ## Buffers -/
@[simp] theorem State.issuedLocate_memOk (g k space addr n) : (s.issuedLocate g k space addr n).1.memOk = true := by
  unfold State.issuedLocate; split <;> simp [h]
@[simp] theorem State.flushEntry_memOk (g e) : (s.flushEntry g e).1.memOk = true := by
  grind [State.flushEntry, !← State.issuedLocate_memOk, !← State.sendAccess_memOk, !← State.performAt_memOk]
@[simp] theorem State.flushEntries_memOk (g) (l : List AEntry) : (State.flushEntries g l s).1.memOk = true := by
  induction l generalizing s with
  | nil => exact h
  | cons e l ih =>
    have he := State.flushEntry_memOk h g e
    unfold State.flushEntries
    split <;> simp_all
@[simp] theorem State.entriesWait_memOk (gid) : (s.entriesWait gid).1.memOk = true := by
  unfold State.entriesWait
  split
  · exact h
  next g =>
    refine getD_memOk (fun r hr => ?_) h
    obtain ⟨e, -, he⟩ := List.exists_of_findSome?_eq_some hr
    have hl := State.issuedLocate_memOk h gid .reduce e.space e.addr e.width
    split at he <;> simp_all
    exact he ▸ hl
@[simp] theorem State.setAbuf_memOk (gid l) : (s.setAbuf gid l).memOk = true := by unfold State.setAbuf; split <;> simp [h]
@[simp] theorem State.trapAccess_memOk (g src slice laneIdx f words) : (s.trapAccess g src slice laneIdx f words).memOk = true := by
  simp [State.trapAccess, h]
@[simp] theorem State.trapRace_memOk (gid src slice laneIdx r words) : (s.trapRace gid src slice laneIdx r words).memOk = true := by
  simp [State.trapRace, h]
@[simp] theorem State.flushGang_memOk (gid) : (s.flushGang gid).1.memOk = true := by
  grind [State.flushGang, !← State.setGang_memOk, !← State.sampleAll_memOk, !← State.flushEntries_memOk, !← State.trapAccess_memOk, !←
    State.trapRace_memOk, !← State.setAbuf_memOk]
@[simp] theorem State.flushPoint_memOk (gid) : (s.flushPoint gid).1.memOk = true := by
  grind [State.flushPoint, !← State.entriesWait_memOk, !← State.flushGang_memOk]
@[simp] theorem State.flushAll_memOk (l : List GangId) : (State.flushAll l s).1.memOk = true := by
  induction l generalizing s with
  | nil => exact h
  | cons g l ih =>
    have hg := State.flushPoint_memOk h g
    unfold State.flushAll
    split <;> simp_all
@[simp] theorem State.forcedFlush_memOk (die core) : (s.forcedFlush die core).memOk = true := by
  unfold State.forcedFlush; simp_all [foldl_memOk]
@[simp] theorem State.forcedWait_memOk (gid n again) : (s.forcedWait gid n again).1.memOk = true := by
  unfold State.forcedWait
  extract_lets q t
  split
  · exact h
  split
  next t w hf =>
    obtain ⟨g, -, hg⟩ := List.exists_of_findSome?_eq_some hf
    have hw := State.entriesWait_memOk h g.id
    split at hg <;> simp_all
  · have ht : t.memOk = true := foldl_memOk (fun _ _ hs => State.flushGang_memOk hs _) _ (by split <;> simp [h])
    split <;> simp [h, ht]
@[simp] theorem State.bufferValue_memOk (gid e) : (s.bufferValue gid e).memOk = true := by
  grind [State.bufferValue, !← State.setGang_memOk, !← State.forcedFlush_memOk]
@[simp] theorem State.quantumFull_memOk (g) : (s.quantumFull g).memOk = true := by
  grind [State.quantumFull, !← State.setGang_memOk, !← State.sampleAll_memOk, !← State.count_memOk]
@[simp] theorem State.endQuantum_memOk (gid q) : (s.endQuantum gid q).memOk = true := by unfold State.endQuantum; split <;> simp [h]

/-! ## LaneFloat -/
@[simp] theorem State.rsRise_memOk (w g) : (s.rsRise w g).memOk = true := by unfold State.rsRise; (repeat' split) <;> simp [h]
omit h in
@[simp] theorem withRs_memOk (w) {o : Outcome} (ho : o.memOk) : (withRs s w o).memOk := by
  unfold withRs; (repeat' split) <;> simp_all
@[simp] theorem floatMap_memOk (w n f) : (floatMap s w n f).memOk := by simp [floatMap, h]
@[simp] theorem float32_memOk (w f) : (float32 s w f).memOk := by simp [float32, h]
@[simp] theorem laneConvert_memOk (w ws wd conv) : (laneConvert s w ws wd conv).memOk := by simp [laneConvert, h]

/-! ## LaneMem -/
@[simp] theorem State.waitLane_memOk (g m w) : (s.waitLane g m w).memOk = true := h
@[simp] theorem State.trapLanesFrom_memOk (src gid m laneIdx faults words) :
    (s.trapLanesFrom src gid m laneIdx faults words).memOk = true := by
  unfold State.trapLanesFrom
  split
  · exact h
  cases gid with
  | control => exact State.takeTrap_memOk h ..
  | compute => simp only; split <;> simp [h]
@[simp] theorem State.trapLanes_memOk (gid m laneIdx faults words) : (s.trapLanes gid m laneIdx faults words).memOk = true := by
  simp [State.trapLanes, h]
@[simp] theorem State.orderDone_memOk (gid order scope) : (s.orderDone gid order scope).memOk = true := by
  unfold State.orderDone; (repeat' split) <;> simp [h]
@[simp] theorem State.endLane_memOk (g m faults race words) : (s.endLane g m faults race words).memOk = true := by
  grind [State.endLane, !← State.orderDone_memOk, !← State.laneDone_memOk, !← State.trapRace_memOk, !← State.trapLanes_memOk, !←
    State.setGang_memOk]
@[simp] theorem State.locateLanes_memOk (g k space n las) : (s.locateLanes g k space n las).1.memOk = true := by
  unfold State.locateLanes
  exact foldl_fst_memOk (fun st p hs => State.locate_memOk hs g.id k space p.2 n) las h

omit h in
theorem LaneRun.step_memOk {r : LaneRun} (h : r.s.memOk = true) (op space laneIdx mk fix p) :
    (r.step op space laneIdx mk fix p).s.memOk = true := by
  obtain ⟨lane, addr, l⟩ := p
  cases l with
  | fault => exact h
  | wait => exact h
  | ok q => grind [LaneRun.step, !← State.performAt_memOk, !← State.sendAccess_memOk]
omit h in
theorem LaneRun.endIssue_memOk {q : LaneRun} (h : q.s.memOk = true) (m inL words) : (q.endIssue m inL words).memOk = true := by
  grind [LaneRun.endIssue, State.memOk, !← State.endLane_memOk, !← State.laneDone_memOk, !← State.setGang_memOk]
omit h in
theorem foldl_laneRun_memOk {α : Type} {f : LaneRun → α → LaneRun} (hf : ∀ r a, r.s.memOk = true → (f r a).s.memOk = true) (l : List α)
    {r : LaneRun} (h : r.s.memOk = true) : (l.foldl f r).s.memOk = true := by
  induction l generalizing r with
  | nil => exact h
  | cons a l ih => exact ih (hf _ _ h)

@[simp] theorem State.lanesPerform_memOk (g m w op mk fix las) : (s.lanesPerform g m w op mk fix las).memOk = true := by
  have hl := State.locateLanes_memOk h g op.kind w.space op.bytes las
  unfold State.lanesPerform
  extract_lets r q
  have hq : q.s.memOk = true := foldl_laneRun_memOk (fun _ p hr => LaneRun.step_memOk hr op w.space (g.laneIndex m) mk fix p) _ hl
  (repeat' split) <;> simp [h, hl, r, LaneRun.endIssue_memOk hq]
@[simp] theorem State.endBuffered_memOk (g m faults words) : (s.endBuffered g m faults words).memOk = true := by
  unfold State.endBuffered; split <;> simp [h]
@[simp] theorem State.lanesBuffer_memOk (g m op space mkq las) : (s.lanesBuffer g m op space mkq las).memOk = true := by
  grind [State.lanesBuffer, !← State.locateLanes_memOk, !← State.waitLane_memOk, !← State.quantumFull_memOk, !← State.endBuffered_memOk]
@[simp] theorem State.roRoom_memOk (core) : (s.roRoom core).memOk = true := by grind [State.roRoom, State.memOk]
@[simp] theorem State.roFill_memOk (g lines) : (s.roFill g lines).memOk = true := by
  grind [State.roFill, State.memOk, foldl_memOk, !← State.roRoom_memOk]
@[simp] theorem execVld_memOk (w) : (execVld w s).memOk := by
  grind [execVld, !← laneChecked_memOk, !← State.lanesPerform_memOk, !← State.roFill_memOk]
@[simp] theorem execVst_memOk (w) : (execVst w s).memOk := by
  grind [execVst, !← laneChecked_memOk, !← State.lanesBuffer_memOk, !← State.lanesPerform_memOk]
@[simp] theorem State.lanesToAtomicBuffer_memOk (g m w op las) : (s.lanesToAtomicBuffer g m w op las).memOk = true := by
  have hr : (s.locateLanes g op.kind w.space w.bytes las).1.memOk = true := State.locateLanes_memOk h ..
  unfold State.lanesToAtomicBuffer
  extract_lets r faults ok entry joined t buf
  replace hr : r.1.memOk = true := hr
  have ht : t.memOk = true := State.count_memOk hr ..
  clear_value r faults ok entry joined
  split
  · exact State.laneDone_memOk h ..
  split
  · exact State.waitLane_memOk h ..
  split
  · exact State.waitLane_memOk hr ..
  split
  · split
    · split
      · exact State.setGang_memOk ht _
      · exact State.endBuffered_memOk ht ..
    · exact State.quantumFull_memOk hr _
  have hw := State.forcedWait_memOk hr g.id (joined.length - g.abuf.length) ((g.partSlices m).any fun sl => sl.lwait == some .counterSpace)
  generalize r.1.forcedWait g.id (joined.length - g.abuf.length) ((g.partSlices m).any fun sl => sl.lwait == some .counterSpace) = q at hw
  obtain ⟨t, _ | x⟩ := q
  · have ht : (ok.foldl (fun s p => s.bufferValue g.id (entry p)) (t.setGang g)).memOk = true :=
      foldl_memOk (fun _ _ hs => State.bufferValue_memOk hs ..) _ (State.setGang_memOk hw _)
    simp only
    split
    · exact State.endLane_memOk ht ..
    · exact ht
  · exact State.waitLane_memOk hw ..

@[simp] theorem State.laneFlushThen_memOk (g m) {k : State → Gang → State} (hk : ∀ t g, t.memOk = true → (k t g).memOk = true) :
    (s.laneFlushThen g m k).memOk = true := by
  grind [State.laneFlushThen, !← State.flushPoint_memOk, !← State.waitLane_memOk]
@[simp] theorem execVatm_memOk (w) : (execVatm w s).memOk := by
  grind [execVatm, !← laneChecked_memOk, !← State.lanesToAtomicBuffer_memOk, !← State.endQuantum_memOk, !← State.laneDone_memOk, !←
    State.lanesBuffer_memOk, !← State.laneFlushThen_memOk, !← State.lanesPerform_memOk]
@[simp] theorem execVrdm_memOk (w) : (execVrdm w s).memOk := by
  grind [execVrdm, !← laneChecked_memOk, !← State.lanesToAtomicBuffer_memOk, !← State.lanesBuffer_memOk, !← State.laneFlushThen_memOk,
    !← State.lanesPerform_memOk]
@[simp] theorem execVatl_memOk (w) : (execVatl w s).memOk := by
  grind [execVatl, !← laneChecked_memOk, !← State.endLane_memOk, !← State.lanesBuffer_memOk, !← State.lanesPerform_memOk, !←
    State.laneDone_memOk]
@[simp] theorem State.setSat_memOk (g) : (s.setSat g).memOk = true := by
  unfold State.setSat
  split
  · obtain ⟨hmem, hls, hwgt⟩ := (State.memOk_iff s).1 h
    exact (State.memOk_iff _).2 ⟨hmem, Memory.wf_write hls .., hwgt⟩
  · exact h
@[simp] theorem State.locateGauge_memOk (g space addr need) : (s.locateGauge g space addr need).1.memOk = true := by
  grind [State.locateGauge, !← State.locate_memOk]
@[simp] theorem State.gaugeAt_memOk (g lane laneIdx space addr p kind n draws u) :
    (s.gaugeAt g lane laneIdx space addr p kind n draws u).1.memOk = true := by
  have hp (op) := State.performAt_memOk h g lane laneIdx (p.gaugeAddr space addr) p op u
  unfold State.gaugeAt
  simp only
  (repeat' split) <;> simp [hp]
@[simp] theorem State.gaugeSource_memOk (g lane laneIdx space addr p u) : (s.gaugeSource g lane laneIdx space addr p u).1.memOk = true := by
  simp [State.gaugeSource, h]
omit h in
theorem LaneRun.gaugeOn_memOk {r : LaneRun} (h : r.s.memOk = true) (op laneIdx lane addr n q) :
    (r.gaugeOn op laneIdx lane addr n q).s.memOk = true := by
  grind [LaneRun.gaugeOn, !← State.sendAccess_memOk, !← State.gaugeAt_memOk]
omit h in
theorem LaneRun.gauge_memOk {r : LaneRun} (h : r.s.memOk = true) (op laneIdx amount p) :
    (r.gauge op laneIdx amount p).s.memOk = true := by
  unfold LaneRun.gauge
  split
  · exact h
  · exact h
  next lane addr q sa sq =>
    simp only
    split
    · exact State.sendAccess_memOk h ..
    have hs := State.gaugeSource_memOk h r.g lane laneIdx op.space sa sq op.sync
    split
    · simp_all
    next t bs race hr =>
      rw [hr] at hs
      exact LaneRun.gaugeOn_memOk (r := { r with s := t, race := _ }) hs ..
  · exact LaneRun.gaugeOn_memOk h ..
  · exact h
@[simp] theorem State.locateGauges_memOk (g w need merge lanes) : (s.locateGauges g w need merge lanes).1.memOk = true := by
  grind [State.locateGauges, foldl_fst_memOk, !← State.locateGauge_memOk]
@[simp] theorem execGauge_memOk (w kind names reads) : (execGauge s w kind names reads).memOk := by
  refine laneChecked_memOk h _ _ fun g m => ?_
  extract_lets lanes draws again seq risen need r flat faults es buf op q
  have hr : r.1.memOk = true := State.locateGauges_memOk h ..
  have hq : q.s.memOk = true := foldl_laneRun_memOk (fun _ p hs => LaneRun.gauge_memOk hs op (g.laneIndex m) _ p) _ hr
  (repeat' split) <;> simp [h, hr, LaneRun.endIssue_memOk hq]

/-! ## Ready -/
@[simp] theorem State.markReady_memOk (g lane m) : (s.markReady g lane m).memOk = true := by grind [State.markReady, State.memOk]
@[simp] theorem State.markWoken_memOk (gid m) : (s.markWoken gid m).memOk = true := by
  grind [State.markWoken, foldl_memOk, !← State.markReady_memOk]

/-! ## Barrier -/
@[simp] theorem State.passPart_memOk (g m) : (s.passPart g m).memOk = true := h
@[simp] theorem State.setSpanFlush_memOk (k b done) : (s.setSpanFlush k b done).memOk = true := h
@[simp] theorem State.clearSpanBarrier_memOk (k b) : (s.clearSpanBarrier k b).memOk = true := h
@[simp] theorem State.askFlush_memOk (g b) : (s.askFlush g b).memOk = true := by unfold State.askFlush; split <;> simp [h]
@[simp] theorem State.flipPhase_memOk (l b) : (s.flipPhase l b).memOk = true := by
  grind [State.flipPhase, foldl_memOk, !← State.setBlock_memOk, !← State.setGang_memOk]
@[simp] theorem State.spanPhase_memOk (g l b) : (s.spanPhase g l b).memOk = true := by
  grind [State.spanPhase, !← State.clearSpanBarrier_memOk, !← State.flipPhase_memOk, !← State.tellAll_memOk, !←
    State.setSpanFlush_memOk, !← State.tell_memOk]
@[simp] theorem State.barrierCheck_memOk (bid b) : (s.barrierCheck bid b).memOk = true := by
  grind [State.barrierCheck, !← State.askFlush_memOk, !← State.flushAll_memOk, !← State.spanPhase_memOk, !← State.flipPhase_memOk]
@[simp] theorem State.barrierSweep_memOk (bid) : (s.barrierSweep bid).memOk = true := by
  grind [State.barrierSweep, foldl_memOk, !← State.barrierCheck_memOk]
@[simp] theorem State.spanTell_memOk (bid was) : (s.spanTell bid was).memOk = true := by
  unfold State.spanTell; (repeat' split) <;> simp_all [foldl_memOk]
@[simp] theorem State.spanOnly_memOk (g b) : (s.spanOnly g b).memOk = true := by unfold State.spanOnly; (repeat' split) <;> simp [h]
@[simp] theorem State.spanLeave_memOk (g told) : (s.spanLeave g told).memOk = true := by
  grind [State.spanLeave, foldl_memOk, !← State.setSpanFlush_memOk, !← State.tell_memOk, !← State.spanOnly_memOk]
@[simp] theorem State.arriveBarrier_memOk (gid b scope fixed) : (s.arriveBarrier gid b scope fixed).1.memOk = true := by
  grind [State.arriveBarrier, !← State.setBlock_memOk, !← State.setGang_memOk, !← State.spanTell_memOk, !← State.bumpInterval_memOk, !←
    State.barrierCheck_memOk]
@[simp] theorem gangWide_memOk (gd matrix) {k : Gang → BitVec 8 → State} (hk : ∀ s t, (k s t).memOk = true) : (gangWide s gd matrix k).memOk := by
  grind [gangWide, !← withScalar_memOk, !← State.takeTrap_memOk, !← State.passPart_memOk]
@[simp] theorem State.departBarrier_memOk (g m b) : (s.departBarrier g m b).memOk = true := by
  grind [State.departBarrier, !← State.acquire_memOk, !← State.passPart_memOk, !← State.waitPart_memOk]
@[simp] theorem State.runBarrier_memOk (g m p b scope fixed) : (s.runBarrier g m p b scope fixed).memOk = true := by
  have hfar (t : State) (ht : t.memOk = true) (x : Gang) :
      (if p != .near then t.departBarrier x m b else t.passPart x m).memOk = true := by split <;> simp [ht]
  unfold State.runBarrier
  simp only
  split
  · split <;> simp [h]
  split
  · exact State.trapScalar_memOk h ..
  split
  · exact State.waitPart_memOk h ..
  split
  · exact State.waitPart_memOk h ..
  split
  · exact State.passPart_memOk h ..
  split
  · split
    · exact State.quantumFull_memOk h _
    · exact hfar s h _
  split
  · exact State.waitPart_memOk h ..
  have ha := State.arriveBarrier_memOk h g.id b scope fixed
  split
  · exact State.trapScalar_memOk h ..
  next t hr =>
    rw [hr] at ha
    split
    · exact hfar t ha _
    · exact ha

@[simp] theorem execBar_memOk (gd p count b) : (execBar gd p count b s).memOk := by
  grind [execBar, !← gangWide_memOk, !← State.runBarrier_memOk, !← State.trapScalar_memOk]
@[simp] theorem execBars_memOk (gd p b) : (execBars gd p b s).memOk := by
  grind [execBars, !← gangWide_memOk, !← State.runBarrier_memOk, !← State.trapScalar_memOk]

/-! ## ScalarMem -/
@[simp] theorem State.trapSlices_memOk (gid faults words) : (s.trapSlices gid faults words).memOk = true := by
  unfold State.trapSlices; (repeat' split) <;> simp [h]
@[simp] theorem State.endScalar_memOk (g m faults race size words) : (s.endScalar g m faults race size words).memOk = true := by
  unfold State.endScalar; (repeat' split) <;> simp [h]
@[simp] theorem scalarMem_memOk (gd base off n dst req) : (scalarMem s gd base off n dst req).memOk := by
  refine withScalar_memOk fun g m => ?_
  extract_lets kind las r opOf faults entry buf u one q c x ahead t
  have hr : r.1.memOk = true := State.locateLanes_memOk h ..
  have hone (acc p) (hacc : acc.s.memOk = true) : (one acc p).s.memOk = true := by
    obtain ⟨lane, addr, l⟩ := p
    cases l with
    | fault => exact hacc
    | wait => exact hacc
    | ok q => grind [!← State.performAt_memOk, !← State.sendAccess_memOk]
  have hq : q.s.memOk = true := foldl_laneRun_memOk (fun acc p => hone acc p) _ hr
  have ht (l) : ({ t with remote := l } : State).memOk = true := hq
  (repeat' split) <;> simp [h, hr, hq, ht]

/-! ## LaneCtl -/
@[simp] theorem execLrun_memOk (gd a cm1) : (execLrun gd a cm1 s).memOk := by
  grind [execLrun, !← withScalar_memOk, !← State.trapScalar_memOk, !← State.trapSlice_memOk, !← State.waitPart_memOk, !←
    State.setGang_memOk]
@[simp] theorem laneMaskTo_memOk (gd f) : (laneMaskTo s gd f).memOk := by
  grind [laneMaskTo, !← withScalar_memOk, !← State.trapScalar_memOk, !← State.setGang_memOk]
@[simp] theorem trapAfter_memOk (gd cause info) : (trapAfter s gd cause info).memOk := by
  grind [trapAfter, !← withScalar_memOk, !← State.setGang_memOk, !← State.takeTrap_memOk]
@[simp] theorem State.discardCode_memOk (g slices sc sec) : (s.discardCode g slices sc sec).memOk = true := h
@[simp] theorem execInvi_memOk (gd sc sec) : (execInvi gd sc sec s).memOk := by
  grind [execInvi, !← withScalar_memOk, !← State.discardCode_memOk, !← State.setGang_memOk, !← State.waitPart_memOk]

/-! ## Sync -/
@[simp] theorem withLeader_memOk (gd) {k : Gang → BitVec 8 → ℕ → Slice → State} (hk : ∀ s t u v, (k s t u v).memOk = true) : (withLeader s gd k).memOk := by
  grind [withLeader, !← withScalar_memOk, !← State.passPart_memOk]
@[simp] theorem forPart_memOk (gd) {k : Gang → BitVec 8 → State} (hk : ∀ s t, (k s t).memOk = true) : (forPart s gd k).memOk := by
  grind [forPart, !← withScalar_memOk, !← State.passPart_memOk]
@[simp] theorem execArrive_memOk (gd sc rel a n) : (execArrive gd sc rel a n s).memOk := by
  grind [execArrive, State.memOk, !← withLeader_memOk, !← State.locate_memOk, !← State.trapAccess_memOk, !← State.waitPart_memOk, !←
    State.passPart_memOk, !← State.quantumFull_memOk, !← State.sendAccess_memOk, !← State.countSent_memOk]
@[simp] theorem State.watch_memOk (g m space addr w) : (s.watch g m space addr w).memOk = true := by
  grind [State.watch, State.memOk, !← State.count_memOk, !← State.waitPart_memOk]
@[simp] theorem waitWord_memOk (gd sc a stamp value) : (waitWord s gd sc a stamp value).memOk := by
  refine withLeader_memOk h _ fun g m i sl => ?_
  extract_lets addr n v w
  have hl := State.locate_memOk h g.id (.word false) a.space addr n
  split
  · simp [h]
  generalize s.locate g.id (.word false) a.space addr n = r at hl
  obtain ⟨t, l⟩ := r
  have ht : t.memOk = true := hl
  cases l with
  | fault f => simp [ht]
  | wait w => simp [ht]
  | ok p => grind [State.memOk, !← State.waitPart_memOk, !← State.sendAccess_memOk, !← State.performAt_memOk, !← State.trapAccess_memOk,
      !← State.passPart_memOk, !← State.orderDone_memOk, !← State.watch_memOk, !← State.trapRace_memOk]
@[simp] theorem execWaitc_memOk (gd l sc c t) : (execWaitc gd l sc c t s).memOk := by
  grind [execWaitc, !← forPart_memOk, !← State.passPart_memOk, !← State.waitPart_memOk]
@[simp] theorem execSeal_memOk (gd) : (execSeal gd s).memOk := by
  grind [execSeal, !← withLeader_memOk, !← State.waitPart_memOk, !← State.passPart_memOk]
@[simp] theorem State.scalarFlushThen_memOk (g m) {k : State → Gang → State} (hk : ∀ t g, t.memOk = true → (k t g).memOk = true) :
    (s.scalarFlushThen g m k).memOk = true := by
  grind [State.scalarFlushThen, !← State.flushPoint_memOk, !← State.waitPart_memOk]
@[simp] theorem State.fence_memOk (g m order scope) : (s.fence g m order scope).memOk = true := by
  grind [State.fence, !← State.waitPart_memOk, !← State.orderDone_memOk, !← State.passPart_memOk, !← State.scalarFlushThen_memOk]
@[simp] theorem execFencem_memOk (gd o a) : (execFencem gd o a s).memOk := by
  grind [execFencem, !← withLeader_memOk, !← State.trapSlice_memOk, !← State.fence_memOk]
@[simp] theorem execDrain_memOk (gd sc) : (execDrain gd sc s).memOk := by
  grind [execDrain, !← gangWide_memOk, !← State.scalarFlushThen_memOk, !← State.acquire_memOk, !← State.passPart_memOk, !←
    State.waitPart_memOk]
omit h in
/-- A result that may be an error: of a state that it gives, the memories are canonical. -/
theorem State.give_memOk (h : s.memOk = true) {g w off len t} (ht : s.give g w off len = .ok t) : t.memOk = true := by
  unfold State.give at ht
  split at ht
  · split at ht
    · cases ht; simp [h]
    · cases ht
  · cases ht
@[simp] theorem execGive_memOk (gd d a b) : (execGive gd d a b s).memOk := by
  refine withLeader_memOk h _ fun g m i sl => ?_
  (repeat' split) <;> try simp [h]
  next t ht => exact State.passPart_memOk (State.give_memOk h ht) g m
@[simp] theorem execTake_memOk (gd a) : (execTake gd a s).memOk := by
  grind [execTake, !← withLeader_memOk, !← State.trapSlice_memOk, !← State.acquire_memOk, !← State.passPart_memOk, !← State.waitPart_memOk]
@[simp] theorem State.detach_memOk (gr m) : (s.detach gr m).memOk = true := by
  grind [State.detach, !← State.tell_memOk, !← State.setGrid_memOk]
@[simp] theorem execDetach_memOk (gd a) : (execDetach gd a s).memOk := by
  grind [execDetach, !← withLeader_memOk, !← State.trapSlice_memOk, !← State.waitPart_memOk, !← State.endQuantum_memOk, !←
    State.passPart_memOk, !← State.detach_memOk]
@[simp] theorem execQend_memOk (gd) : (execQend gd s).memOk := by
  grind [execQend, !← forPart_memOk, !← State.passPart_memOk, !← State.endQuantum_memOk]
@[simp] theorem execYield_memOk (gd) : (execYield gd s).memOk := by
  grind [execYield, !← forPart_memOk, !← State.passPart_memOk, !← State.waitPart_memOk]

/-! ## Engine -/
@[simp] theorem State.dropFetched_memOk (g) : (s.dropFetched g).memOk = true := h
/-- What an engine instruction answers has its memories in their canonical form. -/
def Issued.memOk : Issued → Prop
  | .ok s | .trapped s | .wait s _ => s.memOk = true

@[simp] theorem engineInstr_memOk (gd onControl matrix stay check) {run : State → Gang → Nat → Slice → List Word → Issued}
    (hrun : ∀ g i sl ws, (run s g i sl ws).memOk) : (engineInstr s gd onControl matrix stay check run).memOk := by
  refine withScalar_memOk fun g m => ?_
  split
  · simp [h]
  split
  · simp [h]
  split
  · simp [h]
  split
  · exact h
  next i sl _ =>
  split
  · simp [h]
  split
  · split <;> simp [h]
  have hr := hrun g i sl s.issue.words
  split
  next t ht => rw [ht] at hr; replace hr : t.memOk = true := hr; split <;> simp [hr]
  next t ht => rw [ht] at hr; exact State.dropFetched_memOk hr _
  next t w ht => rw [ht] at hr; replace hr : t.memOk = true := hr; split <;> simp [hr]
@[simp] theorem State.addOp_memOk (g slice words k) : (s.addOp g slice words k).memOk = true := by
  grind [State.addOp, State.memOk, !← State.countSent_memOk]
@[simp] theorem State.endOp_memOk (o) : (s.endOp o).memOk = true := by simp [State.endOp, h]
@[simp] theorem State.failOp_memOk (o src f) : (s.failOp o src f).memOk = true := by simp [State.failOp, h]
@[simp] theorem State.engineRead_memOk (g space addr n) : (s.engineRead g space addr n).1.memOk = true := by
  grind [State.engineRead, !← State.issuedLocate_memOk, !← State.poisonCheck_memOk, !← State.corrected_memOk, !← State.sendOver_memOk]
@[simp] theorem State.engineRace_memOk (o r) : (s.engineRace o r).memOk = true := by unfold State.engineRace; split <;> simp [h]
@[simp] theorem State.engineWrote_memOk (o rel race) : (s.engineWrote o rel race).memOk = true := by
  unfold State.engineWrote; split <;> simp [h]
@[simp] theorem State.engineWrite_memOk (o k space addr n op rel) : (s.engineWrite o k space addr n op rel).1.memOk = true := by
  grind [State.engineWrite, !← State.issuedLocate_memOk, !← State.performAt_memOk, !← State.engineRace_memOk, !← State.engineWrote_memOk]
@[simp] theorem State.engineSend_memOk (o p addr space op rel) : (s.engineSend o p addr space op rel).memOk = true := by
  unfold State.engineSend
  extract_lets u q
  split <;> simp [h]
  
@[simp] theorem State.engineReadAll_memOk (g space addr n) : (s.engineReadAll g space addr n).1.memOk = true := by
  grind [State.engineReadAll, foldl_fst_memOk, !← State.engineRead_memOk]
@[simp] theorem State.issueRead_memOk (g space addr n) : (s.issueRead g space addr n).1.memOk = true := by
  grind [State.issueRead, !← State.engineReadAll_memOk, !← State.sendAccess_memOk]
@[simp] theorem State.pageRead_memOk (g addr n) : (s.pageRead g addr n).1.memOk = true := by
  grind [State.pageRead, foldl_fst_memOk, !← State.issueRead_memOk]
@[simp] theorem State.keepRead_memOk (g addr bs) : (s.keepRead g addr bs).memOk = true := h
theorem State.refuse_memOk (g i cause info ws) : (s.refuse g i cause info ws).memOk := State.takeTrap_memOk h ..
theorem State.refuseRead_memOk (g i f ws) : (s.refuseRead g i f ws).memOk := State.trapAccess_memOk h ..

theorem State.joinBatch_memOk (g i ws k) : (s.joinBatch g i ws k).memOk := by
  unfold State.joinBatch
  split
  · exact h
  · exact State.addOp_memOk (State.setGang_memOk h _) ..

theorem copyRun_memOk (x reduce g i sl ws) : (copyRun x reduce s g i sl ws).memOk := by
  unfold copyRun
  extract_lets c
  split
  · split
    · exact h
    · exact State.joinBatch_memOk h ..
  · exact State.joinBatch_memOk h ..

theorem execCopy_memOk (x) : (execCopy x s).memOk := engineInstr_memOk h _ _ _ _ _ (copyRun_memOk h x false)
theorem execCopyr_memOk (x) : (execCopyr x s).memOk := engineInstr_memOk h _ _ _ _ _ (copyRun_memOk h x true)
@[simp] theorem State.copyLanded_memOk (o c u) : (s.copyLanded o c u).memOk = true := by
  grind [State.copyLanded, State.memOk, !← State.setOp_memOk]
@[simp] theorem State.copyStore_memOk (o c u bs) : (s.copyStore o c u bs).memOk = true := by
  grind [State.copyStore, foldl_fst_memOk, !← State.issuedLocate_memOk, !← State.failOp_memOk, !← State.engineSend_memOk, !←
    State.engineWrite_memOk, !← State.copyLanded_memOk]
@[simp] theorem State.copyRead_memOk (g space addr) : (s.copyRead g space addr).1.memOk = true := by
  grind [State.copyRead, !← State.issuedLocate_memOk, !← State.engineRead_memOk]
@[simp] theorem execCopyPieceLanded_memOk (op) : (execCopyPieceLanded op s).memOk := by
  unfold execCopyPieceLanded
  split
  next o _ =>
    split
    next c _ =>
      split
      · exact h
      extract_lets u
      split
      · exact State.copyStore_memOk h ..
      · have hc := State.copyRead_memOk h o.gang c.sspace (c.src + 16 * u)
        split <;> simp_all
    · exact h
  · exact h
@[simp] theorem State.writeStamp_memOk (o space addr v) : (s.writeStamp o space addr v).1.memOk = true := by
  grind [State.writeStamp, !← State.issuedLocate_memOk, !← State.engineWrite_memOk]
@[simp] theorem execCopyComplete_memOk (op) : (execCopyComplete op s).memOk := by
  grind [execCopyComplete, Outcome.memOk, !← State.writeStamp_memOk, !← State.endOp_memOk, !← State.failOp_memOk, !← State.engineSend_memOk]
@[simp] theorem State.engineReply_memOk (x op r) : (s.engineReply x op r).memOk = true := by
  grind [State.engineReply, !← State.setOp_memOk, !← State.failOp_memOk, !← State.copyLanded_memOk]
@[simp] theorem execBatchComplete_memOk (gid) : (execBatchComplete gid s).memOk := by
  have hops (g l) : ({ s.setGang g with ops := l } : State).memOk = true := h
  unfold execBatchComplete
  split
  · exact h
  split
  · exact h
  split
  · exact h
  simp only
  split
  · exact State.takeTrap_memOk (hops _ _) ..
  · exact hops _ _

/-! ## Matrix -/
@[simp] theorem State.claimSlot_memOk (bid slot) : (s.claimSlot bid slot).memOk = true := by
  unfold State.claimSlot; (repeat' split) <;> simp [h]
@[simp] theorem State.setSlot_memOk (bid slot w) : (s.setSlot bid slot w).memOk = true := by unfold State.setSlot; split <;> simp [h]
@[simp] theorem State.raiseT_memOk (gid id) : (s.raiseT gid id).memOk = true := by unfold State.raiseT; split <;> simp [h]
@[simp] theorem State.lowerT_memOk (gid id) : (s.lowerT gid id).memOk = true := by unfold State.lowerT; split <;> simp [h]
@[simp] theorem State.addTile_memOk (gid i words k) : (s.addTile gid i words k).memOk = true := by simp [State.addTile, h]
/-- The operands of a product: read, or the answer that ends the instruction. -/
def Operands.memOk : Operands → Prop
  | .ok s _ => s.memOk = true
  | .out r => r.memOk

theorem mxaOperands_memOk (x g i sl ws) : (mxaOperands x s g i sl ws).memOk := by
  have hr := State.engineReadAll_memOk h g.id 1 (sl.reg x.a.val).toNat 64
  unfold mxaOperands
  generalize s.engineReadAll g.id 1 (sl.reg x.a.val).toNat 64 = r at hr
  obtain ⟨t, e⟩ := r
  have ht : t.memOk = true := hr
  cases e with
  | ok bs =>
    simp only
    split
    · exact State.refuse_memOk ht ..
    split
    · exact State.refuse_memOk ht ..
    · exact ht
  | fault f => exact State.refuseRead_memOk ht ..
  | _ => exact ht

theorem mxaSoloRun_memOk (x g i sl ws) : (mxaSoloRun x s g i sl ws).memOk := by
  have ho := mxaOperands_memOk h x g i sl ws
  unfold mxaSoloRun
  split
  · exact h
  split
  · exact h
  split
  next hr => rw [hr] at ho; exact ho
  next hr _ => rw [hr] at ho; exact State.addTile_memOk (State.claimSlot_memOk ho ..) ..
  next hr _ => rw [hr] at ho; exact ho

theorem execMxaSolo_memOk (x) : (execMxaSolo x s).memOk := engineInstr_memOk h _ _ _ _ _ (mxaSoloRun_memOk h x)
@[simp] theorem State.setLatch_memOk (bid e) : (s.setLatch bid e).memOk = true := by unfold State.setLatch; split <;> simp [h]
@[simp] theorem State.freeLatch_memOk (bid key) : (s.freeLatch bid key).memOk = true := by
  unfold State.freeLatch; (repeat' split) <;> simp_all [foldl_memOk]
@[simp] theorem State.failLatch_memOk (bid e info) : (s.failLatch bid e info).memOk = true := by
  unfold State.failLatch; simp_all [foldl_memOk]
@[simp] theorem State.leaveLatch_memOk (gid) : (s.leaveLatch gid).memOk = true := by unfold State.leaveLatch; (repeat' split) <;> simp [h]
@[simp] theorem State.crewIssue_memOk (gid bid i words e) : (s.crewIssue gid bid i words e).memOk = true := by
  grind [State.crewIssue, foldl_memOk, !← State.addOp_memOk, !← State.freeLatch_memOk, !← State.leaveLatch_memOk, !← State.raiseT_memOk]
@[simp] theorem State.crewSlot_memOk (gid) : (s.crewSlot gid).memOk = true := by unfold State.crewSlot; (repeat' split) <;> simp [h]
theorem mxaRun_memOk (x g i sl ws) : (mxaRun x s g i sl ws).memOk := by
  have ho := mxaOperands_memOk h x g i sl ws
  unfold mxaRun
  split
  · exact h
  split
  · exact h
  split
  · exact h
  split
  · exact h
  split
  next hr => rw [hr] at ho; exact ho
  next t mem hr =>
    rw [hr] at ho
    have ht : t.memOk = true := ho
    simp only
    split
    · exact State.failLatch_memOk ht ..
    split
    · exact State.crewIssue_memOk (State.setLatch_memOk (State.claimSlot_memOk ht ..) ..) ..
    · exact State.setLatch_memOk (State.claimSlot_memOk ht ..) ..

theorem execMxa_memOk (x) : (execMxa x s).memOk := engineInstr_memOk h _ _ _ _ _ (mxaRun_memOk h x)
@[simp] theorem State.latchGone_memOk (gid) : (s.latchGone gid).memOk = true := by
  unfold State.latchGone; (repeat' split) <;> simp_all [foldl_memOk]
theorem slotRun_memOk (mk d g i sl ws) : (slotRun mk d s g i sl ws).memOk := by
  unfold slotRun
  (repeat' split) <;> simp [Issued.memOk, h]

theorem execMxz_memOk (gd d) : (execMxz gd d s).memOk := engineInstr_memOk h _ _ _ _ _ (slotRun_memOk h _ _)
theorem execMxld_memOk (gd d a) : (execMxld gd d a s).memOk := engineInstr_memOk h _ _ _ _ _ (slotRun_memOk h _ _)
@[simp] theorem State.operandVals_memOk (g hb n bs side gid) : (s.operandVals g hb n bs side gid).1.memOk = true := by
  have hscales (per : Nat) : (if per = 0 then (s, EngAcc.ok []) else s.engineReadAll g 1 hb.scaleAddr (n * per)).1.memOk = true := by
    split <;> simp [h]
  unfold State.operandVals
  simp only
  split
  next hr => exact (hr ▸ hscales _ :)
  next t scales hr =>
    replace hr : t.memOk = true := (hr ▸ hscales _ :)
    generalize hread : List.foldl _ _ _ = r
    have hread : r.1.memOk = true := by
      rw [← hread]
      refine foldl_fst_memOk (fun st k hs => ?_) _ hr
      split
      · exact hs
      · have hx := State.engineRead_memOk hs g 1 (hb.out + 2 * k) 2
        split <;> simp_all
    split
    · exact hread
    · exact hread
    · exact ite_fst_memOk hread hread
  next hr => exact (hr ▸ hscales _ :)

@[simp] theorem State.slotVals_memOk (g hd w c) : (s.slotVals g hd w c).1.memOk = true := by
  grind [State.slotVals, !← State.engineRead_memOk]
@[simp] theorem State.memberVals_memOk (bid m) : (s.memberVals bid m).1.memOk = true := by
  grind [State.memberVals, !← State.slotVals_memOk, !← State.operandVals_memOk, !← State.engineReadAll_memOk]
@[simp] theorem State.endTile_memOk (o) : (s.endTile o).memOk = true := by
  grind [State.endTile, State.memOk, foldl_memOk, !← State.countSent_memOk, !← State.lowerT_memOk]
@[simp] theorem State.fillSlot_memOk (bid slot w) : (s.fillSlot bid slot w).memOk = true := by simp [State.fillSlot, h]
@[simp] theorem State.trapMembers_memOk (o src f) : (s.trapMembers o src f).memOk = true := by
  unfold State.trapMembers; simp_all [foldl_memOk]
@[simp] theorem State.failTile_memOk (o src f) : (s.failTile o src f).memOk = true := by simp [State.failTile, h]
@[simp] theorem State.residueFail_memOk (o b e grp slot row col) : (s.residueFail o b e grp slot row col).memOk = true := by
  grind [State.residueFail, !← State.startPass_memOk, !← State.trtSet_memOk, !← State.count_memOk, !← State.trapMembers_memOk, !←
    State.setOp_memOk]
omit h in
/-- The values of a product's right side, as the bytes that are read give them. -/
theorem State.operandVals_of_read_memOk {r : State × EngAcc} (hr : r.1.memOk = true) (g hb n side gid) :
    (match r with
      | (s, .ok bs) => s.operandVals g hb n bs side gid
      | (s, .fault f) => (s, TileVals.fault f)
      | (s, _) => (s, .wait)).1.memOk = true := by
  obtain ⟨t, e⟩ := r
  cases e with
  | ok bs => exact State.operandVals_memOk hr ..
  | _ => exact hr

@[simp] theorem State.tileProductRun_memOk (o blk solo ms bw) : (s.tileProductRun o blk solo ms bw).memOk = true := by
  unfold State.tileProductRun
  extract_lets g0 hb rb
  have hrb : rb.1.memOk = true := by
    refine State.operandVals_of_read_memOk (r := if bit bw 31 then _ else _) ?_ ..
    split <;> simp [h]
  clear_value rb
  obtain ⟨t, v⟩ := rb
  have ht : t.memOk = true := hrb
  cases v with
  | fault f => exact State.failTile_memOk ht ..
  | wait => exact ht
  | ok b =>
    simp only
    generalize hr : List.foldl _ _ ms = ra
    have hra : ra.1.memOk = true := by
      rw [← hr]
      refine foldl_fst_memOk (fun st m hs => ?_) ms ht
      split
      · exact hs
      · have hm := State.memberVals_memOk hs blk.id m
        split <;> simp_all
    split
    · exact State.failTile_memOk hra ..
    · exact hra
    · split
      · exact State.residueFail_memOk hra ..
      · exact State.endTile_memOk (foldl_memOk (fun _ _ hs => State.setSlot_memOk hs ..) _ hra) _
@[simp] theorem execTileOperationComplete_memOk (op) : (execTileOperationComplete op s).memOk := by
  unfold execTileOperationComplete
  split
  · exact h
  next o _ =>
  split
  next t blk _ _ =>
    split
    · exact h
    split
    · simp [h]
    next k a _ =>
      have hr := State.engineReadAll_memOk h o.gang 1 a 65536
      split <;> simp_all
    · split <;> simp [h]
  · exact h

/-! ## Epilogue -/
@[simp] theorem State.addDrain_memOk (g i words x) : (s.addDrain g i words x).memOk = true := by simp [State.addDrain, h]
@[simp] theorem State.bandFields_memOk (g fb) : (s.bandFields g fb).1.memOk = true := by
  grind [State.bandFields, !← State.engineRead_memOk]
theorem mxstRun_memOk (d a b g i sl ws) : (mxstRun d a b s g i sl ws).memOk := by
  have hr := State.issueRead_memOk h g.id 0 (sl.pair a) 128
  unfold mxstRun
  split_ifs
  · exact h
  · exact State.addDrain_memOk h ..
  generalize s.issueRead g.id 0 (sl.pair a) 128 = r at hr
  obtain ⟨t, e⟩ := r
  have ht : t.memOk = true := hr
  cases e with
  | fault f => exact State.refuseRead_memOk ht ..
  | ok bs =>
    simp only
    split
    · exact State.refuse_memOk ht ..
    split_ifs
    · exact State.addDrain_memOk ht ..
    · exact State.refuse_memOk ht ..
    have hf := State.bandFields_memOk ht g.id (sl.reg (2 * d.val + 1)).toNat
    generalize t.bandFields g.id (sl.reg (2 * d.val + 1)).toNat = q at hf
    obtain ⟨t', n, e⟩ := q
    have ht' : t'.memOk = true := hf
    cases e with
    | fault f => exact State.refuseRead_memOk ht' ..
    | ok bs => exact State.addDrain_memOk ht' ..
    | _ => exact ht'
  | _ => exact ht

theorem execMxst_memOk (gd d a b) : (execMxst gd d a b s).memOk := engineInstr_memOk h _ _ _ _ _ (mxstRun_memOk h d a b)
theorem epldRun_memOk (a g i sl ws) : (epldRun a s g i sl ws).memOk := by
  unfold epldRun
  split
  · exact h
  · exact State.addTile_memOk h ..

theorem execEpld_memOk (gd a) : (execEpld gd a s).memOk := engineInstr_memOk h _ _ _ _ _ (epldRun_memOk h a)
@[simp] theorem State.trapPlain_memOk (o cause info) : (s.trapPlain o cause info).memOk = true := by simp [State.trapPlain, h]
@[simp] theorem execEpldCheckComplete_memOk (op) : (execEpldCheckComplete op s).memOk := by
  unfold execEpldCheckComplete
  split
  · exact h
  next o _ =>
  split
  next a data _ =>
    extract_lets check
    have hcheck {t : State} (ht : t.memOk = true) (bs) : (check t bs).memOk := by unfold check; split <;> simp [ht]
    clear_value check
    have hr := State.engineReadAll_memOk h o.gang 0 a 128
    split
    · exact h
    split
    · simp [h]
    · exact hcheck h _
    · split <;> simp_all
  · exact h
@[simp] theorem withDrain_memOk {f : State → EngineOp → DrainOp → State × DrainStep} (hf : ∀ o x, (f s o x).1.memOk = true) :
    (withDrain s f).memOk := by
  unfold withDrain
  split
  · split
    next o _ =>
      split
      next x b _ _ =>
        split
        · simp [h]
        · have hx := hf o (x.start (s.slotMap b x.slot))
          split <;> simp_all
      · trivial
    · trivial
  · trivial
@[simp] theorem drainMap_memOk (d f) : (drainMap s d f).memOk := by simp [drainMap, h]
@[simp] theorem State.drainRead_memOk (o addr n k) : (s.drainRead o addr n k).1.memOk = true := by
  grind [State.drainRead, !← State.engineReadAll_memOk]
@[simp] theorem execEldv_memOk (d n kind off) : (execEldv d n kind off s).memOk := by
  grind [execEldv, !← withDrain_memOk, !← State.drainRead_memOk]
@[simp] theorem State.bandScale_memOk (o addr k) : (s.bandScale o addr k).1.memOk = true := by unfold State.bandScale; split <;> simp [h]
@[simp] theorem execEscl_memOk (d a) : (execEscl d a s).memOk := by
  grind [execEscl, foldl_fst_memOk, !← withDrain_memOk, !← State.bandScale_memOk]
@[simp] theorem execEbia_memOk (d a n bf16 off) : (execEbia d a n bf16 off s).memOk := by
  grind [execEbia, !← withDrain_memOk, !← State.drainRead_memOk]
@[simp] theorem execEst_memOk (a n stride f) : (execEst a n stride f s).memOk := by grind [execEst, !← withDrain_memOk]
@[simp] theorem execEtrn_memOk (a n f) : (execEtrn a n f s).memOk := by grind [execEtrn, !← withDrain_memOk]
@[simp] theorem State.storeRow_memOk (o l) : (s.storeRow o l).1.memOk = true := by
  grind [State.storeRow, foldl_memOk, !← State.engineWrite_memOk]
@[simp] theorem execEend_memOk : (execEend s).memOk := by
  unfold execEend
  split
  · split
    next o _ =>
      split
      next x b _ _ =>
        have hr := State.storeRow_memOk h o (x.start (s.slotMap b x.slot)).pend
        simp only
        split
        · simp_all
        · split <;> simp_all
      · trivial
    · trivial
  · trivial
@[simp] theorem State.rawRows_memOk (o p0 w) : (s.rawRows o p0 w).1.memOk = true := by
  grind [State.rawRows, foldl_fst_memOk, !← State.storeRow_memOk]
@[simp] theorem execDrainComplete_memOk (op) : (execDrainComplete op s).memOk := by
  grind [execDrainComplete, Outcome.memOk, !← State.rawRows_memOk, !← State.failTile_memOk, !← State.endTile_memOk, !← State.fillSlot_memOk]

/-! ## Gather -/
omit h in
/-- A choice between two answers of an engine instruction. -/
theorem Issued.memOk_ite (c : Prop) [Decidable c] {a b : Issued} (ha : a.memOk) (hb : b.memOk) : (if c then a else b).memOk := by
  split <;> assumption

theorem gatherRun_memOk (x scad g i sl ws) : (gatherRun x scad s g i sl ws).memOk := by
  unfold gatherRun
  extract_lets b handle cw fault n tile list stamped
  have hfault {t : State} (ht : t.memOk = true) (f) : (fault t f).memOk := State.refuseRead_memOk ht ..
  clear_value fault
  refine Issued.memOk_ite _ (State.refuse_memOk h ..) ?_
  have hd := State.issueRead_memOk h g.id 0 handle 64
  generalize s.issueRead g.id 0 handle 64 = r at hd
  obtain ⟨t, e⟩ := r
  have ht : t.memOk = true := hd
  cases e with
  | fault f => exact hfault ht f
  | ok d =>
    refine Issued.memOk_ite _ (State.refuse_memOk ht ..) ?_
    have hl := State.pageRead_memOk ht g.id (descField d 64 56) (2 * descNp d)
    generalize t.pageRead g.id (descField d 64 56) (2 * descNp d) = r at hl
    obtain ⟨u, e⟩ := r
    have hu : u.memOk = true := hl
    cases e with
    | fault f => exact hfault hu f
    | ok l =>
      split
      next hr => cases hr
      next hr =>
        cases hr
        extract_lets pkgs size mask
        split
        next bid gr co _ _ _ =>
          extract_lets me
          refine Issued.memOk_ite _ (State.refuse_memOk hu ..) ?_
          refine Issued.memOk_ite _ (State.refuse_memOk hu ..) ?_
          refine Issued.memOk_ite _ (hfault hu _) ?_
          have hb := State.engineReadAll_memOk hu g.id 1 (ownAddr me list) (4 * n)
          generalize u.engineReadAll g.id 1 (ownAddr me list) (4 * n) = r at hb
          obtain ⟨v, e⟩ := r
          have hv : v.memOk = true := hb
          split
          · exact hfault hu _
          cases e with
          | fault f => exact hfault hv f
          | ok bs => exact State.joinBatch_memOk hv ..
          | _ => exact hv
        · exact State.refuse_memOk hu ..
      next hr => cases hr; exact hu
    | _ => exact hu
  | _ => exact ht

theorem execGath_memOk (x) : (execGath x s).memOk := engineInstr_memOk h _ _ _ _ _ (gatherRun_memOk h x false)
theorem execScad_memOk (x) : (execScad x s).memOk := engineInstr_memOk h _ _ _ _ _ (gatherRun_memOk h x true)
@[simp] theorem State.failPositions_memOk (o x ps) : (s.failPositions o x ps).memOk = true := h
@[simp] theorem State.sourceRows_memOk (o x ps) : (s.sourceRows o x ps).1.memOk = true := by
  grind [State.sourceRows, foldl_fst_memOk, !← State.engineReadAll_memOk]
@[simp] theorem State.sendSub_memOk (o x pkg seq rows) : (s.sendSub o x pkg seq rows).memOk = true := by
  grind [State.sendSub, State.memOk, !← State.countSent_memOk, !← State.setTsn_memOk, !← State.emit_memOk]
@[simp] theorem execSluiceFold_memOk (op) : (execSluiceFold op s).memOk := by
  unfold execSluiceFold
  split
  · exact h
  next o _ =>
  split
  next x _ =>
    split
    · exact h
    split
    · simp [h]
    · exact h
    next pkg rest _ =>
      simp only
      have hr := State.sourceRows_memOk h o { x with unsent := some rest } (GatherOp.positionsOf { x with unsent := some rest } pkg)
      split
      · simp [h]
      split
      · exact h
      split <;> simp_all
  · exact h
@[simp] theorem State.subReply_memOk (r body) : (s.subReply r body).memOk = true := by
  grind [State.subReply, State.memOk, !← State.emit_memOk]
@[simp] theorem State.partition_memOk (r) : (s.partition r).memOk = true := by
  grind [State.partition, State.memOk, foldl_memOk, !← State.subReply_memOk, !← State.sendOver_memOk]
@[simp] theorem State.subAck_memOk (f r) : (s.subAck f r).memOk = true := h
@[simp] theorem execSubRequestPartition_memOk (r) : (execSubRequestPartition r s).memOk := by
  grind [execSubRequestPartition, State.memOk, Outcome.memOk, foldl_memOk, !← State.partition_memOk, !← State.count_memOk, !←
    State.subAck_memOk, !← State.emit_memOk]
@[simp] theorem State.locateRow_memOk (die d r need) : (s.locateRow die d r need).1.memOk = true := by
  grind [State.locateRow, foldl_fst_memOk, !← State.translate_memOk, !← State.poisonCheck_memOk]
@[simp] theorem State.rowAway_memOk (die away) : (s.rowAway die away).memOk = true := by unfold State.rowAway; split <;> simp [h]
@[simp] theorem State.rowTouch_memOk (die l) : (s.rowTouch die l).memOk = true := by
  grind [State.rowTouch, foldl_memOk, !← State.corrected_memOk, !← State.farFill_memOk, !← State.sendOver_memOk]
@[simp] theorem State.readRow_memOk (die d r) : (s.readRow die d r).1.memOk = true := by
  grind [State.readRow, !← State.locateRow_memOk, !← State.rowTouch_memOk]
@[simp] theorem State.poolRows_memOk (j) : (s.poolRows j).1.memOk = true := by
  grind [State.poolRows, foldl_fst_memOk, !← State.readRow_memOk]
@[simp] theorem State.failJob_memOk (n j) : (s.failJob n j).memOk = true := by grind [State.failJob, State.memOk, !← State.subReply_memOk]
/-- Work of a row engine is taken off its list. -/
theorem State.withRowJobs_memOk (l) : ({ s with rowJobs := l } : State).memOk = true := h

@[simp] theorem execRowFetch_memOk (n) : (execRowFetch n s).memOk := by
  unfold execRowFetch
  split
  · exact h
  next j _ =>
  simp only
  split
  · exact h
  split
  · simp [h]
  split
  · split
    next x l _ =>
      have hr := State.readRow_memOk h j.die j.r.desc x.index
      split
      next t bs away ht => rw [ht] at hr; exact State.subReply_memOk (State.rowAway_memOk (State.withRowJobs_memOk hr _) ..) ..
      next t ht => rw [ht] at hr; exact State.subReply_memOk (State.withRowJobs_memOk hr _) ..
      next t ht => rw [ht] at hr; exact hr
    · exact h
  · have hp := State.poolRows_memOk h j
    split
    · exact hp
    · refine foldl_memOk (fun _ _ hs => State.subReply_memOk hs ..) _ ?_
      have hn : (State.countN { (s.poolRows j).1 with rowJobs := (s.poolRows j).1.rowJobs.eraseIdx n } j.die 0x7018 (s.poolRows j).2.away).memOk = true :=
        State.countN_memOk (State.withRowJobs_memOk hp _) ..
      split
      · exact hn
      · exact State.subReply_memOk hn ..
@[simp] theorem execScadRowAdd_memOk (n) : (execScadRowAdd n s).memOk := by
  unfold execScadRowAdd
  split
  · exact h
  next j _ =>
  split
  next x l _ _ =>
    simp only
    split
    · exact h
    split
    · simp [h]
    have hl := State.locateRow_memOk h j.die j.r.desc x.index 6
    split
    next t _ hr => rw [hr] at hl; exact hl
    next t hr => rw [hr] at hl; exact State.subReply_memOk (State.withRowJobs_memOk hl _) ..
    next t l hr =>
      rw [hr] at hl
      exact State.subReply_memOk (State.withRowJobs_memOk (foldl_memOk (fun _ _ hs => State.writePlace_memOk hs ..) _
        (State.rowAway_memOk (State.rowTouch_memOk hl ..) ..)) _) ..
  · exact h
@[simp] theorem State.gatherWrite_memOk (o addr bs) : (s.gatherWrite o addr bs).1.memOk = true := by
  grind [State.gatherWrite, foldl_fst_memOk, !← State.engineWrite_memOk]
@[simp] theorem State.retireSubs_memOk (op) : (s.retireSubs op).memOk = true := by
  grind [State.retireSubs, State.memOk, !← State.countSent_memOk]
@[simp] theorem State.mergeReply_memOk (o x ps r) : (s.mergeReply o x ps r).memOk = true := by
  cases r with
  | failed => exact State.failPositions_memOk h ..
  | added => exact State.setOp_memOk h ..
  | partialSum => exact State.setOp_memOk h ..
  | row ps' bs =>
    unfold State.mergeReply
    simp only
    generalize hr : List.foldl _ _ ps = r
    have ht : r.1.memOk = true := by
      rw [← hr]
      refine foldl_fst_memOk (fun st p hs => ?_) ps h
      split
      · exact hs
      · exact State.gatherWrite_memOk hs ..
    obtain ⟨t, _ | f⟩ := r
    · exact State.setOp_memOk ht ..
    · exact State.failOp_memOk ht ..
@[simp] theorem State.lateSub_memOk (op r) : (s.lateSub op r).memOk = true := by unfold State.lateSub; split <;> simp [h]
@[simp] theorem execGatherReplyMerge_memOk (op rep) : (execGatherReplyMerge op rep s).memOk := by
  grind [execGatherReplyMerge, State.memOk, Outcome.memOk, !← State.count_memOk, !← State.lateSub_memOk, !← State.retireSubs_memOk, !←
    State.setOp_memOk, !← State.mergeReply_memOk]
@[simp] theorem State.shadowMask_memOk (o x) : (s.shadowMask o x).memOk = true := by unfold State.shadowMask; (repeat' split) <;> simp [h]
@[simp] theorem execGatherComplete_memOk (op) : (execGatherComplete op s).memOk := by
  unfold execGatherComplete
  split
  · exact h
  next o _ =>
  split
  next x _ =>
    split
    · exact h
    generalize hr : List.foldl _ _ (x.lastRows ++ _) = r
    have ht : r.1.memOk = true := by
      rw [← hr]
      refine foldl_fst_memOk (fun st p hs => ?_) _ h
      split
      · exact hs
      · exact State.gatherWrite_memOk hs ..
    obtain ⟨t, _ | f⟩ := r
    · have hw := State.writeStamp_memOk ht o 1 x.stampAddr x.stamp
      simp only
      split
      · split <;> simp_all
      · exact State.shadowMask_memOk (State.endOp_memOk ht _) ..
    · exact State.failOp_memOk ht ..
  · exact h

/-! ## Launch -/
@[simp] theorem State.placeBlock_memOk (g i shadow p) : (s.placeBlock g i shadow p).memOk = true := by
  grind [State.placeBlock, State.memOk, Memory.wf_clear]
@[simp] theorem State.replaceBlock_memOk (b p) : (s.replaceBlock b p).memOk = true := by
  grind [State.replaceBlock, State.memOk, foldl_memOk, !← State.setBlock_memOk, !← State.setGang_memOk]
@[simp] theorem State.placeCopy_memOk (g c is shadow l) : (s.placeCopy g c is shadow l).memOk = true := by
  grind [State.placeCopy, State.memOk, foldl_memOk, !← State.placeBlock_memOk]
@[simp] theorem State.dispatchCohort_memOk (g c places) : (s.dispatchCohort g c places).memOk = true := by
  grind [State.dispatchCohort, foldl_memOk, !← State.placeCopy_memOk, !← State.setGrid_memOk]
@[simp] theorem State.placeAgain_memOk (g c places) : (s.placeAgain g c places).memOk = true := by
  grind [State.placeAgain, foldl_memOk, !← State.replaceBlock_memOk]
theorem State.dispatchPlan_memOk {g t} (ht : s.dispatchPlan g = some t) : t.memOk = true := by
  unfold State.dispatchPlan at ht
  simp only at ht
  split at ht
  · cases ht
  split at ht
  · cases ht; exact State.placeAgain_memOk h ..
  split at ht
  · cases ht
  split at ht
  · cases ht
  · obtain ⟨p, -, rfl⟩ := Option.map_eq_some_iff.1 ht
    exact State.dispatchCohort_memOk h ..
@[simp] theorem execBlockDispatch_memOk (x) : (execBlockDispatch x s).memOk := by
  unfold execBlockDispatch
  split
  · split
    next t ht => exact State.dispatchPlan_memOk h ht
    · exact h
  · exact h
@[simp] theorem State.deviceLocate_memOk (g k addr n) : (s.deviceLocate g k addr n).1.memOk = true := by simp [State.deviceLocate, h]
@[simp] theorem State.deviceEvent_memOk (g f) : (s.deviceEvent g f).memOk = true := by simp [State.deviceEvent, h]
@[simp] theorem execDependencyReread_memOk (x) : (execDependencyReread x s).memOk := by
  unfold execDependencyReread
  split
  · exact h
  next g _ =>
  split
  · exact h
  extract_lets fail
  have hfail {t : State} (ht : t.memOk = true) (f) : (fail t f).memOk = true := by unfold fail; split <;> simp [ht]
  clear_value fail
  have hl := State.deviceLocate_memOk h g (.word false) g.record.depWord 16
  generalize s.deviceLocate g (.word false) g.record.depWord 16 = r at hl
  obtain ⟨t, l⟩ := r
  have ht : t.memOk = true := hl
  cases l with
  | wait w => exact ht
  | fault f => exact hfail ht _
  | ok p =>
    have hp := State.poisonCheck_memOk ht p 16 false
    simp only
    split
    · split
      · exact ht
      · exact State.sendFrom_memOk ht ..
    generalize t.poisonCheck p 16 false = r at hp
    obtain ⟨u, _ | c⟩ := r
    · have hu : u.memOk = true := hp
      simp only
      split
      · exact State.setGrid_memOk hu _
      · exact hu
    · exact hfail hp _

/-! ## Life -/
@[simp] theorem State.dropGrid_memOk (hd) : (s.dropGrid hd).memOk = true := h
@[simp] theorem State.deviceTry_memOk (g addr op) : (s.deviceTry g addr op).1.memOk = true := by
  have hl := State.deviceLocate_memOk h g (match op with | .store _ => AccKind.stamp | _ => AccKind.word true) addr op.size
  unfold State.deviceTry
  split
  next t f hr => exact State.deviceEvent_memOk (hr ▸ hl :) ..
  next t w hr => exact (hr ▸ hl :)
  next t p hr =>
    have ht : t.memOk = true := (hr ▸ hl :)
    split
    · split <;> simp [ht]
    have hp := State.poisonCheck_memOk ht p op.size true
    split
    · simp_all
    next t' hr' =>
      rw [hr'] at hp
      have ha := State.apply_memOk (s := t') hp p op false
      split <;> simp_all
@[simp] theorem State.deviceWrite_memOk (g addr op) : (s.deviceWrite g addr op).memOk = true := by
  grind [State.deviceWrite, State.memOk, !← State.deviceTry_memOk]
@[simp] theorem State.tryComplete_memOk (hd) : (s.tryComplete hd).memOk = true := by
  grind [State.tryComplete, !← State.dropGrid_memOk, !← State.deviceTry_memOk]
@[simp] theorem State.signalBlock_memOk (b) : (s.signalBlock b).memOk = true := by unfold State.signalBlock; (repeat' split) <;> simp [h]
@[simp] theorem State.exitBlock_memOk (b) : (s.exitBlock b).memOk = true := by unfold State.exitBlock; (repeat' split) <;> simp [h]
@[simp] theorem State.exitGang_memOk (gid) : (s.exitGang gid).memOk = true := by
  grind [State.exitGang, !← State.setGang_memOk, !← State.setControl_memOk, !← State.latchGone_memOk, !← State.barrierSweep_memOk, !←
    State.spanTell_memOk, !← State.spanLeave_memOk, !← State.exitBlock_memOk]
@[simp] theorem State.exitStep_memOk (g) : (s.exitStep g).memOk = true := by
  grind [State.exitStep, !← State.takeTrap_memOk, !← State.setGang_memOk, !← State.flushPoint_memOk, !← State.exitGang_memOk]
@[simp] theorem execGangExit_memOk (gid) : (execGangExit gid s).memOk := by unfold execGangExit; (repeat' split) <;> simp [h]
@[simp] theorem State.freeBlock_memOk (b) : (s.freeBlock b).memOk = true := by
  grind [State.freeBlock, State.memOk, !← State.setBlock_memOk]
@[simp] theorem execBlockResourcesFree_memOk (b) : (execBlockResourcesFree b s).memOk := by
  unfold execBlockResourcesFree; (repeat' split) <;> simp [h]
@[simp] theorem State.finishKill_memOk (b) : (s.finishKill b).memOk = true := by
  grind [State.finishKill, foldl_memOk, !← State.signalBlock_memOk, !← State.setBlock_memOk, !← State.setGang_memOk, !←
    State.tryComplete_memOk, !← State.barrierSweep_memOk, !← State.freeBlock_memOk]
@[simp] theorem State.finishHalt_memOk (b) : (s.finishHalt b).memOk = true := by
  grind [State.finishHalt, foldl_memOk, !← State.setBlock_memOk, !← State.dropFetched_memOk, !← State.setGang_memOk]
@[simp] theorem execHaltComplete_memOk (b) : (execHaltComplete b s).memOk := by
  grind [execHaltComplete, Outcome.memOk, !← State.flushAll_memOk, !← State.finishKill_memOk, !← State.exitBlock_memOk, !←
    State.finishHalt_memOk]
@[simp] theorem State.runLoaded_memOk (b) : (s.runLoaded b).memOk = true := by
  unfold State.runLoaded; simp_all [foldl_memOk]
@[simp] theorem execSliceTimerExpiry_memOk (hd) : (execSliceTimerExpiry hd s).memOk := by
  grind [execSliceTimerExpiry, Outcome.memOk, !← State.deviceWrite_memOk]
@[simp] theorem State.gangArrival_memOk (a gid) : (s.gangArrival a gid).memOk = true := by
  unfold State.gangArrival
  split
  next o _ =>
    split
    · exact h
    have hw := State.engineWrite_memOk h o (.word true) a.space a.addr 16 (.arrival a.n) true
    split
    · simp_all
    · split <;> simp_all
    · simp_all
  · split
    next p g _ _ =>
      simp only
      split
      · simp [h]
      split
      · simp [h]
      have hp := State.performAt_memOk h g 0 0 a.addr p (.arrival a.n) ⟨some a.scope, a.scope, a.space == 1, g.dmask⟩
      split
      · simp_all
      next t bs race hr =>
        rw [hr] at hp
        have hq : ((if a.rel && a.scope != 0 then t.bumpInterval gid else t).countSent gid 0 1).memOk = true := by
          split <;> simp_all
        split
        · exact State.trapRace_memOk hq ..
        · exact hq
    · exact h
@[simp] theorem execSyncWordArrival_memOk (n) : (execSyncWordArrival n s).memOk := by
  unfold execSyncWordArrival
  split
  · exact h
  next a _ =>
  simp only
  split
  · exact h
  have hgone : ({ s with arrivals := s.arrivals.eraseIdx n } : State).memOk = true := h
  split
  · exact State.gangArrival_memOk hgone ..
  next g _ _ _ =>
    have hl := State.locate_memOk h g (.word true) a.space a.addr 16
    split
    next t w hr => rw [hr] at hl; exact hl
    · exact State.gangArrival_memOk hgone ..
  · split
    next g _ =>
      have hd := State.deviceTry_memOk hgone g a.addr (.arrival a.n)
      split
      next t hr => rw [hr] at hd; exact State.tryComplete_memOk hd ..
      next t hr => rw [hr] at hd; exact hd
    · exact hgone

/-! ## Span -/
@[simp] theorem State.setSpan_memOk (x) : (s.setSpan x).memOk = true := h
@[simp] theorem State.tellMember_memOk (x m msg) : (s.tellMember x m msg).memOk = true := h
@[simp] theorem State.tryReserve_memOk (k) : (s.tryReserve k).1.memOk = true := by grind [State.tryReserve, State.memOk]
@[simp] theorem State.commitLocal_memOk (k) : (s.commitLocal k).memOk = true := by
  grind [State.commitLocal, State.memOk, !← State.dispatchCohort_memOk, !← State.placeAgain_memOk, !← State.setGrid_memOk]
@[simp] theorem State.releaseLocal_memOk (k) : (s.releaseLocal k).memOk = true := h
@[simp] theorem State.spanGo_memOk (g) : (s.spanGo g).memOk = true := by unfold State.spanGo; simp_all [foldl_memOk]
@[simp] theorem State.spanGoAll_memOk (x g) : (s.spanGoAll x g).memOk = true := by
  grind [State.spanGoAll, foldl_memOk, !← State.tellMember_memOk, !← State.spanGo_memOk, !← State.setSpan_memOk]
@[simp] theorem State.spanLoaded_memOk (x) : (s.spanLoaded x).memOk = true := by grind [State.spanLoaded, !← State.spanGoAll_memOk]
@[simp] theorem State.startCommit_memOk (x) : (s.startCommit x).memOk = true := by
  grind [State.startCommit, foldl_memOk, !← State.setSpan_memOk, !← State.commitLocal_memOk, !← State.tellMember_memOk]
@[simp] theorem State.startRelease_memOk (x) : (s.startRelease x).memOk = true := by
  grind [State.startRelease, foldl_memOk, !← State.setSpan_memOk, !← State.releaseLocal_memOk, !← State.tellMember_memOk]
@[simp] theorem State.judge_memOk (x) : (s.judge x).memOk = true := by unfold State.judge; (repeat' split) <;> simp [h]
@[simp] theorem State.answer_memOk (k m yes) : (s.answer k m yes).memOk = true := by unfold State.answer; (repeat' split) <;> simp [h]
@[simp] theorem State.reserveLocal_memOk (k) : (s.reserveLocal k).memOk = true := by
  grind [State.reserveLocal, State.memOk, !← State.tryReserve_memOk, !← State.answer_memOk, !← State.tell_memOk]
@[simp] theorem State.startReserve_memOk (g) : (s.startReserve g).memOk = true := by
  grind [State.startReserve, foldl_memOk, !← State.setSpan_memOk, !← State.tellMember_memOk, !← State.reserveLocal_memOk]
@[simp] theorem State.askPlacement_memOk (g) : (s.askPlacement g).memOk = true := by
  unfold State.askPlacement; (repeat' split) <;> simp [h]
@[simp] theorem State.stopLocal_memOk (g) : (s.stopLocal g).memOk = true := by
  grind [State.stopLocal, foldl_memOk, !← State.setGang_memOk, !← State.haltBlock_memOk]
@[simp] theorem State.closeWindow_memOk (x) : (s.closeWindow x).memOk = true := by
  grind [State.closeWindow, !← State.setSpan_memOk, !← State.setGrid_memOk]
@[simp] theorem State.issueStop_memOk (g) : (s.issueStop g).memOk = true := by
  grind [State.issueStop, foldl_memOk, !← State.stopLocal_memOk, !← State.setSpan_memOk, !← State.setGrid_memOk, !←
    State.closeWindow_memOk, !← State.tellMember_memOk]
@[simp] theorem State.stopSpan_memOk (g) : (s.stopSpan g).memOk = true := by unfold State.stopSpan; split <;> simp [h]
@[simp] theorem execSpanRelease_memOk (k) : (execSpanRelease k s).memOk := h
@[simp] theorem State.commitAck_memOk (x member) : (s.commitAck x member).memOk = true := by
  grind [State.commitAck, !← State.setSpan_memOk, !← State.spanLoaded_memOk, !← State.spanGoAll_memOk]
@[simp] theorem execCommitAcknowledged_memOk (k a) : (execCommitAcknowledged k a s).memOk := by
  unfold execCommitAcknowledged; (repeat' split) <;> simp [h]
@[simp] theorem execSpanRetryTimer_memOk (k) : (execSpanRetryTimer k s).memOk := by
  unfold execSpanRetryTimer; (repeat' split) <;> simp [h]
@[simp] theorem execSpanMessageTimeout_memOk (k member) : (execSpanMessageTimeout k member s).memOk := by
  grind [execSpanMessageTimeout, Outcome.memOk, !← State.answer_memOk, !← State.event_memOk, !← State.killSpan_memOk, !←
    State.setSpan_memOk, !← State.tellMember_memOk]
@[simp] theorem execSpanStopIssue_memOk (k) : (execSpanStopIssue k s).memOk := by
  grind [execSpanStopIssue, Outcome.memOk, !← State.issueStop_memOk, !← State.tell_memOk, !← State.stopLocal_memOk, !← State.setGrid_memOk]
@[simp] theorem execStopIssueAck_memOk (k member) : (execStopIssueAck k member s).memOk := by
  unfold execStopIssueAck; (repeat' split) <;> simp [h]
@[simp] theorem execSpanKillMessage_memOk (k) : (execSpanKillMessage k s).memOk := by
  unfold execSpanKillMessage; (repeat' split) <;> simp [h]
@[simp] theorem State.noteBarrier_memOk (k b m) : (s.noteBarrier k b m).memOk = true := by
  have harrived : (if s.spanArrived.contains (k, b) then s else { s with spanArrived := s.spanArrived ++ [(k, b)] }).memOk = true := by
    split <;> exact h
  cases m with
  | othersArrived => exact harrived
  | complete => exact harrived
  | flush =>
    show (if (s.spanFlushed k b).isSome then s else s.setSpanFlush k b false).memOk = true
    split <;> simp [h]
  | flushed =>
    show (if (s.spanFlushed k b).isSome then s.setSpanFlush k b true else s).memOk = true
    split <;> simp [h]

@[simp] theorem State.absentBarrier_memOk (k b x) : (s.absentBarrier k b x).memOk = true := by
  unfold State.absentBarrier; split <;> simp [h]
@[simp] theorem execSpanBarrierCombine_memOk (k b m) : (execSpanBarrierCombine k b m s).memOk := by
  grind [execSpanBarrierCombine, Outcome.memOk, !← State.absentBarrier_memOk, !← State.spanOnly_memOk, !← State.noteBarrier_memOk, !←
    State.barrierCheck_memOk]

/-! ## Supervisor -/
@[simp] theorem supervisor_memOk (gd) {k : Gang → BitVec 8 → ℕ → Slice → State} (hk : ∀ s t u v, (k s t u v).memOk = true) : (supervisor s gd k).memOk := by
  grind [supervisor, !← withScalar_memOk, !← State.trapScalar_memOk, !← State.passPart_memOk]
@[simp] theorem State.passIssuer_memOk (g m) : (s.passIssuer g m).memOk = true := by unfold State.passIssuer; split <;> simp [h]
@[simp] theorem State.enqueue_memOk (die core r params) : (s.enqueue die core r params).1.memOk = true := by
  grind [State.enqueue, State.memOk, !← State.setControl_memOk, !← State.askPlacement_memOk]
@[simp] theorem execLaunch_memOk (gd d a) : (execLaunch gd d a s).memOk := by
  refine supervisor_memOk h _ fun g m i sl => ?_
  extract_lets x refuse fault
  have hrefuse {t : State} (ht : t.memOk = true) (n) : (refuse t n).memOk = true := by simp [refuse, ht]
  have hfault {t : State} (ht : t.memOk = true) (f) : (fault t f).memOk = true := by simp [fault, ht]
  clear_value refuse fault
  split
  · exact hrefuse h _
  have hb := State.pageRead_memOk h g.id x 128
  split
  next t f hr => exact hfault (hr ▸ hb :) _
  next t bs hr =>
    replace hb : t.memOk = true := (hr ▸ hb :)
    split
    · exact hrefuse hb _
    extract_lets r
    have hl := State.pageRead_memOk hb g.id (recPkgAddr bs) (2 * r.spanSize)
    split
    next u f hr => exact hrefuse (hr ▸ hl :) _
    next u l hr =>
      replace hl : u.memOk = true := (hr ▸ hl :)
      extract_lets r'
      split
      · exact hrefuse hl _
      split
      · exact hrefuse hl _
      have hp := State.pageRead_memOk hl g.id (recParams bs).1 (recParams bs).2
      split
      next v f hr => exact hfault (hr ▸ hp :) _
      next v params hr =>
        replace hp : v.memOk = true := (hr ▸ hp :)
        split
        · extract_lets q
          have hq : q.1.memOk = true := State.enqueue_memOk hp ..
          split
          · exact State.dropFetched_memOk (State.passPart_memOk hq ..) _
          · exact hq
        · exact State.waitPart_memOk (State.keepRead_memOk (State.keepRead_memOk (State.keepRead_memOk hp ..) ..) ..) ..
      next v e hr => exact State.waitPart_memOk (hr ▸ hp :) ..
    next u e hr => exact State.waitPart_memOk (hr ▸ hl :) ..
  next t e hr => exact State.waitPart_memOk (hr ▸ hb :) ..
@[simp] theorem onTarget_memOk (gd k a) {f : Gang → BitVec 8 → ℕ → Grid → List ℕ → State} (hf : ∀ s t u v w, (f s t u v w).memOk = true) : (onTarget s gd k a f).memOk := by
  grind [onTarget, !← supervisor_memOk, !← State.trapSlice_memOk]
@[simp] theorem State.preempt_memOk (g l) : (s.preempt g l).memOk = true := by
  grind [State.preempt, foldl_memOk, !← State.setGrid_memOk, !← State.setBlock_memOk, !← State.stopSpan_memOk, !← State.haltBlock_memOk]
@[simp] theorem execPreempt_memOk (gd k a) : (execPreempt gd k a s).memOk := by
  grind [execPreempt, !← onTarget_memOk, !← State.passIssuer_memOk, !← State.preempt_memOk]
@[simp] theorem State.resume_memOk (g l) : (s.resume g l).memOk = true := by
  grind [State.resume, foldl_memOk, !← State.setGrid_memOk, !← State.resumeInPlace_memOk, !← State.setBlock_memOk, !←
    State.askPlacement_memOk]
@[simp] theorem execResume_memOk (gd k a) : (execResume gd k a s).memOk := by
  grind [execResume, !← onTarget_memOk, !← State.trapSlice_memOk, !← State.waitPart_memOk, !← State.passIssuer_memOk, !← State.resume_memOk]
@[simp] theorem State.killTarget_memOk (g l) : (s.killTarget g l).memOk = true := by
  grind [State.killTarget, foldl_memOk, !← State.killSpan_memOk, !← State.markKill_memOk, !← State.killQueued_memOk, !←
    State.haltBlock_memOk]
@[simp] theorem execKill_memOk (gd k a) : (execKill gd k a s).memOk := by
  grind [execKill, !← onTarget_memOk, !← State.tryComplete_memOk, !← State.killTarget_memOk, !← State.passIssuer_memOk, !←
    State.waitPart_memOk]
@[simp] theorem execQuota_memOk (gd a b) : (execQuota gd a b s).memOk := by
  grind [execQuota, !← supervisor_memOk, !← State.trapSlice_memOk, !← State.passPart_memOk, !← State.setGrid_memOk]

/-! ## Remote -/
@[simp] theorem State.slotFault_memOk (gid f lanes) : (s.slotFault gid f lanes).memOk = true := by simp [State.slotFault, h]
@[simp] theorem State.slotRace_memOk (gid r) : (s.slotRace gid r).memOk = true := by unfold State.slotRace; split <;> simp [h]
@[simp] theorem State.copyLanes_memOk (p sh w m) : (s.copyLanes p sh w m).memOk = true := by
  unfold State.copyLanes; split <;> simp [h]
@[simp] theorem State.endAtomic_memOk (gid faults race) : (s.endAtomic gid faults race).memOk = true := by
  grind [State.endAtomic, !← State.copyLanes_memOk, !← State.slotRace_memOk, !← State.orderDone_memOk, !← State.setGang_memOk, !←
    State.trapLanesFrom_memOk]
@[simp] theorem State.remoteFault_memOk (o lane f) : (s.remoteFault o lane f).memOk = true := h
@[simp] theorem State.endAhead_memOk (g r) : (s.endAhead g r).memOk = true := by
  grind [State.endAhead, !← State.setGang_memOk, !← State.orderDone_memOk, !← State.trapRace_memOk, !← State.trapLanes_memOk, !←
    State.trapSlices_memOk]
@[simp] theorem State.endRemote_memOk (r) : (s.endRemote r).memOk = true := by
  grind [State.endRemote, State.memOk, !← State.slotFault_memOk, !← State.endAtomic_memOk, !← State.endAhead_memOk, !←
    State.endLane_memOk, !← State.endScalar_memOk]
@[simp] theorem State.sweepRemote_memOk (o) : (s.sweepRemote o).memOk = true := by
  unfold State.sweepRemote; simp_all [foldl_memOk]
@[simp] theorem State.rereadDone_memOk (o gid m stamp v scope r) : (s.rereadDone o gid m stamp v scope r).memOk = true := by
  grind [State.rereadDone, State.memOk, !← State.trapAccess_memOk, !← State.orderDone_memOk, !← State.setGang_memOk, !← State.watch_memOk]
@[simp] theorem State.mergeNext_memOk (o n gid lane addr sc draws level) : (s.mergeNext o n gid lane addr sc draws level).memOk = true := by
  grind [State.mergeNext, State.memOk, !← State.locateGauge_memOk, !← State.remoteFault_memOk, !← State.sendAccess_memOk, !←
    State.gaugeAt_memOk]
@[simp] theorem State.deviceDone_memOk (o hd r) : (s.deviceDone o hd r).memOk = true := by
  unfold State.deviceDone
  refine State.tryComplete_memOk ?_ hd
  (repeat' split) <;> simp [h]
/-- What a gang's load brings, with or without a gang that takes it. -/
theorem State.landed_memOk {α : Type} (g : Option Gang) (o : Option α) (f : Gang → α → State) (hf : ∀ x d, (f x d).memOk = true) :
    (match g, o with | some x, some d => f x d | _, _ => s).memOk = true := by
  cases g <;> cases o <;> simp [h, hf]

@[simp] theorem State.settle_memOk (o r) : (s.settle o r).memOk = true := by
  have hc (g) : (s.countSent g 0 1).memOk = true := State.countSent_memOk h ..
  unfold State.settle
  split
  next g lane dst i sext bs _ =>
    extract_lets bs t u v
    have hu : u.memOk = true := by
      unfold u
      split
      · exact State.setGang_memOk (hc _) _
      · exact hc _
    have hv : v.memOk = true := by
      unfold v
      split
      · split
        · exact State.setSat_memOk hu _
        · exact hu
      · exact hu
    exact State.sweepRemote_memOk hv _
  · exact State.sweepRemote_memOk (State.remoteFault_memOk (hc _) ..) _
  · extract_lets bs t u
    have hu : u.memOk = true := by
      unfold u
      split
      · split
        · exact hc _
        · exact State.setGang_memOk (hc _) _
      · exact hc _
    exact State.sweepRemote_memOk hu _
  · exact State.sweepRemote_memOk (State.remoteFault_memOk (hc _) ..) _
  · exact State.sweepRemote_memOk (State.mergeNext_memOk (hc _) ..) _
  · exact State.sweepRemote_memOk (State.remoteFault_memOk (hc _) ..) _
  · simp only
    split
    · exact State.barrierSweep_memOk (hc _) _
    · exact hc _
  · exact State.trapAccess_memOk (hc _) ..
  · exact State.rereadDone_memOk (hc _) ..
  · refine State.countSent_memOk ?_ ..
    split
    · exact State.bumpInterval_memOk h _
    · exact h
  · exact State.trapAccess_memOk (hc _) ..
  · split
    · exact State.engineReply_memOk (hc _) ..
    · exact h
  · have hn (l) : ({ s with retiredSubs := l } : State).memOk = true := h
    simp only
    split
    · split
      · exact State.retireSubs_memOk (State.failPositions_memOk (State.countSent_memOk (hn _) ..) ..) _
      · exact hn _
    · exact hn _
  · exact h
  · exact hc _
  · exact hc _
  · exact State.deviceDone_memOk h ..
@[simp] theorem State.finish_memOk (o r) : (s.finish o r).memOk = true := by
  grind [State.finish, State.memOk, foldl_memOk, !← State.settle_memOk, !← State.barrierSweep_memOk]
@[simp] theorem State.sampleReply_memOk (o) : (s.sampleReply o).memOk = true := by unfold State.sampleReply; split <;> simp [h]
@[simp] theorem State.giveUp_memOk (o cause info) : (s.giveUp o cause info).memOk = true := by
  grind [State.giveUp, State.memOk, !← State.finish_memOk]
@[simp] theorem State.flitArrived_memOk (f) : (s.flitArrived f).memOk = true := by
  grind [State.flitArrived, foldl_memOk, !← State.setModule_memOk]
@[simp] theorem State.dropFlight_memOk (f) : (s.dropFlight f).memOk = true := h
@[simp] theorem State.flightRace_memOk (f r) : (s.flightRace f r).memOk = true := by
  unfold State.flightRace
  split
  · exact h
  · split <;> simp [h]
  · simp [h]
  · simp [h]
  · exact h
@[simp] theorem State.performFlight_memOk (f p) : (s.performFlight f p).1.memOk = true := by
  grind [State.performFlight, !← State.performHere_memOk, !← State.flightRace_memOk, !← State.bumpInterval_memOk, !←
    State.poisonCheck_memOk, !← State.apply_memOk]
@[simp] theorem State.answerFlight_memOk (f b) : (s.answerFlight f b).memOk = true := by
  grind [State.answerFlight, State.memOk, !← State.launchFlights_memOk]
@[simp] theorem State.requestHere_memOk (f p) : (s.requestHere f p).memOk = true := by
  grind [State.requestHere, !← State.flitArrived_memOk, !← State.performFlight_memOk, !← State.answerFlight_memOk, !←
    State.dropFlight_memOk, !← State.count_memOk, !← State.setFilter_memOk]
@[simp] theorem State.takeReply_memOk (r) : (s.takeReply r).memOk = true := by unfold State.takeReply; (repeat' split) <;> simp [h]
@[simp] theorem execReplyAtRequester_memOk (r) : (execReplyAtRequester r s).memOk := by
  grind [execReplyAtRequester, State.memOk, Outcome.memOk, !← State.takeReply_memOk, !← State.dropFlight_memOk, !←
    State.flitArrived_memOk, !← State.sendFlit_memOk]
@[simp] theorem execRequestTimeout_memOk (q tsn) : (execRequestTimeout q tsn s).memOk := by
  unfold execRequestTimeout; (repeat' split) <;> simp [h]
@[simp] theorem State.performRemote_memOk (p op) : (s.performRemote p op).1.memOk = true := by
  grind [State.performRemote, !← State.poisonCheck_memOk, !← State.apply_memOk, !← State.corrected_memOk, !← State.sendOver_memOk]
@[simp] theorem State.apertureRequest_memOk (off op) : (s.apertureRequest off op).1.memOk = true := by
  grind [State.apertureRequest, !← State.translate_memOk, !← State.performRemote_memOk]
@[simp] theorem State.polderRequest_memOk (k m die slot off op) : (s.polderRequest k m die slot off op).1.memOk = true := by
  unfold State.polderRequest; (repeat' split) <;> simp [h]
@[simp] theorem State.executeRequest_memOk (r) : (s.executeRequest r).1.memOk = true := by
  unfold State.executeRequest; (repeat' split) <;> simp [h]
@[simp] theorem execRequestAtTarget_memOk (r) : (execRequestAtTarget r s).memOk := by
  grind [execRequestAtTarget, State.memOk, Outcome.memOk, !← State.emit_memOk, !← State.requestHere_memOk, !← State.count_memOk, !←
    State.setFilter_memOk, !← State.executeRequest_memOk]
@[simp] theorem State.rmaPieces_memOk (ctx k l) : (s.rmaPieces ctx k l).1.memOk = true := by
  refine foldl_fst_memOk (fun st p hs => ?_) l h
  have ht := State.translate_memOk hs (st.1.dieAgent 12 ctx) p.1 k.need
  split
  · split
    · simp_all
    · simp_all
    next t leaf hr =>
      rw [hr] at ht
      split
      next q _ =>
        have hp := State.poisonCheck_memOk (s := t) ht q p.2 (k.need = 2)
        (repeat' split) <;> simp_all
      · exact ht
      · exact ht
  · exact hs
@[simp] theorem State.rmaCheck_memOk (key off n write) : (s.rmaCheck key off n write).1.memOk = true := by
  grind [State.rmaCheck, !← State.rmaPieces_memOk]
@[simp] theorem State.rmaWrite_memOk (l bs) : (s.rmaWrite l bs).memOk = true := by
  grind [State.rmaWrite, foldl_fst_memOk, !← State.writePlace_memOk, !← State.poisonCheck_memOk]
@[simp] theorem State.romWrite_memOk (key off data) : (s.romWrite key off data).memOk = true := by
  grind [State.romWrite, State.memOk, Memory.wf_write, !← State.regStore_memOk]
@[simp] theorem execInboundRmaWrite_memOk (w off data) : (execInboundRmaWrite w off data s).memOk := by
  grind [execInboundRmaWrite, State.memOk, Outcome.memOk, !← State.emit_memOk, !← State.romWrite_memOk, !← State.rmaCheck_memOk, !←
    State.rmaWrite_memOk]
@[simp] theorem execInboundRmaRead_memOk (key off len) : (execInboundRmaRead key off len s).memOk := by
  grind [execInboundRmaRead, State.memOk, Outcome.memOk, !← State.emit_memOk, !← State.rmaCheck_memOk]
@[simp] theorem execUeUnsupportedRequest_memOk : (execUeUnsupportedRequest s).memOk := h
@[simp] theorem execUeContextAbandoned_memOk (port window code) : (execUeContextAbandoned port window code s).memOk := by
  grind [execUeContextAbandoned, State.memOk, Outcome.memOk, foldl_memOk, !← State.event_memOk, !← State.giveUp_memOk]
@[simp] theorem execHostWindowRmaResponse_memOk (tag body) : (execHostWindowRmaResponse tag body s).memOk := by
  unfold execHostWindowRmaResponse; (repeat' split) <;> simp [h]

/-! ## LinkSteps -/
@[simp] theorem State.setUlstat_memOk (die m v) : (s.setUlstat die m v).memOk = true := h
@[simp] theorem State.duplicates_memOk (l) : (s.duplicates l).memOk = true := by grind [State.duplicates, State.memOk, foldl_memOk]
@[simp] theorem State.resendFlits_memOk (die m) : (s.resendFlits die m).memOk = true := by
  grind [State.resendFlits, !← State.countN_memOk, !← State.setModule_memOk, !← State.duplicates_memOk, !← State.emit_memOk]
@[simp] theorem State.sendAgain_memOk (f) : (s.sendAgain f).memOk = true := h
@[simp] theorem State.moveFlits_memOk (die m) : (s.moveFlits die m).memOk = true := by
  grind [State.moveFlits, foldl_memOk, !← State.setModule_memOk, !← State.sendAgain_memOk]
@[simp] theorem State.cutLink_memOk (a b) : (s.cutLink a b).memOk = true := by
  grind [State.cutLink, State.memOk, foldl_memOk, !← State.giveUp_memOk]
@[simp] theorem State.failModule_memOk (die m lane) : (s.failModule die m lane).memOk = true := by
  grind [State.failModule, !← State.setUlstat_memOk, !← State.cutLink_memOk, !← State.event_memOk, !← State.moveFlits_memOk]
@[simp] theorem State.retrain_memOk (die m) : (s.retrain die m).memOk = true := by
  grind [State.retrain, !← State.failModule_memOk, !← State.count_memOk, !← State.setUlstat_memOk]
@[simp] theorem execFlitCrcFail_memOk (die m) : (execFlitCrcFail die m s).memOk := by
  grind [execFlitCrcFail, Outcome.memOk, !← State.count_memOk, !← State.retrain_memOk, !← State.setModule_memOk, !← State.emit_memOk]
@[simp] theorem execRetryRequest_memOk (die m) : (execRetryRequest die m s).memOk := by unfold execRetryRequest; split <;> simp [h]
@[simp] theorem execFlitAck_memOk (die m n) : (execFlitAck die m n s).memOk := by unfold execFlitAck; split <;> simp [h]
@[simp] theorem execReplayTimerExpiry_memOk (die m) : (execReplayTimerExpiry die m s).memOk := by
  unfold execReplayTimerExpiry; split <;> simp [h]
@[simp] theorem execRetrainComplete_memOk (die m bad) : (execRetrainComplete die m bad s).memOk := by
  grind [execRetrainComplete, Outcome.memOk, !← State.event_memOk, !← State.setUlstat_memOk, !← State.resendFlits_memOk, !←
    State.failModule_memOk]
@[simp] theorem State.setPortState_memOk (n st) : (s.setPortState n st).memOk = true := h
@[simp] theorem State.resend_memOk (o) : (s.resend o).memOk = true := by grind [State.resend, State.memOk, !← State.giveUp_memOk]
@[simp] theorem State.resendPlane_memOk (plane hit) : (s.resendPlane plane hit).memOk = true := by
  unfold State.resendPlane; simp_all [foldl_memOk]
@[simp] theorem State.setPort_memOk (p) : (s.setPort p).memOk = true := h
@[simp] theorem State.portFail_memOk (n same) : (s.portFail n same).memOk = true := by
  grind [State.portFail, !← State.setPort_memOk, !← State.event_memOk, !← State.setPortState_memOk, !← State.resendPlane_memOk]
@[simp] theorem execGrenderFlitFail_memOk (port) : (execGrenderFlitFail port s).memOk := by unfold execGrenderFlitFail; split <;> simp [h]
@[simp] theorem execGrenderAuthFail_memOk (port) : (execGrenderAuthFail port s).memOk := by
  grind [execGrenderAuthFail, Outcome.memOk, !← State.portFail_memOk, !← State.count_memOk]
@[simp] theorem execSwitchPortFailed_memOk (plane pkg) : (execSwitchPortFailed plane pkg s).memOk := by
  grind [execSwitchPortFailed, State.memOk, Outcome.memOk, !← State.resendPlane_memOk]
@[simp] theorem execKeyRotation_memOk (port) : (execKeyRotation port s).memOk := by unfold execKeyRotation; split <;> simp [h]
@[simp] theorem State.dropKeys_memOk : s.dropKeys.memOk = true := by unfold State.dropKeys; simp_all [foldl_memOk]
@[simp] theorem State.cxlPort_memOk (n) : (s.cxlPort n).memOk = true := by grind [State.cxlPort, !← State.devSet_memOk]
@[simp] theorem State.cxlPorts_memOk : s.cxlPorts.memOk = true := by unfold State.cxlPorts; (repeat' split) <;> simp_all [foldl_memOk]
@[simp] theorem execCxlPortFail_memOk (die port) : (execCxlPortFail die port s).memOk := by
  grind [execCxlPortFail, State.memOk, Outcome.memOk, !← State.event_memOk, !← State.devSet_memOk]

/-! ## Power -/
@[simp] theorem execUnitfenceFence_memOk (die u) : (execUnitfenceFence die u s).memOk := by unfold execUnitfenceFence; split <;> simp [h]
@[simp] theorem execMonctlClear_memOk (die n) : (execMonctlClear die n s).memOk := by unfold execMonctlClear; split <;> simp [h]
@[simp] theorem State.loseBlock_memOk (b) : (s.loseBlock b).memOk = true := by
  grind [State.loseBlock, foldl_memOk, !← State.dropGang_memOk, !← State.killCohort_memOk, !← State.finishKill_memOk]
@[simp] theorem State.loseControls_memOk (die) : (s.loseControls die).memOk = true := by
  grind [State.loseControls, State.memOk, foldl_memOk, !← State.dropGang_memOk]
@[simp] theorem State.loseRows_memOk (die) : (s.loseRows die).memOk = true := by
  grind [State.loseRows, State.memOk, foldl_memOk, !← State.subReply_memOk]
@[simp] theorem State.loseDie_memOk (die cause info) : (s.loseDie die cause info).memOk = true := by
  grind [State.loseDie, State.memOk, foldl_memOk, !← State.loseRows_memOk, !← State.loseControls_memOk, !← State.loseBlock_memOk, !←
    State.giveUp_memOk]
@[simp] theorem execDiePowerLoss_memOk (die) : (execDiePowerLoss die s).memOk := h
@[simp] theorem execDieWake_memOk (die) : (execDieWake die s).memOk := by
  grind [execDieWake, Outcome.memOk, foldl_memOk, !← State.setDie_memOk, !← State.event_memOk, !← State.emit_memOk, !← State.loseDie_memOk]
@[simp] theorem State.resetRegs_memOk (die) : (s.resetRegs die).memOk = true := h
@[simp] theorem State.retireTo_memOk (die) : (s.retireTo die).memOk = true := by
  grind [State.retireTo, State.memOk, foldl_memOk, !← State.giveUp_memOk]
@[simp] theorem execDieReset_memOk (die) : (execDieReset die s).memOk := by
  grind [execDieReset, State.memOk, Outcome.memOk, !← State.resetRegs_memOk, !← State.retireTo_memOk, !← State.loseDie_memOk, !←
    State.setDie_memOk, !← State.emit_memOk]
@[simp] theorem execJunctionOver100c_memOk (die) : (execJunctionOver100c die s).memOk := by
  grind [execJunctionOver100c, State.memOk, Outcome.memOk, !← State.setDie_memOk]
@[simp] theorem execJunctionBelow95c_memOk (die) : (execJunctionBelow95c die s).memOk := h
@[simp] theorem execJunctionOver115c_memOk : (execJunctionOver115c s).memOk := h

/-! ## Units -/
@[simp] theorem execRunStart_memOk (gid m) : (execRunStart gid m s).memOk := by unfold execRunStart; (repeat' split) <;> simp [h]
@[simp] theorem State.wakePast_memOk (g m n) : (s.wakePast g m n).memOk = true := h
@[simp] theorem State.wakePart_memOk (g m w) : (s.wakePart g m w).memOk = true := by unfold State.wakePart; split <;> simp [h]
@[simp] theorem State.wake_memOk (gid m) : (s.wake gid m).memOk = true := by unfold State.wake; (repeat' split) <;> simp [h]
@[simp] theorem execPartWake_memOk (gid m) : (execPartWake gid m s).memOk := by
  unfold execPartWake; simp_all [foldl_memOk]
@[simp] theorem State.retest_memOk (gid m) : (s.retest gid m).memOk = true := by unfold State.retest; (repeat' split) <;> simp [h]
@[simp] theorem execYieldTimeout_memOk (gid m) : (execYieldTimeout gid m s).memOk := by
  unfold execYieldTimeout; (repeat' split) <;> simp [h]
@[simp] theorem State.issuedOnce_memOk (gid) : (s.issuedOnce gid).memOk = true := h
@[simp] theorem execDrainSweepComplete_memOk (gid otherSent otherDone) : (execDrainSweepComplete gid otherSent otherDone s).memOk := by
  unfold execDrainSweepComplete; (repeat' split) <;> simp [h]
@[simp] theorem execWgtRefreshWindowStart_memOk (die bank) : (execWgtRefreshWindowStart die bank s).memOk := h
@[simp] theorem execWgtRefreshWindowEnd_memOk (die bank) : (execWgtRefreshWindowEnd die bank s).memOk := by
  unfold execWgtRefreshWindowEnd; split <;> simp [h]
@[simp] theorem State.sampleWaits_memOk (die) : (s.sampleWaits die).memOk = true := by
  unfold State.sampleWaits; simp_all [foldl_memOk]
@[simp] theorem execIdleTestStep_memOk (die u r) : (execIdleTestStep die u r s).memOk := by
  grind [execIdleTestStep, Outcome.memOk, !← State.passStep_memOk, !← State.sampleWaits_memOk, !← State.setDie_memOk]
@[simp] theorem execForcedPassStep_memOk (die u r) : (execForcedPassStep die u r s).memOk := by
  grind [execForcedPassStep, Outcome.memOk, !← State.passStep_memOk, !← State.sampleWaits_memOk, !← State.setDie_memOk]
@[simp] theorem State.unscrubbed_memOk (arr die granule) : (s.unscrubbed arr die granule).memOk = true := by
  have hpoison (l) : ({ s with poison := l } : State).memOk = true := h
  unfold State.unscrubbed
  split
  · split <;> simp [h]
  · split
    · split <;> simp [h]
    · exact h
  · split
    · exact h
    · exact hpoison _
@[simp] theorem execScrubRead_memOk (arr die granule r) : (execScrubRead arr die granule r s).memOk := by
  have hpoison {t : State} (ht : t.memOk = true) (l) : ({ t with poison := l } : State).memOk = true := ht
  unfold execScrubRead
  split
  · exact h
  · simp [h]
  · simp [h]
  · simp [h]
  · extract_lets addr t
    have ht : t.memOk = true := State.event_memOk h ..
    clear_value t
    split
    · exact ht
    · exact hpoison ht _
@[simp] theorem execMonitorInterval_memOk (die n) : (execMonitorInterval die n s).memOk := by
  grind [execMonitorInterval, Outcome.memOk, !← State.setMonitor_memOk]
@[simp] theorem State.completeGrids_memOk : s.completeGrids.memOk = true := by
  unfold State.completeGrids; simp_all [foldl_memOk]
@[simp] theorem State.writeHeld_memOk : s.writeHeld.memOk = true := by
  grind [State.writeHeld, State.memOk, foldl_memOk, !← State.deviceWrite_memOk]
@[simp] theorem State.mergeHeld_memOk : s.mergeHeld.memOk = true := by
  grind [State.mergeHeld, State.memOk, foldl_memOk, !← State.sweepRemote_memOk, !← State.mergeNext_memOk]
@[simp] theorem State.resumeHeld_memOk : s.resumeHeld.memOk = true := by
  grind [State.resumeHeld, foldl_memOk, !← State.mergeHeld_memOk, !← State.writeHeld_memOk, !← State.completeGrids_memOk, !←
    State.barrierSweep_memOk]
@[simp] theorem State.migrationStep_memOk (m) : (s.migrationStep m).memOk = true := by
  unfold State.migrationStep; (repeat' split) <;> simp [h]
@[simp] theorem execMigrationComplete_memOk (n) : (execMigrationComplete n s).memOk := by
  grind [execMigrationComplete, State.memOk, Outcome.memOk, !← State.migrationStep_memOk]
@[simp] theorem execMigrationAbandon_memOk (n cause) : (execMigrationAbandon n cause s).memOk := by
  unfold execMigrationAbandon; split <;> simp [h]
@[simp] theorem State.passOver_memOk (die) : (s.passOver die).memOk = true := by unfold State.passOver; (repeat' split) <;> simp [h]
@[simp] theorem execP4StarvationGrant_memOk (die) : (execP4StarvationGrant die s).memOk := by
  grind [execP4StarvationGrant, State.memOk, Outcome.memOk, !← State.setDie_memOk, !← State.migrationStep_memOk]

/-! ## Determ -/
@[simp] theorem State.retestPart_memOk (gid m) : (s.retestPart gid m).memOk = true := by
  unfold State.retestPart; (repeat' split) <;> simp [h]
@[simp] theorem State.joinRound_memOk (gid n) : (s.joinRound gid n).memOk = true := by
  unfold State.joinRound; (repeat' split) <;> simp_all [foldl_memOk]
@[simp] theorem execRoundStart_memOk (hd) : (execRoundStart hd s).memOk := by
  unfold execRoundStart; (repeat' split) <;> simp_all [foldl_memOk]
@[simp] theorem execQuantumCountExpiry_memOk (gid) : (execQuantumCountExpiry gid s).memOk := by
  unfold execQuantumCountExpiry; (repeat' split) <;> simp [h]
@[simp] theorem execCommitPhaseStart_memOk (hd) : (execCommitPhaseStart hd s).memOk := by
  unfold execCommitPhaseStart; (repeat' split) <;> simp [h]
@[simp] theorem State.slotAccess_memOk (gid k space addr n lane lanes op u) : (s.slotAccess gid k space addr n lane lanes op u).1.memOk = true := by
  grind [State.slotAccess, !← State.issuedLocate_memOk, !← State.sendAccess_memOk, !← State.performAt_memOk, !← State.slotRace_memOk]
/-- Accesses made in a commit slot one after another. -/
theorem slotAll_memOk {l : List (State → State × SlotRes)} (hl : ∀ f ∈ l, ∀ t, t.memOk = true → (f t).1.memOk = true) :
    (slotAll s l).1.memOk = true := by
  suffices hall : ∀ st : State × SlotRes, st.1.memOk = true → (l.foldl (fun (st : State × SlotRes) f => match st.2 with
      | .ok => f st.1
      | .sent => match f st.1 with
        | (s, .ok) => (s, .sent)
        | r => r
      | _ => st) st).1.memOk = true from hall (s, .ok) h
  induction l with
  | nil => exact fun st hs => hs
  | cons f l ih =>
    intro st hs
    refine ih (fun f' hf' => hl f' (List.mem_cons_of_mem _ hf')) _ ?_
    have hf := hl f List.mem_cons_self st.1 hs
    beta_reduce
    split
    · exact hf
    · split <;> simp_all
    · exact hs
@[simp] theorem State.slotGauge_memOk (gid e) : (s.slotGauge gid e).1.memOk = true := by
  unfold State.slotGauge
  extract_lets addr seq src draws sc lanes
  have hl := State.locateGauge_memOk h gid e.space addr 2
  split
  next t f hr => exact (hr ▸ hl :)
  next t w hr => exact (hr ▸ hl :)
  next t q g hr _ =>
    replace hl : t.memOk = true := (hr ▸ hl :)
    extract_lets add
    have hadd {u : State} (hu : u.memOk = true) (n) : (add u n).1.memOk = true := by
      have hg := State.gaugeAt_memOk hu g e.lane 0 e.space addr q e.op n draws (u.slotSync gid e true)
      unfold add
      split
      · exact State.sendAccess_memOk hu ..
      · split <;> simp_all
    clear_value add
    split
    · exact hadd hl _
    have hs := State.locateGauge_memOk hl gid e.space src 4
    split
    next u f hr => exact (hr ▸ hs :)
    next u w hr => exact (hr ▸ hs :)
    next u sq hr =>
      replace hs : u.memOk = true := (hr ▸ hs :)
      split
      · exact State.sendAccess_memOk hs ..
      have hg := State.gaugeSource_memOk hs g e.lane 0 e.space src sq (u.slotSync gid e true)
      split
      · simp_all
      next v bs race hr => exact hadd (State.slotRace_memOk (hr ▸ hg :) ..) _
  next t l hr _ => exact (hr ▸ hl :)
@[simp] theorem State.slotEntry_memOk (gid e) : (s.slotEntry gid e).1.memOk = true := by
  unfold State.slotEntry
  simp only
  split
  · refine slotAll_memOk h fun f hf t ht => ?_
    obtain ⟨r, -, rfl⟩ := List.mem_map.1 hf
    exact State.slotAccess_memOk ht ..
  · refine slotAll_memOk h fun f hf t ht => ?_
    obtain ⟨r, -, rfl⟩ := List.mem_map.1 hf
    exact State.slotAccess_memOk ht ..
  · refine slotAll_memOk h fun f hf t ht => ?_
    obtain ⟨r, -, rfl⟩ := List.mem_map.1 hf
    exact State.slotAccess_memOk ht ..
  · exact State.slotGauge_memOk h ..
  · exact State.slotAccess_memOk h ..
  · have ha := State.arriveBarrier_memOk h gid e.op e.fmt (ofLeBytes (e.bytes.take 4))
    split <;> simp_all
  · exact h
@[simp] theorem State.entryOrder_memOk (gid e r) : (s.entryOrder gid e r).memOk = true := by
  unfold State.entryOrder; (repeat' split) <;> simp [h]
@[simp] theorem State.slotTrap_memOk (gid e r) : (s.slotTrap gid e r).memOk = true := by
  cases r with
  | fault f lanes => exact State.slotFault_memOk h ..
  | plain c i => simp only [State.slotTrap]; split <;> simp [h]
  | _ => exact h
@[simp] theorem State.setQbuf_memOk (gid l) : (s.setQbuf gid l).memOk = true := by unfold State.setQbuf; split <;> simp [h]
@[simp] theorem State.slotRemote_memOk (gid) : (s.slotRemote gid).memOk = true := h
@[simp] theorem State.slotEntries_memOk (p sh) (l : List QEntry) : (State.slotEntries p sh l s).1.memOk = true := by
  induction l generalizing s with
  | nil => exact h
  | cons e l ih =>
    unfold State.slotEntries
    split
    · exact h
    have he := State.slotEntry_memOk h p e
    split
    next t hr => rw [hr] at he; exact he
    next t r _ hr =>
      rw [hr] at he
      replace he : t.memOk = true := he
      split
      · exact State.slotTrap_memOk he ..
      extract_lets q u v w
      have hq : q.1.memOk = true := by
        unfold q
        split
        · split <;> simp [he]
        · exact he
      have hu : u.memOk = true := State.entryOrder_memOk (State.setQbuf_memOk hq ..) ..
      have hv : v.memOk = true := by
        unfold v
        split
        · exact State.entryOrder_memOk (State.setQbuf_memOk hu ..) ..
        · exact hu
      have hw : w.memOk = true := by
        unfold w
        split
        · exact State.slotTrap_memOk hv ..
        · exact hv
      refine ite_fst_memOk hw ?_
      cases r with
      | sent => exact State.slotRemote_memOk hw _
      | _ => exact ih hw

@[simp] theorem State.slotAtomics_memOk (p sh) (l : List AEntry) : (State.slotAtomics p sh l s).1.memOk = true := by
  induction l generalizing s with
  | nil => exact h
  | cons e l ih =>
    unfold State.slotAtomics
    extract_lets one
    have hone {t : State} (ht : t.memOk = true) (gid) : (one t gid).1.memOk = true := State.slotAccess_memOk ht ..
    clear_value one
    split
    · exact h
    have he := hone h p
    split
    next t hr => rw [hr] at he; exact he
    next t r _ hr =>
      rw [hr] at he
      replace he : t.memOk = true := he
      split
      · exact State.slotTrap_memOk he ..
      extract_lets q u v
      have hq : q.1.memOk = true := by
        unfold q
        split
        · split
          · exact hone he _
          · exact he
        · exact he
      have hu : u.memOk = true := State.setAbuf_memOk hq ..
      have hv : v.memOk = true := by
        unfold v
        split
        · exact State.slotTrap_memOk (State.setAbuf_memOk hu ..) ..
        · exact hu
      refine ite_fst_memOk hv ?_
      cases r with
      | sent => exact State.slotRemote_memOk hv _
      | _ => exact ih hv

@[simp] theorem State.clearEnded_memOk (gid) : (s.clearEnded gid).memOk = true := by unfold State.clearEnded; split <;> simp [h]
@[simp] theorem State.slotAtomic_memOk (gid w m idx) : (s.slotAtomic gid w m idx).1.memOk = true := by
  unfold State.slotAtomic
  split
  · exact h
  next g _ =>
  extract_lets las op r q t t'
  have hr : r.1.memOk = true := State.locateLanes_memOk h ..
  have hq : q.s.memOk = true := foldl_laneRun_memOk (fun _ p hs => LaneRun.step_memOk hs op w.space idx (atomicReq g w) (fun _ bs => bs) p) _ hr
  have ht : t.memOk = true := State.setGang_memOk hq _
  split
  · exact hr
  split
  · exact hr
  split
  · exact State.endAtomic_memOk ht ..
  · exact ht
theorem engineRun_memOk {i run} (hi : engineRun i = some run) (g k sl ws) : (run s g k sl ws).memOk := by
  unfold engineRun at hi
  split at hi <;> cases hi
  · exact copyRun_memOk h ..
  · exact copyRun_memOk h ..
  · exact gatherRun_memOk h ..
  · exact gatherRun_memOk h ..
  · exact mxaRun_memOk h ..
  · exact mxaSoloRun_memOk h ..
  · exact slotRun_memOk h ..
  · exact slotRun_memOk h ..
  · exact mxstRun_memOk h ..
  · exact epldRun_memOk h ..

@[simp] theorem State.slotEngine_memOk (gid words m shadow) : (s.slotEngine gid words m shadow).1.memOk = true := by
  unfold State.slotEngine
  split
  next i g _ _ =>
    split
    next run k sl hrun _ =>
      split
      · exact h
      have hr := engineRun_memOk h hrun g k sl words
      split
      next t ht =>
        replace hr : t.memOk = true := (ht ▸ hr :)
        simp only
        split
        · split <;> simp [hr]
        · simp [hr]
      next t ht => exact (ht ▸ hr :)
      next t ht => exact State.waitPart_memOk (ht ▸ hr :) ..
      next t ht => exact State.waitPart_memOk (ht ▸ hr :) ..
      next t w ht => exact (ht ▸ hr :)
    · exact h
  · exact h
@[simp] theorem State.slotHandle_memOk (gid sh words m) : (s.slotHandle gid sh words m).1.memOk = true := by
  unfold State.slotHandle
  split
  · split
    · split
      · exact State.takeTrap_memOk h ..
      next t ht =>
        have hgive := State.give_memOk h ht
        split
        · split
          next hu => exact State.give_memOk hgive hu
          · exact hgive
        · exact hgive
    · exact h
  · split
    · split
      · exact h
      · exact State.detach_memOk h ..
    · exact h
  · exact h
@[simp] theorem State.slotEnd_memOk (p sh q) : (s.slotEnd p sh q).1.memOk = true := by
  cases q with
  | plain => exact h
  | atomic w m idx words =>
    have ha := State.slotAtomic_memOk h p w m idx
    unfold State.slotEnd
    simp only
    split
    next t hr =>
      rw [hr] at ha
      split
      · exact ite_fst_memOk (State.slotAtomic_memOk ha ..) ha
      · exact ha
    · exact ha
  | engine words m =>
    have hp := State.slotEngine_memOk h p words m false
    unfold State.slotEnd
    simp only
    split
    · exact hp
    next x =>
      have hx := State.slotEngine_memOk h x words m true
      split
      next t hr => exact (hr ▸ hx :)
      all_goals
        split
        next t hr => exact State.slotEngine_memOk (hr ▸ hp :) ..
        · exact hp
  | handle words m => exact State.slotHandle_memOk h ..
  | exit =>
    have hgo {t : State} (ht : t.memOk = true) (gid) :
        (match t.gang? gid with | some g => if g.exited then t else t.exitStep g | none => t).memOk = true := by
      (repeat' split) <;> simp [ht]
    refine ite_fst_memOk h ?_
    cases sh with
    | none => exact hgo h p
    | some x => exact hgo (hgo h p) x
@[simp] theorem State.mismatch_memOk (p q) : (s.mismatch p q).memOk = true := by
  grind [State.mismatch, !← State.takeTrap_memOk, !← State.setGrid_memOk, !← State.event_memOk, !← State.count_memOk]
@[simp] theorem State.markSlot_memOk (gid) : (s.markSlot gid).memOk = true := by unfold State.markSlot; split <;> simp [h]
@[simp] theorem State.slotSteps_memOk (p sh) : (s.slotSteps p sh).1.memOk = true := by
  grind [State.slotSteps, !← State.slotEntries_memOk, !← State.slotAtomics_memOk, !← State.slotEnd_memOk]
@[simp] theorem State.closeSlot_memOk (p sh) : (s.closeSlot p sh).memOk = true := by
  have hclear {t : State} (ht : t.memOk = true) (q) : ((t.clearEnded q).crewSlot q).memOk = true :=
    State.crewSlot_memOk (State.clearEnded_memOk ht _) _
  unfold State.closeSlot
  cases sh with
  | none => exact State.markSlot_memOk (hclear h _) _
  | some q => exact State.markSlot_memOk (hclear (hclear h _) _) _
omit h in
/-- The answer of a commit slot, by how its steps ended. -/
theorem commitAnswer_memOk {r : State × SlotFlow} (hr : r.1.memOk = true) (gid sh) : Outcome.memOk (match r with
    | (s, .on) => .next (s.closeSlot gid sh)
    | (s, .later) => .next s
    | (s, .trapped) => .next (s.markSlot gid)) := by
  obtain ⟨t, go⟩ := r
  cases go with
  | on => exact State.closeSlot_memOk hr ..
  | later => exact hr
  | trapped => exact State.markSlot_memOk hr _

omit h in
/-- A choice between two answers. -/
theorem Outcome.memOk_ite (c : Prop) [Decidable c] {a b : Outcome} (ha : Outcome.memOk a) (hb : Outcome.memOk b) :
    Outcome.memOk (if c then a else b) := by
  split <;> assumption

@[simp] theorem execCommitSlot_memOk (gid) : (execCommitSlot gid s).memOk := by
  unfold execCommitSlot
  split
  · exact h
  split
  · exact h
  split
  · exact h
  simp only
  refine Outcome.memOk_ite _ (State.markSlot_memOk h _) ?_
  generalize (s.shadowOf gid).bind s.gang? = pair
  cases pair with
  | none => exact commitAnswer_memOk (State.slotSteps_memOk h ..) gid none
  | some q =>
    have ht : (s.sampleAll (s.gangDie gid) 6 (Config.latency s.clock)).memOk = true := State.sampleAll_memOk h ..
    simp only [Option.isSome_some, if_true]
    split
    · exact State.mismatch_memOk ht ..
    · exact commitAnswer_memOk (State.slotSteps_memOk ht ..) gid _

/-! ## Image -/
@[simp] theorem State.pageWrite_memOk (g addr bs) : (s.pageWrite g addr bs).1.memOk = true := by
  refine foldl_fst_memOk (fun st p hs => ?_) _ h
  simp only
  have hl := State.locate_memOk hs g .store 0 p.1 16
  split
  · split
    · split <;> exact hs
    · split
      · simp_all
      · simp_all
      next t q hr =>
        rw [hr] at hl
        have ht : t.memOk = true := hl
        split
        · simp only
          split <;> simp [ht]
        · have hp := State.poisonCheck_memOk ht q p.2 true
          split <;> simp_all
  · exact hs
@[simp] theorem State.setSaver_memOk (l g) : (s.setSaver l g).memOk = true := by
  grind [State.setSaver, foldl_memOk, !← State.setBlock_memOk]
@[simp] theorem State.saveBlock_memOk (b) : (s.saveBlock b).memOk = true := h
@[simp] theorem execCtxsv_memOk (x) : (execCtxsv x s).memOk := by
  refine supervisor_memOk h _ fun g m i sl => ?_
  split
  · simp [h]
  next gr idx _ =>
  extract_lets l addr mine all ended r
  have hr : r.1.memOk = true := by
    refine foldl_fst_memOk (fun st q hs => ?_) l h
    split
    · exact State.pageWrite_memOk hs ..
    · exact hs
  clear_value r
  split
  · simp [h]
  split
  · simp [h]
  split
  · simp [h]
  obtain ⟨t, e⟩ := r
  have ht : t.memOk = true := hr
  cases e with
  | fault f => exact State.dropFetched_memOk (State.trapAccess_memOk (State.setSaver_memOk ht ..) ..) _
  | ok bs =>
    refine State.passIssuer_memOk ?_ ..
    split
    · exact State.tryComplete_memOk (State.setSaver_memOk ht ..) _
    · exact foldl_memOk (fun _ _ hs => State.saveBlock_memOk hs _) _ ht
  | _ => exact State.waitPart_memOk ht ..
@[simp] theorem State.loadBlock_memOk (g b img) : (s.loadBlock g b img).memOk = true := by
  grind [State.loadBlock, State.memOk, foldl_memOk, Memory.wf_write, !← State.setBlock_memOk, !← State.setGang_memOk, !←
    State.setGrid_memOk, !← State.setCohort_memOk]
@[simp] theorem State.startLoaded_memOk (g i) : (s.startLoaded g i).memOk = true := by
  grind [State.startLoaded, foldl_memOk, !← State.runLoaded_memOk, !← State.spanLoaded_memOk, !← State.tell_memOk]
@[simp] theorem State.readImage_memOk (g r addr) : (s.readImage g r addr).1.memOk = true := by
  grind [State.readImage, !← State.pageRead_memOk]
@[simp] theorem State.readImages_memOk (g gr addr) (l : List Block) : (s.readImages g gr addr l).1.memOk = true := by
  induction l generalizing s addr with
  | nil => exact h
  | cons b l ih =>
    have hr := State.readImage_memOk h g gr.record addr
    unfold State.readImages
    split <;> simp_all
@[simp] theorem execCtxld_memOk (x) : (execCtxld x s).memOk := by
  refine supervisor_memOk h _ fun g m i sl => ?_
  split
  · simp [h]
  next gr idx _ =>
  extract_lets l addr all
  split
  · simp [h]
  split
  · simp [h]
  split
  · simp [h]
  have hr := State.readImages_memOk h g.id gr addr l
  split
  next t f imgs ht => exact State.dropFetched_memOk (State.trapAccess_memOk (ht ▸ hr :) ..) _
  next t bs imgs ht =>
    replace hr : t.memOk = true := (ht ▸ hr :)
    split
    · simp [hr]
    · exact State.passIssuer_memOk (State.startLoaded_memOk (foldl_memOk (fun _ _ hs => State.loadBlock_memOk hs ..) _ hr) ..) ..
  next t e imgs ht => exact State.waitPart_memOk (ht ▸ hr :) ..

/-! ## LaneCross -/
@[simp] theorem laneCross_memOk (w names reads f) : (laneCross s w names reads f).memOk := by simp [laneCross, h]

/-! ## LaneInt -/
@[simp] theorem intMap1_memOk (w f) : (intMap1 s w f).memOk := by simp [intMap1, h]
@[simp] theorem intMap2_memOk (w f) : (intMap2 s w f).memOk := by simp [intMap2, h]
@[simp] theorem intExact2_memOk (w f) : (intExact2 s w f).memOk := by simp [intExact2, h]
@[simp] theorem bitMap2_memOk (w f) : (bitMap2 s w f).memOk := by simp [bitMap2, h]
@[simp] theorem bitMap3_memOk (w f old) : (bitMap3 s w f old).memOk := by simp [bitMap3, h]

/-! ## Pft -/
@[simp] theorem hint_memOk (gd) {k : State → Gang → Slice → State} (hk : ∀ t g sl, t.memOk = true → (k t g sl).memOk = true) :
    (hint s gd k).memOk := by
  grind [hint, !← withScalar_memOk, !← State.trapScalar_memOk, !← State.passPart_memOk]
@[simp] theorem execPftPromote_memOk (gd a) : (execPftPromote gd a s).memOk := by
  grind [execPftPromote, !← hint_memOk, !← State.promote_memOk]
@[simp] theorem execPftDemote_memOk (gd a) : (execPftDemote gd a s).memOk := by
  grind [execPftDemote, !← hint_memOk, !← State.demote_memOk]

/-! ## ScalarAlu -/
@[simp] theorem scalarAlu_memOk (gd f) : (scalarAlu s gd f).memOk := by simp [scalarAlu, h]
@[simp] theorem aluReg_memOk (x f) : (aluReg s x f).memOk := by simp [aluReg, h]
@[simp] theorem aluUn_memOk (x f) : (aluUn s x f).memOk := by simp [aluUn, h]
@[simp] theorem aluImm_memOk (x y f) : (aluImm s x y f).memOk := by simp [aluImm, h]
@[simp] theorem qBin_memOk (x f) : (qBin s x f).memOk := by simp [qBin, h]

/-! ## ScalarFlow -/
@[simp] theorem execLoop_memOk (gd a n) : (execLoop gd a n s).memOk := by
  grind [execLoop, !← withScalar_memOk, !← State.trapSlice_memOk, !← State.setGang_memOk]
@[simp] theorem execExit_memOk (gd) : (execExit gd s).memOk := by
  grind [execExit, !← withScalar_memOk, !← State.waitPart_memOk, !← State.setGang_memOk]
@[simp] theorem execRegang_memOk (gd mask) : (execRegang gd mask s).memOk := by
  grind [execRegang, !← withScalar_memOk, !← State.trapSlice_memOk, !← State.waitPart_memOk, !← State.setGang_memOk]

/-! ## Special -/
@[simp] theorem State.writeSpecial_memOk (g n v hi) : (s.writeSpecial g n v hi).1.memOk = true := by
  unfold State.writeSpecial
  extract_lets header sat
  have hheader (off bs) : (header off bs).memOk = true := by
    obtain ⟨hmem, hls, hwgt⟩ := (State.memOk_iff s).1 h
    unfold header
    split
    · exact (State.memOk_iff _).2 ⟨hmem, Memory.wf_write hls .., hwgt⟩
    · exact h
  split
  · exact hheader ..
  · exact hheader ..
  · exact hheader ..
  · exact h
  · exact h
  · exact h
  · exact h
@[simp] theorem execSwr_memOk (gd a r) : (execSwr gd a r s).memOk := by
  grind [execSwr, !← withScalar_memOk, !← State.trapSlice_memOk, !← State.writeSpecial_memOk, !← State.setGang_memOk]

/-! ## Dispatch -/
/-- Every instruction's arm has its lemma above; the arms listed here are one use of a shared operation that has one. -/
theorem exec_memOk (i : Instr) : Outcome.memOk (exec i s) := by
  cases i <;> simp [exec, h,
    execFadd, execFsub, execFmul, execFfma, execFmin, execFmax, execFrcp, execFrsq, execFsqrt, execFex2, execFlg2, execFsin,
    execFcos, execFrnd, execFcmp, execFcls, execFcvt, execF2i, execI2f, execGinc, execGmrg, execGclr, execGrd, execBarc,
    execLds, execSts, execLdp, execLmaskReg, execLmaskImm, execTrap, execBkpt, execWait, execMwait, execFence, execEact,
    execEmul, execEadd, execEmax, execEcvt, execEnop, execSpanReserveRequest, execSpanReserveAnswer, execSpanCommit,
    execPowerOn, execBootcmdWrite, execSbverifyWrite, execSbverifyDone, execAttreqWrite, execAttestationReportDone,
    execCcstartWrite, execTlbinvWrite, execTlbInvalidationComplete, execTestreqWrite, execUnitfenceLift, execRegisterWrite,
    execRetconsWrite, execMgmtRefresh, execWatchRetest, execStampReread, execWalkComplete, execVshf, execVbal, execVred,
    execVscn, execVbcs, execKand, execKor, execKxor, execKnot, execVadd, execVsub, execVmul, execVmulh, execVmad, execVabs,
    execVneg, execVmin, execVmax, execVand, execVor, execVxor, execVnot, execVshl, execVshr, execVsra, execVrot, execVclz,
    execVpopc, execVbfx, execVbfi, execVprm, execVdot4, execVcmp, execVsel, execVmov, execVli, execPftL2, execAdd, execSub,
    execMul, execMulh, execMulhn, execAnd, execOr, execXor, execAndn, execShl, execShr, execSra, execMin, execMax, execMinn,
    execMaxn, execClz, execPopc, execMov, execAddImm, execSubImm, execMulImm, execAndImm, execOrImm, execXorImm, execShlImm,
    execShrImm, execSraImm, execMinImm, execMaxImm, execMinnImm, execMaxnImm, execCmpReg, execCmpImm, execQand, execQor,
    execQxor, execQnot, execSel, execLiImm, execLiLiteral, execBr, execCall, execBrq, execRet, execNop, execSrd,
    execCopy_memOk, execCopyr_memOk, execGath_memOk, execScad_memOk, execMxa_memOk, execMxaSolo_memOk, execMxz_memOk,
    execMxld_memOk, execMxst_memOk, execEpld_memOk]

/-! ## Sched -/
@[simp] theorem State.performParked_memOk (n) : (s.performParked n).memOk := by
  grind [State.performParked, State.memOk, Outcome.memOk, !← exec_memOk]
@[simp] theorem State.codeLeaf_memOk (g last va) : (s.codeLeaf g last va).1.memOk = true := by
  unfold State.codeLeaf; (repeat' split) <;> simp [h]
@[simp] theorem State.holdCode_memOk (g lane pa w) : (s.holdCode g lane pa w).memOk = true := h
@[simp] theorem State.codeRead_memOk (g stream l va) : (s.codeRead g stream l va).1.memOk = true := by
  grind [State.codeRead, !← State.sendAccess_memOk, !← State.poisonCheck_memOk, !← State.corrected_memOk, !← State.sendOver_memOk]
@[simp] theorem State.codeWord_memOk (g stream l va) : (s.codeWord g stream l va).1.memOk = true := by
  grind [State.codeWord, !← State.codeRead_memOk, !← State.holdCode_memOk]
@[simp] theorem State.fetchWords_memOk (g stream n last va) : (State.fetchWords g stream n last va s).1.memOk = true := by
  induction n generalizing s last va with
  | zero => exact h
  | succ n ih =>
    have hl := State.codeLeaf_memOk h g last va
    unfold State.fetchWords
    split
    · exact h
    split
    · simp_all
    · simp_all
    next t l hr =>
      rw [hr] at hl
      have hw := State.codeWord_memOk (s := t) hl g stream l va
      split
      next u w hr' =>
        rw [hr'] at hw
        have := ih (s := u) hw (some l) (va + 4)
        split <;> simp_all
      · simp_all
@[simp] theorem State.fetchScalar_memOk (g m pc) : (s.fetchScalar g m pc).1.memOk = true := by
  grind [State.fetchScalar, !← State.fetchWords_memOk]
@[simp] theorem State.fetchLane_memOk (g m idx) : (s.fetchLane g m idx).1.memOk = true := by simp [State.fetchLane, h]
@[simp] theorem State.atIssue_memOk (g who turn va ws) : (s.atIssue g who turn va ws).memOk = true := by
  grind [State.atIssue, State.memOk, !← State.setGang_memOk, !← State.setBlock_memOk, !← State.issuedOnce_memOk, !← State.passOver_memOk]
@[simp] theorem State.runScalar_memOk (g m va ws) : (s.runScalar g m va ws).memOk := by
  unfold State.runScalar
  split
  · exact exec_memOk (State.atIssue_memOk h ..) _
  · simp [h]
@[simp] theorem State.issueScalar_memOk (gid m) : (s.issueScalar gid m).memOk := by
  grind [State.issueScalar, Outcome.memOk, !← State.fetchScalar_memOk, !← State.runScalar_memOk, !← State.takeTrap_memOk, !←
    State.waitPart_memOk]
@[simp] theorem State.runLane_memOk (g m ws) : (s.runLane g m ws).memOk := by
  unfold State.runLane
  split
  · exact exec_memOk (State.atIssue_memOk h ..) _
  · simp [h]
@[simp] theorem State.issueLane_memOk (gid m) : (s.issueLane gid m).memOk := by
  grind [State.issueLane, State.memOk, Outcome.memOk, !← State.fetchLane_memOk, !← State.runLane_memOk, !← State.trapLane_memOk, !←
    State.waitLane_memOk]
/-- An instruction is taken to be issued. -/
theorem exec_issue_memOk (i : Instr) (who) : Outcome.memOk (exec i { s with issue := who }) := exec_memOk (s := { s with issue := who }) h i

@[simp] theorem State.issueEpilogue_memOk (op) : (s.issueEpilogue op).memOk := by
  unfold State.issueEpilogue
  split
  · exact h
  split
  · exact h
  split
  · exact exec_issue_memOk h ..
  · exact State.trapPlain_memOk h ..
@[simp] theorem State.perform_memOk (c) : (s.perform c).memOk := by
  have hinput (i l) : Outcome.memOk (exec i { s with inputs := l, issue := ⟨.none, []⟩ }) :=
    exec_memOk (s := { s with inputs := l, issue := ⟨.none, []⟩ }) h i
  cases c with
  | input =>
    unfold State.perform
    simp only
    split
    · exact h
    · exact hinput ..
  | event i => exact exec_issue_memOk h i _
  | parked n => exact State.performParked_memOk h _
  | ready g lane m => exact State.markReady_memOk h ..
  | scalar g m => exact State.issueScalar_memOk h ..
  | lane g m => exact State.issueLane_memOk h ..
  | epilogue op => exact State.issueEpilogue_memOk h _
@[simp] theorem State.issuedStream_memOk (gid lane m) : (s.issuedStream gid lane m).memOk = true := by
  grind [State.issuedStream, State.memOk, !← State.setGang_memOk]
@[simp] theorem State.fencePreempt_memOk : s.fencePreempt.memOk = true := by
  grind [State.fencePreempt, foldl_memOk, !← State.preempt_memOk]
@[simp] theorem State.settled_memOk (c) : (s.settled c).memOk = true := by
  have hgo {t : State} (ht : t.memOk = true) : t.fencePreempt.finishTraps.launchFlights.dropKeys.cxlPorts.memOk = true :=
    State.cxlPorts_memOk (State.dropKeys_memOk (State.launchFlights_memOk (State.finishTraps_memOk (State.fencePreempt_memOk ht))))
  unfold State.settled
  cases c with
  | scalar g m => exact hgo (State.issuedStream_memOk h ..)
  | lane g m => exact hgo (State.issuedStream_memOk h ..)
  | _ => exact hgo h
@[simp] theorem State.run_memOk (c) : (s.run c).memOk := by
  grind [State.run, Outcome.memOk, !← State.perform_memOk, !← State.settled_memOk]
@[simp] theorem State.advance_memOk : s.advance.memOk := by unfold State.advance; split <;> simp [h]

/-! ## Step -/
theorem step_memOk : Outcome.memOk (step s) := State.advance_memOk (State.tick_memOk h)

end Sys2Proof.Machine
end

section
/-! CERTIFICATE. -/
set_option Elab.async false
namespace Sys2Proof.Proofs
open Sys2Proof Sys2Proof.Machine Sys2Proof.Claims

/-- Settles O60: memories change only through writes, clears, single bytes and filters, each of which keeps the canonical form
(`Memory.wf_write`, `Memory.wf_clear`, `Memory.wf_set`); the lemma of each model function carries that up to `step` and `exec`. -/
theorem memoryStaysCanonical : Obligations.MemoryStaysCanonical := by
  unfold Obligations.MemoryStaysCanonical
  refine ⟨fun s t h hs => ?_, fun s t i h hi => ?_⟩
  · exact (hs ▸ step_memOk h :)
  · exact (hi ▸ exec_memOk h i :)

end Sys2Proof.Proofs
end

section
/-! SUPPORT. Who issues, and what a part's instruction does to its gang: the rules that the statements about scalar instructions share. -/
set_option Elab.async false
namespace Sys2Proof.Machine
open Sys2Proof.Claims

/-! ## Executing slices -/

theorem mem_setBits {n v i : Nat} : i ∈ setBits n v ↔ i < n ∧ v.testBit i = true := by
  simp [setBits]

theorem mem_setBits_bits {m : BitVec 8} {i : Nat} : i ∈ setBits 8 m.toNat ↔ i < 8 ∧ m.getLsbD i = true := by
  rw [mem_setBits, BitVec.testBit_toNat]

theorem setBits_pairwise (n v : Nat) : (setBits n v).Pairwise (· < ·) := by
  unfold setBits
  exact List.Pairwise.filter _ List.pairwise_lt_range

theorem Gang.mem_guarded {g : Gang} {m : BitVec 8} {gd : Guard} {i : Nat} : i ∈ g.guarded m gd ↔ ∃ sl, Executes g m gd i sl := by
  unfold Gang.guarded Executes
  rw [List.mem_filter, mem_setBits_bits]
  cases g.slice? i <;> simp [and_assoc]

theorem Gang.guarded_pairwise (g : Gang) (m : BitVec 8) (gd : Guard) : (g.guarded m gd).Pairwise (· < ·) :=
  (setBits_pairwise 8 m.toNat).filter _

theorem Gang.guarded_eq_nil {g : Gang} {m : BitVec 8} {gd : Guard} : g.guarded m gd = [] ↔ ∀ i sl, ¬ Executes g m gd i sl := by
  simp [List.eq_nil_iff_forall_not_mem, Gang.mem_guarded]

theorem Gang.guarded_isEmpty {g : Gang} {m : BitVec 8} {gd : Guard} (h : ∃ i sl, Executes g m gd i sl) :
    (g.guarded m gd).isEmpty = false := by
  obtain ⟨i, sl, h⟩ := h
  exact List.isEmpty_eq_false_iff_exists_mem.2 ⟨i, Gang.mem_guarded.2 ⟨sl, h⟩⟩

/-- In a list in ascending order, the head is the member with none below it. -/
theorem head?_of_least {l : List Nat} (hl : l.Pairwise (· < ·)) {i : Nat} (hi : i ∈ l) (hmin : ∀ j, j < i → j ∉ l) : l.head? = some i := by
  cases l with
  | nil => simp at hi
  | cons a l =>
    rw [List.pairwise_cons] at hl
    rcases List.mem_cons.1 hi with rfl | hil
    · rfl
    · exact absurd List.mem_cons_self (hmin a (hl.1 i hil))

theorem getLast?_of_greatest {l : List Nat} (hl : l.Pairwise (· < ·)) {i : Nat} (hi : i ∈ l) (hmax : ∀ j, i < j → j ∉ l) :
    l.getLast? = some i := by
  induction l using List.reverseRecOn with
  | nil => simp at hi
  | append_singleton l a =>
    rw [List.getLast?_concat]
    rcases List.mem_append.1 hi with hil | ha
    · have hia : i < a := (List.pairwise_append.1 hl).2.2 i hil a (by simp)
      exact absurd (by simp) (hmax a hia)
    · rw [List.mem_singleton.1 ha]

theorem Gang.leader_eq {g : Gang} {m : BitVec 8} {gd : Guard} {i : Nat} {sl : Slice} (h : Leader g m gd i sl) :
    g.leader m gd = some (i, sl) := by
  obtain ⟨hx, hmin⟩ := h
  have hhead := head?_of_least (g.guarded_pairwise m gd) (Gang.mem_guarded.2 ⟨sl, hx⟩)
    (fun j hj hm => (Gang.mem_guarded.1 hm).elim fun sl' => hmin j sl' hj)
  obtain ⟨-, -, hsl, -⟩ := hx
  simp [Gang.leader, hhead, hsl]

/-- The executing slices of a part with their numbers, lowest first. -/
def Gang.executing (g : Gang) (m : BitVec 8) (gd : Guard) : List (Nat × Slice) :=
  (g.guarded m gd).filterMap fun i => (g.slice? i).map fun sl => (i, sl)

theorem Gang.mem_executing {g : Gang} {m : BitVec 8} {gd : Guard} {p : Nat × Slice} :
    p ∈ g.executing m gd ↔ Executes g m gd p.1 p.2 := by
  obtain ⟨i, sl⟩ := p
  simp only [Gang.executing, List.mem_filterMap, Gang.mem_guarded, Option.map_eq_some_iff, Prod.mk.injEq]
  constructor
  · rintro ⟨j, ⟨sl', hx⟩, sl'', hs, rfl, rfl⟩
    obtain ⟨h8, hm, hsl, hg⟩ := hx
    cases hsl.symm.trans hs
    exact ⟨h8, hm, hs, hg⟩
  · intro hx
    exact ⟨i, ⟨sl, hx⟩, sl, hx.2.2.1, rfl, rfl⟩

theorem Gang.executing_map_fst (g : Gang) (m : BitVec 8) (gd : Guard) : (g.executing m gd).map (·.1) = g.guarded m gd := by
  have hall : ∀ i ∈ g.guarded m gd, ((g.slice? i).map fun sl => (i, sl)).map (·.1) = some i := by
    intro i hi
    obtain ⟨sl, -, -, hsl, -⟩ := Gang.mem_guarded.1 hi
    simp [hsl]
  unfold Gang.executing
  rw [List.map_filterMap, List.filterMap_congr hall, List.filterMap_some]

theorem Gang.executing_pairwise (g : Gang) (m : BitVec 8) (gd : Guard) : (g.executing m gd).Pairwise fun p q => p.1 < q.1 := by
  rw [← List.pairwise_map, Gang.executing_map_fst]
  exact g.guarded_pairwise m gd

/-- The lowest executing slice for which `p` holds is the one that a search finds. -/
theorem Gang.find?_executing {g : Gang} {m : BitVec 8} {gd : Guard} {p : Slice → Prop} {b : Nat × Slice → Bool} {i : Nat}
    (hb : ∀ q ∈ g.executing m gd, b q = true ↔ p q.2) (h : LowestFailing g m gd p i) :
    ∃ sl, (g.executing m gd).find? b = some (i, sl) ∧ Executes g m gd i sl ∧ p sl := by
  obtain ⟨sl, hx, hp, hmin⟩ := h
  refine ⟨sl, ?_, hx, hp⟩
  have hmem : (i, sl) ∈ g.executing m gd := Gang.mem_executing.2 hx
  obtain ⟨as, cs, hl⟩ := List.append_of_mem hmem
  refine List.find?_eq_some_iff_append.2 ⟨(hb _ hmem).2 hp, as, cs, hl, fun q hq => ?_⟩
  have hqm : q ∈ g.executing m gd := by rw [hl]; exact List.mem_append_left _ hq
  have hlt : q.1 < i := by
    have hpw := g.executing_pairwise m gd
    rw [hl] at hpw
    exact (List.pairwise_append.1 hpw).2.2 q hq (i, sl) (by simp)
  simpa using mt (hb q hqm).1 (hmin q.1 q.2 hlt (Gang.mem_executing.1 hqm))

theorem Gang.find?_executing_none {g : Gang} {m : BitVec 8} {gd : Guard} {p : Slice → Prop} {b : Nat × Slice → Bool}
    (hb : ∀ q ∈ g.executing m gd, b q = true ↔ p q.2) (h : ∀ i sl, Executes g m gd i sl → ¬ p sl) : (g.executing m gd).find? b = none :=
  List.find?_eq_none.2 fun q hq => mt (hb q hq).1 (h q.1 q.2 (Gang.mem_executing.1 hq))

theorem Gang.getLast?_executing {g : Gang} {m : BitVec 8} {gd : Guard} {i : Nat} {sl : Slice} (h : HighestExecuting g m gd i sl) :
    (g.executing m gd).getLast? = some (i, sl) := by
  obtain ⟨hx, hmax⟩ := h
  have hlast := getLast?_of_greatest (g.guarded_pairwise m gd) (Gang.mem_guarded.2 ⟨sl, hx⟩)
    (fun j hj hm => (Gang.mem_guarded.1 hm).elim fun sl' => hmax j sl' hj)
  rw [← Gang.executing_map_fst, List.getLast?_map, Option.map_eq_some_iff] at hlast
  obtain ⟨q, hq, rfl⟩ := hlast
  obtain ⟨-, -, hsl, -⟩ := Gang.mem_executing.1 (List.mem_of_getLast? hq)
  obtain ⟨-, -, hsl', -⟩ := hx
  cases hsl.symm.trans hsl'
  exact hq

/-! ## The issuing part -/

theorem withScalar_at {s : State} {g : Gang} {m : BitVec 8} (h : ScalarAt s g m) (k : Gang → BitVec 8 → State) :
    withScalar s k = .next (k g m) :=
  withScalar_issue k h.1 h.2

theorem withLeader_at {s : State} {g : Gang} {m : BitVec 8} {gd : Guard} {i : Nat} {sl : Slice} (h : ScalarAt s g m)
    (hl : Leader g m gd i sl) (k : Gang → BitVec 8 → Nat → Slice → State) : withLeader s gd k = .next (k g m i sl) := by
  rw [withLeader, withScalar_at h, Gang.leader_eq hl]

theorem forPart_at {s : State} {g : Gang} {m : BitVec 8} {gd : Guard} (h : ScalarAt s g m) (hx : ∃ i sl, Executes g m gd i sl)
    (k : Gang → BitVec 8 → State) : forPart s gd k = .next (k g m) := by
  rw [forPart, withScalar_at h, Gang.guarded_isEmpty hx]
  rfl

/-! ## The parts that slices form -/

theorem mem_insertPart {q p : BitVec 8} {l : List (BitVec 8)} : q ∈ insertPart p l ↔ q = p ∨ q ∈ l := by
  induction l with
  | nil => simp [insertPart]
  | cons a l ih =>
    unfold insertPart
    split
    · simp
    · simp only [List.mem_cons, ih]; tauto

theorem mem_foldl_insertPart {q : BitVec 8} (ps l : List (BitVec 8)) :
    q ∈ ps.foldl (fun l p => insertPart p l) l ↔ q ∈ ps ∨ q ∈ l := by
  induction ps generalizing l with
  | nil => simp
  | cons p ps ih => simp only [List.foldl_cons, ih, mem_insertPart, List.mem_cons]; tauto

theorem getLsbD_ofNat_two_pow {i j : Nat} (hj : j < 8) : (BitVec.ofNat 8 (2 ^ i)).getLsbD j = decide (i = j) := by
  rw [BitVec.getLsbD_ofNat, Nat.testBit_two_pow]
  simp [hj]

/-- The groups that slices form by their addresses: one for each address, holding the slices at it. -/
theorem groupByPc_spec (l : List (Nat × VAddr)) :
    ((groupByPc l).map (·.1)).Nodup ∧ (∀ pc, pc ∈ (groupByPc l).map (·.1) ↔ ∃ i, (i, pc) ∈ l) ∧
    ∀ e ∈ groupByPc l, ∀ j, j < 8 → (e.2.getLsbD j = true ↔ (j, e.1) ∈ l) := by
  induction l with
  | nil => simp [groupByPc]
  | cons a rest ih =>
    obtain ⟨i, pc⟩ := a
    obtain ⟨hnodup, hkeys, hbits⟩ := ih
    unfold groupByPc
    simp only
    split
    next p hp =>
      have hpmem := List.mem_of_find?_eq_some hp
      have hpc : p.1 = pc := by simpa using List.find?_some hp
      have hfilter : ((groupByPc rest).filter fun p => p.1 != pc).map (·.1) = ((groupByPc rest).map (·.1)).filter (· != pc) := by
        rw [List.filter_map]; rfl
      refine ⟨?_, fun pc' => ?_, fun e he j hj => ?_⟩
      · rw [List.map_cons, hfilter, List.nodup_cons]
        exact ⟨by simp, hnodup.filter _⟩
      · rw [List.map_cons, hfilter, List.mem_cons, List.mem_filter, hkeys]
        simp only [List.mem_cons, Prod.mk.injEq, bne_iff_ne, ne_eq]
        constructor
        · rintro (rfl | ⟨⟨i', h'⟩, -⟩)
          · exact ⟨i, .inl ⟨rfl, rfl⟩⟩
          · exact ⟨i', .inr h'⟩
        · rintro ⟨i', ⟨-, rfl⟩ | h'⟩
          · exact .inl rfl
          · by_cases hq : pc' = pc
            · exact .inl hq
            · exact .inr ⟨⟨i', h'⟩, hq⟩
      · rcases List.mem_cons.1 he with rfl | he
        · have hb := hbits p hpmem j hj
          rw [hpc] at hb
          simp only [BitVec.getLsbD_or, Bool.or_eq_true, hb, getLsbD_ofNat_two_pow hj, decide_eq_true_eq, List.mem_cons, Prod.mk.injEq, and_true]
          tauto
        · obtain ⟨he, hne⟩ := List.mem_filter.1 he
          rw [hbits e he j hj, List.mem_cons, Prod.mk.injEq]
          have : e.1 ≠ pc := by simpa using hne
          tauto
    next hp =>
      have hnew : pc ∉ (groupByPc rest).map (·.1) := by
        intro hmem
        obtain ⟨e, he, rfl⟩ := List.mem_map.1 hmem
        exact absurd (List.find?_eq_none.1 hp e he) (by simp)
      refine ⟨List.nodup_cons.2 ⟨hnew, hnodup⟩, fun pc' => ?_, fun e he j hj => ?_⟩
      · rw [List.map_cons, List.mem_cons, hkeys]
        simp only [List.mem_cons, Prod.mk.injEq]
        constructor
        · rintro (rfl | ⟨i', h'⟩)
          · exact ⟨i, .inl ⟨rfl, rfl⟩⟩
          · exact ⟨i', .inr h'⟩
        · rintro ⟨i', ⟨-, rfl⟩ | h'⟩
          · exact .inl rfl
          · exact .inr ⟨i', h'⟩
      · rcases List.mem_cons.1 he with rfl | he
        · have hno : (j, pc) ∉ rest := fun hm => hnew ((hkeys pc).2 ⟨j, hm⟩)
          simp only [getLsbD_ofNat_two_pow hj, decide_eq_true_eq, List.mem_cons, Prod.mk.injEq, and_true, hno, or_false]
          exact eq_comm
        · have hne : e.1 ≠ pc := fun h => hnew (h ▸ List.mem_map_of_mem he)
          rw [hbits e he j hj, List.mem_cons, Prod.mk.injEq]
          tauto

/-- A slice of the part that has not exited, at address `pc`. -/
def Gang.LiveAt (g : Gang) (m : BitVec 8) (i : Nat) (pc : VAddr) : Prop :=
  m.getLsbD i = true ∧ ∃ sl, g.slice? i = some sl ∧ sl.exited = false ∧ sl.pc = pc

theorem lt_of_bit {m : BitVec 8} {i : Nat} (h : m.getLsbD i = true) : i < 8 := BitVec.lt_of_getLsbD h

theorem Gang.mem_splits {g : Gang} {m p : BitVec 8} : p ∈ g.splits m ↔ ∃ pc, (∃ i, g.LiveAt m i pc) ∧ ∀ j, j < 8 → (p.getLsbD j = true ↔ g.LiveAt m j pc) := by
  have hlive (i : Nat) (pc : VAddr) : ((i, pc) ∈ (setBits 8 m.toNat).filterMap fun i => match g.slice? i with
      | some sl => if sl.exited then none else some (i, sl.pc)
      | none => none) ↔ g.LiveAt m i pc := by
    rw [List.mem_filterMap]
    constructor
    · rintro ⟨j, hj, he⟩
      have hm := (mem_setBits_bits.1 hj).2
      split at he
      next sl hsl =>
        split at he
        · cases he
        next hx => cases he; exact ⟨hm, sl, hsl, by simpa using hx, rfl⟩
      · cases he
    · rintro ⟨hm, sl, hsl, hx, rfl⟩
      exact ⟨i, mem_setBits_bits.2 ⟨lt_of_bit hm, hm⟩, by simp [hsl, hx]⟩
  unfold Gang.splits
  generalize ((setBits 8 m.toNat).filterMap fun i => match g.slice? i with
      | some sl => if sl.exited then none else some (i, sl.pc)
      | none => none) = l at hlive
  obtain ⟨-, hkeys, hbits⟩ := groupByPc_spec l
  simp only [List.mem_map]
  constructor
  · rintro ⟨e, he, rfl⟩
    refine ⟨e.1, ?_, fun j hj => (hbits e he j hj).trans (hlive j e.1)⟩
    obtain ⟨i, hi⟩ := (hkeys e.1).1 (List.mem_map_of_mem he)
    exact ⟨i, (hlive i e.1).1 hi⟩
  · rintro ⟨pc, ⟨i, hi⟩, hp⟩
    obtain ⟨e, he, rfl⟩ := List.mem_map.1 ((hkeys pc).2 ⟨i, (hlive i pc).2 hi⟩)
    refine ⟨e, he, BitVec.eq_of_getLsbD_eq fun j hj => ?_⟩
    rw [Bool.eq_iff_iff, hbits e he j hj, hlive, hp j hj]

theorem Gang.mem_settle_parts {g : Gang} {m p : BitVec 8} : p ∈ (g.settle m).parts ↔ p ∈ g.splits m ∨ p ∈ g.parts ∧ p ≠ m := by
  simp [Gang.settle, mem_foldl_insertPart]

theorem and_getLsbD_of_zero {p m : BitVec 8} (h : p &&& m = 0) {i : Nat} (hm : m.getLsbD i = true) : p.getLsbD i = false := by
  have := congrArg (·.getLsbD i) h
  simpa [hm] using this

/-- After a part's instruction its slices form parts as their addresses say, and the other parts are kept (R198). -/
theorem Gang.partsFollow_settle {g h : Gang} {m : BitVec 8} (hp : h.parts = g.parts) : PartsFollow g (h.settle m) m := by
  intro hdisj
  refine ⟨fun p hne hpm => ?_, fun i j sl sl' hi hj hsl hsl' hx hx' => ?_⟩
  · rw [Gang.mem_settle_parts, hp]
    constructor
    · rintro (hs | ⟨hmem, -⟩)
      · obtain ⟨pc, ⟨i, hi⟩, hbits⟩ := Gang.mem_splits.1 hs
        have hone := (hbits i (lt_of_bit hi.1)).2 hi
        rw [and_getLsbD_of_zero hpm hi.1] at hone
        cases hone
      · exact hmem
    · intro hmem
      refine .inr ⟨hmem, ?_⟩
      rintro rfl
      exact hne (by simpa using hpm)
  · have hi8 := lt_of_bit hi
    have hj8 := lt_of_bit hj
    constructor
    · rintro ⟨p, hmem, hpi, hpj⟩
      rcases Gang.mem_settle_parts.1 hmem with hs | ⟨hmem, hne⟩
      · obtain ⟨pc, -, hbits⟩ := Gang.mem_splits.1 hs
        obtain ⟨-, x, hxs, -, hxpc⟩ := (hbits i hi8).1 hpi
        obtain ⟨-, y, hys, -, hypc⟩ := (hbits j hj8).1 hpj
        cases hsl.symm.trans hxs
        cases hsl'.symm.trans hys
        rw [hxpc, hypc]
      · rcases hdisj p (hp ▸ hmem) with rfl | hz
        · exact absurd rfl hne
        · rw [and_getLsbD_of_zero hz hi] at hpi
          cases hpi
    · intro hpc
      have hlive : h.LiveAt m i sl.pc := ⟨hi, sl, hsl, hx, rfl⟩
      have hlive' : h.LiveAt m j sl.pc := ⟨hj, sl', hsl', hx', hpc.symm⟩
      have hbits (p : BitVec 8) (b : Nat → Bool) (hp : p = BitVec.ofFnLE fun k : Fin 8 => b k) (k : Nat) (hk : k < 8) : p.getLsbD k = b k := by
        subst hp; simp [hk]
      classical
      refine ⟨BitVec.ofFnLE fun k : Fin 8 => decide (h.LiveAt m k sl.pc), Gang.mem_settle_parts.2 (.inl (Gang.mem_splits.2 ⟨sl.pc, ⟨i, hlive⟩, fun k hk => ?_⟩)), ?_, ?_⟩
      · rw [hbits _ (fun k => decide (h.LiveAt m k sl.pc)) rfl k hk, decide_eq_true_eq]
      · rw [hbits _ (fun k => decide (h.LiveAt m k sl.pc)) rfl i hi8]; simpa using hlive
      · rw [hbits _ (fun k => decide (h.LiveAt m k sl.pc)) rfl j hj8]; simpa using hlive'

end Sys2Proof.Machine
end

section
/-! SUPPORT. What a scalar instruction leaves: the rules for a part that goes on, waits, or is changed in its slices. -/
set_option Elab.async false
namespace Sys2Proof.Machine
open Sys2Proof.Claims

/-! ## A gang put back in its place -/

theorem State.setGang_eq (s : State) (g : Gang) : s.setGang g = { s with gangs := (s.setGang g).gangs } := rfl

theorem onlyGang_setGang {s : State} {g g' : Gang} (hg : s.gang? g.id = some g) (hid : g'.id = g.id) : OnlyGang s (s.setGang g') g' :=
  ⟨rfl, State.gang?_setGang_same (hid ▸ hg), fun _ hk => State.gang?_setGang_other s hk⟩

theorem othersSame_setGang {s : State} {g' : Gang} {k : GangId} (hid : g'.id = k) : OthersSame s (s.setGang g') k :=
  fun _ hj => State.gang?_setGang_other s (hid ▸ hj)

theorem othersSame_of_gangs {s t : State} {k : GangId} (h : t.gangs = s.gangs) : OthersSame s t k := fun j _ => by
  unfold State.gang?; rw [h]

theorem othersSame_trans {s t u : State} {k : GangId} (h₁ : OthersSame s t k) (h₂ : OthersSame t u k) : OthersSame s u k :=
  fun j hj => (h₂ j hj).trans (h₁ j hj)

theorem othersSame_refl (s : State) (k : GangId) : OthersSame s s k := fun _ _ => rfl

theorem quiet_refl (s : State) : Quiet s s := ⟨rfl, rfl, rfl, rfl, rfl, rfl, rfl, rfl, rfl, rfl, rfl, rfl⟩

theorem quiet_trans {s t u : State} (h₁ : Quiet s t) (h₂ : Quiet t u) : Quiet s u := by
  obtain ⟨a1, a2, a3, a4, a5, a6, a7, a8, a9, a10, a11, a12⟩ := h₁
  obtain ⟨b1, b2, b3, b4, b5, b6, b7, b8, b9, b10, b11, b12⟩ := h₂
  exact ⟨b1.trans a1, b2.trans a2, b3.trans a3, b4.trans a4, b5.trans a5, b6.trans a6, b7.trans a7, b8.trans a8, b9.trans a9,
    b10.trans a10, b11.trans a11, b12.trans a12⟩

theorem quiet_setGang (s : State) (g : Gang) : Quiet s (s.setGang g) := quiet_refl s

/-! ## Slices changed in one part -/

@[simp] theorem Gang.mapPart_length (g : Gang) (m : BitVec 8) (f : Nat → Slice → Slice) :
    (g.mapPart m f).slices.length = g.slices.length := by
  simp [Gang.mapPart]

theorem partRuns_mapPart (g : Gang) (m : BitVec 8) (f : Nat → Slice → Slice) : PartRuns g (g.mapPart m f) m f :=
  ⟨rfl, Gang.mapPart_length .., fun i sl hsl => by rw [Gang.slice?_mapPart, hsl]; rfl⟩

theorem partRuns_runPart (g : Gang) (m : BitVec 8) (f : Nat → Slice → Slice) : PartRuns g (g.runPart m f) m f :=
  ⟨rfl, Gang.mapPart_length .., fun i sl hsl => by rw [Gang.slice?_runPart, hsl]; rfl⟩

theorem partsFollow_runPart (g : Gang) (m : BitVec 8) (f : Nat → Slice → Slice) : PartsFollow g (g.runPart m f) m :=
  Gang.partsFollow_settle rfl

/-- One change of a part's slices for another that does the same there. -/
theorem partRuns_congr {g g' : Gang} {m : BitVec 8} {f f' : Nat → Slice → Slice} (h : PartRuns g g' m f)
    (hf : ∀ i sl, m.getLsbD i = true → g.slice? i = some sl → f i sl = f' i sl) : PartRuns g g' m f' := by
  obtain ⟨heq, hlen, hsl⟩ := h
  refine ⟨heq, hlen, fun i sl hi => ?_⟩
  rw [hsl i sl hi]
  split
  next hm => rw [hf i sl hm hi]
  · rfl

theorem partRuns_id {g g' : Gang} {m : BitVec 8} {f : Nat → Slice → Slice} (h : PartRuns g g' m f) : g'.id = g.id := by
  rw [h.1]

/-- A change of a part's slices that is made after another one, which cleared or set their waits. -/
theorem partRuns_setWait_runPart (g : Gang) (m : BitVec 8) (w : Option Wait) (f : Nat → Slice → Slice) :
    PartRuns g ((g.setWait m w).runPart m f) m fun i sl => f i { sl with wait := w } := by
  refine ⟨rfl, by rw [(partRuns_runPart _ m f).2.1]; exact Gang.mapPart_length .., fun i sl hsl => ?_⟩
  rw [Gang.slice?_runPart, Gang.setWait, Gang.slice?_mapPart, hsl]
  by_cases hm : m.getLsbD i = true <;> simp [bit, hm]

theorem partRuns_setWait (g : Gang) (m : BitVec 8) (w : Wait) : PartRuns g (g.setWait m (some w)) m fun _ sl => waiting w sl :=
  partRuns_mapPart ..

/-! ## The part goes on -/

theorem runs_setGang {s : State} {g : Gang} {m : BitVec 8} (h : ScalarAt s g m) (f : Nat → Slice → Slice) :
    Runs s g m f (.next (s.setGang (g.runPart m f))) :=
  ⟨_, _, rfl, onlyGang_setGang h.2 rfl, partRuns_runPart .., partsFollow_runPart _ _ _⟩

theorem runs_passPart {s : State} {g : Gang} {m : BitVec 8} (h : ScalarAt s g m) :
    Runs s g m (fun _ sl => sl.advance s.issueSize) (.next (s.passPart g m)) :=
  runs_setGang h _

theorem runs_congr {s : State} {g : Gang} {m : BitVec 8} {f f' : Nat → Slice → Slice} {o : Outcome} (h : Runs s g m f o)
    (hf : ∀ i sl, m.getLsbD i = true → g.slice? i = some sl → f i sl = f' i sl) : Runs s g m f' o := by
  obtain ⟨t, g', ho, hone, hruns, hparts⟩ := h
  exact ⟨t, g', ho, hone, partRuns_congr hruns hf, hparts⟩

@[simp] theorem State.passPart_gang? {s : State} {g : Gang} (m : BitVec 8) (hg : ∃ x, s.gang? g.id = some x) :
    (s.passPart g m).gang? g.id = some (g.runPart m fun _ sl => sl.advance s.issueSize) :=
  hg.elim fun _ hx => State.gang?_setGang_same (g' := g.runPart m _) hx

theorem State.passPart_othersSame (s : State) (g : Gang) (m : BitVec 8) : OthersSame s (s.passPart g m) g.id := othersSame_setGang rfl

theorem State.passPart_quiet (s : State) (g : Gang) (m : BitVec 8) : Quiet s (s.passPart g m) := quiet_setGang ..

/-! ## Orders: acquire and release change the cohort's interval and the gang's -/

theorem State.setCohort_gang? (s : State) (c : Cohort) (k : GangId) : (s.setCohort c).gang? k = s.gang? k := rfl

/-- An acquire changes no gang but its own, in its acquired interval alone. -/
theorem State.acquire_spec {s : State} {g : Gang} (hg : s.gang? g.id = some g) :
    ∃ a, (s.acquire g.id).gang? g.id = some { g with acq := a } ∧ OthersSame s (s.acquire g.id) g.id ∧ Quiet s (s.acquire g.id) := by
  unfold State.acquire
  split
  next c x _ hx =>
    cases hg.symm.trans hx
    exact ⟨c.interval, State.gang?_setGang_same (g' := { g with acq := c.interval }) hg, othersSame_setGang rfl, quiet_setGang ..⟩
  · exact ⟨g.acq, hg, othersSame_refl _ _, quiet_refl _⟩

theorem State.bumpInterval_gang? (s : State) (k j : GangId) : (s.bumpInterval k).gang? j = s.gang? j := by
  unfold State.bumpInterval
  split <;> rfl

theorem State.bumpInterval_quiet (s : State) (k : GangId) : Quiet s (s.bumpInterval k) := by
  unfold State.bumpInterval
  split <;> exact quiet_refl _

/-- An order of an instruction changes no gang but the acquire of its own, and nothing that is seen from outside. -/
theorem State.orderDone_spec {s : State} {g : Gang} (hg : s.gang? g.id = some g) (order scope : Nat) :
    ∃ a, (s.orderDone g.id order scope).gang? g.id = some { g with acq := a } ∧ OthersSame s (s.orderDone g.id order scope) g.id ∧
      Quiet s (s.orderDone g.id order scope) := by
  have hbump : ∃ t, t = (if order ≥ 2 then s.bumpInterval g.id else s) ∧ t.gang? g.id = some g ∧ OthersSame s t g.id ∧ Quiet s t := by
    split
    · exact ⟨_, rfl, (State.bumpInterval_gang? ..).trans hg, fun j _ => State.bumpInterval_gang? s g.id j, State.bumpInterval_quiet ..⟩
    · exact ⟨_, rfl, hg, othersSame_refl _ _, quiet_refl _⟩
  obtain ⟨t, ht, htg, hto, htq⟩ := hbump
  unfold State.orderDone
  rw [← ht]
  split
  · exact ⟨g.acq, hg, othersSame_refl _ _, quiet_refl _⟩
  simp only
  split
  · obtain ⟨a, hag, hao, haq⟩ := State.acquire_spec htg
    exact ⟨a, hag, othersSame_trans hto hao, quiet_trans htq haq⟩
  · exact ⟨g.acq, htg, hto, htq⟩

/-- A part that goes on, and whose instruction then orders, passes with no other change than its gang's acquire. -/
theorem passPart_orderDone {s : State} {g h : Gang} (hg : s.gang? h.id = some g) (m : BitVec 8) (order scope : Nat) :
    ∃ a, ((s.passPart h m).orderDone h.id order scope).gang? h.id = some { h.runPart m (fun _ sl => sl.advance s.issueSize) with acq := a } ∧
      OthersSame s ((s.passPart h m).orderDone h.id order scope) h.id ∧ Quiet s ((s.passPart h m).orderDone h.id order scope) := by
  obtain ⟨a, hag, hao, haq⟩ := State.orderDone_spec (g := h.runPart m fun _ sl => sl.advance s.issueSize) (State.passPart_gang? m ⟨g, hg⟩) order scope
  exact ⟨a, hag, othersSame_trans (State.passPart_othersSame s h m) hao, quiet_trans (State.passPart_quiet s h m) haq⟩

theorem partRuns_withAcq {g g' : Gang} {m : BitVec 8} {f : Nat → Slice → Slice} (h : PartRuns g g' m f) (a : Nat) :
    PartRuns { g with acq := a } { g' with acq := a } m f := by
  obtain ⟨heq, hlen, hsl⟩ := h
  refine ⟨?_, hlen, hsl⟩
  conv_lhs => rw [heq]

theorem passesWith_orderDone {s : State} {g : Gang} (hg : s.gang? g.id = some g) (m : BitVec 8) (order scope : Nat) :
    PassesWith s g m id (.next ((s.passPart g m).orderDone g.id order scope)) := by
  obtain ⟨a, hga, ho, hq⟩ := passPart_orderDone hg m order scope
  exact ⟨_, _, rfl, hga, ho, hq, partRuns_withAcq (partRuns_runPart ..) a⟩

theorem Gang.laneIdle_iff {g : Gang} {m : BitVec 8} :
    g.laneIdle m = true ↔ ∀ i sl, m.getLsbD i = true → g.slice? i = some sl → sl.queue = [] ∧ sl.cur = none := by
  simp only [Gang.laneIdle, Gang.partSlices, List.all_eq_true, List.mem_filterMap, mem_setBits_bits, Slice.laneIdle, Bool.and_eq_true,
    List.isEmpty_iff, Option.isNone_iff_eq_none]
  exact ⟨fun h i sl hm hsl => h sl ⟨i, ⟨lt_of_bit hm, hm⟩, hsl⟩, fun h sl ⟨i, ⟨_, hm⟩, hsl⟩ => h i sl hm hsl⟩

theorem exists_leader {g : Gang} {m : BitVec 8} {gd : Guard} (h : ∃ i sl, Executes g m gd i sl) : ∃ i sl, Leader g m gd i sl := by
  classical
  have hex : ∃ i, ∃ sl, Executes g m gd i sl := h
  obtain ⟨sl, hsl⟩ := Nat.find_spec hex
  exact ⟨Nat.find hex, sl, hsl, fun j sl' hj hx => Nat.find_min hex hj ⟨sl', hx⟩⟩

/-- A part that goes on after a change of its gang's other fields. -/
theorem onlyGang_passPart {s : State} {g h : Gang} (hg : s.gang? g.id = some g) (hid : h.id = g.id) (m : BitVec 8) :
    OnlyGang s (s.passPart h m) (h.runPart m fun _ sl => sl.advance s.issueSize) :=
  onlyGang_setGang hg hid

end Sys2Proof.Machine
end

section
/-! CERTIFICATE. Sync words, special registers, counters, handles, DETACH, QEND and YIELD. -/
set_option Elab.async false
namespace Sys2Proof.Proofs
open Sys2Proof Sys2Proof.Machine Sys2Proof.Claims

/-- Settles O15: the three cases of `arriveWord` by where the count comes to lie. -/
theorem syncWordArrivals : Obligations.SyncWordArrivals := by
  unfold Obligations.SyncWordArrivals
  intro bs n _ hn target count gen
  have hn0 : n ≠ 0 := by omega
  refine ⟨fun h => ?_, fun h => ?_, fun h => ?_⟩
  · have h1 : ¬ (target = 0 || decide (count + n > target)) = true := by simp; omega
    have h2 : ¬ count + n = target := by omega
    simp only [arriveWord, hn0, if_false]
    rw [if_neg h1, if_neg h2]
  · have h1 : ¬ (target = 0 || decide (count + n > target)) = true := by simp; omega
    simp only [arriveWord, hn0, if_false]
    rw [if_neg h1, if_pos h]
  · have h1 : (target = 0 || decide (count + n > target)) = true := by simpa using h
    simp only [arriveWord, hn0, if_false]
    rw [if_pos h1]

/-- R81, R190, R290: WAITC's condition as the claim reads it. -/
theorem within_iff {g : Gang} {m : BitVec 8} {l st c t : BitVec 4} :
    g.within m l.toNat st.toNat c.toNat t.toNat = true ↔ (g.l ≤ l.toNat ∧ g.s ≤ st.toNat ∧ g.c ≤ c.toNat ∧ g.t ≤ t.toNat) ∧
      (l ≠ 0 ∧ st ≠ 0 ∨ g.laneIdle m = true) := by
  have h0 (x : BitVec 4) : x.toNat ≠ 0 ↔ x ≠ 0 := by
    rw [ne_eq, ne_eq, ← BitVec.toNat_inj]; rfl
  simp only [Gang.within, Bool.and_eq_true, Bool.or_eq_true, decide_eq_true_eq, bne_iff_ne, h0, and_assoc]

/-- Settles O17: WAITC by its condition, SEAL by the room for sealed batches. -/
theorem countersAndBatches : Obligations.CountersAndBatches := by
  unfold Obligations.CountersAndBatches
  intro s g m gd l sc c t hat hx hheld idle
  have hidle : g.laneIdle m = true ↔ idle :=
    Gang.laneIdle_iff.trans ⟨fun h i sl _ hm hsl => h i sl hm hsl, fun h i sl hm hsl => h i sl (lt_of_bit hm) hm hsl⟩
  have hwaitc : exec (.waitc gd l sc c t) s = .next (if g.within m l.toNat sc.toNat c.toNat t.toNat = true then s.passPart g m
      else s.waitPart g m (.counters l.toNat sc.toNat c.toNat t.toNat)) := by
    show execWaitc gd l sc c t s = _
    rw [execWaitc, forPart_at hat hx, if_neg hheld]
  obtain ⟨i, sl, hl⟩ := exists_leader hx
  have hseal : exec (.seal gd) s = .next (if g.sealed.length ≥ batchRoom then s.waitPart g m .batches else s.passPart g.seal m) := by
    show execSeal gd s = _
    rw [execSeal, withLeader_at hat hl]
  refine ⟨fun hlane hle => ?_, fun h => ?_, fun h => ?_, fun h => ?_⟩
  · rw [hwaitc, if_pos (within_iff.2 ⟨hle, hlane.imp_right hidle.2⟩)]
    exact runs_passPart hat
  · rw [hwaitc, if_neg]
    rw [within_iff, hidle]
    tauto
  · rw [hseal, if_neg (by unfold batchRoom; omega)]
    exact ⟨_, _, rfl, onlyGang_passPart (h := g.seal) hat.2 rfl m, partRuns_runPart ..⟩
  · rw [hseal, if_pos (by unfold batchRoom; omega)]

theorem specialRead_eq (s : State) (g : Gang) (gd : Guard) (d : Dst) (r i : Nat) (sl : Slice) :
    (if !guardTrue gd sl then sl
     else match d with
       | .discard => sl
       | .reg n =>
         let lo := sl.setReg n.val (s.special g i r)
         if isWide r then lo.setReg (n.val + 1) (s.special g i (r + 1)) else lo) = specialRead s g gd d r i sl := by
  unfold specialRead
  cases guardTrue gd sl
  · rfl
  · cases d with
    | discard => rfl
    | reg n => simp [isWide, or_assoc]

/-- R193, R194, R206. -/
theorem specialReads : Claims.SpecialReads := by
  unfold Claims.SpecialReads
  intro s g m gd d r hat
  refine ⟨?_, fun i => ⟨rfl, rfl, ?_, rfl, rfl, rfl, rfl, rfl, rfl⟩⟩
  · show Runs s g m _ (execSrd gd d r s)
    rw [execSrd, withScalar_at hat]
    exact runs_congr (runs_setGang hat _) fun i sl _ _ => congrArg (Slice.advance · s.issueSize) (specialRead_eq ..)
  · cases hid : g.id <;> simp [State.special, GangId.num, hid]

/-- Where the model finds an executing slice that may not write special register `r` (R207). -/
def swrBad (s : State) (g : Gang) (a : Src) (r : Nat) (p : Nat × Slice) : Bool :=
  !swrWritable r || p.2.src a &&& swrReserved r != 0 ||
    decide (0x14 ≤ r) && decide (r ≤ 0x16) && (match s.gridOf g.id with | some gr => decide (gr.record.gaugeSz = 0) | none => true)

theorem swrBad_iff {s : State} {g : Gang} {a : Src} {r : Nat} {p : Nat × Slice} : swrBad s g a r p = true ↔ swrRefused s g a r p.2 := by
  have hgauge : (match s.gridOf g.id with | some gr => decide (gr.record.gaugeSz = 0) | none => true) = true ↔
      ∀ gr, s.gridOf g.id = some gr → gr.record.gaugeSz = 0 := by
    cases s.gridOf g.id <;> simp
  have hreserved : p.2.src a &&& swrReserved r ≠ 0 ↔ (r = 0x16 ∧ p.2.src a &&& 0x7FFFFFF0 ≠ 0) ∨ (r = 0x17 ∧ p.2.src a &&& 0xFFFFE000 ≠ 0) ∨
      (r = 0x19 ∧ p.2.src a &&& 0xF0FFFFE0 ≠ 0) := by
    unfold swrReserved
    split
    · simp
    · simp
    · simp
    next h1 h2 h3 => simp [show r ≠ 22 from h1, show r ≠ 23 from h2, show r ≠ 25 from h3]
  have hrange : 0x14 ≤ r ∧ r ≤ 0x16 ↔ r = 0x14 ∨ r = 0x15 ∨ r = 0x16 := by omega
  simp only [swrBad, swrRefused, swrWritable, Bool.or_eq_true, Bool.and_eq_true, decide_eq_true_eq, bne_iff_ne, hgauge, hreserved, hrange,
    Bool.not_eq_true', Bool.and_eq_false_iff, decide_eq_false_iff_not, not_and_or, or_assoc]

theorem exec_swr {s : State} {g : Gang} {m : BitVec 8} (hat : ScalarAt s g m) (gd : Guard) (a : Src) (r : Fin 27) :
    exec (.swr gd a r) s = .next (match (g.executing m gd).find? (swrBad s g a r.val) with
      | some p => s.trapSlice g p.1 0x0B r.val
      | none =>
        let q := match (g.executing m gd).getLast? with
          | some p => s.writeSpecial g r.val (p.2.src a) (match a with | .reg n => p.2.reg (n.val + 1) | .lit _ => 0)
          | none => (s, g)
        q.1.setGang (q.2.runPart m fun _ sl => sl.advance s.issueSize)) := by
  show execSwr gd a r s = _
  rw [execSwr, withScalar_at hat]
  rfl

/-- SWR changes a local store and special registers of its own gang. -/
theorem writeSpecial_state (s : State) (g : Gang) (n : Nat) (v hi : Word) :
    (s.writeSpecial g n v hi).1 = { s with ls := (s.writeSpecial g n v hi).1.ls } := by
  unfold State.writeSpecial
  simp only
  split <;> (try split) <;> rfl

theorem writeSpecial_gang (s : State) (g : Gang) (n : Nat) (v hi : Word) :
    (s.writeSpecial g n v hi).2 = { g with
      dmask := if n = 0x17 then v else g.dmask, crew := if n = 0x18 then v else g.crew, moncfg := if n = 0x19 then v else g.moncfg } := by
  unfold State.writeSpecial
  simp only
  split
  · rfl
  · rfl
  · rfl
  · rfl
  · rfl
  · rfl
  next _ _ _ h1 h2 h3 => rw [if_neg h1, if_neg h2, if_neg h3]

theorem writeSpecial_above {s : State} {g : Gang} {n : Nat} (hn : 0x17 ≤ n) (v hi : Word) : (s.writeSpecial g n v hi).1 = s := by
  unfold State.writeSpecial
  simp only
  split
  · omega
  · omega
  · omega
  all_goals rfl

/-- The bytes of the gauge header that SWR of GSEED and GBASE write (R77). -/
theorem writeSpecial_header {s : State} {g : Gang} {gr : Grid} {b : Block} (hgr : s.gridOf g.id = some gr) (hb : s.blockOf g.id = some b)
    (v hi : Word) :
    (s.writeSpecial g 0x14 v hi).1 = { s with ls := s.ls.write (b.gaugeBase gr.record + 8) (leBytes 4 v.toNat ++ leBytes 4 hi.toNat) } ∧
    (s.writeSpecial g 0x15 v hi).1 = { s with ls := s.ls.write (b.gaugeBase gr.record + 12) (leBytes 4 v.toNat) } ∧
    (gr.record.gaugeSz ≠ 0 → (s.writeSpecial g 0x16 v hi).1 = { s with
      ls := s.ls.write (b.gaugeBase gr.record)
        (leBytes 4 ((BitVec.ofNat 32 (s.ls.readNat (b.gaugeBase gr.record) 4) &&& 0x80000000 &&& ~~~v) ||| (v &&& 0xF)).toNat) }) := by
  refine ⟨by simp [State.writeSpecial, hgr, hb], by simp [State.writeSpecial, hgr, hb], fun hz => ?_⟩
  simp [State.writeSpecial, hgr, hb, State.special, hz]

/-- What an SWR that is not refused leaves, `hi` being the register after its source. -/
theorem swr_written {s : State} {g : Gang} {m : BitVec 8} (hat : ScalarAt s g m) (r : Nat) (v hi : Word) :
    let q := s.writeSpecial g r v hi
    let g' := q.2.runPart m fun _ sl => sl.advance s.issueSize
    let t := q.1.setGang g'
    t.gang? g.id = some g' ∧ (∀ k, k ≠ g.id → t.gang? k = s.gang? k) ∧
    PartRuns { g with
      dmask := if r = 0x17 then v else g.dmask, crew := if r = 0x18 then v else g.crew, moncfg := if r = 0x19 then v else g.moncfg }
      g' m (fun _ x => x.advance s.issueSize) ∧
    (0x17 ≤ r → t = { s with gangs := t.gangs }) ∧
    ∀ gr b, s.gridOf g.id = some gr → s.blockOf g.id = some b →
      (r = 0x14 → t = lsWritten s t (b.gaugeBase gr.record + 8) (leBytes 4 v.toNat ++ leBytes 4 hi.toNat)) ∧
      (r = 0x15 → t = lsWritten s t (b.gaugeBase gr.record + 12) (leBytes 4 v.toNat)) ∧
      (r = 0x16 → gr.record.gaugeSz ≠ 0 → t = lsWritten s t (b.gaugeBase gr.record)
        (leBytes 4 ((BitVec.ofNat 32 (s.ls.readNat (b.gaugeBase gr.record) 4) &&& 0x80000000 &&& ~~~v) ||| (v &&& 0xF)).toNat)) := by
  have hhead (gr b) (hgr : s.gridOf g.id = some gr) (hb : s.blockOf g.id = some b) := writeSpecial_header hgr hb v hi
  have habove (h : 0x17 ≤ r) := writeSpecial_above (s := s) (g := g) h v hi
  have hstate := writeSpecial_state s g r v hi
  have hgang := writeSpecial_gang s g r v hi
  intro q g' t
  change q.1 = _ at hstate
  change q.2 = _ at hgang
  have hput {ls : Memory} (h : q.1 = { s with ls := ls }) : t = { s with gangs := t.gangs, ls := ls } := by
    simp only [t]
    rw [h]
    rfl
  have hid : g'.id = g.id := by simp only [g', hgang, Gang.runPart_id]
  have hfind (k : GangId) : q.1.gang? k = s.gang? k := by rw [hstate]; rfl
  refine ⟨?_, fun k hk => ?_, ?_, fun h => hput (habove h), fun gr b hgr hb => ?_⟩
  · rw [← hid]
    exact State.gang?_setGang_same (g := g) (by rw [hfind, hid]; exact hat.2)
  · exact (State.gang?_setGang_other _ (hid ▸ hk)).trans (hfind k)
  · rw [← hgang]
    exact partRuns_runPart ..
  · obtain ⟨h14, h15, h16⟩ := hhead gr b hgr hb
    refine ⟨fun h => hput (by subst h; exact h14), fun h => hput (by subst h; exact h15), fun h hz => hput (by subst h; exact h16 hz)⟩

/-- R77, R194, R207. -/
theorem specialWrites : Claims.SpecialWrites := by
  unfold Claims.SpecialWrites
  intro s g m gd a r hat
  rw [exec_swr hat]
  have hbad (q) (_ : q ∈ g.executing m gd) : swrBad s g a r.val q = true ↔ swrRefused s g a r.val q.2 := swrBad_iff
  refine ⟨fun i h => ?_, fun h => ?_, fun h i sl hhigh => ?_⟩
  · obtain ⟨sl, hfind, -, -⟩ := Gang.find?_executing hbad h
    rw [hfind]
    rfl
  · have hnil : g.executing m gd = [] := List.eq_nil_iff_forall_not_mem.2 fun p hp => h _ _ (Gang.mem_executing.1 hp)
    rw [hnil]
    exact runs_passPart hat
  · rw [Gang.find?_executing_none hbad h, Gang.getLast?_executing hhigh]
    exact ⟨_, _, rfl, swr_written hat r.val (sl.src a) _⟩

/-- Settles O8: SRD by the value of each number, SWR by its search for a slice that may not write. -/
theorem specialRegisters : Obligations.SpecialRegisters := ⟨specialReads, specialWrites⟩

end Sys2Proof.Proofs
end

section
/-! SUPPORT. Cohorts found again after a change, and the gangs that a table's change leaves. -/
set_option Elab.async false
namespace Sys2Proof.Machine
open Sys2Proof.Claims

theorem Cohort.holds_iff {c : Cohort} {size : Nat} {b : BlockId} :
    c.holds size b = true ↔ c.handle = b.handle ∧ c.shadow = b.shadow ∧ c.index = b.index / size := by
  simp [Cohort.holds, and_assoc]

/-- The key by which a cohort is replaced is that by which the blocks of a cohort with the same key find it. -/
theorem cohort_key_eq {s : State} {b : BlockId} {c c' : Cohort} (hc : s.cohort? b = some c) (hh : c'.handle = c.handle)
    (hi : c'.index = c.index) (hs : c'.shadow = c.shadow) :
    (fun x : Cohort => x.handle == c'.handle && x.index == c'.index && x.shadow == c'.shadow) =
      fun x => x.holds (s.cohortSize b.handle) b := by
  obtain ⟨h1, h2, h3⟩ := Cohort.holds_iff.1 (List.find?_some (p := fun x : Cohort => x.holds (s.cohortSize b.handle) b) hc)
  funext x
  rw [Bool.eq_iff_iff, Cohort.holds_iff]
  simp only [Bool.and_eq_true, beq_iff_eq, hh, hi, hs, h1, h2, h3]
  tauto

/-- A cohort put back in its place is the one that its blocks find. -/
theorem State.cohort?_setCohort_same {s : State} {b : BlockId} {c c' : Cohort} (hc : s.cohort? b = some c)
    (hh : c'.handle = c.handle) (hi : c'.index = c.index) (hs : c'.shadow = c.shadow) : (s.setCohort c').cohort? b = some c' := by
  obtain ⟨h1, h2, h3⟩ := Cohort.holds_iff.1 (List.find?_some (p := fun x : Cohort => x.holds (s.cohortSize b.handle) b) hc)
  have hkey := cohort_key_eq hc hh hi hs
  unfold State.cohort? at hc ⊢
  unfold State.setCohort
  simp only [hkey]
  rw [show ({ s with cohorts := replaceFirst (fun x => x.holds (s.cohortSize b.handle) b) c' s.cohorts } : State).cohortSize b.handle
    = s.cohortSize b.handle from rfl]
  rw [find_replaceFirst (fun x : Cohort => x.holds (s.cohortSize b.handle) b) _ _ (Cohort.holds_iff.2 ⟨hh.trans h1, hs.trans h2, hi.trans h3⟩), hc]
  rfl

/-- A release raises the interval of its gang's cohort alone. -/
theorem State.cohort?_bumpInterval {s : State} {k : GangId} {b : BlockId} {c : Cohort} (hb : k.block? = some b) (hc : s.cohort? b = some c) :
    ∃ n, (s.bumpInterval k).cohort? b = some { c with interval := n } := by
  have hbind : k.block?.bind s.cohort? = some c := by rw [hb]; exact hc
  unfold State.bumpInterval
  rw [hbind]
  exact ⟨_, State.cohort?_setCohort_same (c' := { c with interval := _ }) hc rfl rfl rfl⟩

theorem State.passPart_cohort? (s : State) (g : Gang) (m : BitVec 8) (b : BlockId) : (s.passPart g m).cohort? b = s.cohort? b := rfl

end Sys2Proof.Machine
end

section
/-! CERTIFICATE. Handles, DETACH, QEND and YIELD. -/
set_option Elab.async false
namespace Sys2Proof.Proofs
open Sys2Proof Sys2Proof.Machine Sys2Proof.Claims

theorem exec_give {s : State} {g : Gang} {m : BitVec 8} {gd : Guard} {d : Fin 31} {a b : Src} {i : Nat} {sl : Slice} {bid : BlockId} {co : Cohort}
    {gr : Grid} (hat : ScalarAt s g m) (hl : Leader g m gd i sl) (hb : g.id.block? = some bid) (hco : s.cohort? bid = some co)
    (hgr : s.gridOf g.id = some gr) (hidle : ∀ j x, m.getLsbD j → g.slice? j = some x → x.queue = [] ∧ x.cur = none)
    (hout : s.gangOutstanding g.id = false) (hdet : s.determ g.id = false) :
    exec (.give gd d a b) s = .next (match giveTable gr.record co.table (s.rank bid) (sl.reg d.val) (sl.src a).toNat (sl.src b).toNat with
      | .ok t => ((s.setCohort { co with table := t }).bumpInterval g.id).passPart g m
      | .error e => s.trapSlice g i 0x34 e) := by
  have hbind : g.id.block?.bind s.cohort? = some co := by rw [hb]; exact hco
  show execGive gd d a b s = _
  rw [execGive, withLeader_at hat hl]
  simp only [Gang.laneIdle_iff.2 hidle, hout, hdet, Bool.not_true, Bool.false_eq_true, if_false, State.give, hbind, hgr]
  rw [hb]
  dsimp only
  cases giveTable gr.record co.table (s.rank bid) (sl.reg d.val) (sl.src a).toNat (sl.src b).toNat <;> rfl

theorem holds_iff {s : State} {k : GangId} {bid : BlockId} {co : Cohort} {h : Nat} (hb : k.block? = some bid) (hco : s.cohort? bid = some co) :
    s.holds k h = true ↔ ∃ e, lookupAt h co.table = some e ∧ e.holder = s.rank bid := by
  have hbind : k.block?.bind s.cohort? = some co := by rw [hb]; exact hco
  unfold State.holds
  rw [hbind, hb]
  cases hl : lookupAt h co.table <;> simp [hl]

theorem exec_take {s : State} {g : Gang} {m : BitVec 8} {gd : Guard} {a : Src} {i : Nat} {sl : Slice} (hat : ScalarAt s g m)
    (hl : Leader g m gd i sl) (ha : (sl.src a).toNat < 256) (hheld : g.partWait m ≠ some .held) :
    exec (.take gd a) s = .next (if s.holds g.id (sl.src a).toNat = true then (s.passPart g m).acquire g.id
      else s.waitPart g m (.take (sl.src a).toNat)) := by
  have hfield : fieldNat (sl.src a) 8 24 = 0 := by unfold fieldNat; omega
  show execTake gd a s = _
  rw [execTake, withLeader_at hat hl, if_neg (not_not.2 hfield), if_neg hheld]

/-- R62, R295, R296. -/
theorem handlesGiveAndTake : Claims.HandlesGiveAndTake := by
  unfold Claims.HandlesGiveAndTake
  intro s g m gd d a b i sl bid co gr hat hl hb hco hgr
  refine ⟨fun t ht hidle hout hdet => ?_, fun e he hidle hout hdet => ?_, fun ha hheld => ⟨fun h => ?_, fun h => ?_⟩⟩
  · rw [exec_give hat hl hb hco hgr hidle hout hdet, ht]
    dsimp only
    have hset := State.cohort?_setCohort_same (c' := { co with table := t }) hco rfl rfl rfl
    obtain ⟨n, hn⟩ := State.cohort?_bumpInterval hb hset
    have hg : ((s.setCohort { co with table := t }).bumpInterval g.id).gang? g.id = some g := (State.bumpInterval_gang? ..).trans hat.2
    refine ⟨_, _, { co with table := t, interval := n }, rfl, rfl, hn, rfl, State.passPart_gang? m ⟨g, hg⟩, ?_, ?_, ?_⟩
    · have ho : OthersSame s ((s.setCohort { co with table := t }).bumpInterval g.id) g.id := fun j _ => State.bumpInterval_gang? _ g.id j
      exact othersSame_trans ho (State.passPart_othersSame _ g m)
    · have hq : Quiet s ((s.setCohort { co with table := t }).bumpInterval g.id) := State.bumpInterval_quiet (s.setCohort { co with table := t }) g.id
      exact quiet_trans hq (State.passPart_quiet _ g m)
    · have hissue : ((s.setCohort { co with table := t }).bumpInterval g.id).issueSize = s.issueSize := by
        unfold State.bumpInterval; split <;> rfl
      rw [hissue]
      exact partRuns_runPart ..
  · rw [exec_give hat hl hb hco hgr hidle hout hdet, he]
    rfl
  · rw [exec_take hat hl ha hheld, if_pos ((holds_iff hb hco).2 h)]
    obtain ⟨x, hx, ho, hq⟩ := State.acquire_spec (g := g.runPart m fun _ sl => sl.advance s.issueSize) (State.passPart_gang? m ⟨g, hat.2⟩)
    exact ⟨_, _, rfl, hx, othersSame_trans (State.passPart_othersSame s g m) ho, quiet_trans (State.passPart_quiet s g m) hq,
      partRuns_withAcq (partRuns_runPart ..) x⟩
  · rw [exec_take hat hl ha hheld, if_neg]
    rintro hh
    obtain ⟨e, he, hme⟩ := (holds_iff hb hco).1 hh
    exact h e he hme

/-- The fields of a GIVE word: handle, rank and the retire bit (R295). -/
theorem giveWord_fields {h rank k : Nat} (hh : h < 256) (hrank : rank < 32) (hk : k < 2) :
    fieldNat (BitVec.ofNat 32 (h + 256 * rank + k * 2 ^ 31)) 0 8 = h ∧ fieldNat (BitVec.ofNat 32 (h + 256 * rank + k * 2 ^ 31)) 8 5 = rank ∧
    fieldNat (BitVec.ofNat 32 (h + 256 * rank + k * 2 ^ 31)) 13 18 = 0 ∧ bit (BitVec.ofNat 32 (h + 256 * rank + k * 2 ^ 31)) 31 = decide (k = 1) := by
  have hw : (BitVec.ofNat 32 (h + 256 * rank + k * 2 ^ 31)).toNat = h + 256 * rank + k * 2 ^ 31 := by
    rw [BitVec.toNat_ofNat]; omega
  unfold fieldNat bit
  rw [hw, ← BitVec.testBit_toNat, hw, Nat.testBit_eq_decide_div_mod_eq]
  refine ⟨by omega, by omega, by omega, ?_⟩
  rw [decide_eq_decide]
  omega

/-- What GIVE finds in the table (R430): the cases left once its word is well-formed and its rank is in the cohort. -/
theorem giveTable_eq {r : LaunchRec} {t : List (Nat × HandleEntry)} {me h rank k off len : Nat} (hh : h < 256) (hrank : rank < 32) (hk : k < 2)
    (hco : rank < r.cohort) :
    giveTable r t me (BitVec.ofNat 32 (h + 256 * rank + k * 2 ^ 31)) off len = match lookupAt h t with
      | none =>
        if k = 1 then .error 2
        else if off % 64 ≠ 0 || len % 64 ≠ 0 || len < 64 || 8 * 2 ^ 20 < len || r.lsSz * 4096 < off + len then .error 3
        else if (t.any fun p => p.2.owner == me && off < p.2.off + p.2.len && p.2.off < off + len) ||
            (off < r.expOff + r.expLen && r.expOff < off + len && r.expLen ≠ 0) then .error 4
        else .ok (insertAt h ⟨me, rank, off, len⟩ t)
      | some e =>
        if e.holder ≠ me then .error 5
        else if k = 1 then (if e.owner ≠ me then .error 6 else .ok (t.filter fun p => p.1 != h))
        else .ok (insertAt h { e with holder := rank } t) := by
  obtain ⟨f1, f2, f3, f4⟩ := giveWord_fields hh hrank hk
  unfold giveTable
  simp only [f1, f2, f3, f4, ne_eq, not_true_eq_false, if_false, decide_eq_true_eq, if_neg (Nat.not_le.2 hco)] <;> rfl

/-- R62, R430. -/
theorem handleTable : Claims.HandleTable := by
  unfold Claims.HandleTable
  intro r t me h rank off len hh hrank hco
  have hgive := giveTable_eq (t := t) (me := me) (off := off) (len := len) hh hrank (by decide : 0 < 2) hco
  have hretire := giveTable_eq (t := t) (me := me) (off := off) (len := len) hh hrank (by decide : 1 < 2) hco
  simp only [zero_mul, add_zero, one_mul, zero_ne_one, if_false, if_true] at hgive hretire
  refine ⟨fun hnone ho hl hmin hmax hroom hfree hexp => ⟨_, ?_, fun j => lookupAt_insertAt h j _ t⟩,
    fun e he hme => ⟨_, ?_, fun j => lookupAt_insertAt h j _ t⟩, fun e he hme how => ⟨t.filter fun p => p.1 != h, ?_, fun j => ?_⟩, fun e he hme => ?_⟩
  · have h3 : ¬ (off % 64 ≠ 0 || len % 64 ≠ 0 || len < 64 || 8 * 2 ^ 20 < len || r.lsSz * 4096 < off + len) = true := by
      simp only [Bool.or_eq_true, decide_eq_true_eq, not_or]; omega
    have h4 : ¬ ((t.any fun p => p.2.owner == me && off < p.2.off + p.2.len && p.2.off < off + len) ||
        (off < r.expOff + r.expLen && r.expOff < off + len && r.expLen ≠ 0)) = true := by
      simp only [Bool.or_eq_true, List.any_eq_true, Bool.and_eq_true, beq_iff_eq, decide_eq_true_eq, not_or, not_exists, not_and]
      refine ⟨fun p hp => ?_, by omega⟩
      rintro ⟨hown, hlt⟩
      have := hfree p hp hown
      omega
    rw [hgive, hnone]
    dsimp only
    rw [if_neg h3, if_neg h4]
  · rw [hgive, he]
    simp [hme]
  · rw [hretire, he]
    simp [hme, how]
  · by_cases hj : j = h
    · rw [if_pos hj, hj]
      exact lookupAt_filter_drop (by simp) t
    · rw [if_neg hj]
      exact lookupAt_filter_keep (fun _ => by simpa using hj) t
  · rw [hgive, he]
    simp [hme]

/-- Settles O19: GIVE and TAKE by the table that they find, the table by the fields of a GIVE word. -/
theorem handles : Obligations.Handles := ⟨handlesGiveAndTake, handleTable⟩

theorem gridOf_grid? {s : State} {k : GangId} {gr : Grid} (h : s.gridOf k = some gr) : s.grid? gr.handle = some gr := by
  obtain ⟨b, -, hb⟩ := Option.bind_eq_some_iff.1 h
  have hh : gr.handle = b.handle := by simpa using List.find?_some (p := fun x : Grid => x.handle == b.handle) hb
  rw [hh]
  exact hb

/-- The end of a quantum is noted at its gang alone. -/
theorem endQuantum_spec {s : State} {g : Gang} (hg : s.gang? g.id = some g) (q : QuantumEnd) :
    (s.endQuantum g.id q).gang? g.id = some { g with ended := some q } ∧ OthersSame s (s.endQuantum g.id q) g.id ∧
      Quiet s (s.endQuantum g.id q) := by
  unfold State.endQuantum
  rw [hg]
  exact ⟨State.gang?_setGang_same (g := g) (g' := { g with ended := some q }) hg, fun j hj => State.gang?_setGang_other _ hj, quiet_refl _⟩

theorem exec_detach {s : State} {g : Gang} {m : BitVec 8} {gd : Guard} {a : Src} {i : Nat} {sl : Slice} {gr : Grid} (hat : ScalarAt s g m)
    (hl : Leader g m gd i sl) (hgr : s.gridOf g.id = some gr) :
    exec (.detach gd a) s = .next (if gr.record.spanSize = 0 then s.trapSlice g i 0x34 7
      else if gr.record.spanSize ≤ (sl.src a).toNat then s.trapSlice g i 0x34 8
      else if s.usesMember g.id gr (sl.src a).toNat then s.waitPart g m (.member (sl.src a).toNat)
      else if s.determ g.id then (s.passPart g m).endQuantum g.id (.handle s.issue.words m)
      else (s.passPart g m).detach gr (sl.src a).toNat) := by
  show execDetach gd a s = _
  rw [execDetach, withLeader_at hat hl]
  simp only [State.detachRefused, hgr]
  by_cases h0 : gr.record.spanSize = 0
  · rw [if_pos h0, if_pos h0]
  rw [if_neg h0, if_neg h0]
  by_cases h8 : gr.record.spanSize ≤ (sl.src a).toNat
  · rw [if_pos h8, if_pos h8]
  rw [if_neg h8, if_neg h8]

/-- Settles O21: DETACH by what refuses it, QEND by whether operation is deterministic, YIELD by the ready gangs of its quadrant. -/
theorem detachQendYield : Obligations.DetachQendYield := by
  unfold Obligations.DetachQendYield
  intro s g m gd a i sl hat hl
  have hx : ∃ i sl, Executes g m gd i sl := ⟨i, sl, hl.1⟩
  have hqend : exec (.qend gd) s = .next (if s.determ g.id then (s.passPart g m).endQuantum g.id .plain else s.passPart g m) := by
    show execQend gd s = _
    rw [execQend, forPart_at hat hx]
  have hyield : exec (.yield gd) s = .next (match s.quadrantReady g with | [] => s.passPart g m | l => s.waitPart g m (.yield l)) := by
    show execYield gd s = _
    rw [execYield, forPart_at hat hx] <;> rfl
  refine ⟨fun gr hgr hdet hk huse hnew => ?_, fun gr hgr hz => ?_, fun hdet => ?_, fun hdet => ?_, fun hr => ?_, fun hr => ?_⟩
  · rw [exec_detach hat hl hgr, if_neg (by omega), if_neg (by omega), if_neg (by simp [huse]), if_neg (by simp [hdet])]
    have hdetach : (s.passPart g m).detach gr (sl.src a).toNat =
        ((s.passPart g m).setGrid { gr with detached := gr.detached ++ [(gr.member s.pkgId, (sl.src a).toNat)] }).tell
          (gr.record.pkgList.getD (sl.src a).toNat 0) (.spanDetach gr.spanKey (gr.member s.pkgId) (sl.src a).toNat) := by
      unfold State.detach
      exact if_neg (by rw [show (s.passPart g m).pkgId = s.pkgId from rfl, hnew]; exact Bool.false_ne_true)
    rw [hdetach]
    refine ⟨_, _, rfl, State.passPart_gang? m ⟨g, hat.2⟩, State.passPart_othersSame s g m, partRuns_runPart .., ?_, rfl, rfl, rfl⟩
    exact State.grid?_setGrid_same (s := s.passPart g m) (g := gr)
      (g' := { gr with detached := gr.detached ++ [(gr.member s.pkgId, (sl.src a).toNat)] }) (gridOf_grid? hgr)
  · rw [exec_detach hat hl hgr, if_pos hz]
    rfl
  · rw [hqend, if_neg (by simp [hdet])]
    exact runs_passPart hat
  · rw [hqend, if_pos hdet]
    obtain ⟨hgang, ho, hq⟩ := endQuantum_spec (g := g.runPart m fun _ sl => sl.advance s.issueSize) (State.passPart_gang? m ⟨g, hat.2⟩) .plain
    refine ⟨_, _, rfl, hgang, othersSame_trans (State.passPart_othersSame s g m) ho, quiet_trans (State.passPart_quiet s g m) hq, ?_⟩
    exact partRuns_runPart { g with ended := some .plain } m fun _ sl => sl.advance s.issueSize
  · rw [hyield, hr]
    exact runs_passPart hat
  · rw [hyield]
    cases hready : s.quadrantReady g with
    | nil => exact absurd hready hr
    | cons k l => rfl

theorem exec_waitForm {s : State} {i : Instr} {gd : Guard} {a : SyncAddr} {stamp : Bool} {v : Slice → Nat} (h : waitForm i = some (gd, a, stamp, v)) :
    ∃ sc, exec i s = waitWord s gd sc a stamp v := by
  unfold waitForm at h
  split at h <;> cases h
  · exact ⟨_, rfl⟩
  · exact ⟨_, rfl⟩
  · exact ⟨_, rfl⟩

/-- A part whose wait was satisfied as a round of its grid began goes on, whatever order it then performs. -/
theorem heldPart_passes {s t : State} {g : Gang} {m : BitVec 8} {a : Nat}
    (hgang : t.gang? g.id = some { (g.setWait m none).runPart m (fun _ sl => sl.advance s.issueSize) with acq := a })
    (ho : OthersSame s t g.id) (hq : Quiet s t) :
    ∃ u g', .next t = (.next u : Outcome) ∧ u.gang? g.id = some g' ∧ OthersSame s u g.id ∧ Quiet s u ∧
      PartRuns { g with acq := g'.acq } g' m (fun _ x => ({ x with wait := none } : Slice).advance s.issueSize) :=
  ⟨t, _, rfl, hgang, ho, hq, partRuns_withAcq (partRuns_setWait_runPart g m none _) a⟩

/-- R362. -/
theorem heldWaits : Claims.HeldWaits := by
  unfold Claims.HeldWaits
  intro s g m gd k sl hat hl hheld passes
  have hg' : s.gang? (g.setWait m none).id = some g := hat.2
  refine ⟨fun i a stamp v hi => ?_, fun l st c t => ?_, fun a ha => ?_⟩
  · obtain ⟨sc, he⟩ := exec_waitForm (s := s) hi
    obtain ⟨x, hx, ho, hq⟩ := passPart_orderDone hg' m 1 sc.code
    have hexec : exec i s = .next ((s.passPart (g.setWait m none) m).orderDone g.id 1 sc.code) := by
      rw [he, waitWord, withLeader_at hat hl]
      dsimp only
      rw [if_pos hheld]
    exact hexec ▸ heldPart_passes hx ho hq
  · have hexec : exec (.waitc gd l st c t) s = .next (s.passPart (g.setWait m none) m) := by
      show execWaitc gd l st c t s = _
      rw [execWaitc, forPart_at hat ⟨k, sl, hl.1⟩, if_pos hheld]
    exact hexec ▸ heldPart_passes (a := g.acq) (State.passPart_gang? m ⟨g, hg'⟩) (State.passPart_othersSame s (g.setWait m none) m)
      (State.passPart_quiet ..)
  · have hfield : fieldNat (sl.src a) 8 24 = 0 := by unfold fieldNat; omega
    have hexec : exec (.take gd a) s = .next ((s.passPart (g.setWait m none) m).acquire g.id) := by
      show execTake gd a s = _
      rw [execTake, withLeader_at hat hl, if_neg (not_not.2 hfield), if_pos hheld]
    obtain ⟨x, hx, ho, hq⟩ := State.acquire_spec (g := (g.setWait m none).runPart m fun _ sl => sl.advance s.issueSize)
      (State.passPart_gang? m ⟨g, hg'⟩)
    exact hexec ▸ heldPart_passes hx (othersSame_trans (State.passPart_othersSame s (g.setWait m none) m) ho)
      (quiet_trans (State.passPart_quiet ..) hq)

end Sys2Proof.Proofs
end

section
/-! SUPPORT. What a read leaves: links, counters, TLBs and the numbers of requests change, and nothing that a program sees. -/
set_option Elab.async false
namespace Sys2Proof.Machine
open Sys2Proof.Claims

/-- `t` is `s` but for what carries accesses: the links' modules and numbers, event counters and monitors, the TLBs, and the counts of a
cohort's requests. -/
structure Unseen (s t : State) : Prop where
  eq : t = { s with cohorts := t.cohorts, tlb := t.tlb, dev := t.dev, modules := t.modules, tsns := t.tsns, monitors := t.monitors }
  table : ∀ b, (t.cohort? b).map (·.table) = (s.cohort? b).map (·.table)

theorem Unseen.refl (s : State) : Unseen s s := ⟨rfl, fun _ => rfl⟩

theorem Unseen.trans {s t u : State} (h₁ : Unseen s t) (h₂ : Unseen t u) : Unseen s u := by
  refine ⟨?_, fun b => (h₂.table b).trans (h₁.table b)⟩
  rw [h₂.eq, h₁.eq]

/-- A change of links, counters, TLBs or monitors alone. -/
theorem unseen_with (s : State) (tlb dev modules tsns monitors) :
    Unseen s { s with tlb := tlb, dev := dev, modules := modules, tsns := tsns, monitors := monitors } :=
  ⟨rfl, fun _ => rfl⟩

section
variable {s t : State} (h : Unseen s t)
include h

theorem Unseen.fields : t.clock = s.clock ∧ t.outputs = s.outputs ∧ t.issue = s.issue ∧ t.pkgId = s.pkgId ∧ t.mem = s.mem ∧ t.ls = s.ls ∧
    t.wgt = s.wgt ∧ t.dies = s.dies ∧ t.boot = s.boot ∧ t.controls = s.controls ∧ t.grids = s.grids ∧ t.blocks = s.blocks ∧ t.gangs = s.gangs ∧
    t.ops = s.ops ∧ t.nextOp = s.nextOp ∧ t.arrivals = s.arrivals ∧ t.flights = s.flights ∧ t.remote = s.remote ∧ t.poison = s.poison := by
  rw [h.eq]; simp

theorem Unseen.gang? (k : GangId) : t.gang? k = s.gang? k := by rw [h.eq]; rfl
theorem Unseen.block? (k : BlockId) : t.block? k = s.block? k := by rw [h.eq]; rfl
theorem Unseen.grid? (k : Word) : t.grid? k = s.grid? k := by rw [h.eq]; rfl
theorem Unseen.gridOf (k : GangId) : t.gridOf k = s.gridOf k := by rw [h.eq]; rfl
theorem Unseen.blockOf (k : GangId) : t.blockOf k = s.blockOf k := by rw [h.eq]; rfl
theorem Unseen.rank (b : BlockId) : t.rank b = s.rank b := by rw [h.eq]; rfl
theorem Unseen.issueSize : t.issueSize = s.issueSize := by rw [h.eq]; rfl
theorem Unseen.poison : t.poison = s.poison := by rw [h.eq]
theorem Unseen.plain {k : GangId} (hp : Plain s k) : Plain t k := ⟨h.poison.trans hp.1, fun gr hgr => hp.2 gr (h.gridOf k ▸ hgr)⟩
theorem Unseen.quiet : Quiet s t := by rw [h.eq]; exact ⟨rfl, rfl, rfl, rfl, rfl, rfl, rfl, rfl, rfl, rfl, rfl, rfl⟩
theorem Unseen.othersSame (k : GangId) : OthersSame s t k := fun j _ => h.gang? j

theorem Unseen.readPlace {p : Place} (hp : ∀ die off, p ≠ .reg die off) (n : Nat) : t.readPlace p n = s.readPlace p n := by
  obtain ⟨-, -, -, -, hmem, hls, hwgt, -⟩ := h.fields
  cases p with
  | reg die off => exact absurd rfl (hp die off)
  | mem pa home => simp only [State.readPlace, hmem]
  | ls i b off => simp only [State.readPlace, hls]
  | wgt i => simp only [State.readPlace, hwgt]
  | acc b slot off => simp only [State.readPlace, h.block?]
  | con k off => simp only [State.readPlace, h.grid?]
  | _ => rfl

end

/-! ## Counters and links -/

theorem unseen_count (s : State) (die off : Nat) : Unseen s (s.count die off) := by
  rw [State.count_eq]
  exact unseen_with s s.tlb _ s.modules s.tsns s.monitors

theorem State.sendFlit_eq (s : State) (a b addr : Nat) (f : Flit) : s.sendFlit a b addr f = { s with modules := (s.sendFlit a b addr f).modules } := by
  unfold State.sendFlit
  induction linkPath a b generalizing s with
  | nil => rfl
  | cons l ls ih =>
    rw [List.foldl_cons, ih] <;> rfl

theorem State.sendOver_eq (s : State) (q : Requester) (b addr : Nat) :
    s.sendOver q b addr = { s with modules := (s.sendOver q b addr).modules, tsns := (s.sendOver q b addr).tsns } := by
  unfold State.sendOver
  split
  · rfl
  · simp only
    rw [State.sendFlit_eq, State.sendFlit_eq] <;> rfl

theorem unseen_sendOver (s : State) (q : Requester) (b addr : Nat) : Unseen s (s.sendOver q b addr) := by
  rw [State.sendOver_eq]
  exact unseen_with s s.tlb s.dev _ _ s.monitors

/-- A replaced element is found where the old one was, and says the same. -/
theorem find?_replaceFirst_map {α β : Type} {p q : α → Bool} {x y : α} {l : List α} (f : α → β) (hq : l.find? q = some x)
    (hp : p y = p x) (hf : f y = f x) : ((replaceFirst q y l).find? p).map f = (l.find? p).map f := by
  induction l with
  | nil => rfl
  | cons z l ih =>
    rw [List.find?_cons] at hq
    unfold replaceFirst
    by_cases hz : q z = true
    · rw [hz] at hq
      cases hq
      rw [if_pos hz, List.find?_cons, List.find?_cons, hp]
      cases hx : p x <;> simp [hf]
    · rw [Bool.not_eq_true] at hz
      rw [hz] at hq
      rw [if_neg (by simp [hz]), List.find?_cons, List.find?_cons]
      cases p z
      · exact ih hq
      · rfl

/-- A cohort's counts are not its table. -/
theorem cohort?_setCohort_table {s : State} {c c' : Cohort} {k : BlockId} (hc : s.cohort? k = some c) (hh : c'.handle = c.handle)
    (hi : c'.index = c.index) (hs : c'.shadow = c.shadow) (ht : c'.table = c.table) (b : BlockId) :
    ((s.setCohort c').cohort? b).map (·.table) = (s.cohort? b).map (·.table) := by
  have hkey := cohort_key_eq hc hh hi hs
  have hsize : (s.setCohort c').cohortSize b.handle = s.cohortSize b.handle := rfl
  unfold State.cohort? at hc ⊢
  rw [hsize]
  unfold State.setCohort
  simp only [hkey]
  exact find?_replaceFirst_map _ hc (by simp [Cohort.holds, hh, hi, hs]) ht

theorem unseen_countSent (s : State) (k : GangId) (sent performed : Nat) : Unseen s (s.countSent k sent performed) := by
  unfold State.countSent
  split
  next c hc =>
    obtain ⟨b, -, hb⟩ := Option.bind_eq_some_iff.1 hc
    exact ⟨rfl, cohort?_setCohort_table hb rfl rfl rfl rfl⟩
  · exact .refl s

/-! ## Poison -/

theorem unseen_poisonCheck (s : State) (p : Place) (n : Nat) : Unseen s (s.poisonCheck p n false).1 := by
  unfold State.poisonCheck
  split
  · exact .refl s
  · simp only [Bool.false_and, Bool.false_eq_true, if_false]
    split
    · exact unseen_count ..
    · exact .refl s

theorem poisonHits_nil {s : State} (h : s.poison = []) (p : Place) (n : Nat) : (s.poisonHits p n).1 = [] := by
  unfold State.poisonHits
  cases p with
  | acc b slot off => cases hb : s.block? b <;> simp [h, hb]
  | _ => simp [h]

/-- Where nothing is poisoned an access fails on no poison. -/
theorem poisonCheck_clean {s : State} (h : s.poison = []) (p : Place) (n : Nat) (write : Bool) : s.poisonCheck p n write = (s, none) := by
  have hh := poisonHits_nil h p n
  unfold State.poisonCheck
  generalize s.poisonHits p n = r at hh
  obtain ⟨l, a⟩ := r
  cases hh
  rfl

/-! ## Translation -/

theorem unseen_walkRead (s : State) (die va epa : Nat) : Unseen s (s.walkRead die va epa).1 := by
  unfold State.walkRead
  simp only
  split
  · exact .refl s
  split
  · exact .refl s
  split
  · exact .refl s
  have hp := unseen_poisonCheck s (.mem epa (epa / 2 ^ 48)) 8
  split
  next hr => rw [hr] at hp; exact hp
  next hr => rw [hr] at hp; exact hp.trans (unseen_sendOver ..)

/-- A pass of steps of which each leaves its state unseen. -/
theorem unseen_foldl {α β : Type} {f : State × β → α → State × β} (hf : ∀ st a, Unseen st.1 (f st a).1) (l : List α) (st : State × β) :
    Unseen st.1 (l.foldl f st).1 := by
  induction l generalizing st with
  | nil => exact .refl _
  | cons a l ih => exact (hf st a).trans (ih _)

theorem unseen_walk (s : State) (die ctxDie ctxCore va : Nat) : Unseen s (s.walk die ctxDie ctxCore va).1 := by
  unfold State.walk
  split
  · exact .refl s
  split
  · exact .refl s
  · refine unseen_foldl (fun st a => ?_) _ (s, none)
    split
    · exact unseen_walkRead ..
    · exact .refl _

theorem unseen_tlbEnter (s : State) (e : TlbEntry) : Unseen s (s.tlbEnter e) := unseen_with s _ s.dev s.modules s.tsns s.monitors

theorem unseen_tlbFill (s : State) (x : Xagent) (l : Leaf) : Unseen s (s.tlbFill x l) := by
  unfold State.tlbFill
  simp only
  split
  · exact (unseen_tlbEnter ..).trans (unseen_tlbEnter ..)
  · exact unseen_tlbEnter ..

/-- A promotion that starts no migration counts a missing frame. -/
theorem unseen_promote {s : State} {l : Leaf} (h : (s.promote l).2 = false) : Unseen s (s.promote l).1 := by
  unfold State.promote at h ⊢
  simp only at h ⊢
  split at h
  · cases h
  · exact unseen_count ..

theorem unseen_translate {s t : State} {x : Xagent} {va need : Nat} {l : Leaf} (h : s.translate x va need = (t, .ok l)) : Unseen s t := by
  unfold State.translate at h
  extract_lets check at h
  clear_value check
  have hw := unseen_walk s x.die x.ctxDie x.ctxCore va
  split at h
  next e _ =>
    obtain ⟨rfl, -⟩ := Prod.mk.inj h
    split
    · exact unseen_tlbEnter ..
    · exact .refl s
  generalize s.walk x.die x.ctxDie x.ctxCore va = r at h hw
  obtain ⟨u, w⟩ := r
  have hu : Unseen s u := hw
  cases w with
  | fault f => cases h
  | wait p => cases h
  | leaf k =>
    dsimp only at h
    generalize check k = y at h
    cases y with
    | fault f => cases h
    | wait p => cases h
    | ok k =>
      dsimp only at h
      split at h
      · cases h
      split at h
      · split at h
        · cases h; exact hu
        split at h
        · cases h
        next hp =>
          cases h
          exact hu.trans (unseen_promote (by simpa using hp))
      · cases h
        exact hu.trans (unseen_tlbFill ..)

theorem unseen_locateGen {s t : State} {x : Xagent} {k : AccKind} {va n : Nat} {p : Place} (h : s.locateGen x k va n = (t, .ok p)) :
    Unseen s t := by
  unfold State.locateGen at h
  generalize hr : s.translate x va k.need = r at h
  obtain ⟨u, y⟩ := r
  cases y with
  | fault f => cases h
  | wait q => cases h
  | ok l =>
    obtain ⟨rfl, -⟩ := Prod.mk.inj h
    exact unseen_translate hr

/-- What finding the place of an access leaves, where it is found. -/
theorem unseen_locate {s t : State} {g : GangId} {k : AccKind} {space addr n : Nat} {p : Place}
    (h : s.locate g k space addr n = (t, .ok p)) : Unseen s t := by
  unfold State.locate at h
  split at h
  · cases h
  split at h
  · cases h
  split at h
  · exact unseen_locateGen h
  all_goals
    obtain ⟨rfl, -⟩ := Prod.mk.inj h
    exact .refl s

theorem unseen_issuedLocate {s t : State} {g : GangId} {k : AccKind} {space addr n : Nat} {p : Place}
    (h : s.issuedLocate g k space addr n = (t, .ok p)) : Unseen s t := by
  unfold State.issuedLocate at h
  split at h
  · obtain ⟨rfl, -⟩ := Prod.mk.inj h
    exact .refl s
  · exact unseen_locate h

/-! ## Performing a load -/

theorem unseen_corrected (s : State) (p : Place) (die : Nat) : Unseen s (s.corrected p die) :=
  unseen_with s s.tlb _ s.modules s.tsns s.monitors

theorem unseen_farFill (s : State) (p : Place) : Unseen s (s.farFill p) := by
  unfold State.farFill
  split
  · split
    · exact .refl s
    · exact unseen_with s s.tlb s.dev _ _ s.monitors
  · exact .refl s

theorem unseen_sampleAll (s : State) (die src v : Nat) : Unseen s (s.sampleAll die src v) :=
  unseen_with s s.tlb s.dev s.modules s.tsns _

theorem unseen_sampleAccess (s : State) (die : Nat) (p : Place) (op : ReqOp) : Unseen s (s.sampleAccess die p op) := by
  unfold State.sampleAccess
  simp only
  split
  · exact (unseen_corrected ..).trans (unseen_sampleAll ..)
  · exact (unseen_corrected ..).trans (unseen_sampleAll ..)
  · exact unseen_corrected ..

/-- The race detector of a grid that does not ask for it does nothing. -/
theorem raceCheck_off {s : State} {g : Gang} (h : ∀ gr, s.gridOf g.id = some gr → gr.record.race = false) (blk : BlockId) (off n : Nat)
    (write : Bool) (u : SyncUse) : s.raceCheck g blk off n write u = (s, none) := by
  unfold State.raceCheck
  split
  next gr _ _ hgr _ _ => rw [h gr hgr]; rfl
  · rfl

/-- A plain access that is performed here fails on no poison, is part of no race, and does its operation after what carries it. -/
theorem performAt_plain {s : State} {g : Gang} (hp : Plain s g.id) (lane laneIdx addr : Nat) (p : Place) (op : ReqOp) (u : SyncUse) :
    ∃ t, Unseen s t ∧ s.performAt g lane laneIdx addr p op u = ((t.applyFor g.id p op).1, ⟨(t.applyFor g.id p op).2, none⟩) := by
  obtain ⟨hpoison, hgrid⟩ := hp
  have h0 := (unseen_countSent s g.id 1 1).trans (unseen_sendOver _ (s.requester g.id) (p.die (s.gangDie g.id)) p.addr)
  unfold State.performAt
  generalize hs : (s.countSent g.id 1 1).sendOver (s.requester g.id) (p.die (s.gangDie g.id)) p.addr = v at h0
  have hvp : v.poison = [] := by rw [h0.eq]; exact hpoison
  unfold State.performHere
  rw [poisonCheck_clean hvp]
  have hrace (blk off w n) : v.raceCheck g blk off n w u = (v, none) :=
    raceCheck_off (fun gr hgr => (hgrid gr (h0.gridOf g.id ▸ hgr)).1) blk off n w u
  refine ⟨(v.farFill p).sampleAccess (v.gangDie g.id) p op, (h0.trans (unseen_farFill ..)).trans (unseen_sampleAccess ..), ?_⟩
  cases p with
  | ls i blk off => simp only [hrace, ite_self, Option.map_none]
  | _ => simp only [ite_self, Option.map_none]

/-- Outside a round a gang's loads see memory as it is. -/
theorem applyFor_load {s : State} {g : GangId} (h : ∀ gr, s.gridOf g = some gr → gr.image = none) (p : Place) (n : Nat) :
    s.applyFor g p (.load n) = (s, .ok (s.readPlace p n)) := by
  have hnone : (s.gridOf g).bind (·.image) = none := by
    cases hgr : s.gridOf g with
    | none => rfl
    | some gr => exact h gr hgr
  simp only [State.applyFor, State.roundView, hnone]

/-- A plain load performed here: what it reads, and that nothing else is seen of it. -/
theorem performAt_load {s : State} {g : Gang} (hp : Plain s g.id) (lane laneIdx addr : Nat) {p : Place} (hreg : ∀ die off, p ≠ .reg die off)
    (n : Nat) (u : SyncUse) :
    ∃ t, Unseen s t ∧ s.performAt g lane laneIdx addr p (.load n) u = (t, ⟨.ok (s.readPlace p n), none⟩) := by
  obtain ⟨t, ht, heq⟩ := performAt_plain hp lane laneIdx addr p (.load n) u
  refine ⟨t, ht, ?_⟩
  rw [heq, applyFor_load (fun gr hgr => (hp.2 gr (ht.gridOf g.id ▸ hgr)).2), ht.readPlace hreg]

end Sys2Proof.Machine
end

section
/-! CERTIFICATE. WAIT and MWAIT. -/
set_option Elab.async false
namespace Sys2Proof.Proofs
open Sys2Proof Sys2Proof.Machine Sys2Proof.Claims

theorem satisfied_iff {stamp : Bool} {v : Nat} {bs : List Byte} : Satisfied stamp v bs ↔ waitHolds stamp v bs = true := by
  unfold Satisfied waitHolds syncHolds
  cases stamp
  · simp only [Bool.false_eq_true, if_false, Bool.false_or, Bool.and_eq_true, decide_eq_true_eq, bne_iff_ne]
    exact and_comm
  · simp

/-- What passes after a change that is not seen passes. -/
theorem passesWith_of_unseen {s t : State} {g : Gang} {m : BitVec 8} {h : Gang → Gang} {o : Outcome} (hu : Unseen s t)
    (hp : PassesWith t g m h o) : PassesWith s g m h o := by
  obtain ⟨u, g', ho, hg, hother, hquiet, hruns⟩ := hp
  exact ⟨u, g', ho, hg, othersSame_trans (hu.othersSame g.id) hother, quiet_trans hu.quiet hquiet, hu.issueSize ▸ hruns⟩

/-- A part that comes to watch a word waits on it. -/
theorem watch_waits {s : State} {g : Gang} (hg : s.gang? g.id = some g) (m : BitVec 8) (space addr : Nat) (w : Wait) :
    ∃ g', (s.watch g m space addr w).gang? g.id = some g' ∧ OthersSame s (s.watch g m space addr w) g.id ∧
      Quiet s (s.watch g m space addr w) ∧ PartRuns g g' m fun _ x => waiting w x := by
  unfold State.watch
  extract_lets l full rest t
  have ht : Unseen s t := by
    unfold t
    split
    · exact unseen_count ..
    · exact .refl s
  generalize (if full = true then rest ++ [(g.id, m)] else rest) = l'
  have hgang : ({ t with unwatched := l' } : State).gang? (g.setWait m (some w)).id = some g := (ht.gang? g.id).trans hg
  exact ⟨_, State.gang?_setGang_same hgang, othersSame_trans (ht.othersSame g.id) (othersSame_setGang (s := { t with unwatched := l' }) rfl),
    quiet_trans ht.quiet (quiet_refl _), partRuns_setWait g m w⟩

/-- A WAIT or MWAIT that finds its word in this package. -/
theorem exec_wordWait {s s1 : State} {g : Gang} {m : BitVec 8} {i : Instr} {gd : Guard} {a : SyncAddr} {stamp : Bool} {v : Slice → Nat} {k : Nat}
    {sl : Slice} {p : Place} (hat : ScalarAt s g m) (hi : waitForm i = some (gd, a, stamp, v)) (hl : Leader g m gd k sl)
    (hloc : s.locate g.id (.word false) a.space (sl.syncAddr a) (if stamp then 8 else 16) = (s1, .ok p)) (hrem : p.isRemote = false)
    (hheld : g.partWait m ≠ some .held) :
    ∃ (sc : Scope) (u : SyncUse), exec i s = .next (if s1.arrivalAt g.id p (if stamp then 8 else 16) || s1.flightMeets g.id false p (if stamp then 8 else 16)
      then s1.waitPart g m .outstanding
      else match s1.performAt g 0 0 (sl.syncAddr a) p (.load (if stamp then 8 else 16)) u with
        | (s, ⟨.error (c, e), _⟩) => s.trapAccess g.id 0 k 0 ⟨c, e, a.space, sl.syncAddr a⟩ s.issue.words
        | (s, ⟨.ok bs, race⟩) =>
          let s := if waitHolds stamp (v sl) bs then (s.passPart g m).orderDone g.id 1 sc.code else s.watch g m a.space (sl.syncAddr a)
            (if stamp then .stamp a.space (sl.syncAddr a) (BitVec.ofNat 64 (v sl)) else .sync a.space (sl.syncAddr a) (BitVec.ofNat 32 (v sl)))
          match race with
          | some r => s.trapRace g.id 0 k 0 r s.issue.words
          | none => s) := by
  obtain ⟨sc, hexec⟩ := exec_waitForm (s := s) hi
  refine ⟨sc, ⟨some sc.code, 7, a.space == 1, g.dmask⟩, ?_⟩
  rw [hexec, waitWord, withLeader_at hat hl]
  dsimp only
  rw [if_neg hheld, hloc]
  simp only [hrem, Bool.false_eq_true, if_false] <;> rfl

/-- R79, R80, R289, R339, R411. -/
theorem wordWaits : Claims.WordWaits := by
  unfold Claims.WordWaits
  intro s g m i gd a stamp v k sl s1 p hat hi hl hplain hloc hrem hheld
  obtain ⟨sc, u, hexec⟩ := exec_wordWait hat hi hl hloc hrem hheld
  have h1 := unseen_locate hloc
  have hplain1 := h1.plain hplain
  refine ⟨fun hbusy => ?_, fun ha hf => ?_⟩
  · rw [hexec, if_pos (by simpa using hbusy)]
  rw [hexec, ha, hf]
  have hperform (hreg : ∀ die off, p ≠ .reg die off) := performAt_load hplain1 0 0 (sl.syncAddr a) hreg (if stamp then 8 else 16) u
  refine ⟨fun hsat hreg => ?_, fun hsat hreg => ?_⟩
  · obtain ⟨t, ht, hpt⟩ := hperform hreg
    have hu := h1.trans ht
    rw [h1.readPlace hreg] at hpt
    simp only [hpt, Bool.or_self, Bool.false_eq_true, if_false, satisfied_iff.1 hsat, if_true]
    exact passesWith_of_unseen hu (passesWith_orderDone ((hu.gang? g.id).trans hat.2) m 1 sc.code)
  · obtain ⟨t, ht, hpt⟩ := hperform hreg
    have hu := h1.trans ht
    rw [h1.readPlace hreg] at hpt
    simp only [hpt, Bool.or_self, Bool.false_eq_true, if_false, mt satisfied_iff.2 hsat]
    obtain ⟨g', hg', ho, hq, hruns⟩ := watch_waits ((hu.gang? g.id).trans hat.2) m a.space (sl.syncAddr a)
      (if stamp then .stamp a.space (sl.syncAddr a) (BitVec.ofNat 64 (v sl)) else .sync a.space (sl.syncAddr a) (BitVec.ofNat 32 (v sl)))
    exact ⟨_, g', rfl, hg', othersSame_trans (hu.othersSame g.id) ho, quiet_trans hu.quiet hq, hruns⟩

/-- Settles O16: a word that is read at issue decides; a wait that a round's start satisfied passes. -/
theorem waitsOnWords : Obligations.WaitsOnWords := ⟨wordWaits, heldWaits⟩

end Sys2Proof.Proofs
end

section
/-! SUPPORT. Engine instructions: what they look at before their operands, what they read at issue, and how one is accepted. -/
set_option Elab.async false
namespace Sys2Proof.Machine
open Sys2Proof.Claims

/-! ## Reads at issue -/

theorem unseen_engineRead {s t : State} {g : GangId} {space addr n : Nat} {bs : List Byte} (h : s.engineRead g space addr n = (t, .ok bs)) :
    Unseen s t := by
  unfold State.engineRead at h
  generalize hl : s.issuedLocate g .load space addr n = r at h
  obtain ⟨u, l⟩ := r
  cases l with
  | fault f => cases h
  | wait w => cases h
  | ok p =>
    have hu := unseen_issuedLocate hl
    dsimp only at h
    split at h
    · cases h
    have hp := unseen_poisonCheck u p n
    generalize u.poisonCheck p n false = r at h hp
    obtain ⟨v, _ | c⟩ := r
    · cases h
      exact ((hu.trans hp).trans (unseen_sendOver ..)).trans (unseen_corrected ..)
    · cases h

/-- Reads made piece by piece, of which all succeed: each is made in a state that the earlier ones left. -/
theorem foldl_read_ok {f : State → Nat × Nat → State × EngAcc} (hf : ∀ s p t x, f s p = (t, .ok x) → Unseen s t) (l : List (Nat × Nat))
    {s t : State} {e : EngAcc} {bs : List Byte}
    (h : l.foldl (fun (st : State × EngAcc) p => match st.2 with
      | .ok bs => match f st.1 p with
        | (s, .ok x) => (s, .ok (bs ++ x))
        | r => r
      | _ => st) (s, e) = (t, .ok bs)) :
    Unseen s t ∧ (∃ b, e = .ok b) ∧ ∀ p ∈ l, ∃ u v x, Unseen s u ∧ f u p = (v, .ok x) := by
  induction l generalizing s e with
  | nil => cases h; exact ⟨.refl _, ⟨_, rfl⟩, by simp⟩
  | cons p l ih =>
    rw [List.foldl_cons] at h
    cases e with
    | ok b =>
      dsimp only at h
      generalize hr : f s p = r at h
      obtain ⟨u, y⟩ := r
      cases y with
      | ok x =>
        obtain ⟨ht, -, hrest⟩ := ih h
        have hu := hf s p u x hr
        refine ⟨hu.trans ht, ⟨b, rfl⟩, fun q hq => ?_⟩
        rcases List.mem_cons.1 hq with rfl | hq
        · exact ⟨s, u, x, .refl s, hr⟩
        · obtain ⟨v, w, y, hv, hy⟩ := hrest q hq
          exact ⟨v, w, y, hu.trans hv, hy⟩
      | _ => obtain ⟨-, ⟨_, he⟩, -⟩ := ih h; cases he
    | _ => obtain ⟨-, ⟨_, he⟩, -⟩ := ih h; cases he

theorem engineReadAll_ok {s t : State} {g : GangId} {space addr n : Nat} {bs : List Byte} (h : s.engineReadAll g space addr n = (t, .ok bs)) :
    Unseen s t ∧ ∀ p ∈ pieces 16 n addr n, ∃ u v x, Unseen s u ∧ u.engineRead g space p.1 p.2 = (v, .ok x) := by
  obtain ⟨ht, -, hp⟩ := foldl_read_ok (f := fun s p => s.engineRead g space p.1 p.2) (fun _ _ _ _ h => unseen_engineRead h) _ h
  exact ⟨ht, hp⟩

theorem unseen_issueRead {s t : State} {g : GangId} {space addr n : Nat} {bs : List Byte} (h : s.issueRead g space addr n = (t, .ok bs)) :
    Unseen s t := by
  unfold State.issueRead at h
  split at h
  · split at h
    · cases h
    · cases h; exact .refl s
  · split at h
    · cases h
    generalize hr : s.engineReadAll g space addr n = r at h
    obtain ⟨u, y⟩ := r
    cases y with
    | ok x => cases h; exact (engineReadAll_ok hr).1
    | remote p => dsimp only at h; split at h <;> cases h
    | _ => cases h

theorem unseen_pageRead {s t : State} {g : GangId} {addr n : Nat} {bs : List Byte} (h : s.pageRead g addr n = (t, .ok bs)) : Unseen s t :=
  (foldl_read_ok (f := fun s p => s.issueRead g 0 p.1 p.2) (fun _ _ _ _ h => unseen_issueRead h) _ h).1

/-- The last of the pieces of an access ends where the access ends, and is aligned. -/
theorem exists_last_piece (f a n : Nat) (h0 : 0 < n) (hf : n ≤ f) : ∃ w, (a + n - w, w) ∈ pieces 16 f a n ∧ 0 < w ∧ w ≤ n ∧ w ∣ 16 ∧ w ∣ a + n - w := by
  induction f generalizing a n with
  | zero => omega
  | succ f ih =>
    rw [pieces, if_neg (by omega)]
    extract_lets w
    have hw : 0 < w ∧ w ≤ n ∧ w ∣ 16 ∧ w ∣ a := by
      cases hfind : [16, 8, 4, 2, 1].find? fun w => w ≤ 16 && a % w = 0 && w ≤ n with
      | none =>
        have h1 := List.find?_eq_none.1 hfind 1 (by simp)
        simp [Nat.mod_one] at h1
        omega
      | some v =>
        have hp := List.find?_some hfind
        have hm := List.mem_of_find?_eq_some hfind
        simp only [Bool.and_eq_true, decide_eq_true_eq] at hp
        obtain ⟨⟨-, ha⟩, hn⟩ := hp
        rw [show w = v from by simp only [w, hfind, Option.getD_some]]
        refine ⟨?_, hn, ?_, Nat.dvd_of_mod_eq_zero ha⟩
        · simp only [List.mem_cons, List.not_mem_nil, or_false] at hm; omega
        · exact (by decide : ∀ v ∈ [16, 8, 4, 2, 1], v ∣ 16) v hm
    clear_value w
    obtain ⟨hpos, hle, h16, ha⟩ := hw
    by_cases hlast : n = w
    · subst hlast
      exact ⟨n, by simp, hpos, hle, h16, by simpa using ha⟩
    · obtain ⟨v, hmem, hv0, hvn, hv16, hva⟩ := ih (a + w) (n - w) (by omega) (by omega)
      rw [show a + w + (n - w) - v = a + n - v from by omega] at hmem hva
      exact ⟨v, List.mem_cons_of_mem _ hmem, hv0, by omega, hv16, hva⟩

/-- With no handle out, a gang finds places in the local store in its own partition alone (R61, R63). -/
theorem locateLoc_own {s : State} {g : GangId} {addr n : Nat} {p : Place} {b : BlockId} {gr : Grid} {co : Cohort} (hb : g.block? = some b)
    (hgr : s.gridOf g = some gr) (hco : s.cohort? b = some co) (htable : co.table = []) (h : s.locateLoc g .load addr n = .ok p) :
    windowRank (s.rank b) addr = s.rank b ∧ addr % 2 ^ 23 < gr.record.lsSz * 4096 := by
  have hcob : g.block?.bind s.cohort? = some co := by rw [hb]; exact hco
  have hnone (rank off : Nat) (hrank : rank ≠ s.rank b) : handleInfo co.table (s.rank b) rank off n = some (2 ^ 15) := by
    simp [handleInfo, htable, Ne.symm hrank]
  unfold State.locateLoc at h
  rw [hb, hgr] at h
  rw [hb] at hcob
  rw [hcob] at h
  split at h
  next b' gr' own co' hb' hgr' _ hco' =>
    cases hb'; cases hgr'; cases hco'
    extract_lets bad me die off rank limit check at h
    by_cases hrank : rank = me
    · rw [if_pos hrank] at h
      split at h
      · cases h
      · exact ⟨hrank, by omega⟩
    · rw [if_neg hrank] at h
      have hcheck (t : Block) : check t = bad 0x18 (2 ^ 15) := by
        show (match handleInfo co.table (s.rank b) rank off n with | some i => bad 0x18 i | none => _) = _
        rw [hnone rank off hrank]
      split at h
      · cases h
      split at h
      · cases h
      split at h
      · cases h
      split at h
      · cases h
      · rw [hcheck] at h; cases h
  · cases h

theorem locateLoc_of_engineRead {s t : State} {g : GangId} {addr n : Nat} {bs : List Byte} (h : s.engineRead g 1 addr n = (t, .ok bs)) :
    addr < 2 ^ 28 ∧ ∃ p, s.locateLoc g .load addr n = .ok p := by
  unfold State.engineRead at h
  rw [show s.issuedLocate g .load 1 addr n = s.locate g .load 1 addr n from rfl, State.locate, show spaceBits 1 = 28 from rfl] at h
  by_cases hlt : 2 ^ 28 ≤ addr
  · rw [if_pos hlt] at h; cases h
  rw [if_neg hlt] at h
  refine ⟨Nat.lt_of_not_le hlt, ?_⟩
  by_cases hal : (addr % n != 0) = true
  · rw [if_pos hal] at h; cases h
  rw [if_neg hal] at h
  generalize s.locateLoc g .load addr n = l at h
  cases l with
  | ok p => exact ⟨p, rfl⟩
  | _ => cases h

/-- The window's address of a member's own partition reaches no other member's (R63). -/
theorem lt_of_windowRank_own {me off : Nat} (hlt : ownAddr me off < 2 ^ 28) (h : windowRank me (ownAddr me off) = me) : off < 2 ^ 23 := by
  unfold windowRank at h
  have hdie : ownAddr me off / 2 ^ 27 = ownAddr me off / 2 ^ 23 / 16 := by rw [Nat.div_div_eq_div_mul, ← Nat.pow_add (n := 4)]
  have hsum : ownAddr me off / 2 ^ 23 = me % 16 + off / 2 ^ 23 := by rw [ownAddr, Nat.mul_comm, Nat.mul_add_div (Nat.two_pow_pos 23)]
  have hq : ownAddr me off / 2 ^ 23 < 32 := Nat.div_lt_of_lt_mul hlt
  rw [hdie, hsum] at h
  rw [hsum] at hq
  suffices off / 2 ^ 23 = 0 from (Nat.div_eq_zero_iff_lt (Nat.two_pow_pos 23)).1 this
  generalize off / 2 ^ 23 = q at *
  simp only [bne_iff_ne, ne_eq, decide_eq_decide] at h
  split at h <;> omega

/-- What a gang whose cohort has no handle out reads of its own partition at issue lies in it. -/
theorem own_range_of_read {s t : State} {g : GangId} {b : BlockId} {gr : Grid} {co : Cohort} {list n : Nat} {bs : List Byte}
    (hb : g.block? = some b) (hgr : s.gridOf g = some gr) (hco : s.cohort? b = some co) (htable : co.table = []) (h0 : 0 < n)
    (h : s.engineReadAll g 1 (ownAddr (s.rank b) list) n = (t, .ok bs)) : list + n ≤ gr.record.lsSz * 4096 := by
  obtain ⟨-, hread⟩ := engineReadAll_ok h
  obtain ⟨w, hmem, hw0, hwn, hw16, hwa⟩ := exists_last_piece n (ownAddr (s.rank b) list) n h0 (Nat.le_refl n)
  obtain ⟨u, v, x, hu, hx⟩ := hread _ hmem
  obtain ⟨co', hco', htable'⟩ : ∃ co', u.cohort? b = some co' ∧ co'.table = [] := by
    have ht := hu.table b
    rw [hco, Option.map_some, htable] at ht
    exact Option.map_eq_some_iff.1 ht
  have hend : ownAddr (s.rank b) list + n - w = ownAddr (s.rank b) (list + n - w) := by simp only [ownAddr]; omega
  rw [hend] at hx hwa
  obtain ⟨hlt, p, hloc⟩ := locateLoc_of_engineRead hx
  obtain ⟨hrank, hoff⟩ := locateLoc_own hb ((hu.gridOf g).trans hgr) hco' htable' hloc
  rw [hu.rank b] at hrank
  have hsmall := lt_of_windowRank_own hlt hrank
  have hwindow : w ∣ 2 ^ 23 := hw16.trans (Dvd.intro (2 ^ 19) rfl)
  have hpage : w ∣ gr.record.lsSz * 4096 := Dvd.dvd.mul_left (hw16.trans (Dvd.intro 256 rfl)) _
  have hmod : ownAddr (s.rank b) (list + n - w) % 2 ^ 23 = list + n - w := by rw [ownAddr, Nat.mul_add_mod_of_lt hsmall]
  have hdvd : w ∣ list + n - w := by rwa [ownAddr, Nat.dvd_add_right (hwindow.mul_left _)] at hwa
  rw [hmod] at hoff
  have hstep : w ≤ gr.record.lsSz * 4096 - (list + n - w) := Nat.le_of_dvd (by omega) (Nat.dvd_sub hpage hdvd)
  omega

/-! ## The whole gang issues -/

theorem Gang.guarded_of_wholeGang {g : Gang} {m : BitVec 8} {gd : Guard} (h : WholeGang g m gd) : g.guarded m gd = setBits 8 m.toNat := by
  obtain ⟨-, -, hall⟩ := h
  unfold Gang.guarded
  refine List.filter_eq_self.2 fun i hi => ?_
  obtain ⟨h8, hm⟩ := mem_setBits_bits.1 hi
  obtain ⟨sl, hsl, hg⟩ := hall i h8 hm
  rw [hsl]
  exact hg

/-- A gang-wide instruction of a whole gang, all of whose lanes are there where the instruction needs them, is not refused (R34). -/
theorem Gang.gangWide_none {g : Gang} {m : BitVec 8} {gd : Guard} {matrix : Bool} (h : WholeGang g m gd) (hm : matrix = true → AllLanes g) :
    g.gangWide m gd matrix = none := by
  have hguarded := Gang.guarded_of_wholeGang h
  unfold Gang.gangWide
  extract_lets missing k
  have hmissing : matrix = true → missing = [] := by
    intro hmat
    refine List.filter_eq_nil_iff.2 fun l hl => ?_
    have hlt : l / 4 < g.slices.length := by have := List.mem_range.1 hl; omega
    obtain ⟨hx, ha⟩ := hm hmat _ (List.getElem_mem hlt)
    have hsl : g.slice? (l / 4) = some g.slices[l / 4] := List.getElem?_eq_getElem hlt
    have hbit : bit (15 : BitVec 4) (l % 4) = true := (by decide : ∀ k < 4, bit (15 : BitVec 4) k = true) _ (Nat.mod_lt _ (by omega))
    simp only [hsl, hx, ha, hbit, Bool.not_true, Bool.or_self, Bool.false_eq_true, not_false_eq_true]
  rw [if_neg (by have := h.1; omega), if_neg, if_neg]
  · simp [k, hguarded]
  · cases hmat : matrix
    · simp
    · simp [hmissing hmat]

/-- An engine instruction whose gang is whole is decided by its check and then by its run (R300, R302). -/
theorem engineInstr_at {s : State} {g : Gang} {m : BitVec 8} {gd : Guard} {i : Nat} {sl : Slice} {onControl matrix : Bool} (stay : Bool)
    (hE : EngineAt s g m gd i sl) (hctl : g.id.isControl = true → onControl = true) (hmat : matrix = true → AllLanes g)
    (check : State → Gang → Nat → Slice → Option (Nat × Nat)) (run : State → Gang → Nat → Slice → List Word → Issued) :
    engineInstr s gd onControl matrix stay check run = .next (match check s g i sl with
      | some (cause, info) => s.trapSlice g i cause info
      | none => match run s g i sl s.issue.words with
        | .ok s => match s.gang? g.id with
          | some g => (s.passPart g m).dropFetched g.id
          | none => s
        | .trapped s => s.dropFetched g.id
        | .wait s w => match s.gang? g.id with
          | some g => s.waitPart g m w
          | none => s) := by
  obtain ⟨hat, hwhole, hop, hdet⟩ := hE
  have hctl' : ¬ (g.id.isControl && !onControl) = true := by
    cases hc : g.id.isControl
    · simp
    · simp [hctl hc]
  unfold engineInstr
  rw [withScalar_at hat, if_neg hctl', Gang.gangWide_none hwhole hmat]
  simp only [Gang.guarded_isEmpty hwhole.2.1, hop, hdet, Bool.false_eq_true, if_false] <;> rfl

/-! ## An operation is accepted -/

/-- What an operation that is added to the engines' leaves. -/
theorem State.addOp_frame (s : State) (k : GangId) (i : Nat) (ws : List Word) (o : OpKind) :
    (s.addOp k i ws o).ops = s.ops ++ [⟨s.nextOp, k, o, i, ws, false, false, none⟩] ∧ (s.addOp k i ws o).nextOp = s.nextOp + 1 ∧
    (s.addOp k i ws o).mem = s.mem ∧ (s.addOp k i ws o).ls = s.ls ∧ (s.addOp k i ws o).wgt = s.wgt ∧ (s.addOp k i ws o).grids = s.grids ∧
    (s.addOp k i ws o).outputs = s.outputs ∧ (s.addOp k i ws o).issue = s.issue ∧ (s.addOp k i ws o).blocks = s.blocks ∧
    ∀ j, (s.addOp k i ws o).gang? j = s.gang? j := by
  have h := unseen_countSent s k 1 0
  obtain ⟨-, hout, hissue, -, hmem, hls, hwgt, -, -, -, hgrids, hblocks, -⟩ := h.fields
  exact ⟨rfl, rfl, hmem, hls, hwgt, hgrids, hout, hissue, hblocks, h.gang?⟩

/-- What is left of the engines' and memories' fields where a part goes on and what it had fetched is dropped. -/
theorem State.passPart_dropFetched_frame (s : State) (x : Gang) (m : BitVec 8) (k : GangId) :
    ((s.passPart x m).dropFetched k).ops = s.ops ∧ ((s.passPart x m).dropFetched k).nextOp = s.nextOp ∧
    ((s.passPart x m).dropFetched k).mem = s.mem ∧ ((s.passPart x m).dropFetched k).ls = s.ls ∧ ((s.passPart x m).dropFetched k).wgt = s.wgt ∧
    ((s.passPart x m).dropFetched k).grids = s.grids ∧ ((s.passPart x m).dropFetched k).outputs = s.outputs ∧
    ((s.passPart x m).dropFetched k).blocks = s.blocks ∧ ∀ j, ((s.passPart x m).dropFetched k).gang? j = (s.passPart x m).gang? j :=
  ⟨rfl, rfl, rfl, rfl, rfl, rfl, rfl, rfl, fun _ => rfl⟩

/-- An operation of kind `k` is accepted once its gang `h`, changed as the operation changes it, is in its place. -/
theorem accepted_of_addOp {s t : State} {g h : Gang} {m : BitVec 8} {i : Nat} {k : OpKind} (hh : t.gang? g.id = some h) (hid : h.id = g.id)
    (hother : OthersSame s t g.id) (hissue : t.issue = s.issue) (hops : t.ops = s.ops) (hnext : t.nextOp = s.nextOp) (hmem : t.mem = s.mem)
    (hls : t.ls = s.ls) (hwgt : t.wgt = s.wgt) (hgrids : t.grids = s.grids) (hout : t.outputs = s.outputs) :
    Accepted s g m i k (fun _ => h) (.next (match (t.addOp g.id i s.issue.words k).gang? g.id with
      | some x => ((t.addOp g.id i s.issue.words k).passPart x m).dropFetched x.id
      | none => t.addOp g.id i s.issue.words k)) := by
  obtain ⟨h1, h2, h3, h4, h5, h6, h7, h8, -, h10⟩ := State.addOp_frame t g.id i s.issue.words k
  generalize t.addOp g.id i s.issue.words k = u at *
  have hu : u.gang? h.id = some h := (h10 h.id).trans (hid ▸ hh)
  have hsize : u.issueSize = s.issueSize := by simp only [State.issueSize, h8, hissue]
  obtain ⟨f1, f2, f3, f4, f5, f6, f7, -, f9⟩ := State.passPart_dropFetched_frame u h m h.id
  rw [show u.gang? g.id = some h from (h10 g.id).trans hh]
  dsimp only
  refine ⟨_, h.runPart m fun _ sl => sl.advance s.issueSize, rfl, ?_, fun j hj => ?_, partRuns_runPart .., ?_, ?_, f3.trans (h3.trans hmem),
    f4.trans (h4.trans hls), f5.trans (h5.trans hwgt), f6.trans (h6.trans hgrids), f7.trans (h7.trans hout)⟩
  · have hp := State.passPart_gang? m ⟨h, hu⟩
    rw [hid, hsize] at hp
    exact (f9 g.id).trans hp
  · exact (f9 j).trans ((State.passPart_othersSame u h m j (hid ▸ hj)).trans ((h10 j).trans (hother j hj)))
  · rw [f1, h1, hops, hnext]
  · rw [f2, h2, hnext]

end Sys2Proof.Machine
end

section
/-! CERTIFICATE. COPY, COPYR, GATH and SCAD. -/
set_option Elab.async false
namespace Sys2Proof.Proofs
open Sys2Proof Sys2Proof.Machine Sys2Proof.Claims

theorem joined_id (n : Nat) (g : Gang) : (joined n g).id = g.id := by
  unfold joined
  split <;> rfl

/-- An operation joins the open batch where it has room, or can be sealed (R81). -/
theorem joinBatch_ok {s : State} {g : Gang} (h : ¬ (256 ≤ g.openOps.length ∧ 15 ≤ g.sealed.length)) (i : Nat) (ws : List Word) (k : OpKind) :
    s.joinBatch g i ws k = .ok ((s.setGang (joined s.nextOp g)).addOp g.id i ws k) := by
  have hroom : ¬ (decide (g.openOps.length ≥ openRoom) && decide (g.sealed.length ≥ batchRoom)) = true := by
    simpa [openRoom, batchRoom] using h
  unfold State.joinBatch joined
  rw [if_neg hroom]
  by_cases hfull : 256 ≤ g.openOps.length
  · rw [if_pos hfull, if_pos (show g.openOps.length ≥ openRoom from hfull)]
    rfl
  · rw [if_neg hfull, if_neg (show ¬ g.openOps.length ≥ openRoom from hfull)]

/-- An operation that joins the open batch after what it read at issue is accepted. -/
theorem accepted_of_join {s t : State} {g : Gang} (hs : s.gang? g.id = some g) (hu : Unseen s t) (m : BitVec 8) (i : Nat) (k : OpKind) :
    Accepted s g m i k (joined s.nextOp) (.next (match ((t.setGang (joined t.nextOp g)).addOp g.id i s.issue.words k).gang? g.id with
      | some x => (((t.setGang (joined t.nextOp g)).addOp g.id i s.issue.words k).passPart x m).dropFetched x.id
      | none => (t.setGang (joined t.nextOp g)).addOp g.id i s.issue.words k)) := by
  obtain ⟨-, hout, hissue, -, hmem, hls, hwgt, -, -, -, hgrids, -, -, hops, hnext, -⟩ := hu.fields
  have hid := joined_id t.nextOp g
  have hh : (t.setGang (joined t.nextOp g)).gang? g.id = some (joined t.nextOp g) := by
    rw [← hid]
    exact State.gang?_setGang_same (g := g) (by rw [hu.gang?, hid]; exact hs)
  rw [← hnext]
  exact accepted_of_addOp hh hid (othersSame_trans (hu.othersSame g.id) (othersSame_setGang hid)) hissue hops hnext hmem hls hwgt hgrids hout

theorem addressOf_eq (sl : Slice) (space n : Nat) :
    (if space = 0 || space = 2 then (sl.reg n).toNat + 2 ^ 32 * (sl.reg (n + 1)).toNat else (sl.reg n).toNat) = addressOf sl space n := by
  simp [addressOf]

/-- R81, R303 to R305, R309. -/
theorem copiesJoinBatch : Claims.CopiesJoinBatch := by
  unfold Claims.CopiesJoinBatch
  intro s g m x i sl reduce hE cw c die ins
  have hat := hE.1
  have hexec : exec ins s = engineInstr s x.g true false false (fun _ g _ sl => copyCheck x reduce g sl) (copyRun x reduce) := by
    cases reduce <;> rfl
  have hcheck : copyCheck x reduce g sl = if copyAllowed c cw die x.d.val x.a.val then none else some (0x45, 0) := rfl
  have hat := engineInstr_at (onControl := true) (matrix := false) false hE (fun _ => rfl) (fun h => nomatch h)
    (fun _ g _ sl => copyCheck x reduce g sl) (copyRun x reduce)
  refine ⟨?_, ?_, ?_, ?_, addressOf_eq .., addressOf_eq .., rfl, rfl, fun hallow hroom hbusy => ?_, fun hallow => ?_⟩
  · show fieldNat cw 0 20 = _
    simp [fieldNat]
  · rfl
  · rfl
  · show cw.toNat / 2 ^ 30 % 2 ^ 2 = _
    have := cw.isLt
    omega
  · have hrun : copyRun x reduce s g i sl s.issue.words = s.joinBatch g i s.issue.words (.copy c) := by
      unfold copyRun
      split
      next d k hid =>
        have hdie : die = some d := by simp only [die, hid]
        exact if_neg (by simpa using hbusy d hdie)
      · rfl
    rw [hexec, hat, hcheck, if_pos hallow]
    dsimp only
    rw [hrun, joinBatch_ok hroom]
    exact accepted_of_join hE.1.2 (.refl s) m i (.copy c)
  · rw [hexec, hat, hcheck, if_neg (by simp [hallow])]
    rfl

theorem eraseDups_of_nodup {l : List Nat} (h : l.Nodup) : l.eraseDups = l := by
  induction l with
  | nil => rfl
  | cons a l ih =>
    obtain ⟨ha, hl⟩ := List.nodup_cons.1 h
    have hf : l.filter (fun b => !b == a) = l := List.filter_eq_self.2 fun b hb => by
      have : b ≠ a := fun h => ha (h ▸ hb)
      simpa using this
    rw [List.eraseDups_cons, hf, ih hl]

/-- GATH or SCAD ends its issue in joining the open batch, with the fields that its operands give it (R309, R311). -/
def GatherJoins (s : State) (g : Gang) (i : Nat) (ws : List Word) (scad : Bool) (d : List Byte) (indices left : List Nat) (tile mask : Nat)
    (r : Issued) : Prop :=
  ∃ op : GatherOp, r = s.joinBatch g i ws (.gather op) ∧ op.scad = scad ∧ op.desc = d ∧ op.indices = indices ∧ op.left = left ∧
    op.failed = [] ∧ op.tile = tile ∧ op.maskAddr = mask

theorem GatherJoins.of_not {s : State} {g : Gang} {i : Nat} {ws : List Word} {scad : Bool} {d : List Byte} {indices left : List Nat} {tile mask : Nat}
    {c : Prop} [Decidable c] {r r' : Issued} (hc : ¬ c) (h : GatherJoins s g i ws scad d indices left tile mask r') :
    GatherJoins s g i ws scad d indices left tile mask (if c then r else r') := by
  rwa [if_neg hc]

/-- What GATH or SCAD comes to once all that it reads at issue has been read and passes the checks (R309, R311). -/
theorem gatherRun_ok {s s1 s2 s3 : State} {g : Gang} {x : GathForm} {scad : Bool} {i : Nat} {sl : Slice} {bid : BlockId} {gr : Grid} {co : Cohort}
    {d l bs : List Byte} {cw : Word} {n tile list mask : Nat} (hcw : sl.reg (4 * x.b.val) = cw) (hn : fieldNat cw 0 10 + 1 = n)
    (ht : (sl.reg (2 * x.d.val)).toNat = tile) (hli : (sl.reg (2 * x.d.val + 1)).toNat = list)
    (hma : (tile + n / 2 ^ fieldNat cw 12 4 * descRowBytes d + 63) / 64 * 64 = mask)
    (hb : g.id.block? = some bid) (hgr : s.gridOf g.id = some gr) (hco : s.cohort? bid = some co) (htable : co.table = [])
    (halign : sl.pair x.a % 64 = 0) (hd : s.issueRead g.id 0 (sl.pair x.a) 64 = (s1, .ok d)) (hdok : descOk d = true)
    (hreg : s1.registered d = true) (hl : s1.pageRead g.id (descField d 64 56) (2 * descNp d) = (s2, .ok l))
    (hnodup : ((List.range (descNp d)).map fun k => ofLeBytes ((l.drop (2 * k)).take 2)).Nodup)
    (hcontrol : gatherControlOk scad cw (descFmt d) = true) (htile : tile % 64 = 0) (hlist : list % 16 = 0)
    (hmask : mask + 64 ≤ gr.record.lsSz * 4096) (hstamp : fieldNat cw 30 2 = 2 → (sl.reg (4 * x.b.val + 1)).toNat % 8 = 0)
    (hbs : s2.engineReadAll g.id 1 (ownAddr (s.rank bid) list) (4 * n) = (s3, .ok bs)) :
    GatherJoins s3 g i s.issue.words scad d ((wordsOfBytes n bs).map fun w => w.toNat) (List.range n) (ownAddr (s.rank bid) tile)
      (ownAddr (s.rank bid) mask) (gatherRun x scad s g i sl s.issue.words) := by
  have hu : Unseen s s2 := (unseen_issueRead hd).trans (unseen_pageRead hl)
  obtain ⟨co', hco', htable'⟩ : ∃ co', s2.cohort? bid = some co' ∧ co'.table = [] := by
    have ht := hu.table bid
    rw [hco, Option.map_some, htable] at ht
    exact Option.map_eq_some_iff.1 ht
  have hgr' : s2.gridOf g.id = some gr := (hu.gridOf _).trans hgr
  have hrank := hu.rank bid
  rw [← hrank] at hbs
  have hrange := own_range_of_read hb hgr' hco' htable' (by omega) hbs
  have hcob : g.id.block?.bind s2.cohort? = some co' := by rw [hb]; exact hco'
  have hnone (off k : Nat) : handleInfo co'.table (s2.rank bid) (s2.rank bid) off k = none := by simp [handleInfo, htable']
  unfold gatherRun
  extract_lets b handle cw' fault n' tile' list' stamped
  obtain rfl : cw' = cw := hcw
  obtain rfl : n' = n := hn
  obtain rfl : tile' = tile := ht
  obtain rfl : list' = list := hli
  refine .of_not (by simpa using halign) ?_
  generalize hr : s.issueRead g.id 0 handle 64 = r
  cases hr.symm.trans hd
  refine .of_not (by simp [hdok, hreg]) ?_
  generalize hr : s1.pageRead g.id (descField d 64 56) (2 * descNp d) = r
  cases hr.symm.trans hl
  split
  next hr => cases hr
  next hr =>
    cases hr
    extract_lets pkgs size mask'
    obtain rfl : mask' = mask := hma
    split
    next hb' hgr'' hco'' =>
      cases hb'.symm.trans hb
      cases hgr''.symm.trans hgr'
      cases hco''.symm.trans hcob
      extract_lets me
      refine .of_not (by simp [pkgs, eraseDups_of_nodup hnodup]) (.of_not ?_ (.of_not (by omega) ?_))
      · simpa [hcontrol, htile, hlist, hmask, stamped] using hstamp
      have hfree (l : List (Nat × Nat)) : (l.findSome? fun p =>
          (handleInfo co'.table me me p.1 p.2).map fun e => (⟨0x18, e, 1, ownAddr me p.1⟩ : AccFault)) = none :=
        List.findSome?_eq_none_iff.2 fun p _ => by rw [hnone p.1 p.2]; rfl
      generalize hr : List.findSome? _ [(tile', size), (list', 4 * n'), (mask', 64)] = r
      cases hr.symm.trans (hfree _)
      generalize hr : s2.engineReadAll g.id 1 (ownAddr me list') (4 * n') = r
      cases hr.symm.trans hbs
      exact ⟨_, rfl, rfl, rfl, rfl, rfl, rfl, by rw [← hrank], by rw [← hrank]⟩
    next hno => exact absurd hcob (hno _ _ _ hb hgr')
  next hok heq =>
    obtain ⟨-, rfl⟩ := Prod.mk.inj heq
    exact (hok _ rfl).elim

theorem gatherRun_misaligned {s : State} {g : Gang} {m : BitVec 8} (hwho : s.issue.who = .scalar g.id m) {x : GathForm} {sl : Slice}
    (h : sl.pair x.a % 64 ≠ 0) (scad : Bool) (i : Nat) (ws : List Word) :
    gatherRun x scad s g i sl ws = .trapped (s.takeTrap g.id (TrapInfo.plain 0x40 0 0 i ws)) := by
  unfold gatherRun
  extract_lets b handle
  rw [if_pos (show handle % 64 ≠ 0 from h), State.refuse, State.engineSrc, hwho]
  rfl

/-- R106, R309 to R311. -/
theorem gathersJoinBatch : Claims.GathersJoinBatch := by
  unfold Claims.GathersJoinBatch
  intro s s1 s2 s3 g m x scad i sl bid gr co d l bs hE hb hgr hco ins cw n tile list size mask
  have hwho := hE.1.1
  have hexec : exec ins s = engineInstr s x.g false false false (fun _ _ _ _ => none) (gatherRun x scad) := by cases scad <;> rfl
  have hctl : ¬ g.id.isControl = true := by intro h; cases hk : g.id <;> simp [hk, GangId.isControl, GangId.block?] at h hb
  have hpair : sl.pair x.a = addressOf sl 0 (2 * x.a.val) := by simp [addressOf, Slice.pair]
  have hn : fieldNat cw 0 10 + 1 = n := by simp [fieldNat, n]
  have hmode : fieldNat cw 30 2 = cw.toNat / 2 ^ 30 := by
    have := cw.isLt
    rw [fieldNat]
    omega
  have hma : (tile + n / 2 ^ fieldNat cw 12 4 * descRowBytes d + 63) / 64 * 64 = mask := by
    rw [show fieldNat cw 12 4 = cw.toNat / 2 ^ 12 % 16 from rfl]
  have hcw : sl.reg (4 * x.b.val) = cw := rfl
  have ht : (sl.reg (2 * x.d.val)).toNat = tile := rfl
  have hli : (sl.reg (2 * x.d.val + 1)).toNat = list := rfl
  clear_value cw n tile list mask
  rw [hexec, engineInstr_at (onControl := false) (matrix := false) false hE (fun h => absurd h hctl) (fun h => Bool.noConfusion h)
    (fun _ _ _ _ => none) (gatherRun x scad)]
  refine ⟨fun hal => ?_, fun hal hd hdok hreg hl hnodup hcontrol htile hlist hmask hstamp htable hbs hroom => ?_⟩
  · dsimp only
    rw [gatherRun_misaligned hwho (hpair ▸ hal)]
  · obtain ⟨op, hrun, hscad, hdesc, hind, hleft, hfailed, hat, hmaskAt⟩ := gatherRun_ok (s3 := s3) (bs := bs)
      (x := x) (scad := scad) (i := i) hcw hn ht hli hma hb hgr hco htable (hpair ▸ hal) (hpair ▸ hd) hdok hreg hl
      hnodup hcontrol htile hlist hmask (hmode ▸ hstamp) hbs
    refine ⟨op, ?_, hscad, hdesc, hind, hleft, hfailed, hat, hmaskAt⟩
    dsimp only
    rw [hrun, joinBatch_ok hroom]
    exact accepted_of_join hE.1.2 ((unseen_issueRead hd).trans ((unseen_pageRead hl).trans (engineReadAll_ok hbs).1)) m i (.gather op)

/-- Settles O22: each instruction joins the open batch once what it looks at allows it. -/
theorem batchedOperations : Obligations.BatchedOperations := ⟨copiesJoinBatch, gathersJoinBatch⟩

end Sys2Proof.Proofs
end

section
/-! CERTIFICATE. MXZ, MXLD, MXST and EPLD. -/
set_option Elab.async false
namespace Sys2Proof.Proofs
open Sys2Proof Sys2Proof.Machine Sys2Proof.Claims

/-- Nothing but the blocks differs. -/
def BlocksOnly (s t : State) : Prop := t = { s with blocks := t.blocks }

theorem blocksOnly_claimSlot (s : State) (b : BlockId) (k : Nat) : BlocksOnly s (s.claimSlot b k) := by
  unfold State.claimSlot
  split
  · split <;> rfl
  · rfl

theorem lookupAt_isSome_of_any {α : Type} {k : Nat} {l : List (Nat × α)} (h : (l.any fun p => p.1 == k) = true) : (lookupAt k l).isSome := by
  induction l with
  | nil => cases h
  | cons p l ih =>
    rw [lookupAt]
    by_cases hp : p.1 = k
    · rw [if_pos hp]; rfl
    · rw [if_neg hp]
      exact ih (by simpa [hp] using h)

/-- The block whose gang claims an accumulator slot holds it (R58). -/
theorem holdsSlot_claimSlot {s : State} {bid : BlockId} {b : Block} (hb : s.block? bid = some b) (k : Nat) : HoldsSlot (s.claimSlot bid k) bid k := by
  obtain rfl := State.block?_id hb
  unfold State.claimSlot
  rw [hb]
  dsimp only
  by_cases hk : (b.accs.any fun p => p.1 == k) = true
  · rw [if_pos hk]
    exact ⟨b, hb, lookupAt_isSome_of_any hk⟩
  · rw [if_neg hk]
    refine ⟨_, State.block?_setBlock_same (b' := { b with accs := insertAt k ⟨.slot (32 * s.clock + k), []⟩ b.accs }) hb, ?_⟩
    rw [lookupAt_insertAt, if_pos rfl]
    rfl

/-- A tile operation is accepted, its gang's t raised for it. -/
theorem accepted_tile {s t : State} {g : Gang} {m : BitVec 8} {i : Nat} {k : OpKind} (hg : t.gang? g.id = some g) (hother : OthersSame s t g.id)
    (hissue : t.issue = s.issue) (hops : t.ops = s.ops) (hnext : t.nextOp = s.nextOp) (hmem : t.mem = s.mem) (hls : t.ls = s.ls)
    (hwgt : t.wgt = s.wgt) (hgrids : t.grids = s.grids) (hout : t.outputs = s.outputs) :
    Accepted s g m i k (oneMoreTile s.nextOp) (.next (match (t.addTile g.id i s.issue.words k).gang? g.id with
      | some x => ((t.addTile g.id i s.issue.words k).passPart x m).dropFetched x.id
      | none => t.addTile g.id i s.issue.words k)) := by
  have hraise : t.raiseT g.id t.nextOp = t.setGang (oneMoreTile s.nextOp g) := by
    rw [State.raiseT, hg, ← hnext]
    rfl
  rw [State.addTile, hraise]
  exact accepted_of_addOp (State.gang?_setGang_same (g := g) (g' := oneMoreTile s.nextOp g) hg) rfl
    (othersSame_trans hother (othersSame_setGang (g' := oneMoreTile s.nextOp g) rfl)) hissue hops hnext hmem hls hwgt hgrids hout

theorem accepted_tile_unseen {s t : State} {g : Gang} (hs : s.gang? g.id = some g) (hu : Unseen s t) (m : BitVec 8) (i : Nat) (k : OpKind) :
    Accepted s g m i k (oneMoreTile s.nextOp) (.next (match (t.addTile g.id i s.issue.words k).gang? g.id with
      | some x => ((t.addTile g.id i s.issue.words k).passPart x m).dropFetched x.id
      | none => t.addTile g.id i s.issue.words k)) := by
  obtain ⟨-, hout, hissue, -, hmem, hls, hwgt, -, -, -, hgrids, -, -, hops, hnext, -⟩ := hu.fields
  exact accepted_tile ((hu.gang? g.id).trans hs) (hu.othersSame g.id) hissue hops hnext hmem hls hwgt hgrids hout

theorem State.addTile_blocks (s : State) (g : GangId) (i : Nat) (ws : List Word) (k : OpKind) : (s.addTile g i ws k).blocks = s.blocks := by
  obtain ⟨-, -, -, -, -, -, -, -, hb, -⟩ := State.addOp_frame (s.raiseT g s.nextOp) g i ws k
  rw [State.addTile, hb, State.raiseT]
  split <;> rfl

/-- A slot that is free, or the block's own, is not another block's. -/
theorem slotForeign_none {s : State} {b : Block} {k : Nat} (h : SlotFree s b k) : s.slotForeign b k = none := by
  unfold State.slotForeign
  rcases h with h | h <;> simp [h]

theorem slotRun_eq {s : State} {g : Gang} {bid : BlockId} (hb : g.id.block? = some bid) (ht : g.t < 63) (mk : Slice → TileOp) (d i : Nat) (sl : Slice)
    (ws : List Word) :
    slotRun mk d s g i sl ws = .ok ((s.claimSlot bid (fieldNat (sl.reg d) 0 5)).addTile g.id i ws (.tile (mk sl))) := by
  unfold slotRun
  rw [if_neg (by simpa [tileRoom] using ht), hb]

/-- Claiming a slot and one tile operation: what MXZ and MXLD do once their slot word is in order (R58, R326). -/
theorem slotOperation {s : State} {g : Gang} {m : BitVec 8} {gd : Guard} {i : Nat} {sl : Slice} {bid : BlockId} {b : Block} {d : Nat}
    (hE : EngineAt s g m gd i sl) (hall : AllLanes g) (hbid : g.id.block? = some bid) (hb : s.block? bid = some b) (ht : g.t < 63)
    (hslot : (sl.reg d).toNat < 32) (hfree : SlotFree s b (sl.reg d).toNat) (src : Option Nat)
    (halign : ∀ a, src = some a → (sl.reg a).toNat % 64 = 0) (mk : Slice → TileOp) :
    Accepted s g m i (.tile (mk sl)) (oneMoreTile s.nextOp) (engineInstr s gd false true false (slotWordCheck d src) (slotRun mk d)) ∧
      ∀ t, engineInstr s gd false true false (slotWordCheck d src) (slotRun mk d) = .next t → HoldsSlot t bid (sl.reg d).toNat := by
  have hctl : ¬ g.id.isControl = true := by
    cases hk : g.id with
    | compute b n => exact Bool.false_ne_true
    | control die k => rw [hk] at hbid; cases hbid
  have hlow : fieldNat (sl.reg d) 0 5 = (sl.reg d).toNat := by rw [fieldNat]; omega
  have hhigh : fieldNat (sl.reg d) 5 27 = 0 := by rw [fieldNat]; omega
  have hcheck : slotWordCheck d src s g i sl = none := by
    unfold slotWordCheck
    rw [if_neg (by simpa using hhigh), if_neg]
    · rw [State.blockOf, hbid]
      show (s.block? bid).bind _ = none
      rw [hb, hlow]
      exact slotForeign_none hfree
    · cases src with
      | none => exact Bool.false_ne_true
      | some a => simpa using halign a rfl
  rw [engineInstr_at (onControl := false) (matrix := true) false hE (fun h => absurd h hctl) (fun _ => hall), hcheck]
  dsimp only
  rw [slotRun_eq hbid ht, hlow]
  dsimp only
  have heq := blocksOnly_claimSlot s bid (sl.reg d).toNat
  have hholds := holdsSlot_claimSlot hb (sl.reg d).toNat
  generalize s.claimSlot bid (sl.reg d).toNat = u at heq hholds
  have hacc : Accepted s g m i (.tile (mk sl)) (oneMoreTile s.nextOp) (.next (match (u.addTile g.id i s.issue.words (.tile (mk sl))).gang? g.id with
      | some x => ((u.addTile g.id i s.issue.words (.tile (mk sl))).passPart x m).dropFetched x.id
      | none => u.addTile g.id i s.issue.words (.tile (mk sl)))) := by
    rw [heq]
    exact accepted_tile (t := { s with blocks := u.blocks }) hE.1.2 (fun _ _ => rfl) rfl rfl rfl rfl rfl rfl rfl rfl
  refine ⟨hacc, fun t hnext => ?_⟩
  injection hnext with hnext
  subst hnext
  have hblocks := State.addTile_blocks u g.id i s.issue.words (.tile (mk sl))
  generalize u.addTile g.id i s.issue.words (.tile (mk sl)) = v at hblocks
  obtain ⟨y, hy, hys⟩ := hholds
  refine ⟨y, ?_, hys⟩
  have hv : v.block? bid = some y := by rw [State.block?, hblocks]; exact hy
  split
  · exact hv
  · exact hv

/-- R58, R326. -/
theorem slotOperations : Claims.SlotOperations := by
  unfold Claims.SlotOperations
  intro s g m gd d a i sl bid b hE hall hbid hb ht hslot hfree
  have hlow : fieldNat (sl.reg d.val) 0 5 = (sl.reg d.val).toNat := by rw [fieldNat]; omega
  constructor
  · have h := slotOperation hE hall hbid hb ht hslot hfree none (fun _ h => nomatch h) (fun sl => .zero (fieldNat (sl.reg d.val) 0 5))
    rw [hlow] at h
    exact h
  · intro hal
    have h := slotOperation hE hall hbid hb ht hslot hfree (some a.val) (fun x hx => by cases hx; exact hal)
      (fun sl => .load (fieldNat (sl.reg d.val) 0 5) (sl.reg a.val).toNat)
    rw [hlow] at h
    exact h

/-- An EPI control word of MXST below 128 names its slot alone besides the bits RAW and ZERO (R327). -/
theorem mxstCheck_none {s : State} {g : Gang} {d a : Pair} {sl : Slice} {blk : Block} (hblk : s.blockOf g.id = some blk)
    (hw : (sl.reg (2 * d.val)).toNat < 128) (hown : s.slotOwner blk.die blk.core ((sl.reg (2 * d.val)).toNat % 32) = some blk.id)
    (hprog : (sl.reg (2 * d.val)).getLsbD 6 = true ∨ sl.pair a % 128 = 0) (i : Nat) : mxstCheck d a s g i sl = none := by
  unfold mxstCheck
  extract_lets w
  have hw : w.toNat < 128 := hw
  have hhigh : fieldNat w 7 25 = 0 := by rw [fieldNat]; omega
  have hlow : fieldNat w 0 5 = w.toNat % 32 := by rw [fieldNat]; omega
  have hsource : ((s.blockOf g.id).bind fun b => s.slotSource b (fieldNat w 0 5)) = none := by
    rw [hblk, hlow]
    show s.slotSource blk _ = none
    rw [State.slotSource, hown]
    exact if_pos rfl
  rw [if_neg (by simpa using hhigh), hsource]
  refine if_neg ?_
  rcases hprog with h | h
  · simp [bit, w, h]
  · simp [h]

/-- The two bands of the format block at `fb`, read in turn (R334). -/
theorem bandFields_ok {s t u : State} {g : GangId} {fb : Nat} {ab bb : List Byte} (ha : s.engineRead g 1 (fb + 8) 4 = (t, .ok ab))
    (hb : t.engineRead g 1 (fb + 40) 4 = (u, .ok bb)) : s.bandFields g fb = (u, ofLeBytes ab, .ok bb) := by
  unfold State.bandFields
  rw [ha]
  dsimp only
  rw [hb]

/-- R327, R334. -/
theorem drainsAccepted : Claims.DrainsAccepted := by
  unfold Claims.DrainsAccepted
  intro s s1 g m gd d a b i sl blk bs prog hE hall hblk ht
  have hs := hE.1.2
  have hroom : ¬ g.t ≥ tileRoom := by simpa [tileRoom] using ht
  have hctl : ¬ g.id.isControl = true := by
    cases hk : g.id with
    | compute b n => exact Bool.false_ne_true
    | control die k => rw [hk] at hblk; cases hblk
  have hmxst := engineInstr_at (onControl := false) (matrix := true) false hE (fun h => absurd h hctl) (fun _ => hall) (mxstCheck d a) (mxstRun d a b)
  have hepld := engineInstr_at (onControl := false) (matrix := true) false hE (fun h => absurd h hctl) (fun _ => hall) (epldCheck a) (epldRun a)
  refine ⟨?_, fun hal => ?_⟩
  · intro w params hw hown
    have accepted {t : State} {x : DrainOp} (hprog : w.getLsbD 6 = true ∨ sl.pair a % 128 = 0) (hu : Unseen s t)
        (hrun : mxstRun d a b s g i sl s.issue.words = .ok (t.addDrain g i s.issue.words x)) :
        Accepted s g m i (.drain x) (oneMoreTile s.nextOp) (exec (.mxst gd d a b) s) := by
      show Accepted _ _ _ _ _ _ (engineInstr s gd false true false (mxstCheck d a) (mxstRun d a b))
      rw [hmxst, mxstCheck_none hblk hw hown hprog, hrun]
      exact accepted_tile_unseen hs hu m i _
    have hraw (r : Bool) (hr : w.getLsbD 6 = r) : bit (sl.reg (2 * d.val)) 6 = r := hr
    have hdrain (p : List Word) (r : Bool) (hr : w.getLsbD 6 = r) :
        drainOf d b sl p = ⟨w.toNat % 32, r, w.getLsbD 5, p, params, 0, 0, 0, 0, WordMap.zero, []⟩ := by
      have hslot : fieldNat w 0 5 = w.toNat % 32 := by rw [fieldNat]; omega
      rw [← hr, ← hslot]
      rfl
    refine ⟨fun h6 => ?_, fun h6 hal hread hcheck hbands => ?_, fun s2 s3 ab bb h6 hal hread hcheck hbands hfb hab hbb => ?_⟩
    · refine accepted (.inl h6) (.refl s) ?_
      rw [mxstRun, if_neg hroom, if_pos (hraw true h6), hdrain [] true h6]
    · refine accepted (.inr hal) (unseen_issueRead hread) ?_
      rw [mxstRun, if_neg hroom, if_neg (hraw false h6 ▸ Bool.false_ne_true), hread]
      dsimp only
      rw [hcheck]
      dsimp only
      rw [if_pos (by simp [hbands]), hdrain prog false h6]
    · have hu := (unseen_issueRead hread).trans ((unseen_engineRead hab).trans (unseen_engineRead hbb))
      refine accepted (.inr hal) hu ?_
      rw [mxstRun, if_neg hroom, if_neg (hraw false h6 ▸ Bool.false_ne_true), hread]
      dsimp only
      rw [hcheck]
      dsimp only
      rw [if_neg (by simp [hbands]), if_neg (by simpa using hfb), bandFields_ok hab hbb, hdrain prog false h6]
  · show Accepted _ _ _ _ _ _ (engineInstr s gd false true false (epldCheck a) (epldRun a))
    have hcheck : epldCheck a s g i sl = none := if_neg (by simpa using hal)
    rw [hepld, hcheck]
    dsimp only
    rw [epldRun, if_neg hroom]
    exact accepted_tile_unseen hs (.refl s) m i _

/-- Settles O25: each of the four is accepted by the way it takes once its checks pass. -/
theorem slotsAndDrains : Obligations.SlotsAndDrains := ⟨slotOperations, drainsAccepted⟩

end Sys2Proof.Proofs
end

section
/-! CERTIFICATE. Inbound RMA and what else the host's link brings. -/
set_option Elab.async false
namespace Sys2Proof.Proofs
open Sys2Proof Sys2Proof.Machine Sys2Proof.Claims

theorem bit_iff (v : DWord) (k : Nat) : bit v k = true ↔ v.toNat / 2 ^ k % 2 = 1 := by
  rw [bit, BitVec.getLsbD, Nat.testBit_eq_decide_div_mod_eq, decide_eq_true_eq]

theorem fieldNat_high (v : DWord) : fieldNat v 32 32 = v.toNat / 2 ^ 32 := by
  have := v.isLt
  rw [fieldNat]
  omega

theorem fieldNat_zero (v : DWord) (n : Nat) : fieldNat v 0 n = v.toNat % 2 ^ n := by rw [fieldNat, Nat.pow_zero, Nat.div_one]

section
variable (s : State) (key : DWord) (off n : Nat)

/-- What the boot ROM's own regions refuse (R380). -/
theorem romCheck_eq : s.romCheck key off n =
    if key.toNat / 2 ^ 32 ≠ (s.devGet 12 (0x2008 + 16 * (key.toNat % 64))).toNat % 2 ^ 32 then some 1
    else if (s.devGet 12 (0x2008 + 16 * (key.toNat % 64))).toNat / 2 ^ 32 % 2 ^ 18 * 2 ^ 16 < off + n then some 2 else none := by
  rw [State.romCheck, fieldNat_high, fieldNat_zero, fieldNat_zero]
  rfl

theorem romRuns_iff : s.romRuns = true ↔ s.stage = 1 ∨ s.stage = 15 := by simp [State.romRuns]

/-- The error classes of an inbound RMA in R89's order: its key and region, its range, its permission. -/
theorem rmaCheck_eq (write : Bool) : ∃ r, s.rmaCheck key off n write =
    let hi := (s.devGet 12 (0x2008 + 16 * (key.toNat % 64))).toNat
    if hi / 2 ^ 63 ≠ 1 ∨ ¬ (hi / 2 ^ 61 % 4 = 0 ∨ hi / 2 ^ 61 % 4 = 2) ∨ hi % 2 ^ 32 ≠ key.toNat / 2 ^ 32 then (s, .bad 1)
    else if hi / 2 ^ 32 % 2 ^ 18 * 2 ^ 16 < off + n then (s, .bad 2)
    else if hi / 2 ^ (if write then 59 else 60) % 2 = 0 then (s, .bad 3) else r := by
  have hregion : (s.region (fieldNat key 0 6)).2.toNat = (s.devGet 12 (0x2008 + 16 * (key.toNat % 64))).toNat := by rw [fieldNat_zero]; rfl
  unfold State.rmaCheck
  extract_lets i e src hi
  have he : e.2.toNat = hi := hregion
  have hlt : hi < 2 ^ 64 := he ▸ e.2.isLt
  have hsrc : src = hi / 2 ^ 61 % 4 := by rw [← he]; rfl
  have h63 : bit e.2 63 = true ↔ hi / 2 ^ 63 = 1 := by rw [bit_iff, he]; omega
  have hkey : (!bit e.2 63 || !(src = 0 || src = 2) || fieldNat e.2 0 32 ≠ fieldNat key 32 32) = true ↔
      (hi / 2 ^ 63 ≠ 1 ∨ ¬ (hi / 2 ^ 61 % 4 = 0 ∨ hi / 2 ^ 61 % 4 = 2) ∨ hi % 2 ^ 32 ≠ key.toNat / 2 ^ 32) := by
    rw [fieldNat_high, fieldNat_zero, he, ← hsrc, ne_eq (hi / 2 ^ 63), ← h63]
    simp [or_assoc]
  have hrange : fieldNat e.2 32 18 = hi / 2 ^ 32 % 2 ^ 18 := by rw [fieldNat, he]
  refine ⟨if 2 ^ 56 < fieldNat e.1 0 56 + off + n then (s, .bad 3)
    else s.rmaPieces (fieldNat e.2 55 4, fieldNat e.2 54 1) (if write then .store else .load)
      (pagePieces (n / 0x10000 + 2) (fieldNat e.1 0 56 + off) n), ?_⟩
  have hbit : bit e.2 (if write then 59 else 60) = true ↔ ¬ hi / 2 ^ (if write then 59 else 60) % 2 = 0 := by rw [bit_iff, he]; omega
  rw [if_congr hkey rfl rfl, hrange]
  split
  · rfl
  split
  · rfl
  by_cases hperm : hi / 2 ^ (if write then 59 else 60) % 2 = 0
  · rw [if_pos hperm, if_pos (by rw [Bool.eq_false_iff.2 (mt hbit.1 (not_not_intro hperm))]; rfl)]
  · rw [if_neg hperm]
    simp only [hbit.2 hperm, Bool.not_true, Bool.false_or, decide_eq_true_eq]
end

/-- A write through the boot ROM's register region that does not touch BOOTCMD changes nothing (R380). -/
theorem romWrite_elsewhere {s : State} {key : DWord} {off : Nat} {data : List Byte} (hkey : key.toNat % 64 = 62)
    (h : off + data.length ≤ 0x4008 ∨ 0x4010 ≤ off) : s.romWrite key off data = s := by
  unfold State.romWrite
  rw [show fieldNat key 0 6 = 62 from (fieldNat_zero key 6).trans hkey, if_neg (by decide)]
  extract_lets first cmd
  refine if_neg ?_
  rcases h with h | h
  · have hfirst : first = 0x4008 := Nat.max_eq_right (by omega)
    have hcmd : cmd = [] := by
      rw [show cmd = (data.drop (first - off)).take (0x4010 - first) from rfl, List.drop_eq_nil_of_le (by omega), List.take_nil]
    simp [hcmd]
  · simp [Nat.not_lt.2 h]

section
variable {s : State} {key : DWord} {off : Nat}

/-- An inbound write behind which nothing of its ROD context waits (R90). -/
theorem execInboundRmaWrite_eq {rod : Option Nat} (h : ∀ x ∈ s.parked, rmaMustFollow rod x = false) (data : List Byte) :
    execInboundRmaWrite ⟨key, rod⟩ off data s =
      if s.romRegion key then match s.romCheck key off data.length with
        | some c => .next (s.emit (.rmaError c))
        | none => .next ((s.romWrite key off data).emit (.rmaDone []))
      else if s.romRuns then .next (s.emit (.rmaError 1))
      else match s.rmaCheck key off data.length true with
        | (s, .bad c) => .next (s.emit (.rmaError c))
        | (s, .wait) => .next { s with parked := s.parked ++ [.inboundRmaWrite ⟨key, rod⟩ off data] }
        | (s, .ok l) => .next ((s.rmaWrite l data).emit (.rmaDone [])) :=
  if_neg (by simpa using h)

/-- An error class answers both kinds of access. -/
theorem exec_rma_rom {rod : Option Nat} {c : Nat} (h : ∀ x ∈ s.parked, rmaMustFollow rod x = false) (data : List Byte)
    (hin : s.romRegion key = true) (hc : s.romCheck key off data.length = some c) :
    execInboundRmaWrite ⟨key, rod⟩ off data s = .next (s.emit (.rmaError c)) ∧
      execInboundRmaRead key off data.length s = .next (s.emit (.rmaError c)) := by
  rw [execInboundRmaWrite_eq h, execInboundRmaRead, if_pos hin, if_pos hin, hc]
  exact ⟨rfl, rfl⟩
end

/-- Settles O47: the write and the read follow R89's order, by what they find parked, the boot ROM's regions, and the region of their key. -/
theorem hostRequests : Obligations.HostRequests := by
  unfold Obligations.HostRequests
  intro s key off data rod port w code i hi src write read sends
  have hwrite : exec write s = execInboundRmaWrite ⟨key, rod⟩ off data s := rfl
  have hread : exec read s = execInboundRmaRead key off data.length s := rfl
  have hidx : fieldNat key 0 6 = i := fieldNat_zero key 6
  have hrom : s.romRegion key = s.boot.romRegions.contains i := congrArg s.boot.romRegions.contains hidx
  rw [hwrite, hread]
  refine ⟨?_, fun hfree => ⟨fun hin => ?_, fun hout => ?_⟩, rfl, fun hw ho => ?_⟩
  · rintro ⟨c, k, o, d, hp, rfl⟩
    rw [execInboundRmaWrite]
    exact if_pos (List.any_eq_true.2 ⟨_, hp, by simp [rmaMustFollow]⟩)
  · have hreg : s.romRegion key = true := by rw [hrom]; simpa using hin
    have hcheck := romCheck_eq s key off data.length
    refine ⟨fun hkey => exec_rma_rom hfree data hreg (hcheck.trans (if_pos hkey)),
      fun hkey hrange => exec_rma_rom hfree data hreg (hcheck.trans ((if_neg (not_not_intro hkey)).trans (if_pos hrange))), fun hkey hrange => ?_⟩
    have hok : s.romCheck key off data.length = none :=
      hcheck.trans ((if_neg (not_not_intro hkey)).trans (if_neg (Nat.not_lt.2 hrange)))
    rw [execInboundRmaWrite_eq hfree, execInboundRmaRead, if_pos hreg, if_pos hreg, hok]
    dsimp only
    rw [State.romRead, hidx]
    refine ⟨fun h63 => ?_, fun h62 => ⟨fun helse => ?_, ?_⟩⟩
    · rw [State.romWrite, hidx, if_pos h63, if_pos h63]
      exact ⟨rfl, rfl⟩
    · rw [romWrite_elsewhere h62 helse]
      rfl
    · rw [if_neg (by rw [h62]; decide)]
      simp only [Bool.and_eq_true, decide_eq_true_eq]
      rfl
  · have hreg : ¬ s.romRegion key = true := by rw [hrom]; simpa using hout
    rw [execInboundRmaWrite_eq hfree, execInboundRmaRead, if_neg hreg, if_neg hreg]
    refine ⟨fun hst => ?_, fun h1 h15 => ?_⟩
    · rw [if_pos ((romRuns_iff s).2 hst), if_pos ((romRuns_iff s).2 hst)]
      exact ⟨rfl, rfl⟩
    have hruns : ¬ s.romRuns = true := by rw [romRuns_iff]; omega
    rw [if_neg hruns, if_neg hruns]
    have hlt : hi < 2 ^ 64 := (s.devGet 12 (0x2008 + 16 * i)).isLt
    have hfour : src < 4 := Nat.mod_lt _ (by decide)
    obtain ⟨r, hw⟩ := rmaCheck_eq s key off data.length true
    obtain ⟨r', hr⟩ := rmaCheck_eq s key off data.length false
    refine ⟨fun hbad => ?_, fun hv hsrc hkey => ?_, fun s1 l hl => ?_, fun s1 hl => ?_, fun s1 hl => ?_, fun s1 l hl => ?_⟩
    · have hkey : hi / 2 ^ 63 ≠ 1 ∨ ¬ (src = 0 ∨ src = 2) ∨ hi % 2 ^ 32 ≠ key.toNat / 2 ^ 32 := by omega
      rw [hw.trans (if_pos hkey), hr.trans (if_pos hkey)]
      exact ⟨rfl, rfl⟩
    · have hok : ¬ (hi / 2 ^ 63 ≠ 1 ∨ ¬ (src = 0 ∨ src = 2) ∨ hi % 2 ^ 32 ≠ key.toNat / 2 ^ 32) := by
        rintro (h | h | h)
        exacts [h hv, h hsrc, h hkey]
      have hw := hw.trans (if_neg hok)
      have hr := hr.trans (if_neg hok)
      refine ⟨fun hrange => ?_, fun hrange => ⟨fun hperm => ?_, fun hperm => ?_⟩⟩
      · rw [hw.trans (if_pos hrange), hr.trans (if_pos hrange)]
        exact ⟨rfl, rfl⟩
      · rw [hw.trans ((if_neg (Nat.not_lt.2 hrange)).trans (if_pos hperm))]
        rfl
      · rw [hr.trans ((if_neg (Nat.not_lt.2 hrange)).trans (if_pos hperm))]
        rfl
    · rw [hl]
    · rw [hl]
    · rw [hl]
    · rw [hl]
      rfl
  · have hnone : (s.outstanding.filter fun o => o.target == hostTarget && o.plane == w) = [] := by
      refine List.filter_eq_nil_iff.2 fun o hmem => ?_
      simpa [hostTarget] using ho o hmem
    by_cases hin : s.abandoned.contains w = true
    · refine ⟨s, ?_, rfl, fun k => ⟨.inl, fun h => h.elim id fun h => h ▸ by simpa using hin⟩⟩
      show execUeContextAbandoned port w code s = _
      unfold execUeContextAbandoned
      rw [State.event_noWindow hw]
      dsimp only
      rw [if_pos hin, hnone]
      rfl
    · refine ⟨{ s with abandoned := s.abandoned ++ [w] }, ?_, rfl, fun k => by simp⟩
      show execUeContextAbandoned port w code s = _
      unfold execUeContextAbandoned
      rw [State.event_noWindow hw]
      dsimp only
      rw [if_neg hin, hnone]
      rfl

end Sys2Proof.Proofs
end

section
/-! CERTIFICATE. Requests and replies: what a target and a requester do with them. -/
set_option Elab.async false
namespace Sys2Proof.Proofs
open Sys2Proof Sys2Proof.Machine Sys2Proof.Claims

/-! ## Counters, filters and what is on its way -/

theorem State.devGet_count_same (s : State) (die off : Nat) : (s.count die off).devGet die off = up (s.devGet die off) := by
  unfold State.count up
  split
  · rfl
  · exact State.devGet_devSet_same ..

theorem State.count_frame (s : State) (die off : Nat) : SameMemory s (s.count die off) ∧ (s.count die off).gangs = s.gangs ∧
    (s.count die off).outstanding = s.outstanding ∧ (s.count die off).flights = s.flights := by
  rw [State.count_eq]
  exact ⟨⟨rfl, rfl, rfl⟩, rfl, rfl, rfl⟩

theorem State.launchFlights_eq (s : State) : s.launchFlights =
    { s with modules := s.launchFlights.modules, flights := s.launchFlights.flights, outputs := s.launchFlights.outputs } := by
  unfold State.launchFlights
  generalize s.flights = l
  induction l generalizing s with
  | nil => rfl
  | cons f l ih =>
    rw [List.foldl_cons, ih]
    split
    · rfl
    · rw [State.launch, State.sendFlit_eq]

theorem State.flitArrived_eq (s : State) (f : Flight) : s.flitArrived f = { s with modules := (s.flitArrived f).modules } := by
  unfold State.flitArrived
  generalize s.modules = l
  induction l generalizing s with
  | nil => rfl
  | cons x l ih =>
    rw [List.foldl_cons, ih]
    split <;> rfl

theorem State.flitArrived_frame (s : State) (f : Flight) : SameMemory s (s.flitArrived f) ∧ (s.flitArrived f).gangs = s.gangs ∧
    (s.flitArrived f).outstanding = s.outstanding ∧ (s.flitArrived f).flights = s.flights ∧ (s.flitArrived f).dev = s.dev ∧
    (s.flitArrived f).filters = s.filters ∧ (s.flitArrived f).dies = s.dies := by
  rw [State.flitArrived_eq]
  exact ⟨⟨rfl, rfl, rfl⟩, rfl, rfl, rfl, rfl, rfl, rfl⟩

/-- A reply of outcome `r` to request `o` is on its way. -/
def OnItsWay (o : Outgoing) (r : ReplyBody) (l : List Flight) : Prop := ∃ y ∈ l, y.out = o ∧ y.reply = some r

/-- What leaves its sender stays on its way within the package. -/
theorem onItsWay_launch {s : State} {o : Outgoing} {r : ReplyBody} {p : Place} (ho : o.msg = .here p) (h : OnItsWay o r s.flights) (f : Flight) :
    OnItsWay o r (s.launch f).flights := by
  obtain ⟨y, hy, rfl, hr⟩ := h
  have hflights : (s.launch f).flights = s.flights.takeWhile (· != f) ++ (match f.out.msg with | .here _ => [{ f with sent := true }] | _ => []) ++
      (s.flights.dropWhile (· != f)).drop 1 := by
    rw [State.launch, State.sendFlit_eq] <;> rfl
  rw [hflights]
  rw [← List.takeWhile_append_dropWhile (p := (· != f)) (l := s.flights)] at hy
  rcases List.mem_append.1 hy with hy | hy
  · exact ⟨y, by simp [hy], rfl, hr⟩
  cases hd : s.flights.dropWhile (· != f) with
  | nil => simp [hd] at hy
  | cons z rest =>
    rw [hd] at hy
    rcases List.mem_cons.1 hy with rfl | hy
    · have hz : y = f := by
        have := List.head?_dropWhile_not (· != f) s.flights
        rw [hd] at this
        simpa using this
      subst hz
      exact ⟨{ y with sent := true }, by simp [ho], rfl, hr⟩
    · exact ⟨y, by simp [hy], rfl, hr⟩

theorem onItsWay_launchFlights {s : State} {o : Outgoing} {r : ReplyBody} {p : Place} (ho : o.msg = .here p) (h : OnItsWay o r s.flights) :
    OnItsWay o r s.launchFlights.flights := by
  refine List.foldlRecOn (motive := fun t : State => OnItsWay o r t.flights) _ _ h fun t ht f _ => ?_
  split
  · exact ht
  · exact onItsWay_launch ho ht f

/-! ## Requests at their target -/

theorem mem_setFilter (s : State) (f : Filter) : f ∈ (s.setFilter f).filters := by simp [State.setFilter]

theorem filterOf_same {s : State} {die : Nat} {q : Requester} {f : Filter} {inc : BitVec 16}
    (hf : s.filters.find? (fun x => x.die == die && x.src == q) = some f) (hinc : f.inc = inc) (ack : BitVec 16) :
    s.filterOf die q ack inc = some f := by
  simp [State.filterOf, hf, newerInc, hinc]

theorem filterOf_stale {s : State} {die : Nat} {q : Requester} {f : Filter} {inc : BitVec 16}
    (hf : s.filters.find? (fun x => x.die == die && x.src == q) = some f) (hne : f.inc ≠ inc) (hnew : (f.inc - inc).toNat < 2 ^ 15)
    (ack : BitVec 16) :
    s.filterOf die q ack inc = none := by
  rw [State.filterOf, hf]
  exact if_pos (by simp only [newerInc, bne_iff_ne.2 hne, decide_eq_true hnew, Bool.and_self])

section
variable {s : State} {r : Request} (hpkg : r.src.pkg ≠ s.pkgId) (hkey : s.anyKey = true)
include hpkg hkey

theorem requestAtTarget_stale (hf : s.filterOf 12 r.src r.acktsn r.inc = none) :
    exec (.requestAtTarget r) s = .next (s.count 12 0x7060) := by
  show execRequestAtTarget r s = _
  rw [execRequestAtTarget, if_neg hpkg, if_neg (by simp [hkey]), hf]

/-- A request of another package within the incarnation that its target knows (R98, R446). -/
theorem requestAtTarget_known {f : Filter} (hf : s.filterOf 12 r.src r.acktsn r.inc = some f) :
    exec (.requestAtTarget r) s =
      if f.past r.tsn then .next ((s.count 12 0x7060).setFilter (f.ack r.acktsn))
      else match f.done.find? fun p => p.1 == r.tsn with
        | some p => .next (((s.count 12 0x7058).setFilter (f.ack r.acktsn)).emit (.reply ⟨r.src, r.tsn, r.inc, p.2⟩))
        | none => if s.parked.any r.mustFollow then .next { s with parked := s.parked ++ [.requestAtTarget r] } else match s.executeRequest r with
          | (s, .wait) => .next { s with parked := s.parked ++ [.requestAtTarget r] }
          | (s, .reply b) =>
            .next ((s.setFilter ({ f with done := f.done ++ [(r.tsn, b)] }.ack r.acktsn)).emit (.reply ⟨r.src, r.tsn, r.inc, b⟩)) := by
  show execRequestAtTarget r s = _
  rw [execRequestAtTarget, if_neg hpkg, if_neg (by simp [hkey]), hf] <;> rfl
end

/-- R98, R100, R446, R447, R451. -/
theorem requestsFromOutside : Claims.RequestsFromOutside := by
  unfold Claims.RequestsFromOutside
  intro s
  refine ⟨fun r hpkg hnokey => ?_, fun hkey r f hpkg hf => ⟨fun hinc => ?_, fun hinc hnew => ?_⟩, fun r hs => ?_⟩
  · have hkey : s.anyKey = false := by
      refine List.any_eq_false.2 fun n hn => ?_
      have := hnokey n (List.mem_range.1 hn)
      simpa [fieldNat] using this
    show execRequestAtTarget r s = _
    rw [execRequestAtTarget, if_neg hpkg, if_pos (by simp [hkey])]
  · rw [requestAtTarget_known hpkg hkey (filterOf_same hf hinc _)]
    refine ⟨fun hpast => ?_, fun hpast => ?_⟩
    · rw [if_pos (by simpa [Filter.past] using hpast)]
      refine ⟨_, rfl, ?_, ?_, mem_setFilter _ _⟩
      · rw [State.count_eq]; rfl
      · exact State.devGet_count_same ..
    rw [if_neg (by simpa [Filter.past] using hpast)]
    refine ⟨fun b hdone => ?_, fun hdone => ?_⟩
    · rw [hdone]
      refine ⟨_, rfl, ?_, ?_, mem_setFilter (s.count 12 0x7058) _⟩
      · rw [State.count_eq]; rfl
      · exact State.devGet_count_same ..
    rw [hdone]
    dsimp only
    refine ⟨?_, fun hfree => ?_⟩
    · rintro ⟨q, hq, h1, h2, h3⟩
      exact if_pos (List.any_eq_true.2 ⟨_, hq, by simp [Request.mustFollow, h1, h2, h3]⟩)
    rw [if_neg (by simpa using hfree)]
    refine ⟨fun s1 h1 => by rw [h1], fun s1 b h1 => ?_⟩
    rw [h1]
    exact ⟨_, rfl, rfl, mem_setFilter s1 _⟩
  · rw [requestAtTarget_stale hpkg hkey (filterOf_stale hf hinc hnew _)]
    exact ⟨_, rfl, State.count_eq .., State.devGet_count_same ..⟩
  · rw [State.executeRequest, if_pos (by simp [hs])]

/-! ## Requests within the package -/

theorem requestFlight?_msg {s : State} {r : Request} {f : Flight} {p : Place} (h : s.requestFlight? r = some (f, p)) : f.out.msg = .here p := by
  obtain ⟨x, -, hx⟩ := Option.bind_eq_some_iff.1 h
  split at hx
  next q hq =>
    obtain ⟨rfl, rfl⟩ := Prod.mk.inj (Option.some.inj hx)
    exact hq
  · cases hx

/-- An answer that sets out is on its way, and of memory, gangs and requests nothing changes. -/
theorem answerFlight_spec {f : Flight} {p : Place} (hf : f.out.msg = .here p) (s : State) (b : ReplyBody) :
    SameMemory s (s.answerFlight f b) ∧ (s.answerFlight f b).gangs = s.gangs ∧ (s.answerFlight f b).outstanding = s.outstanding ∧
    (s.answerFlight f b).dev = s.dev ∧ (s.answerFlight f b).filters = s.filters ∧ OnItsWay f.out b (s.answerFlight f b).flights := by
  have h := onItsWay_launchFlights (s := { s with flights := s.flights.erase f ++ [{ f with sent := false, reply := some b }] }) (r := b) hf
    ⟨{ f with sent := false, reply := some b }, by simp, rfl, rfl⟩
  rw [State.answerFlight, State.launchFlights_eq] at *
  exact ⟨⟨rfl, rfl, rfl⟩, rfl, rfl, rfl, rfl, h⟩

theorem State.still_trans {s t u : State} (h₁ : SameMemory s t ∧ t.gangs = s.gangs ∧ t.outstanding = s.outstanding)
    (h₂ : SameMemory t u ∧ u.gangs = t.gangs ∧ u.outstanding = t.outstanding) :
    SameMemory s u ∧ u.gangs = s.gangs ∧ u.outstanding = s.outstanding := by
  obtain ⟨⟨m₁, l₁, w₁⟩, g₁, o₁⟩ := h₁
  obtain ⟨⟨m₂, l₂, w₂⟩, g₂, o₂⟩ := h₂
  exact ⟨⟨m₂.trans m₁, l₂.trans l₁, w₂.trans w₁⟩, g₂.trans g₁, o₂.trans o₁⟩

/-- A request of another die of the package, come over the links (R98, R446, R451). -/
theorem requestHere_eq {s : State} {f : Flight} (hdie : f.out.dest ≠ f.out.src.die) (p : Place) : ∃ u, u = s.flitArrived f ∧ s.requestHere f p =
    if !(s.die f.out.dest).powered || (s.die f.out.dest).inReset then u.answerFlight f (.error 0x51 2)
    else match u.filterOf f.out.dest f.out.src f.acktsn f.inc with
      | none => (u.count f.out.dest 0x7060).dropFlight f
      | some x =>
        if x.past f.out.tsn then ((u.count f.out.dest 0x7060).setFilter (x.ack f.acktsn)).dropFlight f
        else match x.done.find? fun p => p.1 == f.out.tsn with
          | some y => ((u.count f.out.dest 0x7058).setFilter (x.ack f.acktsn)).answerFlight f y.2
          | none =>
            let r := u.performFlight f p
            (r.1.setFilter ({ x with done := x.done ++ [(f.out.tsn, r.2)] }.ack f.acktsn)).answerFlight f r.2 := by
  obtain ⟨-, -, -, -, -, -, hdies⟩ := State.flitArrived_frame s f
  have hd : (s.flitArrived f).die f.out.dest = s.die f.out.dest := by rw [State.die, hdies]; rfl
  refine ⟨_, rfl, ?_⟩
  rw [State.requestHere, ← hd]
  exact if_neg hdie

/-- R98, R446, R451. -/
theorem requestsFromInside : Claims.RequestsFromInside := by
  unfold Claims.RequestsFromInside
  intro s r f p hpkg hf hdest b still answers
  have hmsg := requestFlight?_msg hf
  have hexec : exec (.requestAtTarget r) s = .next (s.requestHere f p) := by
    show execRequestAtTarget r s = _
    rw [execRequestAtTarget, if_pos hpkg, hf]
  obtain ⟨u, hu, hreq⟩ := requestHere_eq (s := s) (f := f) hdest p
  obtain ⟨hmem, hgangs, hout, hflights, hdev, hfilters, -⟩ := hu ▸ State.flitArrived_frame s f
  have hstill : still u := ⟨hmem, hgangs, hout⟩
  clear hu
  refine ⟨fun hoff => ?_, fun hp hr x hx => ?_, fun q hq hnone => ?_⟩
  · obtain ⟨h1, h2, h3, -, -, h4⟩ := answerFlight_spec hmsg u (.error 0x51 2)
    refine ⟨_, hexec, ?_⟩
    have hoff : (s.die f.out.dest).powered = false ∨ (s.die f.out.dest).inReset = true := hoff
    rw [hreq, if_pos (by simpa using hoff)]
    exact ⟨State.still_trans hstill ⟨h1, h2, h3⟩, h4⟩
  · rw [if_neg (by simp [show (s.die f.out.dest).powered = _ from hp, show (s.die f.out.dest).inReset = _ from hr])] at hreq
    have hx : u.filters.find? (fun y => y.die == f.out.dest && y.src == f.out.src) = some x := hfilters ▸ hx
    have hget (off : Nat) : (u.count f.out.dest off).devGet f.out.dest off = up (s.devGet f.out.dest off) := by
      rw [State.devGet_count_same, State.devGet, hdev]
      rfl
    have hcount (off : Nat) : still (u.count f.out.dest off) ∧ (u.count f.out.dest off).flights.erase f = s.flights.erase f := by
      obtain ⟨h1, h2, h3, h4⟩ := State.count_frame u f.out.dest off
      exact ⟨State.still_trans hstill ⟨h1, h2, h3⟩, by rw [h4, hflights]⟩
    refine ⟨fun hne hnew => ⟨_, hexec, ?_⟩, fun hinc hpast => ⟨_, hexec, ?_⟩, fun hinc hpast y hy => ⟨_, hexec, ?_⟩⟩
    · rw [hreq, filterOf_stale hx hne hnew]
      exact ⟨(hcount 0x7060).1, hget 0x7060, (hcount 0x7060).2⟩
    · rw [hreq, filterOf_same hx hinc]
      dsimp only
      rw [if_pos (by simpa [Filter.past] using hpast)]
      exact ⟨(hcount 0x7060).1, hget 0x7060, (hcount 0x7060).2, mem_setFilter _ _⟩
    · rw [hreq, filterOf_same hx hinc]
      dsimp only
      rw [if_neg (by simpa [Filter.past] using hpast), hy]
      dsimp only
      have hset := mem_setFilter (u.count f.out.dest 0x7058) (x.ack f.acktsn)
      have hstill' : still ((u.count f.out.dest 0x7058).setFilter (x.ack f.acktsn)) := (hcount 0x7058).1
      have hget' : ((u.count f.out.dest 0x7058).setFilter (x.ack f.acktsn)).devGet f.out.dest 0x7058 = _ := hget 0x7058
      generalize (u.count f.out.dest 0x7058).setFilter (x.ack f.acktsn) = v at *
      obtain ⟨g1, g4, g5, g6, g7, g8⟩ := answerFlight_spec hmsg v y
      refine ⟨⟨State.still_trans hstill' ⟨g1, g4, g5⟩, g8⟩, ?_, g7 ▸ hset⟩
      rw [State.devGet, g6]
      exact hget'
  · show execRequestAtTarget q s = _
    rw [execRequestAtTarget, if_pos hq, hnone]

/-! ## Answers at their requester -/

theorem State.countSent_eq (s : State) (g : GangId) (sent performed : Nat) :
    s.countSent g sent performed = { s with cohorts := (s.countSent g sent performed).cohorts } := by
  unfold State.countSent
  split <;> rfl

/-- A request of an instruction fetch ends: what it was fetched for has its answer (R294). -/
theorem finish_fetch {s : State} {o : Outgoing} {g : GangId} {code : Option (Bool × BitVec 8)} (howner : o.owner = .fetch g code)
    (hroom : s.hasRoom o.src 1 = true) (r : Except AccFault (List Byte)) :
    ∃ c, s.finish o r = { s with outstanding := s.outstanding.erase o, cohorts := c, fetched := s.fetched ++
      [match r with | .ok bs => ⟨g, o.addr, code.isSome, bs, none⟩ | .error f => ⟨g, o.addr, code.isSome, [], some f⟩] } := by
  refine ⟨(({ s with outstanding := s.outstanding.erase o } : State).countSent g 0 1).cohorts, ?_⟩
  rw [State.finish, if_pos hroom]
  unfold State.settle
  rw [howner]
  cases r with
  | ok bs => dsimp only; rw [State.countSent_eq]
  | error f => dsimp only; rw [State.countSent_eq]

/-- A reply of the current incarnation of its requester to what that requester holds (R98). -/
theorem takeReply_held {s : State} {r : Reply} {o : Outgoing} {g : GangId} {code : Option (Bool × BitVec 8)} (hinc : r.inc = (s.die r.dst.die).inc)
    (ho : s.outstanding.find? (fun x => x.src == r.dst && x.tsn == r.tsn) = some o) (howner : o.owner = .fetch g code)
    (hroom : s.hasRoom o.src 1 = true) :
    ∃ c m, s.takeReply r = { s with outstanding := s.outstanding.erase o, cohorts := c, monitors := m, fetched := s.fetched ++
      [match replyOf o r.body with | .ok bs => ⟨g, o.addr, code.isSome, bs, none⟩ | .error f => ⟨g, o.addr, code.isSome, [], some f⟩] } := by
  have hsample : s.sampleReply o = { s with monitors := (s.sampleReply o).monitors } := by
    unfold State.sampleReply
    split <;> rfl
  obtain ⟨c, hc⟩ := finish_fetch (s := { s with monitors := (s.sampleReply o).monitors }) howner hroom (replyOf o r.body)
  refine ⟨c, (s.sampleReply o).monitors, ?_⟩
  rw [State.takeReply, if_neg (not_not_intro hinc), ho]
  dsimp only
  rw [hsample]
  exact hc

theorem find?_none_of_forall {s : State} {q : Requester} {t : BitVec 16} (h : ∀ o ∈ s.outstanding, ¬ (o.src = q ∧ o.tsn = t)) :
    s.outstanding.find? (fun x => x.src == q && x.tsn == t) = none :=
  List.find?_eq_none.2 fun o ho => by simpa using h o ho

/-- A reply that no request of its requester waits for is late, and counted, or a later copy (R98, R449). -/
theorem takeReply_late {s : State} {r : Reply} (hinc : r.inc = (s.die r.dst.die).inc)
    (ho : ∀ o ∈ s.outstanding, ¬ (o.src = r.dst ∧ o.tsn = r.tsn)) :
    ((r.dst, r.tsn) ∈ s.retired → s.takeReply r = s.count r.dst.die 0x7050) ∧ ((r.dst, r.tsn) ∉ s.retired → s.takeReply r = s) := by
  rw [State.takeReply, if_neg (not_not_intro hinc), find?_none_of_forall ho]
  exact ⟨fun h => if_pos (by simpa using h), fun h => if_neg (by simpa using h)⟩

/-- A reply from outside the package crosses the link from die 12 where that is active (R443). -/
theorem replyAtRequester_outside {s : State} {r : Reply} (hon : (s.die r.dst.die).powered = true) (hflight : s.replyFlight? r = none)
    (hlink : ∀ a, s.linkActive 12 r.dst.die a = true) :
    ∃ ms, exec (.replyAtRequester r) s = .next (({ s with modules := ms } : State).takeReply r) := by
  have h : ∃ a b n f, exec (.replyAtRequester r) s = .next ((s.sendFlit a b n f).takeReply r) := by
    show ∃ a b n f, execReplyAtRequester r s = _
    rw [execReplyAtRequester, if_neg (by simp [hon]), hflight]
    exact ⟨_, _, _, _, if_neg (by simp [hlink])⟩
  obtain ⟨a, b, n, f, h⟩ := h
  exact ⟨_, State.sendFlit_eq s a b n f ▸ h⟩

/-- R98, R443, R449 to R451. -/
theorem repliesAndTimeouts : Claims.RepliesAndTimeouts := by
  unfold Claims.RepliesAndTimeouts
  intro s
  refine ⟨fun r hoff => ?_, fun r hon hflight hlink => ?_, fun r hon hflight hlink => ?_, fun q tsn => ⟨fun hoff => ?_,
    fun o g code hon ho howner hroom => ?_, fun ho => ?_⟩, fun tag bs => ⟨fun o g code ho howner hroom => ?_, fun ho => ?_⟩⟩
  · exact if_pos (by simp [hoff])
  · show execReplyAtRequester r s = _
    rw [execReplyAtRequester, if_neg (by simp [hon]), hflight]
    exact if_pos (by simp [hlink])
  · obtain ⟨ms, hexec⟩ := replyAtRequester_outside hon hflight hlink
    refine ⟨fun hinc => ⟨_, hexec, ?_⟩, fun hinc => ⟨fun o g code ho howner hroom => ?_,
      fun ho => ⟨fun hret => ⟨_, hexec, ?_⟩, fun hret => ⟨_, hexec, ?_⟩⟩⟩⟩
    · rw [show ({ s with modules := ms } : State).takeReply r = _ from if_pos hinc]
      exact ⟨by rw [State.count_eq], State.devGet_count_same { s with modules := ms } _ _⟩
    · obtain ⟨c, m, hr⟩ := takeReply_held (s := { s with modules := ms }) hinc ho howner hroom
      refine ⟨fun bs hbody => ⟨_, hexec, ?_⟩, fun c i hbody => ⟨_, hexec, ?_⟩⟩
      · rw [hr, hbody]
        exact ⟨rfl, rfl⟩
      · rw [hr, hbody]
        exact ⟨rfl, rfl⟩
    · rw [(takeReply_late (s := { s with modules := ms }) hinc ho).1 hret]
      exact ⟨by rw [State.count_eq], State.devGet_count_same { s with modules := ms } _ _⟩
    · rw [(takeReply_late (s := { s with modules := ms }) hinc ho).2 hret]
  · exact if_pos (by simp [hoff])
  · obtain ⟨c, hc⟩ := finish_fetch (s := { s with
      retired := s.retired ++ [(o.src, o.tsn)], flights := s.flights.filter fun f => f.sent || f.reply.isSome || f.out != o })
      howner hroom (.error ⟨0x51, 1, o.space, o.addr⟩)
    refine ⟨s.giveUp o 0x51 1, ?_, ?_⟩
    · show execRequestTimeout q tsn s = _
      rw [execRequestTimeout, if_neg (by simp [hon]), ho]
    · rw [State.giveUp, hc]
      exact ⟨rfl, rfl⟩
  · show execRequestTimeout q tsn s = _
    rw [execRequestTimeout, find?_none_of_forall ho]
    exact ite_self _
  · obtain ⟨c, hc⟩ := finish_fetch howner hroom (replyOf o (.data bs))
    refine ⟨s.finish o (replyOf o (.data bs)), ?_, ?_⟩
    · show execHostWindowRmaResponse tag (.data bs) s = _
      rw [execHostWindowRmaResponse, show s.outstanding.find? (fun o => o.target == hostTarget && o.tag == tag) = _ from ho]
    · rw [hc]
      exact ⟨rfl, rfl⟩
  · have hnone : s.outstanding.find? (fun o => o.target == hostTarget && o.tag == tag) = none :=
      List.find?_eq_none.2 fun o hmem => by simp [hostTarget, ho o hmem]
    have hexec (b : ReplyBody) : exec (.hostWindowRmaResponse tag b) s =
        match s.retired.find? fun p => p.2.toNat + 2 ^ 16 * (p.1.agent + 2 ^ 8 * p.1.die) == tag with
        | some p => .next (s.count p.1.die 0x7050)
        | none => .next s := by
      show execHostWindowRmaResponse tag b s = _
      rw [execHostWindowRmaResponse, hnone] <;> rfl
    refine ⟨fun q tsn hret htag => ?_, fun hret => ?_⟩
    · have hfind : s.retired.find? (fun p => p.2.toNat + 2 ^ 16 * (p.1.agent + 2 ^ 8 * p.1.die) == tag) = some (q, tsn) := by
        rw [hret]
        exact List.find?_cons_of_pos (by simp [htag])
      rw [hexec, hfind]
      exact ⟨_, rfl, State.count_eq .., State.devGet_count_same ..⟩
    · rw [hexec, hret]
      rfl

/-- Settles O46: what arrives is decided by its filter's record of it, or by what its requester still holds. -/
theorem requestsAndReplies : Obligations.RequestsAndReplies := ⟨requestsFromOutside, requestsFromInside, repliesAndTimeouts⟩

end Sys2Proof.Proofs
end

section
/-! SUPPORT. The issue that a write leaves, the supervisor group's common part, and changes of every gang of a block. -/
set_option Elab.async false
namespace Sys2Proof.Machine
open Sys2Proof.Claims

/-! ## A write leaves what is issued -/

theorem foldl_issue {α : Type} {f : State → α → State} (hf : ∀ s x, (f s x).issue = s.issue) (l : List α) (s : State) :
    (l.foldl f s).issue = s.issue :=
  List.foldlRecOn (motive := fun t : State => t.issue = s.issue) l f rfl fun t ht x _ => (hf t x).trans ht

theorem State.startControl_issue (s : State) (die idx root : Nat) (identity : Bool) (pc : VAddr) :
    (s.startControl die idx root identity pc).issue = s.issue := by
  unfold State.startControl
  split
  · rfl
  · exact congrArg (·.issue) (unseen_countSent ..).eq

theorem State.verifyImage_issue (s : State) (pa kind : Nat) : (s.verifyImage pa kind).1.issue = s.issue := by
  unfold State.verifyImage
  split
  · rfl
  · dsimp only
    split
    · rfl
    · rw [State.extendMeasure, State.setDevBytes_eq]

theorem State.bootcmd_issue (s : State) (v : DWord) : (s.bootcmd v).issue = s.issue := by
  unfold State.bootcmd
  split
  · rfl
  · have h := State.verifyImage_issue s 0 1
    generalize s.verifyImage 0 1 = r at h
    obtain ⟨t, r⟩ := r
    cases r with
    | error c => exact h
    | ok img => exact (State.startControl_issue ..).trans h

theorem State.ccstart_issue (s : State) (v : DWord) : (s.ccstart v).issue = s.issue := by
  unfold State.ccstart
  dsimp only
  split
  · split
    · rfl
    · split
      · exact State.startControl_issue ..
      · exact State.startControl_issue ..
  · rfl

theorem State.startPass_issue (s : State) (die u : Nat) (byReq lift : Bool) : (s.startPass die u byReq lift).issue = s.issue := by
  unfold State.startPass
  split <;> rfl

theorem State.fenceReq_issue (s : State) (die u : Nat) : (s.fenceReq die u).issue = s.issue := by
  unfold State.fenceReq
  split
  · rfl
  split
  · split <;> rfl
  · rw [State.fenceUnit_frame]

theorem State.attreq_issue (s : State) (v : DWord) : (s.attreq v).issue = s.issue := by
  unfold State.attreq
  split <;> rfl

theorem State.sbverify_issue (s : State) (v : DWord) : (s.sbverify v).issue = s.issue := by
  unfold State.sbverify
  split <;> rfl

theorem State.testreq_issue (s : State) (die : Nat) (v : DWord) : (s.testreq die v).issue = s.issue := by
  unfold State.testreq
  split
  · exact State.startPass_issue ..
  · rfl

theorem State.liftReq_issue (s : State) (die u : Nat) : (s.liftReq die u).issue = s.issue := by
  unfold State.liftReq
  split
  · rfl
  · exact State.startPass_issue ..

theorem ite_issue {s a b : State} (c : Prop) [Decidable c] (ha : a.issue = s.issue) (hb : b.issue = s.issue) :
    (if c then a else b).issue = s.issue := by
  split
  · exact ha
  · exact hb

theorem State.regWrite_issue (s : State) (die off : Nat) (v : DWord) (sv : Bool) : (s.regWrite die off v sv).issue = s.issue := by
  unfold State.regWrite
  refine ite_issue _ rfl (ite_issue _ (State.bootcmd_issue ..) (ite_issue _ rfl (ite_issue _ (State.attreq_issue ..)
    (ite_issue _ rfl (ite_issue _ rfl (ite_issue _ (State.sbverify_issue ..) (ite_issue _ (State.ccstart_issue ..)
    (ite_issue _ (State.testreq_issue ..) (ite_issue _ (ite_issue _ (State.fenceReq_issue ..) (State.liftReq_issue ..))
    (ite_issue _ rfl ?_))))))))))
  split
  · rw [State.regionWritten_eq]; rfl
  · rfl

theorem State.writePlace_issue (s : State) (p : Place) (bs : List Byte) (sv : Bool) : (s.writePlace p bs sv).issue = s.issue := by
  cases p with
  | reg d off => exact foldl_issue (fun t k => State.regWrite_issue ..) _ _
  | _ => rfl

theorem State.poisonCheck_issue (s : State) (p : Place) (n : Nat) (w : Bool) : (s.poisonCheck p n w).1.issue = s.issue := by
  unfold State.poisonCheck
  split
  · rfl
  · split
    · rfl
    · dsimp only
      split
      · rw [State.count_eq]
      · rfl

/-- Accesses made one after another, all of which succeed, leave what is issued if each of them does. -/
theorem foldl_ok_issue {α : Type} {f : State × EngAcc → α → State × EngAcc}
    (hf : ∀ st a bs, (f st a).2 = .ok bs → (∃ b, st.2 = .ok b) ∧ (f st a).1.issue = st.1.issue) (l : List α) {st : State × EngAcc} {bs : List Byte}
    (h : (l.foldl f st).2 = .ok bs) : (∃ b, st.2 = .ok b) ∧ (l.foldl f st).1.issue = st.1.issue := by
  induction l generalizing st with
  | nil => exact ⟨⟨bs, h⟩, rfl⟩
  | cons a l ih =>
    obtain ⟨⟨b, hb⟩, hrest⟩ := ih h
    obtain ⟨hst, hstep⟩ := hf st a b hb
    exact ⟨hst, hrest.trans hstep⟩

/-- An image that has been written leaves what is issued. -/
theorem State.pageWrite_issue {s t : State} {g : GangId} {addr : Nat} {bs r : List Byte} (h : s.pageWrite g addr bs = (t, .ok r)) :
    t.issue = s.issue := by
  have hok := foldl_ok_issue (st := (s, .ok [])) (bs := r) ?_ _ (congrArg Prod.snd h)
  · exact (congrArg (fun x => x.1.issue) h).symm.trans hok.2
  · intro st p x hx
    obtain ⟨u, y⟩ := st
    cases y with
    | ok b =>
      refine ⟨⟨b, rfl⟩, ?_⟩
      dsimp only at hx ⊢
      split at hx
      · split at hx
        · cases hx
        · rfl
      generalize hl : u.locate g .store 0 p.1 16 = q at hx ⊢
      obtain ⟨v, q⟩ := q
      cases q with
      | ok q =>
        dsimp only at hx ⊢
        split at hx
        · cases hx
        next hr =>
        rw [if_neg hr]
        have hv : v.issue = u.issue := (unseen_locate hl).fields.2.2.1
        have hp := State.poisonCheck_issue v q p.2 true
        generalize v.poisonCheck q p.2 true = w at hx hp ⊢
        obtain ⟨w, c⟩ := w
        cases c with
        | none => exact (State.writePlace_issue ..).trans (hp.trans hv)
        | some c => cases hx
      | fault f => cases hx
      | wait x => cases hx
    | _ => cases hx

end Sys2Proof.Machine
end

section
/-! SUPPORT. Names of gangs and blocks, a change of every gang of a block, and blocks that run once they are loaded (R227, R233). -/
set_option Elab.async false
namespace Sys2Proof.Machine
open Sys2Proof.Claims

/-! ## Names -/

theorem find?_name_of_mem {α β : Type} [DecidableEq β] (f : α → β) {l : List α} (h : (l.map f).Nodup) {x : α} (hx : x ∈ l) :
    l.find? (fun y => f y == f x) = some x := by
  induction l with
  | nil => cases hx
  | cons y l ih =>
    obtain ⟨hy, hl⟩ := List.nodup_cons.1 h
    rcases List.mem_cons.1 hx with rfl | hx
    · exact List.find?_cons_of_pos (by simp)
    · rw [List.find?_cons_of_neg (by simpa using fun e : f y = f x => hy (e ▸ List.mem_map_of_mem hx))]
      exact ih hl hx

theorem State.gang?_of_mem {s : State} (h : (s.gangs.map (·.id)).Nodup) {x : Gang} (hx : x ∈ s.gangs) : s.gang? x.id = some x :=
  find?_name_of_mem Gang.id h hx

theorem State.block?_of_mem {s : State} (h : (s.blocks.map (·.id)).Nodup) {x : Block} (hx : x ∈ s.blocks) : s.block? x.id = some x :=
  find?_name_of_mem Block.id h hx

theorem State.setGang_names (s : State) (g : Gang) : (s.setGang g).gangs.map (·.id) = s.gangs.map (·.id) :=
  map_replaceFirst _ _ _ _ fun y hy => Eq.symm (by simpa using List.find?_some hy)

theorem State.setBlock_names (s : State) (b : Block) : (s.setBlock b).blocks.map (·.id) = s.blocks.map (·.id) :=
  map_replaceFirst _ _ _ _ fun y hy => Eq.symm (by simpa using List.find?_some hy)

/-! ## A change of gangs, one after another -/

/-- Nothing but the gangs differs, and they have the same names. -/
def GangsOnly (s t : State) : Prop := t = { s with gangs := t.gangs } ∧ t.gangs.map (·.id) = s.gangs.map (·.id)

theorem gangsOnly_setGang (s : State) (g : Gang) : GangsOnly s (s.setGang g) := ⟨rfl, State.setGang_names s g⟩

theorem GangsOnly.trans {s t u : State} (h₁ : GangsOnly s t) (h₂ : GangsOnly t u) : GangsOnly s u :=
  ⟨by rw [h₂.1, h₁.1], h₂.2.trans h₁.2⟩

/-- Gangs with different names change one after another: each as it would alone. -/
theorem foldl_setGang {s : State} {F : State → Gang → State} {f : Gang → Gang} (hid : ∀ x, (f x).id = x.id)
    (hF : ∀ t x, GangsOnly s t → F t x = t.setGang (f x)) (l : List Gang) (hn : (l.map (·.id)).Nodup) {u : State} (hu : GangsOnly s u)
    (hl : ∀ x ∈ l, u.gang? x.id = some x) :
    GangsOnly s (l.foldl F u) ∧ ∀ k, (l.foldl F u).gang? k = if k ∈ l.map (·.id) then (u.gang? k).map f else u.gang? k := by
  induction l generalizing u with
  | nil => exact ⟨hu, fun k => by simp⟩
  | cons x l ih =>
    rw [List.map_cons, List.nodup_cons] at hn
    obtain ⟨hx, hn⟩ := hn
    have hx' : u.gang? (f x).id = some x := hid x ▸ hl x (by simp)
    have hother (k : GangId) (hk : k ≠ x.id) : (u.setGang (f x)).gang? k = u.gang? k := State.gang?_setGang_other u (by rwa [hid])
    rw [List.foldl_cons, hF u x hu]
    obtain ⟨h1, h2⟩ := ih hn (hu.trans (gangsOnly_setGang u (f x))) fun y hy => by
      rw [hother _ fun e => hx (e ▸ List.mem_map_of_mem hy)]
      exact hl y (by simp [hy])
    refine ⟨h1, fun k => ?_⟩
    rw [h2 k]
    by_cases hk : k = x.id
    · subst hk
      rw [if_neg hx, if_pos (by simp), ← hid x, State.gang?_setGang_same hx', hx']
      rfl
    · rw [hother k hk]
      simp [hk]

theorem mem_blockGangs_names {s : State} (hn : (s.gangs.map (·.id)).Nodup) (b : BlockId) (k : GangId) :
    k ∈ (s.blockGangs b).map (·.id) ↔ k.block? = some b ∧ (s.gang? k).isSome := by
  constructor
  · intro h
    obtain ⟨x, hx, rfl⟩ := List.mem_map.1 h
    obtain ⟨hmem, hb⟩ := List.mem_filter.1 hx
    exact ⟨by simpa using hb, by rw [State.gang?_of_mem hn hmem]; rfl⟩
  · rintro ⟨hb, hk⟩
    obtain ⟨x, hx⟩ := Option.isSome_iff_exists.1 hk
    have hid : x.id = k := by simpa using List.find?_some hx
    exact List.mem_map.2 ⟨x, List.mem_filter.2 ⟨List.mem_of_find?_eq_some hx, by simpa [hid] using hb⟩, hid⟩

/-- Every gang of a block changes. -/
theorem foldl_blockGangs {s : State} (hn : (s.gangs.map (·.id)).Nodup) {F : State → Gang → State} {f : Gang → Gang} (hid : ∀ x, (f x).id = x.id)
    (hF : ∀ t x, GangsOnly s t → F t x = t.setGang (f x)) (b : BlockId) :
    GangsOnly s ((s.blockGangs b).foldl F s) ∧
      ∀ k, ((s.blockGangs b).foldl F s).gang? k = if k.block? = some b then (s.gang? k).map f else s.gang? k := by
  have hsub : ((s.blockGangs b).map (·.id)).Nodup := hn.sublist (List.filter_sublist.map _)
  obtain ⟨h1, h2⟩ := foldl_setGang hid hF (s.blockGangs b) hsub ⟨rfl, rfl⟩ fun x hx => State.gang?_of_mem hn (List.mem_filter.1 hx).1
  refine ⟨h1, fun k => ?_⟩
  rw [h2 k]
  by_cases hb : k.block? = some b
  · rw [if_pos hb]
    cases hk : s.gang? k with
    | none => simp
    | some x => rw [if_pos ((mem_blockGangs_names hn b k).2 ⟨hb, by rw [hk]; rfl⟩)]
  · rw [if_neg hb, if_neg fun h => hb ((mem_blockGangs_names hn b k).1 h).1]

/-! ## Blocks that run -/

theorem Gang.runAgain_eq (x : Gang) : x.runAgain = runsOn x := rfl

/-- Nothing but gangs and blocks differs, and they have the same names. -/
def BlocksAndGangs (s t : State) : Prop :=
  t = { s with gangs := t.gangs, blocks := t.blocks } ∧ t.gangs.map (·.id) = s.gangs.map (·.id) ∧ t.blocks.map (·.id) = s.blocks.map (·.id)

theorem BlocksAndGangs.trans {s t u : State} (h₁ : BlocksAndGangs s t) (h₂ : BlocksAndGangs t u) : BlocksAndGangs s u :=
  ⟨by rw [h₂.1, h₁.1], h₂.2.1.trans h₁.2.1, h₂.2.2.trans h₁.2.2⟩

theorem State.runLoaded_spec {s : State} (hn : (s.gangs.map (·.id)).Nodup) {b y : Block} (hb : s.block? b.id = some y) :
    BlocksAndGangs s (s.runLoaded b) ∧ (∀ k, (s.runLoaded b).gang? k = if k.block? = some b.id then (s.gang? k).map runsOn else s.gang? k) ∧
      ∀ j, (s.runLoaded b).block? j = if j = b.id then some { b with state := .running } else s.block? j := by
  obtain ⟨⟨h1, h2⟩, h3⟩ := foldl_blockGangs (s := s.setBlock { b with state := .running }) hn (F := fun s g => s.setGang g.runAgain)
    (f := runsOn) (fun _ => rfl) (fun _ _ _ => rfl) b.id
  have hrun : s.runLoaded b = ((s.setBlock { b with state := .running }).blockGangs b.id).foldl (fun s g => s.setGang g.runAgain)
    (s.setBlock { b with state := .running }) := rfl
  rw [← hrun] at h1 h2 h3
  have hblocks : (s.runLoaded b).blocks = (s.setBlock { b with state := .running }).blocks := (congrArg State.blocks h1 :)
  refine ⟨⟨?_, h2, ?_⟩, h3, fun j => ?_⟩
  · rw [hblocks]
    exact h1
  · rw [hblocks]
    exact State.setBlock_names ..
  · rw [State.block?, hblocks]
    by_cases hj : j = b.id
    · rw [if_pos hj, hj]
      exact State.block?_setBlock_same (b' := { b with state := .running }) hb
    · rw [if_neg hj]
      exact State.block?_setBlock_other s (b' := { b with state := .running }) hj

/-- Blocks run, one after another. -/
theorem foldl_runLoaded (l : List Block) (hl : (l.map (·.id)).Nodup) {s : State} (hn : (s.gangs.map (·.id)).Nodup)
    (hb : ∀ x ∈ l, s.block? x.id = some x) :
    BlocksAndGangs s (l.foldl State.runLoaded s) ∧
      (∀ k, (l.foldl State.runLoaded s).gang? k = if ∃ x ∈ l, k.block? = some x.id then (s.gang? k).map runsOn else s.gang? k) ∧
      ∀ j, (l.foldl State.runLoaded s).block? j =
        if j ∈ l.map (·.id) then (s.block? j).map fun y => { y with state := .running } else s.block? j := by
  induction l generalizing s with
  | nil => exact ⟨⟨rfl, rfl, rfl⟩, by simp, by simp⟩
  | cons x l ih =>
    rw [List.map_cons, List.nodup_cons] at hl
    obtain ⟨hx, hl⟩ := hl
    have hsx := hb x (by simp)
    obtain ⟨h1, h2, h3⟩ := State.runLoaded_spec hn hsx
    obtain ⟨g1, g2, g3⟩ := ih hl (s := s.runLoaded x) (by rw [h1.2.1]; exact hn) fun y hy => by
      rw [h3, if_neg fun e : y.id = x.id => hx (e ▸ List.mem_map_of_mem hy)]
      exact hb y (by simp [hy])
    refine ⟨h1.trans g1, fun k => ?_, fun j => ?_⟩
    · rw [List.foldl_cons, g2, h2]
      by_cases hk : k.block? = some x.id
      · have hno : ¬ ∃ y ∈ l, k.block? = some y.id := by
          rintro ⟨y, hy, hky⟩
          exact hx (Option.some.inj (hk.symm.trans hky) ▸ List.mem_map_of_mem hy)
        rw [if_neg hno, if_pos hk, if_pos ⟨x, by simp, hk⟩]
      · rw [if_neg hk]
        simp [hk]
    · rw [List.foldl_cons, g3, h3]
      by_cases hj : j = x.id
      · subst hj
        rw [if_neg hx, if_pos rfl, if_pos (by simp), hsx]
        rfl
      · rw [if_neg hj]
        simp [hj]

/-- The blocks of a kind run, each with its gangs (R227, R233). -/
structure BlocksRun (s t : State) (p : Block → Bool) : Prop where
  names : t.gangs.map (·.id) = s.gangs.map (·.id)
  rest : t.mem = s.mem ∧ t.ls = s.ls ∧ t.issue = s.issue
  block : ∀ j, t.block? j = (s.block? j).map fun y => if p y then { y with state := .running } else y
  gang : ∀ k, t.gang? k = if ∃ x ∈ s.blocks, p x = true ∧ k.block? = some x.id then (s.gang? k).map runsOn else s.gang? k

theorem blocksRun_foldl {s : State} (hg : (s.gangs.map (·.id)).Nodup) (hb : (s.blocks.map (·.id)).Nodup) (p : Block → Bool) :
    BlocksRun s ((s.blocks.filter p).foldl State.runLoaded s) p := by
  obtain ⟨⟨h1, h2, -⟩, h3, h4⟩ := foldl_runLoaded (s.blocks.filter p) (hb.sublist (List.filter_sublist.map _)) hg
    fun x hx => State.block?_of_mem hb (List.mem_filter.1 hx).1
  refine ⟨h2, ⟨by rw [h1], by rw [h1], by rw [h1]⟩, fun j => ?_, fun k => ?_⟩
  · rw [h4]
    cases hj : s.block? j with
    | none => simp
    | some y =>
      have hid := State.block?_id hj
      have hmem : j ∈ (s.blocks.filter p).map (·.id) ↔ p y = true := by
        constructor
        · intro h
          obtain ⟨x, hx, rfl⟩ := List.mem_map.1 h
          obtain ⟨hx, hp⟩ := List.mem_filter.1 hx
          obtain rfl : x = y := Option.some.inj ((State.block?_of_mem hb hx).symm.trans hj)
          exact hp
        · exact fun hp => List.mem_map.2 ⟨y, List.mem_filter.2 ⟨List.mem_of_find?_eq_some hj, hp⟩, hid⟩
      by_cases hp : p y = true <;> simp only [hmem, hp, Option.map_some, if_true, if_false, Bool.false_eq_true]
  · rw [h3]
    refine if_congr ?_ rfl rfl
    simp only [List.mem_filter, and_assoc]

theorem blocksRun_none (s : State) : BlocksRun s s fun _ => false :=
  ⟨rfl, ⟨rfl, rfl, rfl⟩, fun j => by simp, fun k => by simp⟩

end Sys2Proof.Machine
end

section
/-! CERTIFICATE. CTXSV and CTXLD. -/
set_option Elab.async false
namespace Sys2Proof.Proofs
open Sys2Proof Sys2Proof.Machine Sys2Proof.Claims

/-! ## The supervisor group's common part -/

theorem supervisor_at {s : State} {g : Gang} {m : BitVec 8} {gd : Guard} {i : Nat} {sl : Slice} (h : SupervisorAt s g m gd i sl)
    (k : Gang → BitVec 8 → Nat → Slice → State) : supervisor s gd k = .next (k g m i sl) := by
  obtain ⟨hat, hctl, hl, -, -⟩ := h
  rw [supervisor, withScalar_at hat, if_neg (by simp [hctl]), Gang.leader_eq hl]

/-- A supervisor instruction that goes on from a state with its gang and what was issued unchanged. -/
theorem passIssuer_spec {s t : State} {g : Gang} (hg : t.gang? g.id = some g) (hissue : t.issue = s.issue) (m : BitVec 8) :
    Passed s (t.passIssuer g.id m) g m ∧ (t.passIssuer g.id m).blocks = t.blocks ∧ (t.passIssuer g.id m).mem = t.mem ∧
      (t.passIssuer g.id m).ls = t.ls ∧ ∀ k, k ≠ g.id → (t.passIssuer g.id m).gang? k = t.gang? k := by
  obtain ⟨-, -, f3, f4, -, -, -, f8, f9⟩ := State.passPart_dropFetched_frame t g m g.id
  have hpass : t.passIssuer g.id m = (t.passPart g m).dropFetched g.id := by rw [State.passIssuer, hg]
  have hsize : t.issueSize = s.issueSize := by simp only [State.issueSize, hissue]
  rw [hpass]
  refine ⟨⟨_, (f9 _).trans (State.passPart_gang? m ⟨g, hg⟩), hsize ▸ partRuns_runPart ..⟩, f8, f3, f4, fun k hk => ?_⟩
  exact (f9 k).trans (State.passPart_othersSame t g m k hk)

section
variable {s : State} {x : CtxForm} {sl : Slice} {gr : Grid} {b : Block}

theorem ctxTarget_ok (hgr : s.grid? (sl.src x.b) = some gr) (hidx : (sl.reg x.i.val).toNat < gr.blockCount) :
    s.ctxTarget sl x = .ok (gr, (sl.reg x.i.val).toNat) := by
  rw [State.ctxTarget, hgr]
  exact if_neg (Nat.not_le.2 hidx)

/-- The one copy of a block that is not a shadow's (R372). -/
theorem copies_one {i : Nat} (hb : s.block? ⟨gr.handle, i, false⟩ = some b) (hshadow : s.block? ⟨gr.handle, i, true⟩ = none) :
    s.copies gr i = [(b, 0)] := by
  have hid := State.block?_id hb
  simp [State.copies, hb, hshadow, hid]

theorem setSaver_one {k : Option GangId} (hb : s.block? b.id = some b) : s.setSaver [(b, 0)] k = s.setBlock { b with saver := k } := by
  simp [State.setSaver, hb]
end

section
variable {s : State} {g : Gang} {m : BitVec 8} {x : CtxForm} {i : Nat} {sl : Slice} {gr : Grid} {b : Block}
  (hS : SupervisorAt s g m x.g i sl) (hgr : s.grid? (sl.src x.b) = some gr) (hidx : (sl.reg x.i.val).toNat < gr.blockCount)
  (hb : s.block? ⟨gr.handle, (sl.reg x.i.val).toNat, false⟩ = some b) (hshadow : s.block? ⟨gr.handle, (sl.reg x.i.val).toNat, true⟩ = none)
include hS hgr hidx hb hshadow

/-- CTXSV of a block that has neither ended nor can be saved traps; the block is no longer waited for (R229, R421). -/
theorem ctxsv_refused (hexit : b.state ≠ .exited) (hkill : b.state ≠ .killed)
    (h : b.state ≠ .halted ∧ b.state ≠ .halting ∨ b.killing = true ∧ b.saver ≠ some g.id) :
    exec (.ctxsv x) s = .next ((s.setBlock { b with saver := none }).takeTrap g.id (TrapInfo.plain 0x0D 3 0 i s.issue.words)) := by
  have hbid : s.block? b.id = some b := (State.block?_id hb).symm ▸ hb
  show execCtxsv x s = _
  rw [execCtxsv, supervisor_at hS, ctxTarget_ok hgr hidx]
  dsimp only
  rw [copies_one hb hshadow, setSaver_one hbid, if_pos]
  · rfl
  · rcases h with ⟨h1, h2⟩ | ⟨h1, h2⟩ <;> simp [*]

/-- CTXSV of a halted block whose engine work is done (R227, R229). -/
theorem ctxsv_saves {s1 : State} {r : List Byte} (hstate : b.state = .halted) (hready : s.saveReady b = true) (hal : sl.pair x.a % 4096 = 0)
    (hw : s.pageWrite g.id (sl.pair x.a) (s.imageOf gr b) = (s1, .ok r)) :
    exec (.ctxsv x) s = .next ((s1.saveBlock b).passIssuer g.id m) := by
  have hkilling : b.killing = false := by
    unfold State.saveReady at hready
    simp only [Bool.and_eq_true, Bool.not_eq_true'] at hready
    exact hready.1.1.1.2
  show execCtxsv x s = _
  rw [execCtxsv, supervisor_at hS, ctxTarget_ok hgr hidx]
  dsimp only
  rw [copies_one hb hshadow, if_neg (by simp [hstate, hkilling]), if_neg (by simpa using hal), if_neg (by simp [hready])]
  simp [hstate, hw]

theorem ctxld_refused (h : b.state ≠ .pending ∧ b.state ≠ .placed ∨ b.killing = true) :
    exec (.ctxld x) s = .next (s.takeTrap g.id (TrapInfo.plain 0x0D 3 0 i s.issue.words)) := by
  show execCtxld x s = _
  rw [execCtxld, supervisor_at hS, ctxTarget_ok hgr hidx]
  dsimp only
  rw [copies_one hb hshadow, if_pos]
  · rfl
  · rcases h with ⟨h1, h2⟩ | h <;> simp [*]

theorem ctxld_misaligned (hstate : b.state = .placed) (hkill : b.killing = false) (hal : sl.pair x.a % 4096 ≠ 0) :
    exec (.ctxld x) s = .next (s.takeTrap g.id (TrapInfo.plain 0x0D 5 0 i s.issue.words)) := by
  show execCtxld x s = _
  rw [execCtxld, supervisor_at hS, ctxTarget_ok hgr hidx]
  dsimp only
  rw [copies_one hb hshadow, if_neg (by simp [hstate, hkill]), if_pos hal]
  rfl

/-- CTXLD of a placed block whose image passes the checks (R227, R233). -/
theorem ctxld_loads {s1 : State} {img : List Byte} (hstate : b.state = .placed) (hkill : b.killing = false) (hal : sl.pair x.a % 4096 = 0)
    (hread : s.readImage g.id gr.record (sl.pair x.a) = (s1, .ok img)) (himg : s1.imageBad gr b img = none) :
    exec (.ctxld x) s = .next (((s1.loadBlock gr b img).startLoaded gr (sl.reg x.i.val).toNat).passIssuer g.id m) := by
  have hreads : s.readImages g.id gr (sl.pair x.a) [b] = (s1, .ok [], [(b, img)]) := by
    rw [State.readImages, hread]
    rfl
  show execCtxld x s = _
  rw [execCtxld, supervisor_at hS, ctxTarget_ok hgr hidx]
  dsimp only
  rw [copies_one hb hshadow, if_neg (by simp [hstate, hkill]), if_neg (by simpa using hal)]
  have hpending : [b].find? (fun b => b.state == .pending) = none := by simp [hstate]
  rw [List.map_singleton, hpending]
  dsimp only
  rw [hreads]
  simp [himg]
end

/-! ## A block with the state of its image -/

/-- A block as its image gives it (R233). -/
def loadedBlock (b : Block) (r : LaunchRec) (img : List Byte) : Block :=
  { b with state := .loaded, integrity := false, want := [],
           accs := (imageSlots img).zipIdx.map fun p => (p.1, wordsAt img (0x2000 + r.gangs * gangBytes r + 0x10000 * p.2) 16384)
           barriers := (List.range 16).map (barrierAt img) }

/-- The block and its gangs as an image gives them, before the partition and the handle table. -/
def gangsLoaded (s : State) (b : Block) (r : LaunchRec) (img : List Byte) : State :=
  (s.blockGangs b.id).foldl (fun t x => t.setGang ((x.load r img).marked.retile t)) (s.setBlock (loadedBlock b r img))

theorem gangsLoaded_spec {s : State} (hn : (s.gangs.map (·.id)).Nodup) (b : Block) (r : LaunchRec) (img : List Byte) :
    GangsOnly (s.setBlock (loadedBlock b r img)) (gangsLoaded s b r img) ∧
      ∀ k, (gangsLoaded s b r img).gang? k = if k.block? = some b.id then (s.gang? k).map (loadedGang s r img) else s.gang? k :=
  foldl_blockGangs (s := s.setBlock (loadedBlock b r img)) hn (F := fun t x => t.setGang ((x.load r img).marked.retile t))
    (f := loadedGang s r img) (fun _ => rfl)
    (fun t x ht => by
      have hops : t.ops = s.ops := by rw [ht.1]; rfl
      simp only [loadedGang, Gang.retile, hops]) b.id

/-- What an image fills in a block's local store (R233). -/
def imagePart (r : LaunchRec) (img : List Byte) : List Byte :=
  (img.drop (0x2000 + r.gangs * gangBytes r + 0x10000 * (imageSlots img).length)).take (0x1000 * r.lsSz)

theorem loadBlock_frame (s : State) (gr : Grid) (b : Block) (img : List Byte) :
    ∀ t, t = s.loadBlock gr b img → ∀ v, v = gangsLoaded s b gr.record img →
      t.gangs = v.gangs ∧ t.blocks = v.blocks ∧ t.issue = v.issue ∧ t.pkgId = v.pkgId ∧ t.mem = v.mem ∧
        t.ls = v.ls.write b.base (imagePart gr.record img) := by
  rintro _ rfl _ rfl
  unfold State.loadBlock
  extract_lets r slots at0 accs u v part w put z
  have hz : z.gangs = v.gangs ∧ z.blocks = v.blocks ∧ z.issue = v.issue ∧ z.pkgId = v.pkgId ∧ z.mem = v.mem ∧ z.ls = v.ls.write b.base part := by
    simp only [z]
    split <;> exact ⟨rfl, rfl, rfl, rfl, rfl, rfl⟩
  clear_value z
  split
  · split
    · exact hz
    · exact hz
  · exact hz

theorem loadBlock_spec {s : State} (hn : (s.gangs.map (·.id)).Nodup) (b : Block) (gr : Grid) (img : List Byte) :
    let t := s.loadBlock gr b img
    t.gangs.map (·.id) = s.gangs.map (·.id) ∧ t.blocks = (s.setBlock (loadedBlock b gr.record img)).blocks ∧ t.issue = s.issue ∧
    t.pkgId = s.pkgId ∧ t.mem = s.mem ∧ t.ls = s.ls.write b.base (imagePart gr.record img) ∧
    ∀ k, t.gang? k = if k.block? = some b.id then (s.gang? k).map (loadedGang s gr.record img) else s.gang? k := by
  obtain ⟨⟨h1, h2⟩, h3⟩ := gangsLoaded_spec hn b gr.record img
  obtain ⟨g1, g2, g3, g4, g5, g6⟩ := loadBlock_frame s gr b img _ rfl _ rfl
  intro t
  rw [g1, g2, g3, g4, g5, g6, h1]
  refine ⟨h2, rfl, rfl, rfl, rfl, rfl, fun k => ?_⟩
  rw [State.gang?, g1]
  exact h3 k

/-! ## Loaded blocks that run -/

/-- The same gangs, blocks, device memory, local stores and issue. -/
def SameBlocks (s t : State) : Prop := t.gangs = s.gangs ∧ t.blocks = s.blocks ∧ t.mem = s.mem ∧ t.ls = s.ls ∧ t.issue = s.issue

theorem blocksRun_congr {s u v t : State} {p : Block → Bool} (hsu : SameBlocks s u) (h : BlocksRun u v p) (hvt : SameBlocks v t) : BlocksRun s t p := by
  obtain ⟨g1, b1, m1, l1, i1⟩ := hsu
  obtain ⟨g2, b2, m2, l2, i2⟩ := hvt
  obtain ⟨hn, ⟨hm, hl, hi⟩, hb, hg⟩ := h
  refine ⟨by rw [g2, hn, g1], ⟨by rw [m2, hm, m1], by rw [l2, hl, l1], by rw [i2, hi, i1]⟩, fun j => ?_, fun k => ?_⟩
  · simp only [State.block?, b1, b2] at hb ⊢
    exact hb j
  · simp only [State.gang?, g1, g2, b1] at hg ⊢
    exact hg k

theorem sameBlocks_tellMembers (x : Span) (msg : Nat → ControlMsg) (l : List Nat) (s : State) :
    SameBlocks s (l.foldl (fun t m => t.tellMember x m (msg m)) s) :=
  List.foldlRecOn (motive := SameBlocks s) l _ ⟨rfl, rfl, rfl, rfl, rfl⟩ fun _ h _ _ => h

section
variable {s : State} (hg : (s.gangs.map (·.id)).Nodup) (hb : (s.blocks.map (·.id)).Nodup)
include hg hb

/-- The coordinator's own blocks run with the span, or none does (R227; log 33). -/
theorem spanLoaded_runs (x : Span) : ∃ p, BlocksRun s (s.spanLoaded x) p := by
  unfold State.spanLoaded
  split
  · exact ⟨_, blocksRun_none s⟩
  next gr _ =>
    dsimp only
    split
    · refine ⟨_, blocksRun_congr ?_ (blocksRun_foldl (s := (s.setSpan { x with round := .placed, loaded := [] }).setGrid
        { gr with spanPlaced := true, windowOpen := true }) hg hb fun b => b.id.handle == gr.handle && b.state == .loaded)
        (sameBlocks_tellMembers x (fun m => .spanReady x.key m) _ _)⟩
      exact ⟨rfl, rfl, rfl, rfl, rfl⟩
    · exact ⟨_, blocksRun_none s⟩

/-- The live blocks of a block's cohort, in both copies. -/
def liveMate (gr : Grid) (i : Nat) (y : Block) : Bool :=
  y.state != .exited && y.state != .killed && (y.id.handle == gr.handle && (gr.cohortOf i).contains y.id.index)

/-- Outside a span the cohort runs once its live blocks are loaded; a member that does not coordinate its span leaves that to the one that does. -/
theorem startLoaded_runs (gr : Grid) (i : Nat) : ∃ p, BlocksRun s (s.startLoaded gr i) p ∧
    (gr.record.spanSize = 0 → p = if (s.blocks.filter (liveMate gr i)).all (fun b => b.state == .loaded) then liveMate gr i else fun _ => false) ∧
    (gr.record.spanSize ≠ 0 → gr.member s.pkgId ≠ 0 → p = fun _ => false) := by
  have hlist : (s.targetBlocks gr (gr.cohortOf i)).filter (fun b => b.state != .exited && b.state != .killed) = s.blocks.filter (liveMate gr i) :=
    List.filter_filter
  unfold State.startLoaded
  dsimp only
  rw [hlist]
  by_cases hall : (s.blocks.filter (liveMate gr i)).all (fun b => b.state == .loaded) = true
  · rw [if_neg (by simp [hall]), if_pos hall]
    by_cases hspan : gr.record.spanSize = 0
    · rw [if_pos hspan]
      exact ⟨_, blocksRun_foldl hg hb _, fun _ => rfl, fun h => absurd hspan h⟩
    rw [if_neg hspan]
    by_cases hmem : gr.member s.pkgId = 0
    · rw [if_pos hmem]
      split
      next x _ =>
        obtain ⟨p, hp⟩ := spanLoaded_runs hg hb x
        exact ⟨p, hp, fun h => absurd h hspan, fun _ h => absurd hmem h⟩
      · exact ⟨_, blocksRun_none s, fun h => absurd h hspan, fun _ _ => rfl⟩
    · rw [if_neg hmem]
      exact ⟨_, blocksRun_congr ⟨rfl, rfl, rfl, rfl, rfl⟩ (blocksRun_none s) ⟨rfl, rfl, rfl, rfl, rfl⟩, fun h => absurd h hspan, fun _ _ => rfl⟩
  · rw [if_pos (by simpa using hall), if_neg hall]
    exact ⟨_, blocksRun_none s, fun _ => rfl, fun _ _ => rfl⟩
end

/-- The indices of a cohort are those with its quotient (R37). -/
theorem mem_cohortOf {gr : Grid} (hc : 0 < gr.record.cohort) (i j : Nat) : j ∈ gr.cohortOf i ↔ j / gr.record.cohort = i / gr.record.cohort := by
  rw [Grid.cohortOf, List.mem_map]
  constructor
  · rintro ⟨k, hk, rfl⟩
    rw [Nat.mul_comm, Nat.mul_add_div hc, Nat.div_eq_of_lt (List.mem_range.1 hk), Nat.add_zero]
  · intro h
    exact ⟨j % gr.record.cohort, List.mem_range.2 (Nat.mod_lt _ hc), by rw [← h]; exact Nat.div_add_mod' ..⟩

theorem mem_blocks_iff {s : State} (hn : (s.blocks.map (·.id)).Nodup) (y : Block) : y ∈ s.blocks ↔ s.block? y.id = some y :=
  ⟨State.block?_of_mem hn, List.mem_of_find?_eq_some⟩

theorem mem_setBlock_blocks {s : State} (hn : (s.blocks.map (·.id)).Nodup) {b b' : Block} (h : s.block? b'.id = some b) (y : Block) :
    y ∈ (s.setBlock b').blocks ↔ y = b' ∨ y ∈ s.blocks ∧ y.id ≠ b'.id := by
  rw [mem_blocks_iff (by rw [State.setBlock_names]; exact hn), mem_blocks_iff hn]
  by_cases hy : y.id = b'.id
  · rw [hy, State.block?_setBlock_same h]
    simp [eq_comm]
  · rw [State.block?_setBlock_other s hy]
    have : y ≠ b' := fun e => hy (e ▸ rfl)
    simp [hy, this]

theorem unseen_readImage {s t : State} {g : GangId} {r : LaunchRec} {addr : Nat} {img : List Byte} (h : s.readImage g r addr = (t, .ok img)) :
    Unseen s t := by
  unfold State.readImage at h
  generalize hp : s.pageRead g addr 0x2000 = x at h
  obtain ⟨u, y⟩ := x
  cases y with
  | ok hd => exact (unseen_pageRead hp).trans (unseen_pageRead h)
  | _ => cases h

/-- What a placed block's image leaves: the block and its gangs, which run if the block does, and its part of the local store (R233). -/
theorem loaded_runs {s : State} (hg : (s.gangs.map (·.id)).Nodup) (hb : (s.blocks.map (·.id)).Nodup) {b : Block} (hblk : s.block? b.id = some b)
    (gr : Grid) (i : Nat) (img : List Byte) : ∃ p : Block → Bool,
    let t := (s.loadBlock gr b img).startLoaded gr i
    let lb := loadedBlock b gr.record img
    t.issue = s.issue ∧ t.ls = s.ls.write b.base (imagePart gr.record img) ∧
    t.block? b.id = some (if p lb then { lb with state := .running } else lb) ∧
    (∀ k, k.block? = none → t.gang? k = s.gang? k) ∧
    (∀ y ∈ s.gangs, y.id.block? = some b.id →
      t.gang? y.id = some (if p lb then runsOn (loadedGang s gr.record img y) else loadedGang s gr.record img y)) ∧
    (gr.record.spanSize = 0 → p = if ((s.setBlock lb).blocks.filter (liveMate gr i)).all (fun b => b.state == .loaded) then liveMate gr i
      else fun _ => false) ∧
    (gr.record.spanSize ≠ 0 → gr.member s.pkgId ≠ 0 → p = fun _ => false) := by
  obtain ⟨h1, h2, h3, h4, h5, h6, h7⟩ := loadBlock_spec hg b gr img
  generalize s.loadBlock gr b img = u at *
  have hun : (u.blocks.map (·.id)).Nodup := by rw [h2, State.setBlock_names]; exact hb
  have hub : u.block? b.id = some (loadedBlock b gr.record img) := by
    rw [State.block?, h2]
    exact State.block?_setBlock_same (b' := loadedBlock b gr.record img) hblk
  obtain ⟨p, ⟨-, ⟨hm, hl, hi⟩, hblock, hgang⟩, hp0, hp1⟩ := startLoaded_runs (s := u) (h1 ▸ hg) hun gr i
  refine ⟨p, hi.trans h3, hl.trans h6, ?_, fun k hk => ?_, fun y hy hyb => ?_, fun h0 => h2 ▸ hp0 h0, fun h0 hmem => hp1 h0 (h4 ▸ hmem)⟩
  · rw [hblock, hub, Option.map_some]
  · rw [hgang, if_neg (by rw [hk]; simp), h7, if_neg (by rw [hk]; simp)]
  · have hiff : (∃ x ∈ u.blocks, p x = true ∧ y.id.block? = some x.id) ↔ p (loadedBlock b gr.record img) = true := by
      constructor
      · rintro ⟨x, hx, hpx, hyx⟩
        have hxb : x.id = b.id := Option.some.inj (hyx.symm.trans hyb)
        have hx' := State.block?_of_mem hun hx
        rw [hxb, hub] at hx'
        exact Option.some.inj hx' ▸ hpx
      · exact fun hpl => ⟨_, List.mem_of_find?_eq_some hub, hpl, hyb⟩
    rw [hgang, if_congr hiff rfl rfl, h7, if_pos hyb, State.gang?_of_mem hg hy]
    split <;> rfl

/-- The live blocks of a cohort are all loaded where every block of it but the one just loaded is loaded, or has ended. -/
theorem liveMates_loaded {s : State} (hn : (s.blocks.map (·.id)).Nodup) {b lb : Block} (hblk : s.block? b.id = some b) (hid : lb.id = b.id)
    (hstate : lb.state = .loaded) {gr : Grid} (hc : 0 < gr.record.cohort) :
    ((s.setBlock lb).blocks.filter (liveMate gr b.id.index)).all (fun b => b.state == .loaded) = true ↔
      ∀ y ∈ s.blocks, y.id.handle = gr.handle → mateOf gr [b.id.index] y.id.index → y.id ≠ b.id →
        y.state ∈ [BlockState.loaded, .exited, .killed] := by
  have hmate (j : Nat) : mateOf gr [b.id.index] j = true ↔ j ∈ gr.cohortOf b.id.index := by
    rw [mem_cohortOf hc]
    simp [mateOf]
  simp only [List.all_eq_true, List.mem_filter, mem_setBlock_blocks hn (hid ▸ hblk : s.block? lb.id = some b), hmate, hid]
  constructor
  · intro h y hy hh hm hne
    by_cases hdead : y.state = .exited ∨ y.state = .killed
    · rcases hdead with hd | hd <;> simp [hd]
    · have hlive : liveMate gr b.id.index y = true := by simp [liveMate, hh, hm, not_or.1 hdead]
      have := h y ⟨.inr ⟨hy, hne⟩, hlive⟩
      simp only [beq_iff_eq] at this
      simp [this]
  · rintro h y ⟨rfl | ⟨hy, hne⟩, hlive⟩
    · simp [hstate]
    · simp only [liveMate, Bool.and_eq_true, bne_iff_ne, beq_iff_eq, List.contains_iff_mem] at hlive
      obtain ⟨⟨h1, h2⟩, hh, hm⟩ := hlive
      have := h y hy hh hm hne
      simp only [List.mem_cons, h1, h2, List.not_mem_nil, or_false] at this
      simp [this]

/-- A block as CTXSV leaves it (R227, R58). -/
def savedBlock (b : Block) : Block :=
  { b with state := .saved, integrity := false, accs := [], latch := [], race := [], saver := none, want := b.accs.map (·.1) }

/-- Settles O39: CTXSV and CTXLD by the state of the block's one copy, and what a loaded block leaves by the blocks that run with it. -/
theorem contextImages : Obligations.ContextImages := by
  unfold Obligations.ContextImages
  intro s s1 g m x i sl gr b hS hgr hidx hb hshadow hc
  have hbid : b.id = ⟨gr.handle, (sl.reg x.i.val).toNat, false⟩ := State.block?_id hb
  have hblk : s.block? b.id = some b := hbid.symm ▸ hb
  obtain ⟨⟨hwho, hgang⟩, hctl, -, hbn, hgn⟩ := id hS
  have hgb : g.id.block? = none := by
    cases hk : g.id with
    | compute c n => rw [hk] at hctl; cases hctl
    | control d k => rfl
  refine ⟨fun hstate hready hal hw hblocks hgangs => ?_, fun hexit hkill h => ?_, fun img hstate hkill hal hread himg hblocks hgangs hgrids hcohorts => ?_,
    fun h => ctxld_refused hS hgr hidx hb hshadow h, fun hstate hkill hal => ctxld_misaligned hS hgr hidx hb hshadow hstate hkill hal⟩
  · obtain ⟨r, hw⟩ := hw
    have hissue : (s1.saveBlock b).issue = s.issue := (State.pageWrite_issue hw :)
    have hgang1 : (s1.saveBlock b).gang? g.id = some g := by
      show s1.gang? g.id = some g
      rw [State.gang?, hgangs]
      exact hgang
    obtain ⟨h1, h2, h3, h4, -⟩ := passIssuer_spec hgang1 hissue m
    have hblk1 : s1.block? b.id = some b := by rw [State.block?, hblocks]; exact hblk
    refine ⟨_, ctxsv_saves hS hgr hidx hb hshadow hstate hready hal hw, h1, h3, h4, ?_, fun k hk => ?_⟩
    · rw [State.block?, h2]
      exact State.block?_setBlock_same (b' := savedBlock b) hblk1
    · rw [State.block?, h2]
      refine (State.block?_setBlock_other s1 (b' := savedBlock b) hk).trans ?_
      rw [State.block?, hblocks]
      rfl
  · exact ⟨s.setBlock { b with saver := none }, ctxsv_refused hS hgr hidx hb hshadow hexit hkill h, rfl, rfl⟩
  · have hblk1 : s1.block? b.id = some b := by rw [State.block?, hblocks]; exact hblk
    have hissue : s1.issue = s.issue := (unseen_readImage hread).fields.2.2.1
    obtain ⟨p, hi, hl, hblock, hnone, hgs, hp0, hp1⟩ := loaded_runs (s := s1) (hgangs ▸ hgn) (hblocks ▸ hbn) hblk1 gr (sl.reg x.i.val).toNat img
    have hexec := ctxld_loads hS hgr hidx hb hshadow hstate hkill hal hread himg
    generalize (s1.loadBlock gr b img).startLoaded gr (sl.reg x.i.val).toNat = t at *
    have hgang1 : t.gang? g.id = some g := by
      rw [hnone _ hgb, State.gang?, hgangs]
      exact hgang
    obtain ⟨h1, h2, h3, h4, h5⟩ := passIssuer_spec hgang1 (hi.trans hissue) m
    refine ⟨_, _, hexec, h1, by rw [State.block?, h2]; exact hblock, fun h0 => ?_, fun h0 hmem => ?_, ?_, ?_, ?_, ?_, fun y hy hyb => ?_, h4.trans hl⟩
    · have hidx' : (sl.reg x.i.val).toNat = b.id.index := by rw [hbid]
      have hlive : liveMate gr b.id.index (loadedBlock b gr.record img) = true := by
        have hself : b.id.index ∈ gr.cohortOf b.id.index := (mem_cohortOf hc _ _).2 rfl
        have hhandle : b.id.handle = gr.handle := by rw [hbid]
        simp [liveMate, loadedBlock, hself, hhandle]
      have hmates := liveMates_loaded (s := s1) (hblocks ▸ hbn) (lb := loadedBlock b gr.record img) hblk1 rfl rfl hc
      rw [hblocks] at hmates
      rw [hp0 h0, hidx']
      by_cases hall : ((s1.setBlock (loadedBlock b gr.record img)).blocks.filter (liveMate gr b.id.index)).all (fun b => b.state == .loaded) = true
      · rw [if_pos hall, if_pos (hmates.1 hall), if_pos hlive]
      · rw [if_neg hall, if_neg fun h => hall (hmates.2 h)]
        rfl
    · rw [hp1 h0 hmem]
      rfl
    · split <;> rfl
    · split <;> rfl
    · split <;> simp [loadedBlock]
    · split <;> simp [loadedBlock, Function.comp_def]
    · have hne : y.id ≠ g.id := fun e => by rw [e, hgb] at hyb; cases hyb
      rw [h5 _ hne, hgs y (hgangs ▸ hy) hyb]
      by_cases hp : p (loadedBlock b gr.record img) = true
      · rw [if_pos hp, if_pos hp, if_pos rfl]
      · rw [if_neg hp, if_neg hp, if_neg (by simp [loadedBlock])]

end Sys2Proof.Proofs
end

section
/-! SUPPORT. Writes at places in memory, and what an engine's write and an operation's end leave. -/
set_option Elab.async false
namespace Sys2Proof.Machine
open Sys2Proof.Claims

/-! ## Writes in memory -/

theorem inMemory_not_reg {p : Place} (h : InMemory p) (die off : Nat) : p ≠ .reg die off := by
  rintro rfl
  rcases h with ⟨_, _, h⟩ | ⟨_, _, _, h⟩ <;> cases h

/-- A write in memory changes device memory and local stores alone. -/
theorem writePlace_frame (s : State) {p : Place} (hp : InMemory p) (bs : List Byte) (sv : Bool) :
    s.writePlace p bs sv = { s with mem := (s.writePlace p bs sv).mem, ls := (s.writePlace p bs sv).ls } := by
  rcases hp with ⟨pa, h, rfl⟩ | ⟨i, b, o, rfl⟩ <;> rfl

/-- What is written is read, and no other byte changes. -/
theorem readPlace_writePlace {s : State} (hm : s.memOk = true) {p : Place} (hp : InMemory p) (bs : List Byte) (sv : Bool) :
    (s.writePlace p bs sv).readPlace p bs.length = bs ∧ Elsewhere s (s.writePlace p bs sv) [.ok p] bs.length := by
  simp only [State.memOk, Bool.and_eq_true] at hm
  obtain ⟨⟨hmem, hls⟩, -⟩ := hm
  rcases hp with ⟨pa, h, rfl⟩ | ⟨i, b, o, rfl⟩
  · refine ⟨Memory.read_write hmem pa bs, fun a ha => Memory.get_write_outside hmem ?_, fun _ _ => rfl, fun _ _ => rfl⟩
    have := ha (.ok (.mem pa h)) (by simp)
    by_contra hc
    exact this ⟨pa, h, rfl, by omega, by omega⟩
  · refine ⟨Memory.read_write hls i bs, fun _ _ => rfl, fun a ha => Memory.get_write_outside hls ?_, fun _ _ => rfl⟩
    have := ha (.ok (.ls i b o)) (by simp)
    by_contra hc
    exact this ⟨i, b, o, rfl, by omega, by omega⟩

theorem elsewhere_congr {s t u v : State} {l : List Located} {n : Nat} (hst : SameMemory s t) (h : Elsewhere t u l n) (huv : SameMemory u v) :
    Elsewhere s v l n := by
  obtain ⟨m1, l1, w1⟩ := hst
  obtain ⟨m2, l2, w2⟩ := huv
  unfold Elsewhere at *
  rwa [m2, l2, w2, ← m1, ← l1, ← w1]

theorem Unseen.sameMemory {s t : State} (h : Unseen s t) : SameMemory s t := by
  obtain ⟨-, -, -, -, hm, hl, hw, -⟩ := h.fields
  exact ⟨hm, hl, hw⟩

theorem Unseen.memOk {s t : State} (h : Unseen s t) : t.memOk = s.memOk := by
  obtain ⟨hm, hl, hw⟩ := h.sameMemory
  rw [State.memOk, hm, hl, hw, State.memOk]

/-- A plain store performed here writes its bytes and does nothing else that is seen. -/
theorem performAt_store {s : State} {g : Gang} (hp : Plain s g.id) (lane laneIdx addr : Nat) (p : Place) (bs : List Byte) (u : SyncUse) :
    ∃ t, Unseen s t ∧ s.performAt g lane laneIdx addr p (.store bs) u = (t.writePlace p bs g.id.isControl, ⟨.ok [], none⟩) :=
  performAt_plain hp lane laneIdx addr p (.store bs) u

/-- The engine's writes: the bytes are there, no other byte changes, and but for what carries the write and the cohorts nothing else does. -/
structure Wrote (s t : State) (p : Place) (bs : List Byte) : Prop where
  bytes : t.readPlace p bs.length = bs
  elsewhere : Elsewhere s t [.ok p] bs.length
  rest : t.gangs = s.gangs ∧ t.blocks = s.blocks ∧ t.ops = s.ops ∧ t.grids = s.grids

theorem wrote_of_unseen {s t : State} (hu : Unseen s t) (hm : s.memOk = true) {p : Place} (hp : InMemory p) (bs : List Byte) (sv : Bool) :
    Wrote s (t.writePlace p bs sv) p bs := by
  obtain ⟨h1, h2⟩ := readPlace_writePlace (hu.memOk.trans hm) hp bs sv
  obtain ⟨-, -, -, -, -, -, -, -, -, -, hgrids, hblocks, hgangs, hops, -⟩ := hu.fields
  refine ⟨h1, elsewhere_congr hu.sameMemory h2 ⟨rfl, rfl, rfl⟩, ?_⟩
  rw [writePlace_frame t hp]
  exact ⟨hgangs, hblocks, hops, hgrids⟩

theorem unseen_bumpInterval (s : State) (k : GangId) : Unseen s (s.bumpInterval k) := by
  unfold State.bumpInterval
  split
  next c hc =>
    obtain ⟨b, -, hb⟩ := Option.bind_eq_some_iff.1 hc
    exact ⟨rfl, cohort?_setCohort_table hb rfl rfl rfl rfl⟩
  · exact .refl s

theorem Wrote.unseen {s t u : State} {p : Place} {bs : List Byte} (h : Wrote s t p bs) (hp : InMemory p) (hu : Unseen t u) : Wrote s u p bs := by
  obtain ⟨h1, h2, h3, h4, h5, h6⟩ := h
  obtain ⟨-, -, -, -, -, -, -, -, -, -, hgrids, hblocks, hgangs, hops, -⟩ := hu.fields
  refine ⟨(hu.readPlace (inMemory_not_reg hp) _).trans h1, elsewhere_congr ⟨rfl, rfl, rfl⟩ h2 hu.sameMemory, hgangs.trans h3,
    hblocks.trans h4, hops.trans h5, hgrids.trans h6⟩

/-- A plain store of an engine at a place in memory on its gang's die (R307, R345). -/
theorem engineWrite_store {s s1 : State} {o : EngineOp} {g : Gang} {k : AccKind} {space addr n : Nat} {p : Place} {bs : List Byte} {rel : Bool}
    (hloc : s.issuedLocate o.gang k space addr n = (s1, .ok p)) (hmem : InMemory p) (hleaves : s1.engineLeaves o.gang p = false)
    (hplain : Plain s1 o.gang) (hok : s1.memOk = true) (hg : s1.gang? o.gang = some g) :
    ∃ t, s.engineWrite o k space addr n (.store bs) rel = (t, .ok []) ∧ Wrote s1 t p bs := by
  have hid : g.id = o.gang := State.gang?_id hg
  have hremote : ¬ p.isRemote = true := by
    unfold State.engineLeaves at hleaves
    simp_all
  obtain ⟨t, ht, hperf⟩ := performAt_store (g := g) (hid ▸ hplain) 0 0 addr p bs (engineUse g space (.store bs) rel)
  have hw := wrote_of_unseen ht hok hmem bs g.id.isControl
  unfold State.engineWrite
  rw [hloc]
  dsimp only
  rw [if_neg hremote, hg]
  dsimp only
  rw [hperf]
  refine ⟨_, rfl, ?_⟩
  cases rel with
  | false => exact hw
  | true => exact hw.unseen hmem (unseen_bumpInterval _ _)

/-! ## Ends of operations -/

/-- An operation that ends is recorded so (R82); memory and gangs are as they were. -/
theorem State.endOp_spec {s : State} {o o' : EngineOp} (h : s.op? o'.id = some o) :
    (s.endOp o').op? o'.id = some { o' with complete := true, waiting := false } ∧ SameMemory s (s.endOp o') ∧ (s.endOp o').gangs = s.gangs := by
  have hu := unseen_countSent (s.setOp { o' with complete := true, waiting := false }) o'.gang 0 1
  obtain ⟨-, -, -, -, hmem, hls, hwgt, -, -, -, -, -, hgangs, hops, -⟩ := hu.fields
  refine ⟨?_, ⟨hmem, hls, hwgt⟩, hgangs⟩
  rw [State.endOp, State.op?, hops]
  exact State.op?_setOp_same (o' := { o' with complete := true, waiting := false }) h

/-- A tile operation, a drain or a check ends: it is gone, and t falls (R325). -/
theorem State.endTile_spec {s : State} {o : EngineOp} {g : Gang} (hg : s.gang? o.gang = some g) (hm : o.members = [(o.gang, o.words, o.slice)]) :
    (s.endTile o).ops = s.ops.filter (fun y => y.id != o.id) ∧ (s.endTile o).gang? o.gang = some { g with tq := g.tq.finish o.id } ∧
      SameMemory s (s.endTile o) ∧ (s.endTile o).blocks = s.blocks := by
  have hu := unseen_countSent s o.gang 0 1
  obtain ⟨-, -, -, -, hmem, hls, hwgt, -, -, -, -, hblocks, -⟩ := hu.fields
  have hg' := (hu.gang? o.gang).trans hg
  have hid := State.gang?_id hg
  unfold State.endTile
  rw [hm]
  generalize s.countSent o.gang 0 1 = t at *
  have hlower : ([(o.gang, o.words, o.slice)].foldl (fun s m => s.lowerT m.1 o.id) { t with ops := s.ops.filter fun x => x.id != o.id } : State) =
      ({ t with ops := s.ops.filter fun x => x.id != o.id } : State).setGang { g with tq := g.tq.finish o.id } := by
    rw [List.foldl_cons, List.foldl_nil, State.lowerT,
      show ({ t with ops := s.ops.filter fun x => x.id != o.id } : State).gang? o.gang = some g from hg']
  rw [hlower]
  refine ⟨rfl, ?_, ⟨hmem, hls, hwgt⟩, hblocks⟩
  rw [← hid]
  exact State.gang?_setGang_same (s := { t with ops := s.ops.filter fun x => x.id != o.id })
    (g' := { g with tq := g.tq.finish o.id }) (hid.symm ▸ hg')

end Sys2Proof.Machine
end

section
/-! CERTIFICATE. The ends of copies, batches, tile operations, drains and EPLD's check. -/
set_option Elab.async false
namespace Sys2Proof.Proofs
open Sys2Proof Sys2Proof.Machine Sys2Proof.Claims

/-! ## Copies -/

/-- A copy's operation after a unit has been performed that makes no arrival. -/
def landedCopy (c : CopyOp) (u : Nat) : CopyOp := { c with landed := c.landed ++ [u], last := u, data := none, piece := 0 }

theorem copyLanded_unmarked {o : EngineOp} {c : CopyOp} (h : c.mark ≠ 1) (hw : o.waiting = false) (s : State) (u : Nat) :
    s.copyLanded o c u = s.setOp { o with kind := .copy (landedCopy c u) } := by
  have hk : ∀ k, ({ o with kind := k, waiting := false } : EngineOp) = { o with kind := k } := fun k => by rw [← hw]
  simp [State.copyLanded, h, hk, landedCopy]

theorem copyPieceLanded_stores {s s1 s2 : State} {o : EngineOp} {g : Gang} {c : CopyOp} {bs : List Byte} {p : Place} (hw : Working s o g)
    (hk : o.kind = .copy c) (hleft : c.landed.length < c.units) (hcopy : c.reduce = false) (hmark : c.mark ≠ 1) (hdata : c.data = none)
    (hread : s.copyRead o.gang c.sspace (c.src + 16 * s.copyUnit o.gang c) = (s1, .ok bs)) (hlen : bs.length = 16)
    (hloc : s1.issuedLocate o.gang .store c.dspace (c.dst + 16 * s.copyUnit o.gang c) 16 = (s2, .ok p)) (hp : InMemory p)
    (hleaves : s2.engineLeaves o.gang p = false) (hplain : Plain s2 o.gang) (hok : s2.memOk = true) (hg : s2.gang? o.gang = some g)
    (ho : s2.op? o.id = some o) :
    ∃ t c', exec (.copyPieceLanded o.id) s = .next t ∧ t.readPlace p 16 = bs ∧ Elsewhere s2 t [.ok p] 16 ∧
      t.op? o.id = some { o with kind := .copy c' } ∧ c'.landed = c.landed ++ [s.copyUnit o.gang c] ∧
      c' = { c with landed := c'.landed, last := c'.last, piece := c'.piece } ∧ t.gangs = s2.gangs ∧ t.blocks = s2.blocks := by
  obtain ⟨hop, hcomplete, hwaiting, -⟩ := hw
  obtain ⟨t, hwrite, ⟨hbytes, hels, hgangs, hblocks, hops, -⟩⟩ := engineWrite_store (rel := false) (bs := bs) hloc hp hleaves hplain hok hg
  have hrun : exec (.copyPieceLanded o.id) s = .next (t.setOp { o with kind := .copy (landedCopy c (s.copyUnit o.gang c)) }) := by
    show execCopyPieceLanded o.id s = _
    unfold execCopyPieceLanded
    rw [hop]
    simp only [hk]
    rw [if_neg (by simp [hcomplete, hwaiting, hleft]), hdata]
    simp only [hread]
    rw [State.copyStore, if_pos (by simp [hcopy])]
    simp only [hloc]
    rw [if_neg (by simp [hleaves]), hwrite]
    exact congrArg _ (copyLanded_unmarked hmark hwaiting t _)
  have hto : t.op? o.id = some o := by rw [State.op?, hops]; exact ho
  refine ⟨_, landedCopy c (s.copyUnit o.gang c), hrun, hlen ▸ hbytes, hlen ▸ hels, ?_, rfl, ?_, hgangs, hblocks⟩
  · exact State.op?_setOp_same (o' := { o with kind := .copy (landedCopy c (s.copyUnit o.gang c)) }) hto
  · rw [landedCopy, hdata]

theorem copyComplete_at {s : State} {o : EngineOp} {c : CopyOp} (ho : s.op? o.id = some o) (hk : o.kind = .copy c) :
    (s.copyDone o c = false → exec (.copyComplete o.id) s = .next s) ∧
    (s.copyDone o c = true → c.mark ≠ 2 → exec (.copyComplete o.id) s = .next (s.endOp o)) ∧
    ∀ t, s.copyDone o c = true → c.mark = 2 → c.stamped = false → s.writeStamp o c.dspace c.markAddr c.stamp = (t, .ok []) →
      exec (.copyComplete o.id) s = .next (t.endOp { o with kind := .copy { c with stamped := true } }) := by
  show (_ → execCopyComplete o.id s = _) ∧ (_ → _ → execCopyComplete o.id s = _) ∧
    ∀ t, _ → _ → _ → _ → execCopyComplete o.id s = _
  unfold execCopyComplete
  rw [ho]
  simp only [hk]
  refine ⟨fun h => if_pos (by simp [h]), fun h hm => ?_, fun t h hm hst hw => ?_⟩
  · rw [if_neg (by simp [h]), if_neg (by simp [hm])]
  · rw [if_neg (by simp [h]), if_pos (by simp [hm, hst]), hw]

theorem writeStamp_stores {s s1 : State} {o : EngineOp} {g : Gang} {space addr : Nat} {v : DWord} {p : Place}
    (hloc : s.issuedLocate o.gang .stamp space addr 8 = (s1, .ok p)) (hp : InMemory p) (hleaves : s1.engineLeaves o.gang p = false)
    (hplain : Plain s1 o.gang) (hok : s1.memOk = true) (hg : s1.gang? o.gang = some g) :
    ∃ t, s.writeStamp o space addr v = (t, .ok []) ∧ Wrote s1 t p (leBytes 8 v.toNat) := by
  obtain ⟨t, hwrite, hwrote⟩ := engineWrite_store (rel := true) (bs := leBytes 8 v.toNat) hloc hp hleaves hplain hok hg
  refine ⟨t, ?_, hwrote⟩
  rw [State.writeStamp, hloc]
  simp only
  rw [if_neg (by simp [hleaves]), hwrite]

theorem readPlace_sameMemory {s t : State} (h : SameMemory s t) {p : Place} (hp : InMemory p) (n : Nat) : t.readPlace p n = s.readPlace p n := by
  obtain ⟨hm, hl, -⟩ := h
  rcases hp with ⟨pa, b, rfl⟩ | ⟨i, b, o, rfl⟩
  · exact congrArg (fun m : Memory => m.read pa n) hm
  · exact congrArg (fun m : Memory => m.read i n) hl

theorem copyComplete_stamps {s s1 : State} {o : EngineOp} {g : Gang} {c : CopyOp} {p : Place} (hop : s.op? o.id = some o) (hk : o.kind = .copy c)
    (hdone : s.copyDone o c = true) (hmark : c.mark = 2) (hst : c.stamped = false)
    (hloc : s.issuedLocate o.gang .stamp c.dspace c.markAddr 8 = (s1, .ok p)) (hp : InMemory p) (hleaves : s1.engineLeaves o.gang p = false)
    (hplain : Plain s1 o.gang) (hok : s1.memOk = true) (hg : s1.gang? o.gang = some g) (ho : s1.op? o.id = some o) :
    ∃ t, exec (.copyComplete o.id) s = .next t ∧ t.readPlace p 8 = leBytes 8 c.stamp.toNat ∧ Elsewhere s1 t [.ok p] 8 ∧
      t.op? o.id = some (ended { o with kind := .copy { c with stamped := true } }) := by
  obtain ⟨t, hwrite, ⟨hbytes, hels, -, -, hops, -⟩⟩ := writeStamp_stores (v := c.stamp) hloc hp hleaves hplain hok hg
  have hlen : (leBytes 8 c.stamp.toNat).length = 8 := leBytes_length 8 _
  obtain ⟨-, -, hrun⟩ := copyComplete_at hop hk
  have hto : t.op? o.id = some o := by rw [State.op?, hops]; exact ho
  obtain ⟨hend, hsame, -⟩ := State.endOp_spec (o' := { o with kind := .copy { c with stamped := true } }) hto
  rw [hlen] at hbytes hels
  exact ⟨_, hrun t hdone hmark hst hwrite, (readPlace_sameMemory hsame hp 8).trans hbytes, elsewhere_congr ⟨rfl, rfl, rfl⟩ hels hsame, hend⟩

/-! ## Batches (R81) -/

theorem batchEnded_iff (s : State) (b : Batch) :
    s.batchEnded b = true ↔ ∀ i ∈ b.ops, ∀ y, s.op? i = some y → y.complete = true ∧ s.opOutstanding i = false := by
  rw [State.batchEnded, List.all_eq_true]
  refine forall₂_congr fun i _ => ?_
  unfold State.opEnded
  cases s.op? i with
  | none => simp
  | some y => simp

/-- What a batch's faults are looked for in: the first operation in order that has one, of a batch that has ended. -/
theorem batchFault_none {s : State} {g : Gang}
    (h : ∀ z ∈ g.sealed, s.batchEnded z = true → ∀ i ∈ z.ops, ∀ y, s.op? i = some y → y.fault = none) : s.batchFault g = none := by
  rw [State.batchFault, List.findSome?_eq_none_iff]
  intro z hz
  split
  next he =>
    rw [Option.map_eq_none_iff, List.findSome?_eq_none_iff]
    intro i hi
    rw [State.opFault, Option.bind_eq_none_iff]
    exact fun y hy => h z hz he i hi y hy
  · rfl

theorem batchFault_first {s : State} {g : Gang} {pre post : List Batch} {z : Batch} {l l' : List Nat} {i : Nat} {y : EngineOp}
    {t : TrapInfo}
    (hg : g.sealed = pre ++ z :: post) (hz : s.batchEnded z = true) (hops : z.ops = l ++ i :: l')
    (hpre : ∀ z' ∈ pre, s.batchEnded z' = true → ∀ j ∈ z'.ops, ∀ y, s.op? j = some y → y.fault = none)
    (hl : ∀ j ∈ l, ∀ y, s.op? j = some y → y.fault = none) (hy : s.op? i = some y) (ht : y.fault = some t) : s.batchFault g = some (z, t) := by
  have hbefore : s.batchFault { g with sealed := pre } = none := batchFault_none hpre
  have hops' : l.findSome? s.opFault = none := by
    rw [List.findSome?_eq_none_iff]
    intro j hj
    rw [State.opFault, Option.bind_eq_none_iff]
    exact hl j hj
  have hi : s.opFault i = some t := by rw [State.opFault, hy]; exact ht
  have hfirst : z.ops.findSome? s.opFault = some t := by
    rw [hops, List.findSome?_append, hops', List.findSome?_cons, hi]; rfl
  rw [State.batchFault] at hbefore ⊢
  rw [hg, List.findSome?_append, hbefore, List.findSome?_cons, if_pos hz, hfirst]
  rfl

/-- The gang after its oldest batch has been looked at. -/
def afterBatch (s : State) (g : Gang) (b : Batch) (rest : List Batch) : Gang :=
  if s.batchEnded b then { g with sealed := rest, c := g.c - 1 } else g

/-- The state in which the operations of the oldest batch, where it has ended, and those of `l` are gone. -/
def batchGone (s : State) (g : Gang) (b : Batch) (rest : List Batch) (l : List Nat) : State :=
  { s.setGang (afterBatch s g b rest) with ops := s.ops.filter fun y => !((if s.batchEnded b then b.ops else []) ++ l).contains y.id }

theorem batchComplete_ends {s : State} {g : Gang} {b : Batch} {rest : List Batch} (hg : s.gang? g.id = some g) (hs : g.sealed = b :: rest)
    (hf : s.batchFault g = none) : exec (.batchComplete g.id) s = .next (if s.batchEnded b then batchGone s g b rest [] else s) := by
  show execBatchComplete g.id s = _
  unfold execBatchComplete
  rw [hg]
  simp only [hs]
  by_cases hb : s.batchEnded b = true
  · refine Eq.trans ?_ (congrArg _ (if_pos hb).symm)
    rw [if_neg (by simp [State.batchDone, hs, hb]), hf]
    rfl
  · rw [if_pos (by simp [State.batchDone, hs, hb, hf]), if_neg hb]

theorem batchComplete_faults {s : State} {g : Gang} {b : Batch} {rest : List Batch} {z : Batch} {t : TrapInfo} (hg : s.gang? g.id = some g)
    (hs : g.sealed = b :: rest) (hf : s.batchFault g = some (z, t)) :
    exec (.batchComplete g.id) s = .next ((batchGone s g b rest z.ops).takeTrap g.id t) := by
  show execBatchComplete g.id s = _
  unfold execBatchComplete
  rw [hg]
  simp only [hs]
  rw [if_neg (by simp [State.batchDone, hs, hf]), hf]
  rfl

theorem batchComplete_waits {s : State} {g : Gang} (hg : s.gang? g.id = some g) (h : s.batchDone g = false) :
    exec (.batchComplete g.id) s = .next s := by
  show execBatchComplete g.id s = _
  unfold execBatchComplete
  rw [hg]
  simp only
  split
  · rfl
  · rw [if_pos (by simp [h])]

/-! ## Tile operations and drains -/

/-- Taking poison away from what is written, and counting it, changes neither memories nor blocks, gangs and operations. -/
theorem poisonCheck_frame (s : State) (p : Place) (n : Nat) (w : Bool) : SameMemory s (s.poisonCheck p n w).1 ∧
    (s.poisonCheck p n w).1.blocks = s.blocks ∧ (s.poisonCheck p n w).1.gangs = s.gangs ∧ (s.poisonCheck p n w).1.ops = s.ops := by
  unfold State.poisonCheck
  split
  · exact ⟨⟨rfl, rfl, rfl⟩, rfl, rfl, rfl⟩
  · split
    · exact ⟨⟨rfl, rfl, rfl⟩, rfl, rfl, rfl⟩
    · dsimp only
      split
      · rw [State.count_eq]
        exact ⟨⟨rfl, rfl, rfl⟩, rfl, rfl, rfl⟩
      · exact ⟨⟨rfl, rfl, rfl⟩, rfl, rfl, rfl⟩

/-- A slot that is written holds what was written; the block's other slots, its other fields and the rest are as they were. -/
theorem fillSlot_spec {s : State} {blk : Block} (hb : s.block? blk.id = some blk) (k : Nat) (w : WordMap) :
    (s.fillSlot blk.id k w).block? blk.id = some { blk with accs := insertAt k w blk.accs } ∧ SameMemory s (s.fillSlot blk.id k w) ∧
      (s.fillSlot blk.id k w).gangs = s.gangs ∧ (s.fillSlot blk.id k w).ops = s.ops := by
  unfold State.fillSlot
  obtain ⟨hsame, hblocks, hgangs, hops⟩ := poisonCheck_frame s (.acc blk.id k 0) 65536 true
  generalize (s.poisonCheck (.acc blk.id k 0) 65536 true).1 = t at *
  have hbt : t.block? blk.id = some blk := by rw [State.block?, hblocks]; exact hb
  rw [State.setSlot, hbt]
  exact ⟨State.block?_setBlock_same (b' := { blk with accs := insertAt k w blk.accs }) hbt, hsame, hgangs, hops⟩

theorem block?_of_blockOf {s : State} {g : GangId} {blk : Block} (h : s.blockOf g = some blk) :
    s.block? blk.id = some blk ∧ g.block? = some blk.id := by
  obtain ⟨i, hi, hb⟩ := Option.bind_eq_some_iff.1 h
  obtain rfl := State.block?_id hb
  exact ⟨hb, hi⟩

/-- What is left when a slot has been written and its operation has ended. -/
theorem fillSlot_endTile {s : State} {o : EngineOp} {g : Gang} {blk : Block} (hb : s.block? blk.id = some blk) (hg : s.gang? o.gang = some g)
    (hm : o.members = [(o.gang, o.words, o.slice)]) (k : Nat) (w : WordMap) :
    ((s.fillSlot blk.id k w).endTile o).block? blk.id = some { blk with accs := insertAt k w blk.accs } ∧
      ((s.fillSlot blk.id k w).endTile o).ops = s.ops.filter (fun y => y.id != o.id) ∧
      ((s.fillSlot blk.id k w).endTile o).gang? o.gang = some { g with tq := g.tq.finish o.id } ∧
      SameMemory s ((s.fillSlot blk.id k w).endTile o) := by
  obtain ⟨hblk, ⟨hmem, hls, hwgt⟩, hgangs, hops⟩ := fillSlot_spec hb k w
  generalize s.fillSlot blk.id k w = t at *
  have hgt : t.gang? o.gang = some g := by rw [State.gang?, hgangs]; exact hg
  obtain ⟨h1, h2, ⟨h3, h4, h5⟩, h6⟩ := State.endTile_spec hgt hm
  refine ⟨?_, h1.trans (by rw [hops]), h2, h3.trans hmem, h4.trans hls, h5.trans hwgt⟩
  rw [State.block?, h6]
  exact hblk

/-- A list's members by their places. -/
theorem lookupAt_zipIdx {α : Type} (l : List α) (n k : Nat) : lookupAt (n + k) ((l.zipIdx n).map fun p => (p.2, p.1)) = l[k]? := by
  induction l generalizing n k with
  | nil => rfl
  | cons a l ih =>
    rw [List.zipIdx_cons, List.map_cons, lookupAt]
    cases k with
    | zero => simp
    | succ k =>
      rw [if_neg (by simp), show n + (k + 1) = n + 1 + k by omega, ih, List.getElem?_cons_succ]

theorem wordsOfBytes_get {n e : Nat} (h : e < n) (bs : List Byte) :
    (⟨.zero, (wordsOfBytes n bs).zipIdx.map fun p => (p.2, p.1)⟩ : WordMap).get e = BitVec.ofNat 32 (ofLeBytes ((bs.drop (4 * e)).take 4)) := by
  have hl := lookupAt_zipIdx (wordsOfBytes n bs) 0 e
  rw [Nat.zero_add] at hl
  rw [WordMap.get, hl, wordsOfBytes, List.getElem?_map, List.getElem?_range h]
  rfl

theorem tileOperation_waits {s : State} {o : EngineOp} {blk : Block} {x : TileOp} (ho : s.op? o.id = some o) (hb : s.blockOf o.gang = some blk)
    (hk : o.kind = .tile x) (h : s.engines blk.die blk.core = []) : exec (.tileOperationComplete o.id) s = .next s := by
  show execTileOperationComplete o.id s = _
  rw [execTileOperationComplete, ho]
  simp only [hk, hb]
  exact if_pos (by simp [h])

section
variable {s : State} {o : EngineOp} {blk : Block} (ho : s.op? o.id = some o) (hb : s.blockOf o.gang = some blk) (hdue : s.tileDue o = true)
  (hengines : s.engines blk.die blk.core ≠ [])
include ho hb hdue hengines

theorem tileOperation_zero {k : Nat} (hk : o.kind = .tile (.zero k)) :
    exec (.tileOperationComplete o.id) s = .next ((s.fillSlot blk.id k WordMap.zero).endTile o) := by
  show execTileOperationComplete o.id s = _
  rw [execTileOperationComplete, ho]
  simp only [hk, hb]
  exact if_neg (by simp [hdue, hengines])

theorem tileOperation_load {k a : Nat} {s1 : State} {bs : List Byte} (hk : o.kind = .tile (.load k a))
    (hread : s.engineReadAll o.gang 1 a 65536 = (s1, .ok bs)) : exec (.tileOperationComplete o.id) s =
      .next ((s1.fillSlot blk.id k ⟨.zero, (wordsOfBytes 16384 bs).zipIdx.map fun p => (p.2, p.1)⟩).endTile o) := by
  show execTileOperationComplete o.id s = _
  rw [execTileOperationComplete, ho]
  simp only [hk, hb]
  rw [if_neg (by simp [hdue, hengines]), hread]

theorem tileOperation_product {solo : Bool} {ms : List TileMember} {w : Word} (hk : o.kind = .tile (.product solo ms w)) :
    (∀ f, (o.kind.slots.findSome? fun k => s.slotError blk.id k 0 65536) = some f →
      exec (.tileOperationComplete o.id) s = .next (s.failTile o 2 f)) ∧
    ((o.kind.slots.findSome? fun k => s.slotError blk.id k 0 65536) = none →
      exec (.tileOperationComplete o.id) s = .next (s.tileProductRun o blk solo ms w)) := by
  show (∀ f, _ → execTileOperationComplete o.id s = _) ∧ (_ → execTileOperationComplete o.id s = _)
  rw [execTileOperationComplete, ho]
  simp only [hk, hb]
  rw [if_neg (by simp [hdue, hengines])]
  exact ⟨fun f hf => by rw [hf], fun hf => by rw [hf]⟩

end

theorem drain_ends {s : State} {o : EngineOp} {x : DrainOp} {b : BlockId} (ho : s.op? o.id = some o) (hk : o.kind = .drain x)
    (hraw : x.raw = false) (hrow : 64 ≤ x.row) (hb : o.gang.block? = some b) (hdue : s.tileDue o = true) :
    exec (.drainComplete o.id) s = .next ((if x.zero then s.fillSlot b x.slot WordMap.zero else s).endTile o) := by
  show execDrainComplete o.id s = _
  rw [execDrainComplete, ho]
  simp only [hk, hb]
  rw [if_neg (by simp [DrainOp.done, hrow, hdue]), if_pos (by simp [hraw])]

theorem drain_waits {s : State} {o : EngineOp} {x : DrainOp} (ho : s.op? o.id = some o) (hk : o.kind = .drain x) (hdue : s.tileDue o = false) :
    exec (.drainComplete o.id) s = .next s := by
  show execDrainComplete o.id s = _
  rw [execDrainComplete, ho]
  simp only [hk]
  split
  · exact if_pos (by simp [hdue])
  · rfl

theorem epldCheck_at {s : State} {o : EngineOp} {g : Gang} {a : Nat} {bs : List Byte} (hw : Working s o g) (hk : o.kind = .epld a (some bs))
    (hf : o.fault = none) :
    (∀ prog, checkProgram 0 (wordsOfBytes 32 bs) = .ok prog → exec (.epldCheckComplete o.id) s = .next (s.endTile o)) ∧
    ∀ n, checkProgram 0 (wordsOfBytes 32 bs) = .error n → exec (.epldCheckComplete o.id) s = .next (s.trapPlain o 0x43 n) := by
  obtain ⟨ho, -, hwaiting, -⟩ := hw
  show (∀ prog, _ → execEpldCheckComplete o.id s = _) ∧ ∀ n, _ → execEpldCheckComplete o.id s = _
  rw [execEpldCheckComplete, ho]
  simp only [hk]
  rw [if_neg (by simp [hwaiting]), hf]
  dsimp only
  exact ⟨fun prog h => by rw [h], fun n h => by rw [h]⟩

theorem members_alone {o : EngineOp} (h : ∀ solo ms w, o.kind ≠ .tile (.product solo ms w)) : o.members = [(o.gang, o.words, o.slice)] := by
  unfold EngineOp.members
  split
  next hk _ => exact absurd hk (h _ _ _)
  · rfl

/-! ## The obligation -/

section
variable {s : State} {o : EngineOp} {g : Gang} {blk : Block} (ho : s.op? o.id = some o) (hb : s.blockOf o.gang = some blk)
  (hg : s.gang? o.gang = some g) (hdue : s.tileDue o = true)
include ho hb hg hdue

theorem tileOperation_zero_spec (hengines : s.engines blk.die blk.core ≠ []) {k : Nat} (hk : o.kind = .tile (.zero k)) :
    ∃ t b', exec (.tileOperationComplete o.id) s = .next t ∧ t.block? blk.id = some b' ∧
      b' = { blk with accs := b'.accs } ∧ (∀ j, lookupAt j b'.accs = if j = k then some WordMap.zero else lookupAt j blk.accs) ∧
      t.ops = s.ops.filter (fun y => y.id != o.id) ∧ t.gang? o.gang = some { g with tq := g.tq.finish o.id } ∧ SameMemory s t := by
  obtain ⟨hblk, hops, hgang, hsame⟩ := fillSlot_endTile (block?_of_blockOf hb).1 hg (members_alone (by simp [hk])) k WordMap.zero
  exact ⟨_, _, tileOperation_zero ho hb hdue hengines hk, hblk, rfl, fun j => lookupAt_insertAt .., hops, hgang, hsame⟩

omit hg in
theorem tileOperation_load_spec (hengines : s.engines blk.die blk.core ≠ []) {k a : Nat} {s1 : State} {bs : List Byte}
    (hk : o.kind = .tile (.load k a)) (hread : s.engineReadAll o.gang 1 a 65536 = (s1, .ok bs)) (hb1 : s1.block? blk.id = some blk)
    (hg1 : s1.gang? o.gang = some g) :
    ∃ t w, exec (.tileOperationComplete o.id) s = .next t ∧ lookupAt k (match t.block? blk.id with | some y => y.accs | none => []) = some w ∧
      (∀ e, e < 16384 → w.get e = BitVec.ofNat 32 (ofLeBytes ((bs.drop (4 * e)).take 4))) ∧
      t.gang? o.gang = some { g with tq := g.tq.finish o.id } ∧ SameMemory s1 t := by
  obtain ⟨hblk, -, hgang, hsame⟩ := fillSlot_endTile hb1 hg1 (members_alone (by simp [hk])) k
    ⟨.zero, (wordsOfBytes 16384 bs).zipIdx.map fun p => (p.2, p.1)⟩
  refine ⟨_, _, tileOperation_load ho hb hdue hengines hk hread, ?_, fun e he => wordsOfBytes_get he bs, hgang, hsame⟩
  rw [hblk]
  exact (lookupAt_insertAt ..).trans (if_pos rfl)

theorem drain_ends_spec {x : DrainOp} (hk : o.kind = .drain x) (hraw : x.raw = false) (hrow : 64 ≤ x.row) (hid : o.gang.block? = some blk.id) :
    ∃ t b', exec (.drainComplete o.id) s = .next t ∧ t.block? blk.id = some b' ∧
      (∀ j, lookupAt j b'.accs = if x.zero = true ∧ j = x.slot then some WordMap.zero else lookupAt j blk.accs) ∧
      t.ops = s.ops.filter (fun y => y.id != o.id) ∧ t.gang? o.gang = some { g with tq := g.tq.finish o.id } ∧ SameMemory s t := by
  have hrun := drain_ends ho hk hraw hrow hid hdue
  have hm : o.members = [(o.gang, o.words, o.slice)] := members_alone (by simp [hk])
  have hblk := (block?_of_blockOf hb).1
  cases hz : x.zero with
  | true =>
    rw [if_pos hz] at hrun
    obtain ⟨h1, h2, h3, h4⟩ := fillSlot_endTile hblk hg hm x.slot WordMap.zero
    exact ⟨_, _, hrun, h1, fun j => by simp [lookupAt_insertAt], h2, h3, h4⟩
  | false =>
    rw [if_neg (by simp [hz])] at hrun
    obtain ⟨h1, h2, h3, h4⟩ := State.endTile_spec hg hm
    exact ⟨_, blk, hrun, by rw [State.block?, h4]; exact hblk, fun j => by simp, h1, h2, h3⟩

end

theorem epldCheck_spec {s : State} {o : EngineOp} {g : Gang} {a : Nat} {bs : List Byte} (hw : Working s o g) (hk : o.kind = .epld a (some bs))
    (hf : o.fault = none) :
    (∀ prog, checkProgram 0 (wordsOfBytes 32 bs) = .ok prog → ∃ t, exec (.epldCheckComplete o.id) s = .next t ∧
      t.ops = s.ops.filter (fun y => y.id != o.id) ∧ t.gang? o.gang = some { g with tq := g.tq.finish o.id } ∧ SameMemory s t) ∧
    ∀ n, checkProgram 0 (wordsOfBytes 32 bs) = .error n → ∃ t : State, exec (.epldCheckComplete o.id) s =
      .next (t.takeTrap o.gang (TrapInfo.plain 0x43 n 3 o.slice o.words)) ∧ t.ops = s.ops.filter (fun y => y.id != o.id) ∧
      t.gang? o.gang = some { g with tq := g.tq.finish o.id } := by
  obtain ⟨hpass, hfail⟩ := epldCheck_at hw hk hf
  obtain ⟨-, -, -, hg⟩ := hw
  obtain ⟨h1, h2, h3, -⟩ := State.endTile_spec hg (members_alone (by simp [hk]))
  exact ⟨fun prog h => ⟨_, hpass prog h, h1, h2, h3⟩, fun n h => ⟨_, hfail n h, h1, h2⟩⟩

theorem batchComplete_spec {s : State} {g : Gang} (hg : s.gang? g.id = some g) {b : Batch} {rest : List Batch} (hs : g.sealed = b :: rest) :
    let g' := if s.batchEnded b then { g with sealed := rest, c := g.c - 1 } else g
    let u (l : List Nat) : State :=
      { s.setGang g' with ops := s.ops.filter fun y => !((if s.batchEnded b then b.ops else []) ++ l).contains y.id }
    ((∀ z ∈ g.sealed, s.batchEnded z = true → ∀ i ∈ z.ops, ∀ y, s.op? i = some y → y.fault = none) →
      exec (.batchComplete g.id) s = .next (if s.batchEnded b then u [] else s)) ∧
    ∀ pre z post l i l' y t, g.sealed = pre ++ z :: post → s.batchEnded z = true → z.ops = l ++ i :: l' →
      (∀ z' ∈ pre, s.batchEnded z' = true → ∀ j ∈ z'.ops, ∀ y, s.op? j = some y → y.fault = none) →
      (∀ j ∈ l, ∀ y, s.op? j = some y → y.fault = none) → s.op? i = some y → y.fault = some t →
      exec (.batchComplete g.id) s = .next ((u z.ops).takeTrap g.id t) := by
  intro g' u
  have hu : ∀ l, u l = batchGone s g b rest l := fun l => rfl
  refine ⟨fun h => ?_, fun pre z post l i l' y t hpre hz hops h1 h2 hy ht => ?_⟩
  · rw [hu]
    exact batchComplete_ends hg hs (batchFault_none h)
  · rw [hu]
    exact batchComplete_faults hg hs (batchFault_first hpre hz hops h1 h2 hy ht)

theorem tileOperation_product_spec {s : State} {o : EngineOp} {blk : Block} (ho : s.op? o.id = some o) (hb : s.blockOf o.gang = some blk)
    (hdue : s.tileDue o = true) (hengines : s.engines blk.die blk.core ≠ []) {solo : Bool} {ms : List TileMember} {w : Word}
    (hk : o.kind = .tile (.product solo ms w)) :
    ((∀ k ∈ o.kind.slots, s.slotError blk.id k 0 65536 = none) →
      exec (.tileOperationComplete o.id) s = .next (s.tileProductRun o blk solo ms w)) ∧
    ∀ k f rest, o.kind.slots = k :: rest → s.slotError blk.id k 0 65536 = some f →
      exec (.tileOperationComplete o.id) s = .next (s.failTile o 2 f) := by
  obtain ⟨hfail, hrun⟩ := tileOperation_product ho hb hdue hengines hk
  refine ⟨fun h => hrun (List.findSome?_eq_none_iff.2 h), fun k f rest hslots hf => hfail f ?_⟩
  rw [hslots, List.findSome?_cons, hf]

/-- Settles O51: each end of an engine's work by the lemma of its event; writes by the rule of an engine's plain store. -/
theorem enginesWork : Obligations.EnginesWork := by
  unfold Obligations.EnginesWork
  intro s s1 s2 o g
  refine ⟨?pieces, ?ends, fun c ho hk => (copyComplete_at ho hk).1, ?batches, ?tiles, fun x ho hk hdue => drain_waits ho hk hdue,
    fun a bs hw hk hf => epldCheck_spec hw hk hf⟩
  case pieces =>
    intro c bs p hw hk hleft hcopy hmark hdata hread hlen hloc hp hleaves hplain hok hg ho
    exact copyPieceLanded_stores hw hk hleft hcopy hmark hdata hread hlen hloc hp hleaves hplain hok hg ho
  case ends =>
    intro c hw hk hdone
    obtain ⟨hop, -, -, -⟩ := hw
    refine ⟨fun hmark => ?_, fun p hmark hst hloc hp hleaves hplain hok hg ho => ?_⟩
    · obtain ⟨hend, hsame, hgangs⟩ := State.endOp_spec hop
      exact ⟨_, (copyComplete_at hop hk).2.1 hdone hmark, hend, hsame, hgangs⟩
    · exact copyComplete_stamps hop hk hdone hmark hst hloc hp hleaves hplain hok hg ho
  case batches => exact fun hg => ⟨batchComplete_waits hg, batchEnded_iff s, fun b rest hs => batchComplete_spec hg hs⟩
  case tiles =>
    intro blk ho hb hg hdue
    refine ⟨fun hengines => ⟨?_, ?_, ?_⟩, fun h x hk => tileOperation_waits ho hb hk h, ?_⟩
    · exact fun k hk => tileOperation_zero_spec ho hb hg hdue hengines hk
    · exact fun k a bs hk hread _ hb1 hg1 _ => tileOperation_load_spec ho hb hdue hengines hk hread hb1 hg1
    · exact fun solo ms w hk => tileOperation_product_spec ho hb hdue hengines hk
    · exact fun x hk hraw hrow hid => drain_ends_spec ho hb hg hdue hk hraw hrow hid

end Sys2Proof.Proofs
end

section
/-! SUPPORT. Pages that are copied, and what a migration leaves. -/
set_option Elab.async false
namespace Sys2Proof.Machine
open Sys2Proof.Claims

/-! ## The bytes of a page -/

theorem Memory.get_filter (m : Memory) (p : Nat → Bool) (x : Nat) :
    Memory.get (m.filter fun c => p c.1) x = if p x then m.get x else Memory.unlisted := by
  induction m with
  | nil => simp [Memory.get]
  | cons c m ih =>
    rw [List.filter_cons]
    by_cases hc : c.1 = x
    · subst hc
      cases hp : p c.1 with
      | true => simp [Memory.get]
      | false => simpa [hp] using ih
    · cases hp : p c.1 <;> simp [Memory.get, hc, ih]

/-- The cells `l` of a page at `src`, written one after another to a page at `dst`. -/
def movedTo (src dst : Nat) (l m : Memory) : Memory := l.foldl (fun acc c => acc.set (c.1 - src + dst) c.2) m

theorem Memory.get_movedTo {src dst n : Nat} {l m : Memory} (hl : Memory.wf l = true) (hin : ∀ c ∈ l, src ≤ c.1 ∧ c.1 < src + n)
    (hm : m.wf = true) :
    (∀ a, a < n → (movedTo src dst l m).get (dst + a) = if l.get (src + a) = Memory.unlisted then m.get (dst + a) else l.get (src + a)) ∧
    ∀ x, (x < dst ∨ dst + n ≤ x) → (movedTo src dst l m).get x = m.get x := by
  induction l generalizing m with
  | nil => exact ⟨fun a _ => (if_pos rfl).symm, fun _ _ => rfl⟩
  | cons c l ih =>
    obtain ⟨hc, habove, hwf⟩ := (Memory.wf_cons c l).1 hl
    have hcin := hin c (by simp)
    obtain ⟨hinside, houtside⟩ := ih hwf (fun d hd => hin d (by simp [hd])) (Memory.wf_set hm (c.1 - src + dst) c.2)
    refine ⟨fun a ha => (hinside a ha).trans ?_, fun x hx => (houtside x hx).trans ?_⟩
    · rw [Memory.get_set hm, Memory.get]
      by_cases hca : c.1 = src + a
      · have hnone : Memory.get l (src + a) = Memory.unlisted := Memory.get_above habove (by omega)
        rw [if_pos hnone, if_pos (by omega), if_pos hca, if_neg (by simpa using hc)]
      · rw [if_neg (by omega : ¬ dst + a = c.1 - src + dst), if_neg hca]
    · rw [Memory.get_set hm, if_neg (by omega)]

/-- A page that is copied holds what the other held, and nothing outside it changes. -/
theorem Memory.get_copyPage {m : Memory} (hm : m.wf = true) (src dst n : Nat) :
    (∀ a, a < n → (m.copyPage src dst n).get (dst + a) = m.get (src + a)) ∧
    ∀ x, (x < dst ∨ dst + n ≤ x) → (m.copyPage src dst n).get x = m.get x := by
  let p (x : Nat) : Bool := src ≤ x && x < src + n
  obtain ⟨hinside, houtside⟩ := Memory.get_movedTo (src := src) (dst := dst) (n := n) (Memory.wf_filter hm fun c => p c.1)
    (fun c hc => by simpa [p] using (List.mem_filter.1 hc).2) (Memory.wf_clear hm dst n)
  refine ⟨fun a ha => (hinside a ha).trans ?_, fun x hx => (houtside x hx).trans ?_⟩
  · have hget : Memory.get (m.filter fun c => p c.1) (src + a) = m.get (src + a) :=
      (Memory.get_filter m p (src + a)).trans (if_pos (by simp [p, ha]))
    rw [hget]
    split
    next h => rw [Memory.get_clear _ _ _ hm, if_pos ⟨by omega, by omega⟩, h]
    · rfl
  · rw [Memory.get_clear _ _ _ hm, if_neg (by omega)]

/-- Bytes read outside a write. -/
theorem Memory.readNat_write_outside {m : Memory} (hm : m.wf = true) {a b n : Nat} {bs : List Byte} (h : a + n ≤ b ∨ b + bs.length ≤ a) :
    (m.write b bs).readNat a n = m.readNat a n := by
  unfold Memory.readNat Memory.read
  refine congrArg ofLeBytes (List.map_congr_left fun i hi => Memory.get_write_outside hm ?_)
  have := List.mem_range.1 hi
  omega

/-- Two doublewords written apart from each other. -/
theorem Memory.write_write {m : Memory} (hm : m.wf = true) {a b : Nat} (hab : a + 8 ≤ b ∨ b + 8 ≤ a) (u v : Nat) :
    ((m.write a (leBytes 8 u)).write b (leBytes 8 v)).readNat a 8 = u % 256 ^ 8 ∧
    ((m.write a (leBytes 8 u)).write b (leBytes 8 v)).readNat b 8 = v % 256 ^ 8 ∧
    ∀ x, ¬ (a ≤ x ∧ x < a + 8) → ¬ (b ≤ x ∧ x < b + 8) → ((m.write a (leBytes 8 u)).write b (leBytes 8 v)).get x = m.get x := by
  have hwf := Memory.wf_write hm a (leBytes 8 u)
  have hlen (v : Nat) : (leBytes 8 v).length = 8 := leBytes_length 8 v
  refine ⟨?_, Memory.readNat_write hwf b 8 v, fun x ha hb => ?_⟩
  · rw [Memory.readNat_write_outside hwf (by rw [hlen]; exact hab), Memory.readNat_write hm]
  · rw [Memory.get_write_outside hwf (by rw [hlen]; omega), Memory.get_write_outside hm (by rw [hlen]; omega)]

/-! ## Migrations -/

/-- Without grids, blocks and merges held back, nothing outside the gangs goes on with a migration's end (R427). -/
theorem State.resumeHeld_idle {s : State} (hg : s.grids = []) (hb : s.blocks = []) (hm : s.heldMerges = []) :
    s.resumeHeld = { s with heldWrites := [] } := by
  have hnone (l : List HeldWrite) (t : State) (ht : t.grids = []) :
      l.foldl (fun (s : State) w => match s.grid? w.handle with | some g => s.deviceWrite g w.addr w.op | none => s) t = t := by
    induction l with
    | nil => rfl
    | cons w l ih => rw [List.foldl_cons, show t.grid? w.handle = none by rw [State.grid?, ht]; rfl]; exact ih
  have hw : s.writeHeld = { s with heldWrites := [] } := hnone s.heldWrites { s with heldWrites := [] } hg
  have hmerge : ({ s with heldWrites := [] } : State).mergeHeld = { s with heldWrites := [] } := by
    unfold State.mergeHeld
    dsimp only
    rw [hm, List.foldl_nil, ← hm]
  rw [State.resumeHeld, hw, hmerge]
  dsimp only
  rw [hb, List.map_nil, List.foldl_nil, State.completeGrids]
  dsimp only
  rw [hg, List.map_nil, List.foldl_nil]

theorem Migration.ptes_small {m : Migration} (h : m.size = 0x10000) : m.ptes = [m.ptePa] := by
  rw [Migration.ptes, if_neg (by rw [h]; decide)]

/-- The entry of a page that has moved (R73, R74). -/
def Migration.newPte (m : Migration) : DWord :=
  (m.oldPte &&& 0xFDEFFFF000000000) ||| (if m.demote then 0x0200000000000000 else 0) ||| BitVec.ofNat 64 (m.frame / 2 ^ 16)

/-- What `s` and `t` have in common that a migration looks at. -/
structure SamePages (s t : State) : Prop where
  mem : t.mem = s.mem
  dev : t.dev = s.dev
  migrations : t.migrations = s.migrations
  rest : t.grids = s.grids ∧ t.blocks = s.blocks ∧ t.heldMerges = s.heldMerges ∧ t.gangs = s.gangs ∧ t.inPlace = s.inPlace

theorem samePages_sendOver (s : State) (q : Requester) (b addr : Nat) : SamePages s (s.sendOver q b addr) := by
  rw [State.sendOver_eq]
  exact ⟨rfl, rfl, rfl, rfl, rfl, rfl, rfl, rfl⟩

theorem retire_dev (s : State) (die frame : Nat) :
    (s.retire die frame).devGet die 0x150 = BitVec.ofNat 64 (((s.devGet die 0x150).toNat + 1) % 2 ^ 32) ∧
      ∀ d, (s.retire die frame).devGet d 0x6000 = s.devGet d 0x6000 := by
  unfold State.retire
  extract_lets k prod t
  have ht : t.dev = s.dev := rfl
  clear_value t
  refine ⟨State.devGet_devSet_same .., fun d => ?_⟩
  rw [State.devGet_devSet_of_ne t _ (by norm_num) (by norm_num) (.inr (by norm_num)), State.devGet_congr ht]

theorem retire_frame (s : State) (die frame : Nat) : (s.retire die frame).mem = s.mem.write (retireSlot s die) (leBytes 8 frame) ∧
    (s.retire die frame).migrations = s.migrations ∧ (s.retire die frame).grids = s.grids ∧ (s.retire die frame).blocks = s.blocks ∧
    (s.retire die frame).heldMerges = s.heldMerges ∧ (s.retire die frame).gangs = s.gangs ∧ (s.retire die frame).inPlace = s.inPlace :=
  ⟨rfl, rfl, rfl, rfl, rfl, rfl, rfl⟩

theorem writePtes_one (s : State) (pte : Nat) (e : DWord) : s.writePtes [pte] e = { s with mem := s.mem.write pte (leBytes 8 e.toNat) } := rfl

/-- The entry of a page of 64 KiB is written and a frame is pushed on a retire ring (R428). -/
theorem retire_writePtes (s : State) (pte : Nat) (e : DWord) (die frame : Nat) :
    ((s.writePtes [pte] e).retire die frame).mem = (s.mem.write pte (leBytes 8 e.toNat)).write (retireSlot s die) (leBytes 8 frame) ∧
      ((s.writePtes [pte] e).retire die frame).devGet die 0x150 = BitVec.ofNat 64 (((s.devGet die 0x150).toNat + 1) % 2 ^ 32) ∧
      (∀ d, ((s.writePtes [pte] e).retire die frame).devGet d 0x6000 = s.devGet d 0x6000) ∧
      ((s.writePtes [pte] e).retire die frame).migrations = s.migrations ∧ ((s.writePtes [pte] e).retire die frame).grids = s.grids ∧
      ((s.writePtes [pte] e).retire die frame).blocks = s.blocks ∧ ((s.writePtes [pte] e).retire die frame).heldMerges = s.heldMerges ∧
      ((s.writePtes [pte] e).retire die frame).gangs = s.gangs ∧ ((s.writePtes [pte] e).retire die frame).inPlace = s.inPlace := by
  have hmem : (s.writePtes [pte] e).mem = s.mem.write pte (leBytes 8 e.toNat) := rfl
  have hdev (d k : Nat) : (s.writePtes [pte] e).devGet d k = s.devGet d k := State.devGet_congr (by rw [writePtes_one]) d k
  have hrest : (s.writePtes [pte] e).migrations = s.migrations ∧ (s.writePtes [pte] e).grids = s.grids ∧ (s.writePtes [pte] e).blocks = s.blocks ∧
    (s.writePtes [pte] e).heldMerges = s.heldMerges ∧ (s.writePtes [pte] e).gangs = s.gangs ∧ (s.writePtes [pte] e).inPlace = s.inPlace :=
    ⟨rfl, rfl, rfl, rfl, rfl, rfl⟩
  generalize s.writePtes [pte] e = t at *
  obtain ⟨h1, h2⟩ := retire_dev t die frame
  obtain ⟨h3, h4⟩ := retire_frame t die frame
  obtain ⟨r1, r2, r3, r4, r5, r6⟩ := hrest
  rw [hmem, retireSlot, hdev, hdev, hdev] at h3
  rw [r1, r2, r3, r4, r5, r6] at h4
  exact ⟨h3, h1.trans (by rw [hdev]), fun d => (h2 d).trans (hdev d _), h4⟩

theorem poisonCheck_answer {s t : State} (h : t.poison = s.poison) (pa home n : Nat) (w : Bool) :
    (t.poisonCheck (.mem pa home) n w).2 = (s.poisonCheck (.mem pa home) n w).2 := by
  have hh : t.poisonHits (.mem pa home) n = s.poisonHits (.mem pa home) n := by
    unfold State.poisonHits
    simp only [h]
  unfold State.poisonCheck
  rw [hh]
  generalize s.poisonHits (.mem pa home) n = r
  obtain ⟨l, a⟩ := r
  cases l with
  | nil => rfl
  | cons x xs =>
    dsimp only
    split
    · rfl
    · rfl

/-- Whether a migration's copy can complete does not depend on the dies' background work. -/
theorem migrationBad_congr {s t : State} (hp : t.poison = s.poison) (hd : t.dev = s.dev) (m : Migration) : t.migrationBad m = s.migrationBad m := by
  have hdown (pa : Nat) : t.cxlDown pa = s.cxlDown pa := by
    unfold State.cxlDown
    simp only [State.devGet_congr hd]
  unfold State.migrationBad
  rw [hdown, hdown, poisonCheck_answer hp, poisonCheck_answer hp]

theorem migrationStep_clean {s : State} {m : Migration} (hf : m.failed = none) (hbad : s.migrationBad m = none) :
    s.migrationStep m = if s.landsIn m || s.retireFull m.retireDie then s else (s.migrationDone m).resumeHeld := by
  unfold State.migrationStep
  rw [show (m.failed.orElse fun _ => s.migrationBad m) = none by rw [hf]; exact hbad]

/-- The state in which a page of 64 KiB has moved: bytes, entry, retire ring (R73). -/
theorem migrationDone_spec {s : State} {m : Migration} (hsize : m.size = 0x10000) (hg : s.grids = []) :
    (s.migrationDone m).mem = ((s.mem.copyPage m.oldFrame m.frame m.size).write m.ptePa (leBytes 8 m.newPte.toNat)).write
        (retireSlot s m.retireDie) (leBytes 8 m.oldFrame) ∧
      (s.migrationDone m).devGet m.retireDie 0x150 = BitVec.ofNat 64 (((s.devGet m.retireDie 0x150).toNat + 1) % 2 ^ 32) ∧
      (s.migrationDone m).migrations = s.migrations.erase m ∧ (s.migrationDone m).grids = [] ∧
      (s.migrationDone m).blocks = s.blocks ∧ (s.migrationDone m).heldMerges = s.heldMerges := by
  unfold State.migrationDone
  rw [Migration.ptes_small hsize]
  extract_lets move grids t home u cleared tier
  have hu : SamePages t u := samePages_sendOver ..
  clear_value u
  obtain ⟨hmem, hdev, hmig, hgrids, hblocks, hmerges, -⟩ := hu
  have hd (d k : Nat) : u.devGet d k = s.devGet d k := State.devGet_congr hdev d k
  obtain ⟨h1, h2, -, h4, h5, h6, h7, -⟩ := retire_writePtes u m.ptePa m.newPte m.retireDie m.oldFrame
  refine ⟨h1.trans ?_, h2.trans (by rw [hd]), h4.trans hmig, h5.trans (hgrids.trans ?_), h6.trans hblocks, h7.trans hmerges⟩
  · rw [retireSlot, hd, hd, hd, hmem]
    rfl
  · show grids = []
    simp [grids, hg]

/-- A migration whose copy cannot complete while the retire ring has room (R427). -/
theorem migrationFail_spec {s : State} {m : Migration} (hw : NoWindow s) (hsize : m.size = 0x10000) (hroom : s.retireFull m.unusedDie = false)
    (cause : Nat) :
    (s.migrationFail m cause).mem = (s.mem.write m.ptePa (leBytes 8 m.oldPte.toNat)).write (retireSlot s m.unusedDie) (leBytes 8 (m.frame + 1)) ∧
      (s.migrationFail m cause).migrations = s.migrations.erase m ∧ (s.migrationFail m cause).inPlace = s.inPlace ++ [m.ptePa] ∧
      (s.migrationFail m cause).gangs = s.gangs.map (released m.ptePa) ∧ (s.migrationFail m cause).grids = s.grids ∧
      (s.migrationFail m cause).blocks = s.blocks ∧ (s.migrationFail m cause).heldMerges = s.heldMerges := by
  unfold State.migrationFail
  rw [if_neg (by simp [hroom]), Migration.ptes_small hsize]
  dsimp only
  obtain ⟨h1, -, h3, h4, h5, h6, h7, h8, h9⟩ :=
    retire_writePtes { s with migrations := s.migrations.erase m } m.ptePa m.oldPte m.unusedDie (m.frame + 1)
  have hwin : NoWindow ((({ s with migrations := s.migrations.erase m } : State).writePtes [m.ptePa] m.oldPte).retire m.unusedDie (m.frame + 1)) :=
    fun d => by rw [h3]; exact hw d
  rw [State.event_noWindow hwin]
  generalize (({ s with migrations := s.migrations.erase m } : State).writePtes [m.ptePa] m.oldPte).retire m.unusedDie (m.frame + 1) = u at *
  refine ⟨h1, h4, ?_, ?_, h5, h6, h7⟩
  · rw [State.releaseInPlace, Migration.ptes_small hsize, h9]
  · have hfree : Wait.abandon m = fun w => if w = .migration m.ptePa then .inPlace m.ptePa else w := by
      funext w
      unfold Wait.abandon
      rw [Migration.ptes_small hsize]
      cases w <;> simp
      split <;> simp_all
    rw [State.releaseInPlace, h8, hfree]
    rfl

end Sys2Proof.Machine
end

section
/-! CERTIFICATE. Arrivals, walks and migrations. -/
set_option Elab.async false
namespace Sys2Proof.Proofs
open Sys2Proof Sys2Proof.Machine Sys2Proof.Claims

/-! ## Arrivals (R79, R288, R338) -/

theorem exec_syncWordArrival {s : State} {n : Nat} :
    (s.arrivals[n]? = none → exec (.syncWordArrival n) s = .next s) ∧
    ∀ a gid, s.arrivals[n]? = some a → a.src = some gid → a.op = none →
      (s.arrivalTurn a (s.arrivals.take n) = false → exec (.syncWordArrival n) s = .next s) ∧
      (s.arrivalTurn a (s.arrivals.take n) = true →
        exec (.syncWordArrival n) s = .next (({ s with arrivals := s.arrivals.eraseIdx n } : State).gangArrival a gid)) := by
  show (_ → execSyncWordArrival n s = _) ∧ ∀ a gid, _ → _ → _ → (_ → execSyncWordArrival n s = _) ∧ (_ → execSyncWordArrival n s = _)
  unfold execSyncWordArrival
  refine ⟨fun h => by rw [h], fun a gid ha hsrc hop => ?_⟩
  rw [ha]
  dsimp only
  rw [hsrc, hop]
  exact ⟨fun h => if_pos (by simp [h]), fun h => if_neg (by simp [h])⟩

/-- Whether an arrival's word meets the one at `p`. -/
def sharesWord (p : Place) (x : Arrival) : Bool := match x.place with | some q => p == q || p.meets 16 q 16 | none => false

theorem sharesWord_eq_false_iff {p : Place} {x : Arrival} :
    sharesWord p x = false ↔ ∀ q, x.place = some q → p ≠ q ∧ p.meets 16 q 16 = false := by
  unfold sharesWord
  cases x.place with
  | none => simp
  | some q => simp

theorem arrivalTurn_eq {s : State} {a : Arrival} {gid : GangId} {p : Place} (hsrc : a.src = some gid) (hop : a.op = none)
    (hp : a.place = some p) (l : List Arrival) :
    s.arrivalTurn a l = ((!a.rel || ((l.filter fun x => x.ofGang gid).isEmpty && !s.scalarSent gid)) &&
      !((l.filter fun x => x.ofGang gid).any (sharesWord p)) && !s.flightMeets gid false p 16 && s.hasRoom (s.requester gid) 1) := by
  unfold State.arrivalTurn
  rw [hsrc, hop, hp] <;> rfl

theorem arrivalTurn_iff {s : State} {a : Arrival} {gid : GangId} {p : Place} (hsrc : a.src = some gid) (hop : a.op = none)
    (hp : a.place = some p) (l : List Arrival) :
    s.arrivalTurn a l = true ↔
      (a.rel = true → s.scalarSent gid = false ∧ ∀ x ∈ l, ¬ (x.src = some gid ∧ x.op = none)) ∧
      (∀ x ∈ l, x.src = some gid → x.op = none → ∀ q, x.place = some q → p ≠ q ∧ p.meets 16 q 16 = false) ∧
      s.flightMeets gid false p 16 = false ∧ s.hasRoom (s.requester gid) 1 = true := by
  have hof (x : Arrival) : x.ofGang gid = true ↔ x.src = some gid ∧ x.op = none := by simp [Arrival.ofGang]
  have hmine : (l.filter fun x => x.ofGang gid).isEmpty = true ↔ ∀ x ∈ l, ¬ (x.src = some gid ∧ x.op = none) := by
    simp only [List.isEmpty_iff, List.filter_eq_nil_iff, hof]
  have hplace : (l.filter fun x => x.ofGang gid).any (sharesWord p) = false ↔
      ∀ x ∈ l, x.src = some gid → x.op = none → ∀ q, x.place = some q → p ≠ q ∧ p.meets 16 q 16 = false := by
    simp only [List.any_eq_false, List.mem_filter, hof, Bool.not_eq_true, sharesWord_eq_false_iff, and_imp]
  rw [arrivalTurn_eq hsrc hop hp l]
  simp only [Bool.and_eq_true, Bool.or_eq_true, Bool.not_eq_true', hplace, hmine, and_assoc]
  refine and_congr_left fun _ => ?_
  cases a.rel <;> simp [and_comm]

theorem arriveWord_length {bs bs' : List Byte} {n : Nat} (hlen : bs.length = 16) (h : arriveWord bs n = some bs') : bs'.length = 16 := by
  unfold arriveWord at h
  extract_lets target count gen at h
  split at h
  · cases h; exact hlen
  · split at h
    · cases h
    · split at h
      all_goals cases h; simp [leBytes_length, hlen]

theorem readPlace_length (s : State) {p : Place} (hp : InMemory p) (n : Nat) : (s.readPlace p n).length = n := by
  rcases hp with ⟨pa, b, rfl⟩ | ⟨i, b, o, rfl⟩ <;> simp [State.readPlace, Memory.read]

/-- A plain arrival performed here changes the word as an arrival does. -/
theorem performAt_arrival {s : State} {g : Gang} {p : Place} {bs : List Byte} {n : Nat} (hp : Plain s g.id) (hok : s.memOk = true) (hin : InMemory p)
    (hbs : arriveWord (s.readPlace p 16) n = some bs) (addr : Nat) (u : SyncUse) :
    ∃ t, s.performAt g 0 0 addr p (.arrival n) u = (t, ⟨.ok [], none⟩) ∧ Wrote s t p bs ∧ t.arrivals = s.arrivals := by
  obtain ⟨t, ht, hperf⟩ := performAt_plain hp 0 0 addr p (.arrival n) u
  have happly : t.applyFor g.id p (.arrival n) = (t.writePlace p bs g.id.isControl, .ok []) := by
    show t.apply p (.arrival n) g.id.isControl = _
    rw [State.apply, ht.readPlace (inMemory_not_reg hin), hbs]
  rw [happly] at hperf
  refine ⟨_, hperf, wrote_of_unseen ht hok hin bs g.id.isControl, ?_⟩
  obtain ⟨-, -, -, -, -, -, -, -, -, -, -, -, -, -, -, harr, -⟩ := ht.fields
  rw [writePlace_frame t hin]
  exact harr

theorem gangArrival_arrives {s : State} {a : Arrival} {gid : GangId} {g : Gang} {p : Place} {bs : List Byte} (hop : a.op = none)
    (hplace : a.place = some p) (hin : InMemory p) (hg : s.gang? gid = some g) (hplain : Plain s gid) (hok : s.memOk = true)
    (hdie : p.die (s.gangDie gid) = s.gangDie gid) (hkilled : s.reachesKilled gid a.space = false)
    (hbs : arriveWord (s.readPlace p 16) a.n = some bs) :
    Wrote s (s.gangArrival a gid) p bs ∧ (s.gangArrival a gid).arrivals = s.arrivals := by
  have hid : g.id = gid := State.gang?_id hg
  have hremote : p.isRemote = false := by rcases hin with ⟨pa, b, rfl⟩ | ⟨i, b, o, rfl⟩ <;> rfl
  obtain ⟨t, hperf, hwrote, harr⟩ := performAt_arrival (hid.symm ▸ hplain) hok hin hbs a.addr ⟨some a.scope, a.scope, a.space == 1, g.dmask⟩
  have hbump (b : Bool) : Unseen t ((if b then t.bumpInterval gid else t).countSent gid 0 1) := by
    cases b with
    | false => exact unseen_countSent t gid 0 1
    | true => exact (unseen_bumpInterval t gid).trans (unseen_countSent _ gid 0 1)
  have hrun : s.gangArrival a gid = (if a.rel && a.scope != 0 then t.bumpInterval gid else t).countSent gid 0 1 := by
    unfold State.gangArrival
    rw [hop]
    dsimp only [Option.bind_none]
    rw [hplace, hg]
    dsimp only
    rw [if_neg (by simp [hremote, hdie]), if_neg (by simp [hkilled]), hperf]
  rw [hrun]
  have hu := hbump (a.rel && a.scope != 0)
  obtain ⟨-, -, -, -, -, -, -, -, -, -, -, -, -, -, -, harr', -⟩ := hu.fields
  exact ⟨hwrote.unseen hin hu, harr'.trans harr⟩

theorem syncWordArrival_arrives {s : State} {n : Nat} {a : Arrival} {gid : GangId} {g : Gang} {p : Place} (ha : s.arrivals[n]? = some a)
    (hsrc : a.src = some gid) (hop : a.op = none) (hplace : a.place = some p) (hin : InMemory p)
    (hturn : s.arrivalTurn a (s.arrivals.take n) = true) (hg : s.gang? gid = some g) (hplain : Plain s gid) (hok : s.memOk = true)
    (hdie : p.die (s.gangDie gid) = s.gangDie gid) (hkilled : s.reachesKilled gid a.space = false)
    (hsome : (arriveWord (s.readPlace p 16) a.n).isSome = true) :
    ∃ t, exec (.syncWordArrival n) s = .next t ∧ ArrivesAt s t p a.n ∧ t.arrivals = s.arrivals.eraseIdx n ∧ t.gangs = s.gangs ∧
      t.blocks = s.blocks := by
  obtain ⟨bs, hbs⟩ := Option.isSome_iff_exists.1 hsome
  obtain ⟨⟨hbytes, hels, hgangs, hblocks, -⟩, harr⟩ :=
    gangArrival_arrives (s := { s with arrivals := s.arrivals.eraseIdx n }) hop hplace hin hg hplain hok hdie hkilled hbs
  have hlen := arriveWord_length (readPlace_length s hin 16) hbs
  rw [hlen] at hbytes hels
  refine ⟨_, (exec_syncWordArrival.2 a gid ha hsrc hop).2 hturn, fun bs' hbs' => ?_, harr, hgangs, hblocks⟩
  cases hbs.symm.trans hbs'
  exact ⟨hbytes, hels⟩

/-! ## Walks (R85, R86) -/

theorem tlbEntry_untranslated {s : State} {die cd cc va : Nat} (h : Untranslated s die cd cc va) :
    s.tlbEntry (s.dieAgent die (cd, cc)) va = none := by
  show s.tlb.find? (fun e => e.core == none && e.covers (s.dieAgent die (cd, cc)) va && s.tlbHeld e) = none
  rw [List.find?_eq_none]
  intro e he hc
  simp only [TlbEntry.covers, State.dieAgent, Bool.and_eq_true, beq_iff_eq, decide_eq_true_eq] at hc
  obtain ⟨⟨hcore, ⟨⟨⟨hdie, hcd⟩, hcc⟩, hlo⟩, hhi⟩, -⟩ := hc
  exact h e he hdie hcore hcd hcc ⟨hlo, hhi⟩

/-- A walk that needs no permission, of a page in near memory or of one that stays, fills the TLB. -/
theorem translate_walked {s s1 : State} {x : Xagent} {va : Nat} {l : Leaf} (hmiss : s.tlbEntry x va = none)
    (hwalk : s.walk x.die x.ctxDie x.ctxCore va = (s1, .leaf l)) (hpa : paKind (l.pa va) ≠ .none) (hmig : pteMig l.pte = false)
    (hfar : pteFar l.pte = false) : s.translate x va 0 = (s1.tlbFill x l, .ok l) := by
  have hlacks : lacks l.pte 0 = 0 := Nat.zero_sub _
  unfold State.translate
  rw [hmiss]
  dsimp only
  rw [hwalk]
  dsimp only
  rw [if_neg (by simp [hlacks]), if_neg hpa]
  dsimp only
  rw [if_neg (by simp [hmig]), if_neg (by simp [hfar])]

theorem translate_unfound {s s1 : State} {x : Xagent} {va need : Nat} {r : Walked} (hmiss : s.tlbEntry x va = none)
    (hwalk : s.walk x.die x.ctxDie x.ctxCore va = (s1, r)) (hr : ∀ l, r ≠ .leaf l) : (s.translate x va need).1 = s1 := by
  unfold State.translate
  rw [hmiss]
  dsimp only
  rw [hwalk]
  cases r with
  | leaf l => exact absurd rfl (hr l)
  | fault f => rfl
  | wait pa => rfl

/-- An entry enters a TLB that has room: those of other pages and other TLBs stay. -/
theorem tlbEnter_spec {s : State} {e : TlbEntry} (hroom : (s.tlb.filter fun y => y.die == e.die && y.core == e.core).length < tlbRoom e.core) :
    e ∈ (s.tlbEnter e).tlb ∧ (∀ y ∈ (s.tlbEnter e).tlb, y = e ∨ y ∈ s.tlb) ∧
      ∀ y ∈ s.tlb, (y.core ≠ e.core ∨ y.die ≠ e.die ∨ y.ctxDie ≠ e.ctxDie ∨ y.ctxCore ≠ e.ctxCore ∨ y.base ≠ e.base) →
        y ∈ (s.tlbEnter e).tlb := by
  let same (y : TlbEntry) : Bool := y.core == e.core && y.base == e.base && y.covers ⟨e.die, e.core, e.ctxDie, e.ctxCore, []⟩ e.base
  have hlen : ((s.tlb.filter fun y => !same y).filter fun y => y.die == e.die && y.core == e.core).length < tlbRoom e.core :=
    lt_of_le_of_lt (List.Sublist.length_le (List.Sublist.filter _ List.filter_sublist)) hroom
  have htlb : (s.tlbEnter e).tlb = e :: s.tlb.filter fun y => !same y := by
    unfold State.tlbEnter
    exact congrArg (e :: ·) (if_pos hlen)
  rw [htlb]
  refine ⟨List.mem_cons_self, fun y hy => ?_, fun y hy hne => ?_⟩
  · rcases List.mem_cons.1 hy with rfl | hy
    · exact .inl rfl
    · exact .inr (List.mem_of_mem_filter hy)
  · refine List.mem_cons_of_mem _ (List.mem_filter.2 ⟨hy, ?_⟩)
    simp only [same, TlbEntry.covers, Bool.not_eq_true', Bool.and_eq_false_iff, beq_eq_false_iff_ne]
    tauto

theorem walkComplete_fills {s s1 : State} {die cd cc : Nat} {va : VAddr} {l : Leaf} (hmiss : Untranslated s die cd cc va.toNat)
    (hwalk : s.walk die cd cc va.toNat = (s1, .leaf l)) (htlb : s1.tlb = s.tlb) (hpa : paKind (l.pa va.toNat) ≠ .none)
    (hmig : pteMig l.pte = false) (hfar : pteFar l.pte = false)
    (hroom : (s.tlb.filter fun e => e.die == die && e.core.isNone).length < 8192) :
    let new : TlbEntry := ⟨die, none, cd, cc, l.base, l.size, l.pte, l.ptePa⟩
    ∃ t, exec (.walkComplete die cd cc va) s = .next t ∧ t = { s1 with tlb := t.tlb } ∧ new ∈ t.tlb ∧
      (∀ e ∈ t.tlb, e = new ∨ e ∈ s.tlb) ∧
      ∀ e ∈ s.tlb, (e.core ≠ none ∨ e.die ≠ die ∨ e.ctxDie ≠ cd ∨ e.ctxCore ≠ cc ∨ e.base ≠ l.base) → e ∈ t.tlb := by
  intro new
  have hrun : exec (.walkComplete die cd cc va) s = .next (s1.tlbEnter new) := by
    show (.next (s.translate (s.dieAgent die (cd, cc)) va.toNat 0).1 : Outcome) = _
    rw [translate_walked (tlbEntry_untranslated hmiss) hwalk hpa hmig hfar]
    rfl
  have hnone (y : TlbEntry) : (y.core == none) = y.core.isNone := by cases y.core <;> rfl
  have hfew : (s1.tlb.filter fun y => y.die == new.die && y.core == new.core).length < tlbRoom new.core := by
    rw [htlb]
    show (s.tlb.filter fun y => y.die == die && y.core == none).length < 8192
    simpa only [hnone] using hroom
  obtain ⟨h1, h2, h3⟩ := tlbEnter_spec hfew
  rw [htlb] at h2 h3
  exact ⟨_, hrun, rfl, h1, h2, h3⟩

theorem walkComplete_unfound {s s1 : State} {die cd cc : Nat} {va : VAddr} {x : Walked} (hmiss : Untranslated s die cd cc va.toNat)
    (hwalk : s.walk die cd cc va.toNat = (s1, x)) (hx : ∀ l, x ≠ .leaf l) : exec (.walkComplete die cd cc va) s = .next s1 :=
  congrArg (fun t => (.next t : Outcome)) (translate_unfound (tlbEntry_untranslated hmiss) hwalk hx)

theorem walk_noCore {s : State} {die cd cc va : Nat} (h : ∀ x ∈ s.controls, ¬ (x.die = cd ∧ x.idx = cc)) :
    s.walk die cd cc va = (s, .fault ⟨0x10, 0, 0, va⟩) := by
  have hnone : s.control? cd cc = none := by
    rw [State.control?, List.find?_eq_none]
    exact fun x hx hc => h x hx (by simpa using hc)
  rw [State.walk, hnone]
  rfl

/-! ## Migrations (R73, R427, R428) -/

theorem migrationComplete_waits {s : State} {n : Nat} {m : Migration} (hm : s.migrations[n]? = some m) (hf : m.failed = none)
    (hbad : s.migrationBad m = none) (hfull : s.retireFull m.retireDie = true) :
    ∃ t, exec (.migrationComplete n) s = .next t ∧ t = { s with dies := t.dies } := by
  refine ⟨{ s with dies := s.dies.mapIdx fun i d => if m.uses i then { d with p4 := 0 } else d }, ?_, rfl⟩
  show execMigrationComplete n s = _
  unfold execMigrationComplete
  rw [hm]
  dsimp only
  generalize s.dies.mapIdx _ = ds
  refine congrArg (fun t => (.next t : Outcome)) ?_
  rw [migrationStep_clean hf ((migrationBad_congr (s := s) (t := { s with dies := ds }) rfl rfl m).trans hbad)]
  exact if_pos (Bool.or_eq_true_iff.2 (.inr hfull))

theorem migrationComplete_done {s : State} {n : Nat} {m : Migration} (hm : s.migrations[n]? = some m) (hf : m.failed = none)
    (hbad : s.migrationBad m = none) (hlands : s.landsIn m = false) (hfull : s.retireFull m.retireDie = false) :
    ∃ ds, exec (.migrationComplete n) s = .next (({ s with dies := ds } : State).migrationDone m).resumeHeld := by
  refine ⟨s.dies.mapIdx fun i d => if m.uses i then { d with p4 := 0 } else d, ?_⟩
  show execMigrationComplete n s = _
  unfold execMigrationComplete
  rw [hm]
  dsimp only
  generalize s.dies.mapIdx _ = ds
  refine congrArg (fun t => (.next t : Outcome)) ?_
  rw [migrationStep_clean hf ((migrationBad_congr (s := s) (t := { s with dies := ds }) rfl rfl m).trans hbad)]
  exact if_neg (Bool.or_eq_true_iff.not.2 (not_or.2 ⟨Bool.eq_false_iff.1 hlands, Bool.eq_false_iff.1 hfull⟩))

theorem unusedDie_eq (m : Migration) : m.unusedDie = if m.demote then m.far else m.oldPte.toNat / 2 ^ 53 % 8 := by
  unfold Migration.unusedDie fieldNat
  rw [show 2 ^ 3 = 8 by norm_num]

theorem migrationComplete_moves {s : State} {n : Nat} {m : Migration} (hm : s.migrations[n]? = some m) (hg : s.grids = []) (hb : s.blocks = [])
    (hheld : s.heldMerges = []) (hf : m.failed = none) (hbad : s.migrationBad m = none) (hlands : s.landsIn m = false)
    (hfull : s.retireFull m.retireDie = false) (hwf : s.mem.wf = true) (hsize : m.size = 0x10000)
    (hslot : m.ptePa + 8 ≤ retireSlot s m.retireDie ∨ retireSlot s m.retireDie + 8 ≤ m.ptePa) :
    ∃ t, exec (.migrationComplete n) s = .next t ∧ t.migrations = s.migrations.erase m ∧
      t.mem.readNat m.ptePa 8 = m.newPte.toNat ∧
      t.mem.readNat (retireSlot s m.retireDie) 8 = m.oldFrame % 2 ^ 64 ∧
      (t.devGet m.retireDie 0x150).toNat = ((s.devGet m.retireDie 0x150).toNat + 1) % 2 ^ 32 ∧
      (∀ a, a < m.size → ¬ (m.ptePa ≤ m.frame + a ∧ m.frame + a < m.ptePa + 8) →
        ¬ (retireSlot s m.retireDie ≤ m.frame + a ∧ m.frame + a < retireSlot s m.retireDie + 8) →
        t.mem.get (m.frame + a) = s.mem.get (m.oldFrame + a)) ∧
      ∀ a, (a < m.frame ∨ m.frame + m.size ≤ a) → ¬ (m.ptePa ≤ a ∧ a < m.ptePa + 8) →
        ¬ (retireSlot s m.retireDie ≤ a ∧ a < retireSlot s m.retireDie + 8) → t.mem.get a = s.mem.get a := by
  obtain ⟨ds, hrun⟩ := migrationComplete_done hm hf hbad hlands hfull
  obtain ⟨hmem, hprod, hmig, hgrids, hblocks, hmerges⟩ := migrationDone_spec (s := { s with dies := ds }) hsize hg
  rw [State.resumeHeld_idle hgrids (hblocks.trans hb) (hmerges.trans hheld)] at hrun
  obtain ⟨hinside, houtside⟩ := Memory.get_copyPage hwf m.oldFrame m.frame m.size
  obtain ⟨hpte, hring, hrest⟩ := Memory.write_write (Memory.copyPage_wf hwf m.oldFrame m.frame m.size) hslot m.newPte.toNat m.oldFrame
  have hpow : 256 ^ 8 = 2 ^ 64 := by norm_num
  rw [hpow] at hpte hring
  refine ⟨_, hrun, hmig, ?_, ?_, ?_, fun a ha h1 h2 => ?_, fun a ha h1 h2 => ?_⟩
  · exact ((congrArg (fun x : Memory => x.readNat m.ptePa 8) hmem).trans hpte).trans (Nat.mod_eq_of_lt m.newPte.isLt)
  · exact (congrArg (fun x : Memory => x.readNat (retireSlot s m.retireDie) 8) hmem).trans hring
  · refine (congrArg BitVec.toNat hprod).trans ((BitVec.toNat_ofNat ..).trans (Nat.mod_eq_of_lt ?_))
    exact lt_trans (Nat.mod_lt _ (by norm_num)) (by norm_num)
  · exact ((congrArg (fun x : Memory => x.get (m.frame + a)) hmem).trans (hrest _ h1 h2)).trans (hinside a ha)
  · exact ((congrArg (fun x : Memory => x.get a) hmem).trans (hrest _ h1 h2)).trans (houtside a ha)

theorem migrationAbandon_at {s : State} {n : Nat} {m : Migration} (hm : s.migrations[n]? = some m) (cause : BitVec 8) :
    exec (.migrationAbandon n cause) s = .next (s.migrationFail m cause.toNat).resumeHeld := by
  show execMigrationAbandon n cause s = _
  unfold execMigrationAbandon
  rw [hm]

theorem migrationAbandon_stalls {s : State} {n : Nat} {m : Migration} (hm : s.migrations[n]? = some m) (hg : s.grids = []) (hb : s.blocks = [])
    (hheld : s.heldMerges = []) (cause : BitVec 8) (hfull : s.retireFull m.unusedDie = true) :
    ∃ t, exec (.migrationAbandon n cause) s = .next t ∧
      t.migrations = s.migrations.map (fun x => if x = m then { m with failed := some cause.toNat } else x) ∧ t.mem = s.mem ∧
      t.gangs = s.gangs ∧ t.dev = s.dev := by
  have hfail : s.migrationFail m cause.toNat =
      { s with migrations := s.migrations.map fun x => if x == m then { m with failed := some cause.toNat } else x } := if_pos hfull
  refine ⟨_, migrationAbandon_at hm cause, ?_⟩
  rw [hfail, State.resumeHeld_idle (by exact hg) (by exact hb) (by exact hheld)]
  refine ⟨?_, rfl, rfl, rfl⟩
  simp only [beq_iff_eq]

theorem migrationAbandon_ends {s : State} {n : Nat} {m : Migration} (hm : s.migrations[n]? = some m) (hg : s.grids = []) (hb : s.blocks = [])
    (hheld : s.heldMerges = []) (cause : BitVec 8) (hw : NoWindow s) (hwf : s.mem.wf = true) (hsize : m.size = 0x10000)
    (hroom : s.retireFull m.unusedDie = false)
    (hslot : m.ptePa + 8 ≤ retireSlot s m.unusedDie ∨ retireSlot s m.unusedDie + 8 ≤ m.ptePa) :
    ∃ t, exec (.migrationAbandon n cause) s = .next t ∧ t.migrations = s.migrations.erase m ∧
      t.mem.readNat m.ptePa 8 = m.oldPte.toNat ∧ t.mem.readNat (retireSlot s m.unusedDie) 8 = (m.frame + 1) % 2 ^ 64 ∧
      t.inPlace = s.inPlace ++ [m.ptePa] ∧ t.gangs = s.gangs.map (released m.ptePa) := by
  obtain ⟨hmem, hmig, hplace, hgangs, hgrids, hblocks, hmerges⟩ := migrationFail_spec hw hsize hroom cause.toNat
  obtain ⟨hpte, hring, -⟩ := Memory.write_write hwf hslot m.oldPte.toNat (m.frame + 1)
  have hpow : 256 ^ 8 = 2 ^ 64 := by norm_num
  rw [hpow] at hpte hring
  have hrun := migrationAbandon_at hm cause
  rw [State.resumeHeld_idle (hgrids.trans hg) (hblocks.trans hb) (hmerges.trans hheld)] at hrun
  refine ⟨_, hrun, hmig, ?_, ?_, hplace, hgangs⟩
  · exact ((congrArg (fun x : Memory => x.readNat m.ptePa 8) hmem).trans hpte).trans (Nat.mod_eq_of_lt m.oldPte.isLt)
  · exact (congrArg (fun x : Memory => x.readNat (retireSlot s m.unusedDie) 8) hmem).trans hring

/-- Settles O45: an arrival by its turn and the word's rule; a walk by what enters the TLB; a migration by the bytes that its end writes. -/
theorem arrivalsWalksMigrations : Obligations.ArrivalsWalksMigrations := by
  unfold Obligations.ArrivalsWalksMigrations
  intro s n
  refine ⟨fun a gid g p ha hsrc hop hplace hin => ⟨arrivalTurn_iff hsrc hop hplace _, ?_, ?_⟩, exec_syncWordArrival.1, ?_,
    fun die cd cc va s1 x hmiss hwalk hx => walkComplete_unfound hmiss hwalk hx, fun die cd cc va h => walk_noCore h,
    fun m hm hg hb hheld => ⟨fun hf hbad hfull => migrationComplete_waits hm hf hbad hfull, ?_, fun cause hw hwf hsize => ?_⟩⟩
  · exact (exec_syncWordArrival.2 a gid ha hsrc hop).1
  · exact fun hturn hg hplain hok hdie hkilled hsome =>
      syncWordArrival_arrives ha hsrc hop hplace hin hturn hg hplain hok hdie hkilled hsome
  · exact fun die cd cc va s1 l hmiss hwalk htlb hpa hmig hfar hroom => walkComplete_fills hmiss hwalk htlb hpa hmig hfar hroom
  · exact fun hf hbad hlands hfull hwf hsize _ hslot => migrationComplete_moves hm hg hb hheld hf hbad hlands hfull hwf hsize hslot
  · dsimp only
    rw [← unusedDie_eq]
    exact ⟨fun hfull => migrationAbandon_stalls hm hg hb hheld cause hfull,
      fun hroom hslot => migrationAbandon_ends hm hg hb hheld cause hw hwf hsize hroom hslot⟩

end Sys2Proof.Proofs
end

section
/-! CERTIFICATE. The gauge operations, on local stores that are not in canonical form. -/
set_option Elab.async false
namespace Sys2Proof.Proofs
open Sys2Proof Sys2Proof.Machine Sys2Proof.Claims

/-- A gang of one slice in whose run lane 0 is active; its v registers are zero. -/
def clearGang : Gang :=
  { firstGang firstGangId 0 with
    slices := (firstGang firstGangId 0).slices.map fun sl => { sl with active := 1, cur := some ⟨⟨0, 1, sl.regs, 1, none⟩, 0⟩ } }

/-- GCLR of the counter of the gauge partition at the address in v1. -/
def clearWord : LaneWord := ⟨0, 0, 1023, 1, 1023, 1023, 0, 0, 0, 0, 7, 0x2000⟩

/-- The grid has a gauge of one granule. -/
def clearGrid : Grid := { firstGrid with record := { firstRecord with gaugeSz := 1 } }

/-- Counter 0 of the gauge lies at byte 61504 and holds 1. The cells of the local stores are not in the order of their addresses: a later
byte stands before it. -/
def clearState : State :=
  { (State.reset.withCode 0).withGang clearGang [] with
    grids := [clearGrid], ls := [(70000, 1), (61504, 1)], issue := ⟨.lane firstGangId 1, [0, 0, 0]⟩ }

/-- Where counter 0 lies. -/
def clearPlace : Located := .ok (.ls 61504 firstBlock 61504)

/-- The level of counter 0 in the state that an instruction leaves. -/
def levelAfter : Outcome → Nat
  | .next t => levelAt t clearGang 1 0 clearPlace
  | _ => 0

set_option maxRecDepth 8000 in
theorem clear_level : levelAfter (exec (.gclr clearWord) clearState) = 1 := by decide

set_option maxRecDepth 8000 in
theorem clear_located : clearState.locateGauges clearGang clearWord 2 false (participants clearGang 1 clearWord) =
    (clearState, [(0, 0, clearPlace, none)]) := Prod.ext (by decide) (by decide)

theorem clear_ready : LaneReady clearState clearGang 1 (gaugeNames clearWord 2) := by
  refine ⟨⟨rfl, rfl⟩, rfl, rfl, ?_, rfl, rfl, ?_, ?_⟩ <;> decide

theorem clear_plain : Plain clearState clearGang.id := by
  refine ⟨rfl, fun gr hgr => ?_⟩
  obtain rfl : clearGrid = gr := Option.some.inj hgr
  exact ⟨rfl, rfl⟩

/-- Refutes O34: its hypotheses do not ask that the local stores be in canonical form (`State.memOk`, which every step keeps, O60). Where
their cells do not stand in the order of their addresses, a byte that is set to 0 keeps its cell, so that GCLR leaves the counter's level at
1 (`clear_level`). -/
theorem not_gaugeOperations : ¬ Obligations.GaugeOperations := by
  unfold Obligations.GaugeOperations
  intro h
  have hserved := h clearState clearState clearGang 1 clearWord 2 [(0, 0, clearPlace, none)] clearGrid firstBlockRec (by decide) (by decide)
    clear_ready clear_plain rfl rfl rfl (by decide) (by decide) rfl (by decide) (by decide) (fun ⟨horder, _⟩ => absurd horder (by decide))
    clear_located (by simp [AllHere, clearPlace, Place.isRemote]) (by simp) (fun hspace => absurd hspace (by decide))
  obtain ⟨t, -, hrun, -, -, -, -, -, -, -, -, -, -, -, -, -, hclears, -⟩ := hserved
  have hlevel := clear_level
  rw [show Instr.gclr clearWord = gaugeInstr clearWord 2 from rfl, hrun] at hlevel
  have hzero : levelAt t clearGang clearWord.space 0 clearPlace = 0 := hclears rfl (0, 0, clearPlace, none) (by simp)
  exact absurd (hlevel.symm.trans hzero) (by decide)

end Sys2Proof.Proofs
end
